-- ==== Sys2Proof/Word.lean ====
section
/-! DEFINITION. The widths of the Yarnar architecture (spec 00_scope R4, 03_encoding R48): doubleword values,
instruction words, bytes, scalar and vector register numbers, row offsets. -/

namespace Sys2Proof

/-- A doubleword: the width of a scalar register, an address under computation and a system register (R4, R14). -/
abbrev Word := BitVec 64

/-- An instruction word (R47) and a 32-bit memory word (R4). -/
abbrev Word32 := BitVec 32

/-- A byte of memory (R4). -/
abbrev Byte := BitVec 8

/-- A scalar register number g0 to g31; every value names a register (R52). -/
abbrev Reg := BitVec 5

/-- A vector register number v0 to v15; every value names a register (R52). -/
abbrev VReg := BitVec 4

/-- An A-format row offset, 0 to 127 (R53). -/
abbrev RowOff := BitVec 7

end Sys2Proof
end

