-- ==== Sys2Proof/Types.lean ====
section
/-! DEFINITION. The closed sets of names that instruction fields and events carry: conditions, hints, rounding modes,
widths, formats, scopes, privilege levels, access kinds; and the accesses that travel between a unit and a home. -/

namespace Sys2Proof

/-- The three accepted values of the hint field (R50). -/
inductive Hint where
  | standard | taken | notTaken
  deriving DecidableEq, Repr

/-- The conditions of SEL (R100). -/
inductive SelCond where
  | eqz | nez | ltz | gez
  deriving DecidableEq, Repr

/-- The conditions of SKIP (R51, R102). -/
inductive SkipCond where
  | eq | ne | lt | ge | ltu | geu
  deriving DecidableEq, Repr

/-- The rounding-mode field (R195): the six modes, and `dyn`, which takes CTLW.FRM. -/
inductive RM where
  | rne | rtz | rdn | rup | rna | sr | dyn
  deriving DecidableEq, Repr

/-- The ordering field of a value-returning atomic (R131). -/
inductive Ord4 where
  | none | aq | rl | aqrl
  deriving DecidableEq, Repr

/-- Width and extension of a load (R121). -/
inductive LWidth where
  | b8 | h16 | w32 | d64 | bu8 | hu16 | wu32
  deriving DecidableEq, Repr

/-- Width of a store (R121). -/
inductive SWidth where
  | b8 | h16 | w32 | d64
  deriving DecidableEq, Repr

/-- The scopes of FENCE (R141, R145). -/
inductive Scope where
  | context | core | cluster | die | device | system
  deriving DecidableEq, Repr

/-- The element widths of the V format (R52, R213). -/
inductive VWidth where
  | b8 | h16 | w32 | d64
  deriving DecidableEq, Repr

/-- The integer conditions of VCMP (R235). -/
inductive VCond where
  | eq | ne | lt | ge | ltu | geu
  deriving DecidableEq, Repr

/-- The floating conditions of VFCMP (R235). -/
inductive FCond where
  | eq | lt | le | ne | un
  deriving DecidableEq, Repr

/-- The reductions of VRED (R237); the floating sum carries its rounding mode. -/
inductive RedOp where
  | add | min | max | minu | maxu | and | or | xor | fadd (rm : RM) | fmin | fmax
  deriving DecidableEq, Repr

/-- The number formats of CVT and VCVT (R209, R238). -/
inductive Fmt where
  | s64 | u64 | s32 | u32 | fp64 | fp32 | fp16 | bf16 | e4m3 | e5m2 | e2m1 | dm8 | s8 | s16 | s4
  deriving DecidableEq, Repr

/-- The MX element formats (R189, R238). -/
inductive MxFmt where
  | mxint8 | mxe4m3 | mxe5m2 | mxfp4
  deriving DecidableEq, Repr

/-- The combining operations of a lap vote (R332, R334). -/
inductive LapOp where
  | and | or | min | max | sum
  deriving DecidableEq, Repr

/-- The source of ALDP and ALDC (R280). -/
inductive LatchSrc where
  | row | notRow | zero | one | andRow
  deriving DecidableEq, Repr

/-- The operations of an atomic at the home (R132). -/
inductive AmoOp where
  | add | and | or | xor | min | max | minu | maxu | swap | cas | fadd | fmin | fmax
  deriving DecidableEq, Repr

/-- The privilege levels (R75, R390). -/
inductive Level where
  | u | s | m
  deriving DecidableEq, Repr

/-- The three kinds of programmable unit (R14, R18). -/
inductive UnitKind where
  | far | slice | stack
  deriving DecidableEq, Repr

/-- Who issued an access, and the tags it carries (R119, R353). -/
structure Issuer where
  unit  : Nat
  ctx   : Nat
  asid  : BitVec 12
  gen   : BitVec 16
  level : Level
  deriving DecidableEq, Repr

/-- A message of SEND or of a hand-off as it reaches a receive ring (R175). -/
structure Message where
  /-- True for a hand-off (KIND 0b01), false for SEND. -/
  handOff : Bool
  dev     : Nat
  src     : Nat
  kind    : UnitKind
  ctx     : Nat
  wte     : Nat
  tag     : Word32
  payload : List Byte
  deriving DecidableEq, Repr

/-- What a posted access does when its home performs it. `id` names the deferred result that waits for the answer. -/
inductive Action where
  | load (size : Nat) (signed : Bool) (id : Nat)
  | store (size : Nat) (data : Word)
  | atomic (op : AmoOp) (dbl : Bool) (operand expected : Word) (id : Option Nat)
  | merge (fp dbl : Bool) (operand : Word) (index : Nat)
  | put (bytes : List Byte) (counter : Option Nat)
  | get (lo n : Nat) (id : Nat)
  | cinc (counter : Nat) (amount : Word)
  | send (ring : Nat) (msg : Message)
  | enqueue (q : Nat) (desc : List Byte) (lid : Nat) (id : Option Nat)
  /-- A home's own write of a task to its queue's spill ring, held at its channel (R313, R377). -/
  | spill (desc : List Byte)
  deriving DecidableEq, Repr

/-- An access on its way to its home: issuer, place in program order, address of the word, effective address,
physical address and action; whether it acquires or releases (R146); whether it is a load that may fill its line (R116). -/
structure Req where
  who  : Issuer
  po   : Nat
  fpc  : Word
  ea   : Word
  pa   : Nat
  act  : Action
  acq  : Bool
  rel  : Bool
  line : Bool
  deriving DecidableEq, Repr

/-- A message that an interface holds (R172, R176): one that its sender waits for, or the hand-off of a fired entry. -/
inductive Held where
  | msg (r : Req)
  | handOff (entry : Nat)
  deriving DecidableEq, Repr

/-- A beacon of a queue (R320). -/
structure Beacon where
  home : Nat
  q    : Nat
  lid  : Nat
  prio : Bool
  deriving DecidableEq, Repr

/-- What the host reads or writes through a BAR (R417, R418). -/
inductive HostOp where
  | read (n : Nat)
  | write (bytes : List Byte)
  deriving DecidableEq, Repr

/-- The units a graded or degraded part can disable (R2, R434). -/
inductive PartUnit where
  | farCore (c : Nat) | slice (s : Nat) | matrix (k : Nat) | pseudoChannel (p : Nat) | stackUnit (j : Nat)
  | lane (port : Nat)
  deriving DecidableEq, Repr

/-- Where an error was found (R412), coded as ERRLOG.SRC. -/
inductive ErrSrc where
  | scalar | vector | matrix | array | localSram | siltSram | dram
  deriving DecidableEq, Repr

/-- An error of the hardware that stands until the environment lifts it (R129, R269, R290, R412). `at_` is the unit for the scalar path
and the vector unit, the far core for the matrix unit, the slice for the arrays, a doubleword's physical address for the memories;
`op` the row operation that an array error meets; `uc` that a retry or a code does not mend it. -/
structure Upset where
  src : ErrSrc
  at_ : Nat
  op  : Nat
  uc  : Bool
  deriving DecidableEq, Repr

end Sys2Proof
end

