-- ==== Sys2Proof/Syntax.lean ====
section
/-! DEFINITION. The ONE instruction type: a constructor for every row of the table of operations and events.
The first 311 are the encoded words of the ten formats (03_encoding R48); the switch marker S is not an operand, since it
never changes what an instruction computes (R49): the decoder returns it beside the instruction. The last 95 are the steps
that no word encodes (95_what_each_step_holds): each carries as operands what the step acts on. -/

namespace Sys2Proof

/-- The instructions and events of Yarnar and the K4. -/
inductive Instr where
  /-- R96. Writes the 64-bit wrapped sum of two registers. -/
  | add (d a b : Reg)
  /-- R96. Writes the 32-bit sum of two registers, sign-extended. -/
  | addw (d a b : Reg)
  /-- R96. Writes the 64-bit wrapped difference of two registers. -/
  | sub (d a b : Reg)
  /-- R96. Writes the 32-bit difference, sign-extended. -/
  | subw (d a b : Reg)
  /-- R96. Writes the low 64 bits of the product. -/
  | mul (d a b : Reg)
  /-- R96. Writes the 32-bit product, sign-extended. -/
  | mulw (d a b : Reg)
  /-- R96. Writes the high 64 bits of the signed product. -/
  | mulh (d a b : Reg)
  /-- R96. Writes the high 64 bits of the unsigned product. -/
  | mulhu (d a b : Reg)
  /-- R96. Signed division truncating toward zero with defined edge results. -/
  | div (d a b : Reg)
  /-- R96. 32-bit signed division, sign-extended. -/
  | divw (d a b : Reg)
  /-- R96. Unsigned division with all ones on a zero divisor. -/
  | divu (d a b : Reg)
  /-- R96. 32-bit unsigned division, sign-extended. -/
  | divuw (d a b : Reg)
  /-- R96. Signed remainder with the sign of the dividend. -/
  | rem (d a b : Reg)
  /-- R96. 32-bit signed remainder, sign-extended. -/
  | remw (d a b : Reg)
  /-- R96. Unsigned remainder. -/
  | remu (d a b : Reg)
  /-- R96. 32-bit unsigned remainder, sign-extended. -/
  | remuw (d a b : Reg)
  /-- R96. Bitwise and. -/
  | and (d a b : Reg)
  /-- R96. Bitwise or. -/
  | or (d a b : Reg)
  /-- R96. Bitwise exclusive or. -/
  | xor (d a b : Reg)
  /-- R96. And with the complement of the second operand. -/
  | andn (d a b : Reg)
  /-- R96. Shift left by the low six bits of gb. -/
  | shl (d a b : Reg)
  /-- R96. 32-bit shift left, sign-extended. -/
  | shlw (d a b : Reg)
  /-- R96. Logical shift right. -/
  | shr (d a b : Reg)
  /-- R96. 32-bit logical shift right, sign-extended. -/
  | shrw (d a b : Reg)
  /-- R96. Arithmetic shift right. -/
  | sar (d a b : Reg)
  /-- R96. 32-bit arithmetic shift right, sign-extended. -/
  | sarw (d a b : Reg)
  /-- R96. Rotate left. -/
  | rotl (d a b : Reg)
  /-- R96. 32-bit rotate left, sign-extended. -/
  | rotlw (d a b : Reg)
  /-- R96. Signed minimum. -/
  | min (d a b : Reg)
  /-- R96. Signed maximum. -/
  | max (d a b : Reg)
  /-- R96. Unsigned minimum. -/
  | minu (d a b : Reg)
  /-- R96. Unsigned maximum. -/
  | maxu (d a b : Reg)
  /-- R96. Writes 1 when the operands are equal. -/
  | seq (d a b : Reg)
  /-- R96. Writes 1 when ga is signed-less than gb. -/
  | slt (d a b : Reg)
  /-- R96. Writes 1 when ga is unsigned-less than gb. -/
  | sltu (d a b : Reg)
  /-- R96. Counts leading zero bits. -/
  | clz (d a : Reg)
  /-- R96. Counts leading zeros of the low 32 bits. -/
  | clzw (d a : Reg)
  /-- R96. Counts trailing zero bits. -/
  | ctz (d a : Reg)
  /-- R96. Counts trailing zeros of the low 32 bits. -/
  | ctzw (d a : Reg)
  /-- R96. Counts set bits. -/
  | popc (d a : Reg)
  /-- R96. Counts set bits of the low 32 bits. -/
  | popcw (d a : Reg)
  /-- R96. Reverses the bit order. -/
  | brev (d a : Reg)
  /-- R96. Reverses the bits of the low 32 bits. -/
  | brevw (d a : Reg)
  /-- R96. Reverses the byte order. -/
  | bswap (d a : Reg)
  /-- R96. Reverses the bytes of the low 32 bits. -/
  | bswapw (d a : Reg)
  /-- R96. Sign-extends the low byte. -/
  | sextb (d a : Reg)
  /-- R96. Sign-extends the low halfword. -/
  | sexth (d a : Reg)
  /-- R96. Low 64 bits of the carry-less product. -/
  | clmul (d a b : Reg)
  /-- R96. High 64 bits of the carry-less product. -/
  | clmulh (d a b : Reg)
  /-- R96. Bits 126:63 of the carry-less product. -/
  | clmulr (d a b : Reg)
  /-- R97. Adds a sign-extended 12-bit immediate. -/
  | addi (d a : Reg) (imm : BitVec 12)
  /-- R97. Signed compare against an immediate. -/
  | slti (d a : Reg) (imm : BitVec 12)
  /-- R97. Unsigned compare against an immediate. -/
  | sltiu (d a : Reg) (imm : BitVec 12)
  /-- R97. And with a sign-extended immediate. -/
  | andi (d a : Reg) (imm : BitVec 12)
  /-- R97. Or with a sign-extended immediate. -/
  | ori (d a : Reg) (imm : BitVec 12)
  /-- R97. Exclusive or with a sign-extended immediate. -/
  | xori (d a : Reg) (imm : BitVec 12)
  /-- R97. 32-bit add of an immediate, sign-extended. -/
  | addiw (d a : Reg) (imm : BitVec 12)
  /-- R98. Shift left by an immediate count. -/
  | shli (d a : Reg) (count : BitVec 6)
  /-- R98. Logical shift right by an immediate count. -/
  | shri (d a : Reg) (count : BitVec 6)
  /-- R98. Arithmetic shift right by an immediate count. -/
  | sari (d a : Reg) (count : BitVec 6)
  /-- R98. Rotate left by an immediate count. -/
  | rotli (d a : Reg) (count : BitVec 6)
  /-- R98. 32-bit shift left by an immediate count. -/
  | shliw (d a : Reg) (count : BitVec 5)
  /-- R98. 32-bit logical shift right by an immediate count. -/
  | shriw (d a : Reg) (count : BitVec 5)
  /-- R98. 32-bit arithmetic shift right by an immediate count. -/
  | sariw (d a : Reg) (count : BitVec 5)
  /-- R99. Loads a sign-extended 20-bit immediate into bits 31:12. -/
  | ldhi (d : Reg) (imm : BitVec 20)
  /-- R99. Adds a shifted 20-bit immediate to the word's own address. -/
  | addpc (d : Reg) (imm : BitVec 20)
  /-- R100. Replaces gd with gb when ga meets the zero test c. -/
  | sel (c : SelCond) (d a b : Reg)
  /-- R102. Skips the next 1 to 8 words when the comparison holds. -/
  | skip (h : Hint) (c : SkipCond) (a b : Reg) (n : BitVec 3)
  /-- R103. Branches when the registers are equal. -/
  | beq (h : Hint) (a b : Reg) (off : BitVec 10)
  /-- R103. Branches when the registers differ. -/
  | bne (h : Hint) (a b : Reg) (off : BitVec 10)
  /-- R103. Branches on signed less than. -/
  | blt (h : Hint) (a b : Reg) (off : BitVec 10)
  /-- R103. Branches on signed greater or equal. -/
  | bge (h : Hint) (a b : Reg) (off : BitVec 10)
  /-- R103. Branches on unsigned less than. -/
  | bltu (h : Hint) (a b : Reg) (off : BitVec 10)
  /-- R103. Branches on unsigned greater or equal. -/
  | bgeu (h : Hint) (a b : Reg) (off : BitVec 10)
  /-- R103. Branches when bit gb[5:0] of ga is set. -/
  | bbs (h : Hint) (a b : Reg) (off : BitVec 10)
  /-- R103. Branches when bit gb[5:0] of ga is clear. -/
  | bbc (h : Hint) (a b : Reg) (off : BitVec 10)
  /-- R104. Branches when the register is zero. -/
  | beqz (h : Hint) (a : Reg) (off : BitVec 15)
  /-- R104. Branches when the register is nonzero. -/
  | bnez (h : Hint) (a : Reg) (off : BitVec 15)
  /-- R104. Branches when the register is negative. -/
  | bltz (h : Hint) (a : Reg) (off : BitVec 15)
  /-- R104. Branches when the register is not negative. -/
  | bgez (h : Hint) (a : Reg) (off : BitVec 15)
  /-- R104. Branches when the register is positive. -/
  | bgtz (h : Hint) (a : Reg) (off : BitVec 15)
  /-- R104. Branches when the register is zero or negative. -/
  | blez (h : Hint) (a : Reg) (off : BitVec 15)
  /-- R105. Jumps unconditionally PC-relative. -/
  | j (off : BitVec 25)
  /-- R203. Scalar floating add rounded once. -/
  | fadd (dbl : Bool) (rm : RM) (d a b : Reg)
  /-- R203. Scalar floating subtract. -/
  | fsub (dbl : Bool) (rm : RM) (d a b : Reg)
  /-- R203. Scalar floating multiply. -/
  | fmul (dbl : Bool) (rm : RM) (d a b : Reg)
  /-- R203. Scalar floating divide, deferred. -/
  | fdiv (dbl : Bool) (rm : RM) (d a b : Reg)
  /-- R203. Scalar floating square root, deferred. -/
  | fsqrt (dbl : Bool) (rm : RM) (d a : Reg)
  /-- R204. Floating minimum with FMinA. -/
  | fmin (dbl : Bool) (d a b : Reg)
  /-- R204. Floating maximum with FMaxA. -/
  | fmax (dbl : Bool) (d a b : Reg)
  /-- R205. Copies magnitude with the sign of gb. -/
  | fsgn (dbl : Bool) (d a b : Reg)
  /-- R205. Copies magnitude with the inverted sign of gb. -/
  | fsgnn (dbl : Bool) (d a b : Reg)
  /-- R205. Copies magnitude with the xor of both signs. -/
  | fsgnx (dbl : Bool) (d a b : Reg)
  /-- R206. Floating equality compare. -/
  | feq (dbl : Bool) (d a b : Reg)
  /-- R206. Floating less-than compare. -/
  | flt (dbl : Bool) (d a b : Reg)
  /-- R206. Floating less-or-equal compare. -/
  | fle (dbl : Bool) (d a b : Reg)
  /-- R207. Writes a one-hot class of the operand. -/
  | fclass (dbl : Bool) (d a : Reg)
  /-- R208. Fused x × y + gd. -/
  | fma (dbl : Bool) (rm : RM) (d a b : Reg)
  /-- R208. Fused x × y − gd. -/
  | fms (dbl : Bool) (rm : RM) (d a b : Reg)
  /-- R208. Fused −(x × y) + gd. -/
  | fnma (dbl : Bool) (rm : RM) (d a b : Reg)
  /-- R210. Converts between scalar formats with one rounding. -/
  | cvt (ovf : Bool) (rm : RM) (dst src : Fmt) (d a : Reg)
  /-- R231. Contiguous vector load. -/
  | vld (w : VWidth) (vd : VReg) (m : Reg)
  /-- R231. Contiguous vector store. -/
  | vst (w : VWidth) (vd : VReg) (m : Reg)
  /-- R231. Strided vector load. -/
  | vlds (w : VWidth) (vd : VReg) (m : Reg)
  /-- R231. Strided vector store. -/
  | vsts (w : VWidth) (vd : VReg) (m : Reg)
  /-- R231. Indexed vector gather load. -/
  | vldx (w : VWidth) (vd vb : VReg) (m : Reg)
  /-- R231. Indexed vector scatter store. -/
  | vstx (w : VWidth) (vd vb : VReg) (m : Reg)
  /-- R231. Loads one element and broadcasts it. -/
  | vldbc (w : VWidth) (vd : VReg) (m : Reg)
  /-- R231. Masked contiguous vector store. -/
  | vstm (w : VWidth) (vd : VReg) (m : Reg)
  /-- R232. Elementwise integer add. -/
  | vadd (w : VWidth) (m : Reg) (vd va vb : VReg)
  /-- R232. Elementwise integer subtract. -/
  | vsub (w : VWidth) (m : Reg) (vd va vb : VReg)
  /-- R232. Elementwise integer multiply. -/
  | vmul (w : VWidth) (m : Reg) (vd va vb : VReg)
  /-- R232. Elementwise signed high multiply. -/
  | vmulh (w : VWidth) (m : Reg) (vd va vb : VReg)
  /-- R232. Elementwise multiply-accumulate into vd. -/
  | vmac (w : VWidth) (m : Reg) (vd va vb : VReg)
  /-- R232. Elementwise signed minimum. -/
  | vmin (w : VWidth) (m : Reg) (vd va vb : VReg)
  /-- R232. Elementwise signed maximum. -/
  | vmax (w : VWidth) (m : Reg) (vd va vb : VReg)
  /-- R232. Elementwise unsigned minimum. -/
  | vminu (w : VWidth) (m : Reg) (vd va vb : VReg)
  /-- R232. Elementwise unsigned maximum. -/
  | vmaxu (w : VWidth) (m : Reg) (vd va vb : VReg)
  /-- R232. Elementwise and. -/
  | vand (w : VWidth) (m : Reg) (vd va vb : VReg)
  /-- R232. Elementwise or. -/
  | vor (w : VWidth) (m : Reg) (vd va vb : VReg)
  /-- R232. Elementwise exclusive or. -/
  | vxor (w : VWidth) (m : Reg) (vd va vb : VReg)
  /-- R232. Elementwise shift left. -/
  | vshl (w : VWidth) (m : Reg) (vd va vb : VReg)
  /-- R232. Elementwise logical shift right. -/
  | vshr (w : VWidth) (m : Reg) (vd va vb : VReg)
  /-- R232. Elementwise arithmetic shift right. -/
  | vsar (w : VWidth) (m : Reg) (vd va vb : VReg)
  /-- R232. Elementwise low carry-less product. -/
  | vclmul (w : VWidth) (m : Reg) (vd va vb : VReg)
  /-- R232. Elementwise high carry-less product. -/
  | vclmulh (w : VWidth) (m : Reg) (vd va vb : VReg)
  /-- R232. Elementwise population count. -/
  | vpopc (w : VWidth) (m : Reg) (vd va : VReg)
  /-- R233. Elementwise floating add. -/
  | vfadd (dbl : Bool) (rm : RM) (m : Reg) (vd va vb : VReg)
  /-- R233. Elementwise floating subtract. -/
  | vfsub (dbl : Bool) (rm : RM) (m : Reg) (vd va vb : VReg)
  /-- R233. Elementwise floating multiply. -/
  | vfmul (dbl : Bool) (rm : RM) (m : Reg) (vd va vb : VReg)
  /-- R233. Elementwise fused multiply-add into vd. -/
  | vfma (dbl : Bool) (rm : RM) (m : Reg) (vd va vb : VReg)
  /-- R233. Elementwise floating minimum. -/
  | vfmin (dbl : Bool) (m : Reg) (vd va vb : VReg)
  /-- R233. Elementwise floating maximum. -/
  | vfmax (dbl : Bool) (m : Reg) (vd va vb : VReg)
  /-- R233. Elementwise floating divide. -/
  | vfdiv (dbl : Bool) (rm : RM) (m : Reg) (vd va vb : VReg)
  /-- R233. Elementwise floating square root. -/
  | vfsqrt (dbl : Bool) (rm : RM) (m : Reg) (vd va : VReg)
  /-- R235. Integer vector compare deferred into a scalar lane mask. -/
  | vcmp (c : VCond) (w : VWidth) (m : Reg) (k va vb : VReg)
  /-- R235. Floating vector compare deferred into a scalar lane mask. -/
  | vfcmp (c : FCond) (dbl : Bool) (m : Reg) (k va vb : VReg)
  /-- R236. Selects elements of va or vb by a scalar mask. -/
  | vsel (w : VWidth) (vd va vb : VReg) (m : Reg)
  /-- R236. Broadcasts a scalar to every element. -/
  | vbcast (w : VWidth) (vd : VReg) (m : Reg)
  /-- R236. Defers one element into a scalar register. -/
  | vext (w : VWidth) (m : Reg) (va hi lo : VReg)
  /-- R236. Inserts a scalar into one element. -/
  | vins (w : VWidth) (vd : VReg) (m : Reg) (hi lo : VReg)
  /-- R236. Permutes elements by an index vector. -/
  | vperm (w : VWidth) (vd va vb : VReg)
  /-- R236. Slides elements by a signed scalar amount. -/
  | vslide (w : VWidth) (vd va : VReg) (m : Reg)
  /-- R237. Reduces a vector in a fixed pairwise tree into element 0. -/
  | vred (op : RedOp) (w : VWidth) (vd va : VReg)
  /-- R239. Elementwise format conversion. -/
  | vcvt (ovf : Bool) (m : Reg) (dst src : Fmt) (vd va : VReg)
  /-- R240. Computes MX block scale codes. -/
  | vmxs (f : MxFmt) (vd va : VReg)
  /-- R240. Quantises FP32 elements into MX block elements. -/
  | vmxq (f : MxFmt) (vd va vb : VReg)
  /-- R240. Decodes MX block elements to FP32. -/
  | vmxd (f : MxFmt) (vd va vb : VReg)
  /-- R241. Writes one dot product to element 0. -/
  | vdot (fp : Bool) (m : Reg) (vd va vb : VReg)
  /-- R225. Captures and checks a body of vector words for repetition. -/
  | rpt (count : BitVec 8) (len stride : BitVec 4)
  /-- R256. Replaces the matrix format word at its grant. -/
  | mfmt (k : Bool) (a : Reg)
  /-- R257. Sets an accumulator slot to +0. -/
  | mzero (k x : Bool)
  /-- R258. Accumulates A × Bᵀ into a slot. -/
  | mma (k x : Bool) (a b : Reg)
  /-- R258. Scaled MX A × Bᵀ accumulation. -/
  | mmas (k x : Bool) (a b : Reg)
  /-- R260. Loads slot cells from local memory. -/
  | mldc (k x : Bool) (a b : Reg)
  /-- R260. Stores slot cells to local memory. -/
  | mstc (k x : Bool) (a b : Reg)
  /-- R261. Loads the recurrence program. -/
  | mprog (k f32 : Bool) (a : Reg)
  /-- R262. Runs the recurrence program over step records. -/
  | mrec (k x : Bool) (a b : Reg)
  /-- R264. Walks a tile list, summing and storing row blocks. -/
  | mtlist (k x : Bool) (a : Reg)
  /-- R267. Pops a matrix token at the park, sleeping while one is owed. -/
  | mpop (d : Reg)
  /-- R278. Row and over selected arrays. -/
  | aand (d a b : RowOff)
  /-- R278. Row or. -/
  | aor (d a b : RowOff)
  /-- R278. Row exclusive or. -/
  | axor (d a b : RowOff)
  /-- R278. Row nor. -/
  | anor (d a b : RowOff)
  /-- R278. Row nand. -/
  | anand (d a b : RowOff)
  /-- R278. Row exclusive nor. -/
  | axnor (d a b : RowOff)
  /-- R278. Row not. -/
  | anot (d a : RowOff)
  /-- R278. Row copy. -/
  | acopy (d a : RowOff)
  /-- R278. Row full add with the carry latch. -/
  | afadd (d a b : RowOff)
  /-- R278. Row full subtract with the carry latch. -/
  | afsub (d a b : RowOff)
  /-- R280. Loads the predicate latches from a source. -/
  | aldp (m : LatchSrc) (a : RowOff)
  /-- R280. Loads the carry latches from a source. -/
  | aldc (m : LatchSrc) (a : RowOff)
  /-- R278. Writes the predicate latches to a row. -/
  | astp (d : RowOff)
  /-- R278. Writes the carry latches to a row. -/
  | astc (d : RowOff)
  /-- R278. Shifts a row toward higher columns. -/
  | ashl (d a : RowOff)
  /-- R278. Shifts a row toward lower columns. -/
  | ashr (d a : RowOff)
  /-- R282. Band add macro. -/
  | aadd (w : BitVec 6) (d a b : Reg)
  /-- R282. Band subtract macro. -/
  | asub (w : BitVec 6) (d a b : Reg)
  /-- R282. Band signed multiply macro. -/
  | amul (w : BitVec 6) (d a b : Reg)
  /-- R282. Band multiply-accumulate macro. -/
  | amac (w : BitVec 6) (d a b : Reg)
  /-- R282. Band signed less-than macro. -/
  | acmplt (w : BitVec 6) (d a b : Reg)
  /-- R282. Band signed maximum macro. -/
  | amax (w : BitVec 6) (d a b : Reg)
  /-- R282. Band negate macro. -/
  | aneg (w : BitVec 6) (d a : Reg)
  /-- R282. Band absolute value macro. -/
  | aabs (w : BitVec 6) (d a : Reg)
  /-- R282. Band saturating add macro. -/
  | aadds (w : BitVec 6) (d a b : Reg)
  /-- R282. Band saturating subtract macro. -/
  | asubs (w : BitVec 6) (d a b : Reg)
  /-- R285. Sets the selected plots and predication. -/
  | asel (a : Reg)
  /-- R285. Sets the array row base. -/
  | asetrb (a : Reg)
  /-- R286. Copies local memory into arrays in dot or band layout. -/
  | axin (a b : Reg)
  /-- R286. Copies arrays into local memory. -/
  | axout (a b : Reg)
  /-- R287. Streams the row buffer through dot-mode arrays into output registers. -/
  | adot
  /-- R287. Loads the row buffer from a vector register. -/
  | abuf (va : VReg)
  /-- R287. Reads dot outputs into a vector register. -/
  | aout (vd : VReg) (b : Reg)
  /-- R285. Sets checked mode. -/
  | achk (a : Reg)
  /-- R289. Waits for the context's earlier array commands; acquire of AXOUT writes. -/
  | await
  /-- R80. Parks, spills if the ring is full, moves the window and calls a PC-relative target. -/
  | call (off : BitVec 25)
  /-- R80. Calls a register target plus offset. -/
  | callr (a : Reg) (imm : BitVec 12)
  /-- R81. Jumps to a register target plus offset without moving the window. -/
  | jr (a : Reg) (imm : BitVec 12)
  /-- R82. Returns from a subroutine, or ends a helper from its root frame. -/
  | ret
  /-- R83. Begins a fresh body on helper n. -/
  | start (n : BitVec 4) (d a : Reg)
  /-- R83. Resumes helper n from its sealed context block. -/
  | startRes (n : BitVec 4)
  /-- R84. Stops helper n between segments and writes its block. -/
  | stoph (n : BitVec 4)
  /-- R85. Parks and passes issue to the next ready context. -/
  | yield
  /-- R87. Returns from a notice handler. -/
  | nret
  /-- R86. Arms notices with a handler PC and shadow window. -/
  | setnh (d a : Reg)
  /-- R89. Reads a system register into gd. -/
  | rdsr (d : Reg) (r : BitVec 12)
  /-- R89. Writes a system register under its access code, for registers without a row of their own. -/
  | wrsr (a : Reg) (r : BitVec 12)
  /-- R123. Loads a sign-extended byte as a deferred result. -/
  | ldb (d a : Reg) (imm : BitVec 12)
  /-- R123. Loads a sign-extended halfword. -/
  | ldh (d a : Reg) (imm : BitVec 12)
  /-- R123. Loads a sign-extended word. -/
  | ldw (d a : Reg) (imm : BitVec 12)
  /-- R123. Loads a doubleword. -/
  | ldd (d a : Reg) (imm : BitVec 12)
  /-- R123. Loads a zero-extended byte. -/
  | ldbu (d a : Reg) (imm : BitVec 12)
  /-- R123. Loads a zero-extended halfword. -/
  | ldhu (d a : Reg) (imm : BitVec 12)
  /-- R123. Loads a zero-extended word. -/
  | ldwu (d a : Reg) (imm : BitVec 12)
  /-- R126. Asks the far read cache to fill a line; never faults. -/
  | pref (a : Reg) (imm : BitVec 12)
  /-- R124. Stores the low byte. -/
  | stb (d a : Reg) (imm : BitVec 12)
  /-- R124. Stores the low halfword. -/
  | sth (d a : Reg) (imm : BitVec 12)
  /-- R124. Stores the low word. -/
  | stw (d a : Reg) (imm : BitVec 12)
  /-- R124. Stores a doubleword. -/
  | std (d a : Reg) (imm : BitVec 12)
  /-- R125. Indexed signed byte load. -/
  | ldxB (d a b : Reg)
  /-- R125. Indexed signed halfword load. -/
  | ldxH (d a b : Reg)
  /-- R125. Indexed signed word load. -/
  | ldxW (d a b : Reg)
  /-- R125. Indexed doubleword load. -/
  | ldxD (d a b : Reg)
  /-- R125. Indexed zero-extended byte load. -/
  | ldxBu (d a b : Reg)
  /-- R125. Indexed zero-extended halfword load. -/
  | ldxHu (d a b : Reg)
  /-- R125. Indexed zero-extended word load. -/
  | ldxWu (d a b : Reg)
  /-- R125. Indexed byte store. -/
  | stxB (d a b : Reg)
  /-- R125. Indexed halfword store. -/
  | stxH (d a b : Reg)
  /-- R125. Indexed word store. -/
  | stxW (d a b : Reg)
  /-- R125. Indexed doubleword store. -/
  | stxD (d a b : Reg)
  /-- R127. Invalidates the whole far read cache. -/
  | rcinv
  /-- R127. Invalidates read-cache lines filled through a virtual range. -/
  | rcinvRange (a b : Reg)
  /-- R132. Atomic add at the home, returning the old value. -/
  | amoadd (dbl : Bool) (ord : Ord4) (d a b : Reg)
  /-- R132. Atomic and, returning the old value. -/
  | amoand (dbl : Bool) (ord : Ord4) (d a b : Reg)
  /-- R132. Atomic or, returning the old value. -/
  | amoor (dbl : Bool) (ord : Ord4) (d a b : Reg)
  /-- R132. Atomic exclusive or, returning the old value. -/
  | amoxor (dbl : Bool) (ord : Ord4) (d a b : Reg)
  /-- R132. Atomic signed minimum. -/
  | amomin (dbl : Bool) (ord : Ord4) (d a b : Reg)
  /-- R132. Atomic signed maximum. -/
  | amomax (dbl : Bool) (ord : Ord4) (d a b : Reg)
  /-- R132. Atomic unsigned minimum. -/
  | amominu (dbl : Bool) (ord : Ord4) (d a b : Reg)
  /-- R132. Atomic unsigned maximum. -/
  | amomaxu (dbl : Bool) (ord : Ord4) (d a b : Reg)
  /-- R132. Atomic swap. -/
  | amoswap (dbl : Bool) (ord : Ord4) (d a b : Reg)
  /-- R132. Atomic compare-and-swap with the expected value in gd. -/
  | amocas (dbl : Bool) (ord : Ord4) (d a b : Reg)
  /-- R133. Atomic floating add in RNE. -/
  | amofadd (dbl : Bool) (ord : Ord4) (d a b : Reg)
  /-- R133. Atomic floating minimum. -/
  | amofmin (dbl : Bool) (ord : Ord4) (d a b : Reg)
  /-- R133. Atomic floating maximum. -/
  | amofmax (dbl : Bool) (ord : Ord4) (d a b : Reg)
  /-- R132. No-return atomic add posted as a store. -/
  | amoaddNr (dbl rl : Bool) (a b : Reg)
  /-- R132. No-return atomic and. -/
  | amoandNr (dbl rl : Bool) (a b : Reg)
  /-- R132. No-return atomic or. -/
  | amoorNr (dbl rl : Bool) (a b : Reg)
  /-- R132. No-return atomic exclusive or. -/
  | amoxorNr (dbl rl : Bool) (a b : Reg)
  /-- R132. No-return atomic signed minimum. -/
  | amominNr (dbl rl : Bool) (a b : Reg)
  /-- R132. No-return atomic signed maximum. -/
  | amomaxNr (dbl rl : Bool) (a b : Reg)
  /-- R132. No-return atomic unsigned minimum. -/
  | amominuNr (dbl rl : Bool) (a b : Reg)
  /-- R132. No-return atomic unsigned maximum. -/
  | amomaxuNr (dbl rl : Bool) (a b : Reg)
  /-- R133. No-return atomic floating add. -/
  | amofaddNr (dbl rl : Bool) (a b : Reg)
  /-- R133. No-return atomic floating minimum. -/
  | amofminNr (dbl rl : Bool) (a b : Reg)
  /-- R133. No-return atomic floating maximum. -/
  | amofmaxNr (dbl rl : Bool) (a b : Reg)
  /-- R136. Sends an integer contribution with a slice index to a merge target. -/
  | amergeAdd (dbl : Bool) (k a b : Reg)
  /-- R136. Sends a floating contribution with a slice index to a merge target. -/
  | amergeFadd (dbl : Bool) (k a b : Reg)
  /-- R142. Load-acquire at the home at device scope. -/
  | lda (z : LWidth) (d a : Reg)
  /-- R143. Store-release held until earlier accesses are acknowledged. -/
  | stl (z : SWidth) (d a : Reg)
  /-- R144. Parks and orders earlier loads before later accesses, invalidating the read cache. -/
  | fenceAcq (c : Scope)
  /-- R144. Orders earlier accesses before later writes. -/
  | fenceRel (c : Scope)
  /-- R144. Orders all earlier accesses before later ones, holding issue for acknowledgements. -/
  | fenceFull (c : Scope)
  /-- R167. Copies local bytes into a remote local memory. -/
  | put (a b : Reg)
  /-- R167. Put followed by a counter increment at the destination core; a release. -/
  | putc (d a b : Reg)
  /-- R167. Copies remote bytes into local memory, deferring the length. -/
  | get (d a b : Reg)
  /-- R167. Adds an amount to a remote core's counter; a release. -/
  | cinc (d a b : Reg)
  /-- R169. Defers the value of a counter of the issuing core. -/
  | cget (d a : Reg)
  /-- R170. Ends the segment and sleeps until a counter reaches a threshold; an acquire. -/
  | waitc (a b : Reg)
  /-- R172. Arms or frees a waiting-task entry on a counter threshold. -/
  | wtarm (d a b : Reg)
  /-- R179. Sends a message to a receive ring of a far core. -/
  | send (d a b : Reg)
  /-- R180. Ends the segment and waits for a ring's TAIL to differ; an acquire. -/
  | recv (d a b : Reg)
  /-- R306. Checks and registers a derivation rule device-wide, marking derived tiles stale. -/
  | dreg (a : Reg)
  /-- R307. Removes a derivation rule, optionally flushing stale tiles. -/
  | dunreg (f : Bool) (a : Reg)
  /-- R308. Defers a snapshot of a tile's derivation status. -/
  | dstat (d a : Reg)
  /-- R309. Sleeps until the derived tiles of a range are recomputed; acquire. -/
  | dfresh (a b : Reg)
  /-- R335. Enqueues a task, sleeping while refused. -/
  | tkenq (a b : Reg)
  /-- R335. Enqueues a task and defers a status. -/
  | tkenqn (d a b : Reg)
  /-- R336. Near unit pops a task from its home's queues. -/
  | tkpop (d b : Reg)
  /-- R336. Far control context steals a task from a queue's tail. -/
  | tksteal (d a b : Reg)
  /-- R337. Completes the current task after its accesses are acknowledged. -/
  | tkdone
  /-- R338. Defers a snapshot of a queue. -/
  | tkdepth (d a : Reg)
  /-- R339. Configures a task queue from a local block. -/
  | tkqcfg (d a b : Reg)
  /-- R340. Casts the voter's lap vote with an op. -/
  | lapv (op : LapOp) (e : Bool) (a : Reg)
  /-- R341. Sleeps until a lap closes or work is available. -/
  | lapw (d : Reg)
  /-- R358. Pushes a copy command to the engine. -/
  | ecpy (n : Bool) (d a b : Reg)
  /-- R359. Pushes a 2-D copy command. -/
  | ecpy2 (n : Bool) (a b : Reg)
  /-- R360. Pushes a gather command. -/
  | egath (n : Bool) (a b : Reg)
  /-- R360. Pushes a scatter command. -/
  | escat (n : Bool) (a b : Reg)
  /-- R358. Pushes a fill command. -/
  | efill (n : Bool) (d a b : Reg)
  /-- R361. Pushes an overlay load into the code store. -/
  | eovl (n : Bool) (a b : Reg)
  /-- R362. Pins overlay entries. -/
  | epin (d a : Reg)
  /-- R362. Unpins overlay entries of the issuer's ASID. -/
  | eunpin (a : Reg)
  /-- R363. Hands a granule copy, fill or compare to a stack bulk engine. -/
  | ebulk (n : Bool) (a b : Reg)
  /-- R356. Pops an engine token, sleeping while one is owed; acquire. -/
  | epop (d : Reg)
  /-- R357. Defers an engine snapshot. -/
  | estat (d : Reg)
  /-- R383. Loads the row program of a stack near unit. -/
  | nrprog (a : Reg)
  /-- R384. Starts a row stream in near mode. -/
  | nrrun (a : Reg)
  /-- R385. Defers a near-mode snapshot. -/
  | nrstat (d : Reg)
  /-- R386. Takes the stream completion, sleeping while the stream runs; acquire. -/
  | nrwait (d : Reg)
  /-- R398. Takes SYSCALL precisely with a service value. -/
  | trap (a : Reg)
  /-- R399. Returns from a trap handler. -/
  | eret
  /-- R403. Removes translations from every TLB of the device. -/
  | tlbinv (a b : Reg)
  /-- R405. Advances an ASID's generation device-wide. -/
  | genadv (d a : Reg)
  /-- R405. Sets an ASID's generation floor at every home. -/
  | genadvFloor (a b : Reg)
  /-- R410. Sets a helper slot's context-block pointer. -/
  | cbswap (n : BitVec 4) (a : Reg)
  /-- R410. Recomputes and writes a helper's seal record. -/
  | cbswapSeal (n : BitVec 4)
  /-- R411. Restores unit state from a save area. -/
  | cbswapUnit (a : Reg)
  /-- R408. Stops and seals a launch's helpers and saves unit state. -/
  | stopc (a : Reg)
  /-- R398. Takes BKPT precisely. -/
  | bkpt
  /-- R400. Control context sleeps until a unit event. -/
  | haltc
  /-- R90. WRSR of FRS sets SPILLED, spills or fills to the new RES and CAP. -/
  | frsWrite (v : Word)
  /-- R90. WRSR of FRB spills the whole ring and moves it to the new base. -/
  | frbWrite (v : Word)
  /-- R197. WRSR of SRSEED reseeds the stochastic-rounding LFSR. -/
  | srseedWrite (v : Word)
  /-- R164. Writing CCLR clears all counters and frees all waiting-task entries. -/
  | msgctlCclr
  /-- R272. A layout change of a plot entering the slice order as an array command. -/
  | plcfgWrite (v : Word)
  /-- R368. Arms the near-mode entry sequence. -/
  | nmctlArm
  /-- R368. Presents the channel key in the entry sequence. -/
  | nmctlKey (key : BitVec 16)
  /-- R368. Commits near-mode entry for the issuer's launch. -/
  | nmctlCommit
  /-- R368. Returns an idle channel to normal mode. -/
  | nmctlExit
  /-- R368. Any other command value cancels the sequence. -/
  | nmctlCancel
  /-- R369. After in-progress channel accesses drain, NM becomes 1 and issue resumes. -/
  | enterNear (u : Nat)
  /-- R147. Writing TRCTL enables or disables a home's trace ring, clearing COUNT on enable. -/
  | trctlWrite (v : Word)
  /-- R326. Reading HEND returns and clears the helper-end bits. -/
  | hendRead (d : Reg)
  /-- R414. Reading HDEAD returns and clears the double-trap bits. -/
  | hdeadRead (d : Reg)
  /-- R412. Reading ERRLOG returns and clears the error log. -/
  | errlogRead (d : Reg)
  /-- R67. After deferred results land, takes faults, STOP and notices and rotates issue. -/
  | park (u c : Nat)
  /-- R64. The 256th word since the last park forces a park. -/
  | implicitPark (u c : Nat)
  /-- R396. A helper's fetch outside resident overlays stops and seals it and signals the control context. -/
  | helperCodeAbsent (u c : Nat)
  /-- R223. On next issue with DRPLY.V set, re-dispatches faulted and discarded coprocessor entries. -/
  | redispatch (u c : Nat)
  /-- R226. The vector unit replays a captured body pass with staggered register fields. -/
  | replayPass (u : Nat)
  /-- R229. A halted replay continues from its record at the recorded PC. -/
  | replayResume (u c : Nat)
  /-- R216. The vector unit executes a queued vector word after its dependences. -/
  | vectorExecute (u : Nat)
  /-- R250. The cluster matrix unit grants and runs one command of a core round-robin. -/
  | matrixGrant (k : Nat)
  /-- R266. A stop halts matrix work at the next grant boundary and marks commands for re-dispatch. -/
  | matrixStopBoundary (u lid : Nat)
  /-- R273. The slice sequencer executes the next accepted array command. -/
  | arrayExecute (sl : Nat)
  /-- R275. An access held behind earlier commands is performed once they complete. -/
  | arrayHeldAccess (r : Req)
  /-- R291. On a stop the sequencer halts after the row operation in progress and marks commands. -/
  | arrayHalt (sl lid : Nat)
  /-- R123. A load arriving at a home reads its bytes in the home's order. -/
  | homeLoad (r : Req)
  /-- R124. A store arriving at a home is performed in the home's order. -/
  | homeStore (r : Req)
  /-- R130. An atomic is performed indivisibly at its home. -/
  | homeAtomic (r : Req)
  /-- R116. A far read-cache line fill returns from its home. -/
  | readCacheFill (u : Nat) (asid : BitVec 12) (va : Word) (pa : Nat)
  /-- R129. A TLB miss walk completes, setting A or D and forming a TLB entry. -/
  | pageWalk (u c : Nat) (va : Word) (store : Bool)
  /-- R403. A TLB or walker receives an invalidation broadcast and acknowledges. -/
  | tlbInvalidateRequest (u : Nat) (va ctl : Word)
  /-- R405. A unit receives a generation advance, drains older accesses and acknowledges. -/
  | genAdvanceRequest (u : Nat) (asid : BitVec 12) (gen : BitVec 16)
  /-- R137. A home applies or pends an arriving merge contribution by index. -/
  | mergeContribution (r : Req)
  /-- R138. A refused contribution is resent until the home accepts it. -/
  | mergeRetry (r : Req)
  /-- R167. Put data arrives and is written at the destination unit. -/
  | putDeliver (r : Req)
  /-- R167. A remote home returns get data into the issuer's local memory. -/
  | getServe (r : Req)
  /-- R171. An increment is applied to a core counter in the counter's order. -/
  | counterIncrement (core : Nat) (cnt : BitVec 8) (amount : Word)
  /-- R172. A held hand-off is deposited when ring 0 can take it. -/
  | handOffRetry (core : Nat)
  /-- R176. An arriving message is deposited in a ring or overflow buffer, or held. -/
  | messageDeposit (r : Req)
  /-- R176. A held message is retried when its ring or overflow frees. -/
  | messageRetry (core : Nat)
  /-- R183. After 100 µs of whole-launch sleep the hub writes a stall report and posts STALL. -/
  | quiescenceDetect (lid : Nat)
  /-- R313. A home accepts, spills or refuses an arriving enqueue and issues a ticket. -/
  | taskAccept (r : Req)
  /-- R320. Every 10 µs a home resends its standing beacons. -/
  | beaconResend (home : Nat)
  /-- R327. A refused TKENQ retries until accepted. -/
  | enqueueRetry (u c : Nat)
  /-- R313. A freed resident entry is refilled from the spill ring head. -/
  | spillRefill (home q : Nat)
  /-- R318. The home decides a pop and grants the oldest eligible task or a status. -/
  | popDecide (u c : Nat) (bind : Word) (id : Nat)
  /-- R319. The home decides a steal and grants the youngest eligible task or a status. -/
  | stealDecide (u c : Nat) (sel bind : Word) (id : Nat)
  /-- R325. A task completion is performed at its home as a release. -/
  | taskComplete (home q : Nat) (ticket : Word32)
  /-- R329. A task eligible for 1 ms is treated as priority 1. -/
  | priorityAging (home q : Nat) (ticket : Word32)
  /-- R331. A vote reaches the relay and stands for the lap. -/
  | lapVoteArrive (lid u : Nat) (op : LapOp) (e : Bool) (v : Word)
  /-- R331. The relay closes a lap, writes LAPRES and returns the closure to voters. -/
  | lapClose (lid : Nat)
  /-- R347. The copy engine begins the head command once its token has a place. -/
  | engineCommandBegin (u : Nat)
  /-- R354. An engine command ends, writing its token or an error token. -/
  | engineCommandComplete (u : Nat)
  /-- R363. A stack bulk engine runs a copy, fill or compare granule by granule. -/
  | bulkCommand (u : Nat)
  /-- R365. On a stop the engine finishes its chunk and suspends. -/
  | engineSuspend (u : Nat)
  /-- R301. A slice receives a stale mark, marks dependents and acknowledges. -/
  | staleMark (tile : Nat)
  /-- R301. A held base-tile write is performed once all marks are acknowledged. -/
  | baseWriteRelease (r : Req)
  /-- R302. The recompute context rebuilds a stale tile and serves the held reads. -/
  | recompute (tile : Nat)
  /-- R309. A slice treats a refresh request as held reads of its derived tiles and answers. -/
  | dfreshRequest (u c tile : Nat)
  /-- R375. One 96 ns stream slot reads rows, runs the program and writes its row. -/
  | rowSlot (p : Nat)
  /-- R377. At a row boundary up to 16 queued far accesses are served. -/
  | arbitrationWindow (p : Nat)
  /-- R380. On a stop the stream suspends at the next row boundary. -/
  | streamSuspend (p : Nat)
  /-- R407. A STOP for a launch reaches a unit and freezes its contexts. -/
  | stopArrival (u lid : Nat)
  /-- R407. A unit not acknowledging within 10 µs is reset and the launch fails. -/
  | unitWatchdog (u lid : Nat)
  /-- R411. The hub resumes a launch once every unit has reported restored. -/
  | launchResume (lid : Nat)
  /-- R310. The runtime starts a hand-off task from ring 0 on a free helper. -/
  | handOffTaskStart (u : Nat)
  /-- R388. The runtime enters near mode before starting a task that asks for it. -/
  | nearModeTaskGrant (p : Nat) (bind : Word)
  /-- R421. A posted 128-byte write to the launch aperture is accepted or dropped. -/
  | launchRecordPost (port : Bool) (off : Nat) (bytes : List Byte)
  /-- R422. The front end chooses a record and starts its launch when its cores are free. -/
  | launchStart
  /-- R422. Each full 1 ms of waiting raises a record's effective priority. -/
  | launchRecordAging (q idx : Nat)
  /-- R423. The hub writes a completion record when the ring has room, then signals MSI-X. -/
  | completionWrite (q : Nat)
  /-- R419. The host advances CRHEAD, freeing completion ring space. -/
  | crheadWrite (q : Nat) (v : Word32)
  /-- R419. The host configures a launch queue block. -/
  | lqcfgWrite (q dw : Nat) (v : Word)
  /-- R426. A host write of a LID cancels that launch. -/
  | lstopWrite (lid : BitVec 16)
  /-- R418. The host sets the module power limit within 400 to 2,000 W. -/
  | pwrlimWrite (v : Word)
  /-- R418. Writing 1 clears host error bits. -/
  | herrClear (v : Word)
  /-- R418. The host sets the dropped-record count. -/
  | dropcntWrite (v : Word32)
  /-- R418. A host read or write through BAR2 or BAR4 is performed at its home. -/
  | hostAccess (port : Bool) (bar off : Nat) (op : HostOp)
  /-- R128. A host-window read not completed within the completion timeout returns UNCORR. -/
  | hostReadTimeout (r : Req)
  /-- R432. The host requests a signed quote through the mailbox. -/
  | attestationRequest (nonce : List Byte)
  /-- R432. The security processor writes the quote and marks it complete. -/
  | quoteComplete (quote : List Byte)
  /-- R427. A peer-link flit is CRC-checked, delivered or replayed. -/
  | flitReceive (port : Nat) (good : Bool) (reqs : List Req)
  /-- R427. After 64 CRC failures in 1 ms a port retrains at fewer lanes. -/
  | linkRetrain (port : Nat)
  /-- R429. A peer hub accepts a mirror record and starts the launch's voters there. -/
  | mirrorRecord (bytes : List Byte) (lid : Nat)
  /-- R430. Reset starts secure boot. -/
  | deviceReset
  /-- R430. The device passes to the next bring-up stage. -/
  | bootStageAdvance (verified : Bool)
  /-- R430. The hub stops launches, raises clocks, enables units and resumes launches. -/
  | fullServiceTransition
  /-- R435. Each 1 ms the firmware adjusts island clocks to keep power under the limit. -/
  | powerControl (watts : BitVec 16)
  /-- R433. Periodic scrub of SRAM, plots and DRAM. -/
  | scrub (u : Nat) (src : ErrSrc) (addr : BitVec 52) (corrected : Bool)
  /-- R434. The firmware disables a failed unit by a signed record. -/
  | unitDisable (x : PartUnit)
  /-- R320. A beacon or retraction reaches a cluster or hub steal directory, which stores it, drops it when full, or removes the standing beacon. -/
  | beaconArrival (dir : Nat) (b : Beacon) (retract : Bool)
  /-- R405. A home receives the floor of GENADV.FLOOR for an ASID, sets it and acknowledges. -/
  | generationFloorRequest (home : Nat) (asid : BitVec 12) (floor : BitVec 16)
  /-- R427. A peer port finishes retraining at 4, 2 or 1 lanes, or fails to train and is disabled, and waiting traffic continues or is refused. -/
  | linkRetrainingEnd (port lanes : Nat)
  deriving DecidableEq, Repr

end Sys2Proof
end

