-- ==== Sys2Proof/WellFormed.lean ====
section
/-! DEFINITION. Which instructions have an encoding: the checks that a field's type does not already make (03_encoding R58
and the class chapters named at each check). -/

namespace Sys2Proof

/-- A helper number from 1 to 10 (R79, R397). -/
def helperOk (n : BitVec 4) : Bool := decide (1 ≤ n.toNat) && decide (n.toNat ≤ 10)

/-- A system register number that a map defines (R88, R414). -/
def sysRegOk (r : BitVec 12) : Bool :=
  decide (r.toNat ≤ 0x00D)
    || (decide (0x040 ≤ r.toNat) && decide (r.toNat ≤ 0x04D))
    || (decide (0x060 ≤ r.toNat) && decide (r.toNat ≤ 0x072))

/-- An integer format (R185, R209, R238). -/
def Fmt.isInt : Fmt → Bool
  | .s64 | .u64 | .s32 | .u32 | .s8 | .s16 | .s4 => true
  | .fp64 | .fp32 | .fp16 | .bf16 | .e4m3 | .e5m2 | .e2m1 | .dm8 => false

/-- A format that only VCVT and the derivation rules know (codes 0xC to 0xE, R238). -/
def Fmt.isSmallInt : Fmt → Bool
  | .s8 | .s16 | .s4 => true
  | _ => false

/-- OVF is accepted only toward E4M3, E5M2 and DM8 (R209). -/
def ovfOk (ovf : Bool) (dst : Fmt) : Bool :=
  ! ovf || dst == .e4m3 || dst == .e5m2 || dst == .dm8

/-- The format pairs that CVT accepts (R209). -/
def cvtOk (ovf : Bool) (dst src : Fmt) : Bool :=
  dst != src && ! (dst.isInt && src.isInt) && ovfOk ovf dst && ! dst.isSmallInt && ! src.isSmallInt

/-- The format pairs that VCVT accepts: those of CVT, and two integer formats when one of them is s8, s16 or s4 (R239). -/
def vcvtOk (ovf : Bool) (dst src : Fmt) : Bool :=
  dst != src && ovfOk ovf dst
    && (! (dst.isInt && src.isInt) || dst.isSmallInt || src.isSmallInt)

/-- The element count N of a vector register at an element width (R213). -/
def VWidth.count : VWidth → Nat
  | .b8 => 256
  | .h16 => 128
  | .w32 => 64
  | .d64 => 32

/-- An element index of VEXT or VINS is below N (R236). -/
def idxOk (w : VWidth) (hi lo : VReg) : Bool := decide (hi.toNat * 16 + lo.toNat < w.count)

/-- The widths that a reduction accepts (R237). -/
def redOk (op : RedOp) (w : VWidth) : Bool :=
  match op with
  | .fadd _ | .fmin | .fmax => w == .w32 || w == .d64
  | _ => true

/-- The latch sources of ALDP and ALDC: modes 2 and 3 take no row, mode 4 is ALDP's alone (R280). -/
def latchOk (predicate : Bool) (m : LatchSrc) (a : RowOff) : Bool :=
  match m with
  | .row | .notRow => true
  | .zero | .one => a == 0#7
  | .andRow => predicate

/-- An element width of an array macro, 1 to 32 (R53, R281). -/
def w6Ok (w : BitVec 6) : Bool := decide (1 ≤ w.toNat) && decide (w.toNat ≤ 32)

/-- An instruction that a word encodes: not an event, and every field in the set its encoding table accepts. -/
def Instr.wf : Instr → Bool
  | .start n _ _ | .startRes n | .stoph n | .cbswap n _ | .cbswapSeal n => helperOk n
  | .rdsr _ r | .wrsr _ r => sysRegOk r
  | .cvt ovf _ dst src _ _ => cvtOk ovf dst src
  | .vcvt ovf _ dst src _ _ => vcvtOk ovf dst src
  | .vlds _ _ m | .vsts _ _ m | .vstm _ _ m => m != 31#5
  | .vext w _ _ hi lo => idxOk w hi lo
  | .vins w _ _ hi lo => idxOk w hi lo
  | .vred op w _ _ => redOk op w
  | .aldp m a => latchOk true m a
  | .aldc m a => latchOk false m a
  | .aadd w _ _ _ | .asub w _ _ _ | .amul w _ _ _ | .amac w _ _ _ | .acmplt w _ _ _ | .amax w _ _ _
  | .aneg w _ _ | .aabs w _ _ | .aadds w _ _ _ | .asubs w _ _ _ => w6Ok w
  | .frsWrite _
  | .frbWrite _
  | .srseedWrite _
  | .msgctlCclr
  | .plcfgWrite _
  | .nmctlArm
  | .nmctlKey _
  | .nmctlCommit
  | .nmctlExit
  | .nmctlCancel
  | .enterNear _
  | .trctlWrite _
  | .hendRead _
  | .hdeadRead _
  | .errlogRead _
  | .park _ _
  | .implicitPark _ _
  | .helperCodeAbsent _ _
  | .redispatch _ _
  | .replayPass _
  | .replayResume _ _
  | .vectorExecute _
  | .matrixGrant _
  | .matrixStopBoundary _ _
  | .arrayExecute _
  | .arrayHeldAccess _
  | .arrayHalt _ _
  | .homeLoad _
  | .homeStore _
  | .homeAtomic _
  | .readCacheFill _ _ _ _
  | .pageWalk _ _ _ _
  | .tlbInvalidateRequest _ _ _
  | .genAdvanceRequest _ _ _
  | .mergeContribution _
  | .mergeRetry _
  | .putDeliver _
  | .getServe _
  | .counterIncrement _ _ _
  | .handOffRetry _
  | .messageDeposit _
  | .messageRetry _
  | .quiescenceDetect _
  | .taskAccept _
  | .beaconResend _
  | .enqueueRetry _ _
  | .spillRefill _ _
  | .popDecide _ _ _ _
  | .stealDecide _ _ _ _ _
  | .taskComplete _ _ _
  | .priorityAging _ _ _
  | .lapVoteArrive _ _ _ _ _
  | .lapClose _
  | .engineCommandBegin _
  | .engineCommandComplete _
  | .bulkCommand _
  | .engineSuspend _
  | .staleMark _
  | .baseWriteRelease _
  | .recompute _
  | .dfreshRequest _ _ _
  | .rowSlot _
  | .arbitrationWindow _
  | .streamSuspend _
  | .stopArrival _ _
  | .unitWatchdog _ _
  | .launchResume _
  | .handOffTaskStart _
  | .nearModeTaskGrant _ _
  | .launchRecordPost _ _ _
  | .launchStart
  | .launchRecordAging _ _
  | .completionWrite _
  | .crheadWrite _ _
  | .lqcfgWrite _ _ _
  | .lstopWrite _
  | .pwrlimWrite _
  | .herrClear _
  | .dropcntWrite _
  | .hostAccess _ _ _ _
  | .hostReadTimeout _
  | .attestationRequest _
  | .quoteComplete _
  | .flitReceive _ _ _
  | .linkRetrain _
  | .mirrorRecord _ _
  | .deviceReset
  | .bootStageAdvance _
  | .fullServiceTransition
  | .powerControl _
  | .scrub _ _ _ _
  | .unitDisable _
  | .beaconArrival _ _ _
  | .generationFloorRequest _ _ _
  | .linkRetrainingEnd _ _ => false
  | _ => true

/-- The rows of the table that have no encoding: the events of the device (95_what_each_step_holds). -/
def Instr.isEvent : Instr → Bool
  | .frsWrite _ => true
  | .frbWrite _ => true
  | .srseedWrite _ => true
  | .msgctlCclr => true
  | .plcfgWrite _ => true
  | .nmctlArm => true
  | .nmctlKey _ => true
  | .nmctlCommit => true
  | .nmctlExit => true
  | .nmctlCancel => true
  | .enterNear _ => true
  | .trctlWrite _ => true
  | .hendRead _ => true
  | .hdeadRead _ => true
  | .errlogRead _ => true
  | .park _ _ => true
  | .implicitPark _ _ => true
  | .helperCodeAbsent _ _ => true
  | .redispatch _ _ => true
  | .replayPass _ => true
  | .replayResume _ _ => true
  | .vectorExecute _ => true
  | .matrixGrant _ => true
  | .matrixStopBoundary _ _ => true
  | .arrayExecute _ => true
  | .arrayHeldAccess _ => true
  | .arrayHalt _ _ => true
  | .homeLoad _ => true
  | .homeStore _ => true
  | .homeAtomic _ => true
  | .readCacheFill _ _ _ _ => true
  | .pageWalk _ _ _ _ => true
  | .tlbInvalidateRequest _ _ _ => true
  | .genAdvanceRequest _ _ _ => true
  | .mergeContribution _ => true
  | .mergeRetry _ => true
  | .putDeliver _ => true
  | .getServe _ => true
  | .counterIncrement _ _ _ => true
  | .handOffRetry _ => true
  | .messageDeposit _ => true
  | .messageRetry _ => true
  | .quiescenceDetect _ => true
  | .taskAccept _ => true
  | .beaconResend _ => true
  | .enqueueRetry _ _ => true
  | .spillRefill _ _ => true
  | .popDecide _ _ _ _ => true
  | .stealDecide _ _ _ _ _ => true
  | .taskComplete _ _ _ => true
  | .priorityAging _ _ _ => true
  | .lapVoteArrive _ _ _ _ _ => true
  | .lapClose _ => true
  | .engineCommandBegin _ => true
  | .engineCommandComplete _ => true
  | .bulkCommand _ => true
  | .engineSuspend _ => true
  | .staleMark _ => true
  | .baseWriteRelease _ => true
  | .recompute _ => true
  | .dfreshRequest _ _ _ => true
  | .rowSlot _ => true
  | .arbitrationWindow _ => true
  | .streamSuspend _ => true
  | .stopArrival _ _ => true
  | .unitWatchdog _ _ => true
  | .launchResume _ => true
  | .handOffTaskStart _ => true
  | .nearModeTaskGrant _ _ => true
  | .launchRecordPost _ _ _ => true
  | .launchStart => true
  | .launchRecordAging _ _ => true
  | .completionWrite _ => true
  | .crheadWrite _ _ => true
  | .lqcfgWrite _ _ _ => true
  | .lstopWrite _ => true
  | .pwrlimWrite _ => true
  | .herrClear _ => true
  | .dropcntWrite _ => true
  | .hostAccess _ _ _ _ => true
  | .hostReadTimeout _ => true
  | .attestationRequest _ => true
  | .quoteComplete _ => true
  | .flitReceive _ _ _ => true
  | .linkRetrain _ => true
  | .mirrorRecord _ _ => true
  | .deviceReset => true
  | .bootStageAdvance _ => true
  | .fullServiceTransition => true
  | .powerControl _ => true
  | .scrub _ _ _ _ => true
  | .unitDisable _ => true
  | .beaconArrival _ _ _ => true
  | .generationFloorRequest _ _ _ => true
  | .linkRetrainingEnd _ _ => true
  | _ => false

end Sys2Proof
end

