-- ==== Sys2Proof/Decode.lean ====
section
/-! DEFINITION. The decoder, total on any 32-bit word, and the encoder, both written from the formats of 03_encoding R48 and
the encoding tables of the class chapters. A word is an instruction exactly when R58 says so; every other word gives
`none` and traps ILLEGAL. The decoder returns the switch marker S beside the instruction (R49). Some definitions carry the
mark `noncomputable`: the compiled code of Lean cannot build a constructor as far down as theirs in a type as long as
`Instr`; the kernel evaluates them all the same. -/

namespace Sys2Proof

/-- One bit from a truth value. -/
def bit (b : Bool) : BitVec 1 := BitVec.ofBool b

/-- The field code of a `Hint` (R50). -/
def Hint.code : Hint → BitVec 2
  | .standard => 0#2
  | .taken => 1#2
  | .notTaken => 2#2

/-- The `Hint` that a field value names, or `none` where the word is not an instruction (R50). -/
def Hint.ofCode (x : BitVec 2) : Option Hint :=
  match x.toNat with
  | 0 => some .standard
  | 1 => some .taken
  | 2 => some .notTaken
  | _ => none

/-- The field code of a `SelCond` (R100). -/
def SelCond.code : SelCond → BitVec 2
  | .eqz => 0#2
  | .nez => 1#2
  | .ltz => 2#2
  | .gez => 3#2

/-- The `SelCond` that a field value names, or `none` where the word is not an instruction (R100). -/
def SelCond.ofCode (x : BitVec 2) : Option SelCond :=
  match x.toNat with
  | 0 => some .eqz
  | 1 => some .nez
  | 2 => some .ltz
  | 3 => some .gez
  | _ => none

/-- The field code of a `SkipCond` (R51). -/
def SkipCond.code : SkipCond → BitVec 3
  | .eq => 0#3
  | .ne => 1#3
  | .lt => 2#3
  | .ge => 3#3
  | .ltu => 4#3
  | .geu => 5#3

/-- The `SkipCond` that a field value names, or `none` where the word is not an instruction (R51). -/
def SkipCond.ofCode (x : BitVec 3) : Option SkipCond :=
  match x.toNat with
  | 0 => some .eq
  | 1 => some .ne
  | 2 => some .lt
  | 3 => some .ge
  | 4 => some .ltu
  | 5 => some .geu
  | _ => none

/-- The field code of a `RM` (R195). -/
def RM.code : RM → BitVec 3
  | .rne => 0#3
  | .rtz => 1#3
  | .rdn => 2#3
  | .rup => 3#3
  | .rna => 4#3
  | .sr => 5#3
  | .dyn => 7#3

/-- The `RM` that a field value names, or `none` where the word is not an instruction (R195). -/
def RM.ofCode (x : BitVec 3) : Option RM :=
  match x.toNat with
  | 0 => some .rne
  | 1 => some .rtz
  | 2 => some .rdn
  | 3 => some .rup
  | 4 => some .rna
  | 5 => some .sr
  | 7 => some .dyn
  | _ => none

/-- The field code of a `Ord4` (R131). -/
def Ord4.code : Ord4 → BitVec 2
  | .none => 0#2
  | .aq => 1#2
  | .rl => 2#2
  | .aqrl => 3#2

/-- The `Ord4` that a field value names, or `none` where the word is not an instruction (R131). -/
def Ord4.ofCode (x : BitVec 2) : Option Ord4 :=
  match x.toNat with
  | 0 => some .none
  | 1 => some .aq
  | 2 => some .rl
  | 3 => some .aqrl
  | _ => none

/-- The field code of a `LWidth` (R121). -/
def LWidth.code : LWidth → BitVec 3
  | .b8 => 0#3
  | .h16 => 1#3
  | .w32 => 2#3
  | .d64 => 3#3
  | .bu8 => 4#3
  | .hu16 => 5#3
  | .wu32 => 6#3

/-- The `LWidth` that a field value names, or `none` where the word is not an instruction (R121). -/
def LWidth.ofCode (x : BitVec 3) : Option LWidth :=
  match x.toNat with
  | 0 => some .b8
  | 1 => some .h16
  | 2 => some .w32
  | 3 => some .d64
  | 4 => some .bu8
  | 5 => some .hu16
  | 6 => some .wu32
  | _ => none

/-- The field code of a `SWidth` (R121). -/
def SWidth.code : SWidth → BitVec 2
  | .b8 => 0#2
  | .h16 => 1#2
  | .w32 => 2#2
  | .d64 => 3#2

/-- The `SWidth` that a field value names, or `none` where the word is not an instruction (R121). -/
def SWidth.ofCode (x : BitVec 2) : Option SWidth :=
  match x.toNat with
  | 0 => some .b8
  | 1 => some .h16
  | 2 => some .w32
  | 3 => some .d64
  | _ => none

/-- The field code of a `Scope` (R141). -/
def Scope.code : Scope → BitVec 3
  | .context => 0#3
  | .core => 1#3
  | .cluster => 2#3
  | .die => 3#3
  | .device => 4#3
  | .system => 5#3

/-- The `Scope` that a field value names, or `none` where the word is not an instruction (R141). -/
def Scope.ofCode (x : BitVec 3) : Option Scope :=
  match x.toNat with
  | 0 => some .context
  | 1 => some .core
  | 2 => some .cluster
  | 3 => some .die
  | 4 => some .device
  | 5 => some .system
  | _ => none

/-- The field code of a `VWidth` (R52). -/
def VWidth.code : VWidth → BitVec 2
  | .b8 => 0#2
  | .h16 => 1#2
  | .w32 => 2#2
  | .d64 => 3#2

/-- The `VWidth` that a field value names, or `none` where the word is not an instruction (R52). -/
def VWidth.ofCode (x : BitVec 2) : Option VWidth :=
  match x.toNat with
  | 0 => some .b8
  | 1 => some .h16
  | 2 => some .w32
  | 3 => some .d64
  | _ => none

/-- The field code of a `VCond` (R235). -/
def VCond.code : VCond → BitVec 3
  | .eq => 0#3
  | .ne => 1#3
  | .lt => 2#3
  | .ge => 3#3
  | .ltu => 4#3
  | .geu => 5#3

/-- The `VCond` that a field value names, or `none` where the word is not an instruction (R235). -/
def VCond.ofCode (x : BitVec 3) : Option VCond :=
  match x.toNat with
  | 0 => some .eq
  | 1 => some .ne
  | 2 => some .lt
  | 3 => some .ge
  | 4 => some .ltu
  | 5 => some .geu
  | _ => none

/-- The field code of a `FCond` (R235). -/
def FCond.code : FCond → BitVec 3
  | .eq => 0#3
  | .lt => 1#3
  | .le => 2#3
  | .ne => 3#3
  | .un => 4#3

/-- The `FCond` that a field value names, or `none` where the word is not an instruction (R235). -/
def FCond.ofCode (x : BitVec 3) : Option FCond :=
  match x.toNat with
  | 0 => some .eq
  | 1 => some .lt
  | 2 => some .le
  | 3 => some .ne
  | 4 => some .un
  | _ => none

/-- The field code of a `Fmt` (R209, R238). -/
def Fmt.code : Fmt → BitVec 4
  | .s64 => 0#4
  | .u64 => 1#4
  | .s32 => 2#4
  | .u32 => 3#4
  | .fp64 => 4#4
  | .fp32 => 5#4
  | .fp16 => 6#4
  | .bf16 => 7#4
  | .e4m3 => 8#4
  | .e5m2 => 9#4
  | .e2m1 => 10#4
  | .dm8 => 11#4
  | .s8 => 12#4
  | .s16 => 13#4
  | .s4 => 14#4

/-- The `Fmt` that a field value names, or `none` where the word is not an instruction (R209, R238). -/
def Fmt.ofCode (x : BitVec 4) : Option Fmt :=
  match x.toNat with
  | 0 => some .s64
  | 1 => some .u64
  | 2 => some .s32
  | 3 => some .u32
  | 4 => some .fp64
  | 5 => some .fp32
  | 6 => some .fp16
  | 7 => some .bf16
  | 8 => some .e4m3
  | 9 => some .e5m2
  | 10 => some .e2m1
  | 11 => some .dm8
  | 12 => some .s8
  | 13 => some .s16
  | 14 => some .s4
  | _ => none

/-- The field code of a `MxFmt` (R238). -/
def MxFmt.code : MxFmt → BitVec 2
  | .mxint8 => 0#2
  | .mxe4m3 => 1#2
  | .mxe5m2 => 2#2
  | .mxfp4 => 3#2

/-- The `MxFmt` that a field value names, or `none` where the word is not an instruction (R238). -/
def MxFmt.ofCode (x : BitVec 2) : Option MxFmt :=
  match x.toNat with
  | 0 => some .mxint8
  | 1 => some .mxe4m3
  | 2 => some .mxe5m2
  | 3 => some .mxfp4
  | _ => none

/-- The field code of a `LapOp` (R334). -/
def LapOp.code : LapOp → BitVec 3
  | .and => 0#3
  | .or => 1#3
  | .min => 2#3
  | .max => 3#3
  | .sum => 4#3

/-- The `LapOp` that a field value names, or `none` where the word is not an instruction (R334). -/
def LapOp.ofCode (x : BitVec 3) : Option LapOp :=
  match x.toNat with
  | 0 => some .and
  | 1 => some .or
  | 2 => some .min
  | 3 => some .max
  | 4 => some .sum
  | _ => none

/-- The field code of a `LatchSrc` (R280). -/
def LatchSrc.code : LatchSrc → BitVec 3
  | .row => 0#3
  | .notRow => 1#3
  | .zero => 2#3
  | .one => 3#3
  | .andRow => 4#3

/-- The `LatchSrc` that a field value names, or `none` where the word is not an instruction (R280). -/
def LatchSrc.ofCode (x : BitVec 3) : Option LatchSrc :=
  match x.toNat with
  | 0 => some .row
  | 1 => some .notRow
  | 2 => some .zero
  | 3 => some .one
  | 4 => some .andRow
  | _ => none

/-- The reduction code of VRED in the vb field (R237). -/
def RedOp.code : RedOp → BitVec 4
  | .add => 0#4
  | .min => 1#4
  | .max => 2#4
  | .minu => 3#4
  | .maxu => 4#4
  | .and => 5#4
  | .or => 6#4
  | .xor => 7#4
  | .fadd _ => 8#4
  | .fmin => 9#4
  | .fmax => 10#4

/-- The fn[2:0] field of VRED: the mode of the floating sum, zero otherwise (R237). -/
def RedOp.rmCode : RedOp → BitVec 3
  | .fadd rm => rm.code
  | _ => 0#3

/-- The reduction that vb and fn[2:0] name (R237). -/
def RedOp.ofCode (x : BitVec 4) (r : BitVec 3) : Option RedOp :=
  if x = 8#4 then (RM.ofCode r).map RedOp.fadd
  else if r = 0#3 then
    match x.toNat with
    | 0 => some .add
    | 1 => some .min
    | 2 => some .max
    | 3 => some .minu
    | 4 => some .maxu
    | 5 => some .and
    | 6 => some .or
    | 7 => some .xor
    | 9 => some .fmin
    | 10 => some .fmax
    | _ => none
  else none

/-! ### The ten formats (R48) -/

/-- R format. -/
def fmtR (s : Bool) (major : BitVec 6) (d a b : BitVec 5) (fn : BitVec 10) : Word32 :=
  bit s ++ major ++ d ++ a ++ b ++ fn

/-- I and M formats. -/
def fmtI (s : Bool) (major : BitVec 6) (d a : BitVec 5) (fn3 : BitVec 3) (imm : BitVec 12) : Word32 :=
  bit s ++ major ++ d ++ a ++ fn3 ++ imm

/-- U format. -/
def fmtU (s : Bool) (major : BitVec 6) (d : BitVec 5) (imm : BitVec 20) : Word32 :=
  bit s ++ major ++ d ++ imm

/-- B format. -/
def fmtB (s : Bool) (major : BitVec 6) (hint : BitVec 2) (cond : BitVec 3) (a b : BitVec 5)
    (off : BitVec 10) : Word32 :=
  bit s ++ major ++ hint ++ cond ++ a ++ b ++ off

/-- Z format. -/
def fmtZ (s : Bool) (major : BitVec 6) (hint : BitVec 2) (cond : BitVec 3) (a : BitVec 5)
    (off : BitVec 15) : Word32 :=
  bit s ++ major ++ hint ++ cond ++ a ++ off

/-- J format. -/
def fmtJ (s : Bool) (major : BitVec 6) (off : BitVec 25) : Word32 :=
  bit s ++ major ++ off

/-- V format. -/
def fmtV (s : Bool) (major : BitVec 6) (vd va vb : BitVec 4) (m : BitVec 5) (w : BitVec 2)
    (fn : BitVec 6) : Word32 :=
  bit s ++ major ++ vd ++ va ++ vb ++ m ++ w ++ fn

/-- A format. -/
def fmtA (s : Bool) (major : BitVec 6) (fn4 : BitVec 4) (d a b : BitVec 7) : Word32 :=
  bit s ++ major ++ fn4 ++ d ++ a ++ b

/-- X format. -/
def fmtX (s : Bool) (major : BitVec 6) (d a b : BitVec 5) (w6 : BitVec 6) (fn4 : BitVec 4) : Word32 :=
  bit s ++ major ++ d ++ a ++ b ++ w6 ++ fn4

/-! ### The fields of a word (R48) -/

/-- The switch marker S, bit 31 (R49). -/
def fldS (w : Word32) : Bool := w.getLsbD 31

/-- The major opcode, bits 30:25. -/
def fldMajor (w : Word32) : BitVec 6 := w.extractLsb' 25 6

/-- d, bits 24:20 (R, I, U, M, X). -/
def fldD (w : Word32) : BitVec 5 := w.extractLsb' 20 5

/-- a, bits 19:15. -/
def fldA (w : Word32) : BitVec 5 := w.extractLsb' 15 5

/-- b, bits 14:10. -/
def fldB (w : Word32) : BitVec 5 := w.extractLsb' 10 5

/-- fn, bits 9:0 (R); also the offset of the B format. -/
def fldFn (w : Word32) : BitVec 10 := w.extractLsb' 0 10

/-- fn3 or w3, bits 14:12 (I, M). -/
def fldFn3 (w : Word32) : BitVec 3 := w.extractLsb' 12 3

/-- imm12, bits 11:0 (I, M). -/
def fldImm12 (w : Word32) : BitVec 12 := w.extractLsb' 0 12

/-- imm20, bits 19:0 (U). -/
def fldImm20 (w : Word32) : BitVec 20 := w.extractLsb' 0 20

/-- hint, bits 24:23 (B, Z). -/
def fldHint (w : Word32) : BitVec 2 := w.extractLsb' 23 2

/-- cond, bits 22:20 (B, Z). -/
def fldCond (w : Word32) : BitVec 3 := w.extractLsb' 20 3

/-- The offset of the Z format, bits 14:0. -/
def fldOff15 (w : Word32) : BitVec 15 := w.extractLsb' 0 15

/-- The offset of the J format, bits 24:0. -/
def fldOff25 (w : Word32) : BitVec 25 := w.extractLsb' 0 25

/-- vd, bits 24:21 (V); also fn4 of the A format. -/
def fldVd (w : Word32) : BitVec 4 := w.extractLsb' 21 4

/-- va, bits 20:17 (V). -/
def fldVa (w : Word32) : BitVec 4 := w.extractLsb' 17 4

/-- vb, bits 16:13 (V). -/
def fldVb (w : Word32) : BitVec 4 := w.extractLsb' 13 4

/-- m, bits 12:8 (V). -/
def fldM (w : Word32) : BitVec 5 := w.extractLsb' 8 5

/-- w, bits 7:6 (V). -/
def fldW (w : Word32) : BitVec 2 := w.extractLsb' 6 2

/-- fn, bits 5:0 (V). -/
def fldFn6 (w : Word32) : BitVec 6 := w.extractLsb' 0 6

/-- d of the A format, bits 20:14. -/
def fldAd (w : Word32) : BitVec 7 := w.extractLsb' 14 7

/-- a of the A format, bits 13:7. -/
def fldAa (w : Word32) : BitVec 7 := w.extractLsb' 7 7

/-- b of the A format, bits 6:0. -/
def fldAb (w : Word32) : BitVec 7 := w.extractLsb' 0 7

/-- w6, bits 9:4 (X). -/
def fldW6 (w : Word32) : BitVec 6 := w.extractLsb' 4 6

/-- fn4, bits 3:0 (X). -/
def fldFn4 (w : Word32) : BitVec 4 := w.extractLsb' 0 4

/-! ### The encoder -/

/-- The word of an instruction with switch marker `s`, by the encoding tables of its class chapter. An event has no word;
the encoder gives the all-zero word for it, which is never an instruction (R58). -/
def encode (s : Bool) : Instr → Word32
  | .add d a b => fmtR s 0x1#6 d a b 0x0#10
  | .addw d a b => fmtR s 0x1#6 d a b 0x200#10
  | .sub d a b => fmtR s 0x1#6 d a b 0x1#10
  | .subw d a b => fmtR s 0x1#6 d a b 0x201#10
  | .mul d a b => fmtR s 0x1#6 d a b 0x2#10
  | .mulw d a b => fmtR s 0x1#6 d a b 0x202#10
  | .mulh d a b => fmtR s 0x1#6 d a b 0x3#10
  | .mulhu d a b => fmtR s 0x1#6 d a b 0x4#10
  | .div d a b => fmtR s 0x1#6 d a b 0x5#10
  | .divw d a b => fmtR s 0x1#6 d a b 0x205#10
  | .divu d a b => fmtR s 0x1#6 d a b 0x6#10
  | .divuw d a b => fmtR s 0x1#6 d a b 0x206#10
  | .rem d a b => fmtR s 0x1#6 d a b 0x7#10
  | .remw d a b => fmtR s 0x1#6 d a b 0x207#10
  | .remu d a b => fmtR s 0x1#6 d a b 0x8#10
  | .remuw d a b => fmtR s 0x1#6 d a b 0x208#10
  | .and d a b => fmtR s 0x1#6 d a b 0x9#10
  | .or d a b => fmtR s 0x1#6 d a b 0xa#10
  | .xor d a b => fmtR s 0x1#6 d a b 0xb#10
  | .andn d a b => fmtR s 0x1#6 d a b 0xc#10
  | .shl d a b => fmtR s 0x1#6 d a b 0xd#10
  | .shlw d a b => fmtR s 0x1#6 d a b 0x20d#10
  | .shr d a b => fmtR s 0x1#6 d a b 0xe#10
  | .shrw d a b => fmtR s 0x1#6 d a b 0x20e#10
  | .sar d a b => fmtR s 0x1#6 d a b 0xf#10
  | .sarw d a b => fmtR s 0x1#6 d a b 0x20f#10
  | .rotl d a b => fmtR s 0x1#6 d a b 0x10#10
  | .rotlw d a b => fmtR s 0x1#6 d a b 0x210#10
  | .min d a b => fmtR s 0x1#6 d a b 0x11#10
  | .max d a b => fmtR s 0x1#6 d a b 0x12#10
  | .minu d a b => fmtR s 0x1#6 d a b 0x13#10
  | .maxu d a b => fmtR s 0x1#6 d a b 0x14#10
  | .seq d a b => fmtR s 0x1#6 d a b 0x15#10
  | .slt d a b => fmtR s 0x1#6 d a b 0x16#10
  | .sltu d a b => fmtR s 0x1#6 d a b 0x17#10
  | .clz d a => fmtR s 0x1#6 d a 0#5 0x18#10
  | .clzw d a => fmtR s 0x1#6 d a 0#5 0x218#10
  | .ctz d a => fmtR s 0x1#6 d a 0#5 0x19#10
  | .ctzw d a => fmtR s 0x1#6 d a 0#5 0x219#10
  | .popc d a => fmtR s 0x1#6 d a 0#5 0x1a#10
  | .popcw d a => fmtR s 0x1#6 d a 0#5 0x21a#10
  | .brev d a => fmtR s 0x1#6 d a 0#5 0x1b#10
  | .brevw d a => fmtR s 0x1#6 d a 0#5 0x21b#10
  | .bswap d a => fmtR s 0x1#6 d a 0#5 0x1c#10
  | .bswapw d a => fmtR s 0x1#6 d a 0#5 0x21c#10
  | .sextb d a => fmtR s 0x1#6 d a 0#5 0x1d#10
  | .sexth d a => fmtR s 0x1#6 d a 0#5 0x1e#10
  | .clmul d a b => fmtR s 0x1#6 d a b 0x1f#10
  | .clmulh d a b => fmtR s 0x1#6 d a b 0x20#10
  | .clmulr d a b => fmtR s 0x1#6 d a b 0x21#10
  | .addi d a imm => fmtI s 0x2#6 d a 0#3 imm
  | .slti d a imm => fmtI s 0x2#6 d a 1#3 imm
  | .sltiu d a imm => fmtI s 0x2#6 d a 2#3 imm
  | .andi d a imm => fmtI s 0x2#6 d a 3#3 imm
  | .ori d a imm => fmtI s 0x2#6 d a 4#3 imm
  | .xori d a imm => fmtI s 0x2#6 d a 5#3 imm
  | .addiw d a imm => fmtI s 0x2#6 d a 6#3 imm
  | .shli d a count => fmtI s 0x3#6 d a 0#3 (0#6 ++ count)
  | .shri d a count => fmtI s 0x3#6 d a 1#3 (0#6 ++ count)
  | .sari d a count => fmtI s 0x3#6 d a 2#3 (0#6 ++ count)
  | .rotli d a count => fmtI s 0x3#6 d a 3#3 (0#6 ++ count)
  | .shliw d a count => fmtI s 0x3#6 d a 4#3 (0#7 ++ count)
  | .shriw d a count => fmtI s 0x3#6 d a 5#3 (0#7 ++ count)
  | .sariw d a count => fmtI s 0x3#6 d a 6#3 (0#7 ++ count)
  | .ldhi d imm => fmtU s 0x4#6 d imm
  | .addpc d imm => fmtU s 0x5#6 d imm
  | .sel c d a b => fmtR s 0x6#6 d a b (0#8 ++ c.code)
  | .skip h c a b n => fmtB s 0x7#6 h.code c.code a b (0#7 ++ n)
  | .beq h a b off => fmtB s 0x8#6 h.code 0#3 a b off
  | .bne h a b off => fmtB s 0x8#6 h.code 1#3 a b off
  | .blt h a b off => fmtB s 0x8#6 h.code 2#3 a b off
  | .bge h a b off => fmtB s 0x8#6 h.code 3#3 a b off
  | .bltu h a b off => fmtB s 0x8#6 h.code 4#3 a b off
  | .bgeu h a b off => fmtB s 0x8#6 h.code 5#3 a b off
  | .bbs h a b off => fmtB s 0x8#6 h.code 6#3 a b off
  | .bbc h a b off => fmtB s 0x8#6 h.code 7#3 a b off
  | .beqz h a off => fmtZ s 0x9#6 h.code 0#3 a off
  | .bnez h a off => fmtZ s 0x9#6 h.code 1#3 a off
  | .bltz h a off => fmtZ s 0x9#6 h.code 2#3 a off
  | .bgez h a off => fmtZ s 0x9#6 h.code 3#3 a off
  | .bgtz h a off => fmtZ s 0x9#6 h.code 4#3 a off
  | .blez h a off => fmtZ s 0x9#6 h.code 5#3 a off
  | .j off => fmtJ s 0xa#6 off
  | .call off => fmtJ s 0xb#6 off
  | .callr a imm => fmtI s 0xc#6 0#5 a 0#3 imm
  | .jr a imm => fmtI s 0xc#6 0#5 a 1#3 imm
  | .ret => fmtI s 0xc#6 0#5 0#5 2#3 0#12
  | .start n d a => fmtI s 0xc#6 d a 3#3 (0#8 ++ n)
  | .startRes n => fmtI s 0xc#6 0#5 0#5 3#3 (1#8 ++ n)
  | .stoph n => fmtI s 0xc#6 0#5 0#5 4#3 (0#8 ++ n)
  | .yield => fmtI s 0xc#6 0#5 0#5 5#3 0#12
  | .nret => fmtI s 0xc#6 0#5 0#5 5#3 1#12
  | .setnh d a => fmtI s 0xc#6 d a 5#3 2#12
  | .rdsr d r => fmtI s 0xc#6 d 0#5 6#3 r
  | .wrsr a r => fmtI s 0xc#6 0#5 a 7#3 r
  | .ldb d a imm => fmtI s 0xd#6 d a 0#3 imm
  | .ldh d a imm => fmtI s 0xd#6 d a 1#3 imm
  | .ldw d a imm => fmtI s 0xd#6 d a 2#3 imm
  | .ldd d a imm => fmtI s 0xd#6 d a 3#3 imm
  | .ldbu d a imm => fmtI s 0xd#6 d a 4#3 imm
  | .ldhu d a imm => fmtI s 0xd#6 d a 5#3 imm
  | .ldwu d a imm => fmtI s 0xd#6 d a 6#3 imm
  | .pref a imm => fmtI s 0xd#6 0#5 a 7#3 imm
  | .stb d a imm => fmtI s 0xe#6 d a 0#3 imm
  | .sth d a imm => fmtI s 0xe#6 d a 1#3 imm
  | .stw d a imm => fmtI s 0xe#6 d a 2#3 imm
  | .std d a imm => fmtI s 0xe#6 d a 3#3 imm
  | .ldxB d a b => fmtR s 0xf#6 d a b 0x0#10
  | .ldxH d a b => fmtR s 0xf#6 d a b 0x1#10
  | .ldxW d a b => fmtR s 0xf#6 d a b 0x2#10
  | .ldxD d a b => fmtR s 0xf#6 d a b 0x3#10
  | .ldxBu d a b => fmtR s 0xf#6 d a b 0x4#10
  | .ldxHu d a b => fmtR s 0xf#6 d a b 0x5#10
  | .ldxWu d a b => fmtR s 0xf#6 d a b 0x6#10
  | .stxB d a b => fmtR s 0xf#6 d a b 0x100#10
  | .stxH d a b => fmtR s 0xf#6 d a b 0x101#10
  | .stxW d a b => fmtR s 0xf#6 d a b 0x102#10
  | .stxD d a b => fmtR s 0xf#6 d a b 0x103#10
  | .rcinv => fmtR s 0xf#6 0#5 0#5 0#5 0x200#10
  | .rcinvRange a b => fmtR s 0xf#6 0#5 a b 0x201#10
  | .amoadd dbl ord d a b => fmtR s 0x10#6 d a b (0#2 ++ bit dbl ++ ord.code ++ 0x0#5)
  | .amoand dbl ord d a b => fmtR s 0x10#6 d a b (0#2 ++ bit dbl ++ ord.code ++ 0x1#5)
  | .amoor dbl ord d a b => fmtR s 0x10#6 d a b (0#2 ++ bit dbl ++ ord.code ++ 0x2#5)
  | .amoxor dbl ord d a b => fmtR s 0x10#6 d a b (0#2 ++ bit dbl ++ ord.code ++ 0x3#5)
  | .amomin dbl ord d a b => fmtR s 0x10#6 d a b (0#2 ++ bit dbl ++ ord.code ++ 0x4#5)
  | .amomax dbl ord d a b => fmtR s 0x10#6 d a b (0#2 ++ bit dbl ++ ord.code ++ 0x5#5)
  | .amominu dbl ord d a b => fmtR s 0x10#6 d a b (0#2 ++ bit dbl ++ ord.code ++ 0x6#5)
  | .amomaxu dbl ord d a b => fmtR s 0x10#6 d a b (0#2 ++ bit dbl ++ ord.code ++ 0x7#5)
  | .amoswap dbl ord d a b => fmtR s 0x10#6 d a b (0#2 ++ bit dbl ++ ord.code ++ 0x8#5)
  | .amocas dbl ord d a b => fmtR s 0x10#6 d a b (0#2 ++ bit dbl ++ ord.code ++ 0x9#5)
  | .amofadd dbl ord d a b => fmtR s 0x10#6 d a b (0#2 ++ bit dbl ++ ord.code ++ 0xa#5)
  | .amofmin dbl ord d a b => fmtR s 0x10#6 d a b (0#2 ++ bit dbl ++ ord.code ++ 0xb#5)
  | .amofmax dbl ord d a b => fmtR s 0x10#6 d a b (0#2 ++ bit dbl ++ ord.code ++ 0xc#5)
  | .amoaddNr dbl rl a b => fmtR s 0x10#6 0#5 a b (1#2 ++ bit dbl ++ bit rl ++ 0#1 ++ 0x0#5)
  | .amoandNr dbl rl a b => fmtR s 0x10#6 0#5 a b (1#2 ++ bit dbl ++ bit rl ++ 0#1 ++ 0x1#5)
  | .amoorNr dbl rl a b => fmtR s 0x10#6 0#5 a b (1#2 ++ bit dbl ++ bit rl ++ 0#1 ++ 0x2#5)
  | .amoxorNr dbl rl a b => fmtR s 0x10#6 0#5 a b (1#2 ++ bit dbl ++ bit rl ++ 0#1 ++ 0x3#5)
  | .amominNr dbl rl a b => fmtR s 0x10#6 0#5 a b (1#2 ++ bit dbl ++ bit rl ++ 0#1 ++ 0x4#5)
  | .amomaxNr dbl rl a b => fmtR s 0x10#6 0#5 a b (1#2 ++ bit dbl ++ bit rl ++ 0#1 ++ 0x5#5)
  | .amominuNr dbl rl a b => fmtR s 0x10#6 0#5 a b (1#2 ++ bit dbl ++ bit rl ++ 0#1 ++ 0x6#5)
  | .amomaxuNr dbl rl a b => fmtR s 0x10#6 0#5 a b (1#2 ++ bit dbl ++ bit rl ++ 0#1 ++ 0x7#5)
  | .amofaddNr dbl rl a b => fmtR s 0x10#6 0#5 a b (1#2 ++ bit dbl ++ bit rl ++ 0#1 ++ 0xa#5)
  | .amofminNr dbl rl a b => fmtR s 0x10#6 0#5 a b (1#2 ++ bit dbl ++ bit rl ++ 0#1 ++ 0xb#5)
  | .amofmaxNr dbl rl a b => fmtR s 0x10#6 0#5 a b (1#2 ++ bit dbl ++ bit rl ++ 0#1 ++ 0xc#5)
  | .amergeAdd dbl k a b => fmtR s 0x10#6 k a b (2#2 ++ bit dbl ++ 0x0#7)
  | .amergeFadd dbl k a b => fmtR s 0x10#6 k a b (2#2 ++ bit dbl ++ 0xa#7)
  | .lda z d a => fmtR s 0x11#6 d a 0#5 (0#7 ++ z.code)
  | .stl z d a => fmtR s 0x11#6 d a 0#5 (0x20#7 ++ 0#1 ++ z.code)
  | .fenceAcq c => fmtR s 0x11#6 0#5 0#5 0#5 (0x42#7 ++ c.code)
  | .fenceRel c => fmtR s 0x11#6 0#5 0#5 0#5 (0x44#7 ++ c.code)
  | .fenceFull c => fmtR s 0x11#6 0#5 0#5 0#5 (0x46#7 ++ c.code)
  | .put a b => fmtR s 0x12#6 0#5 a b 0x0#10
  | .putc d a b => fmtR s 0x12#6 d a b 0x1#10
  | .get d a b => fmtR s 0x12#6 d a b 0x2#10
  | .cinc d a b => fmtR s 0x12#6 d a b 0x3#10
  | .cget d a => fmtR s 0x12#6 d a 0#5 0x4#10
  | .waitc a b => fmtR s 0x12#6 0#5 a b 0x5#10
  | .wtarm d a b => fmtR s 0x12#6 d a b 0x6#10
  | .send d a b => fmtR s 0x12#6 d a b 0x7#10
  | .recv d a b => fmtR s 0x12#6 d a b 0x8#10
  | .fadd dbl rm d a b => fmtR s 0x13#6 d a b (bit dbl ++ rm.code ++ 0#6)
  | .fsub dbl rm d a b => fmtR s 0x13#6 d a b (bit dbl ++ rm.code ++ 1#6)
  | .fmul dbl rm d a b => fmtR s 0x13#6 d a b (bit dbl ++ rm.code ++ 2#6)
  | .fdiv dbl rm d a b => fmtR s 0x13#6 d a b (bit dbl ++ rm.code ++ 3#6)
  | .fsqrt dbl rm d a => fmtR s 0x13#6 d a 0#5 (bit dbl ++ rm.code ++ 4#6)
  | .fmin dbl d a b => fmtR s 0x13#6 d a b (bit dbl ++ 0#3 ++ 5#6)
  | .fmax dbl d a b => fmtR s 0x13#6 d a b (bit dbl ++ 0#3 ++ 6#6)
  | .fsgn dbl d a b => fmtR s 0x13#6 d a b (bit dbl ++ 0#3 ++ 7#6)
  | .fsgnn dbl d a b => fmtR s 0x13#6 d a b (bit dbl ++ 1#3 ++ 7#6)
  | .fsgnx dbl d a b => fmtR s 0x13#6 d a b (bit dbl ++ 2#3 ++ 7#6)
  | .feq dbl d a b => fmtR s 0x13#6 d a b (bit dbl ++ 0#3 ++ 8#6)
  | .flt dbl d a b => fmtR s 0x13#6 d a b (bit dbl ++ 0#3 ++ 9#6)
  | .fle dbl d a b => fmtR s 0x13#6 d a b (bit dbl ++ 0#3 ++ 10#6)
  | .fclass dbl d a => fmtR s 0x13#6 d a 0#5 (bit dbl ++ 0#3 ++ 11#6)
  | .fma dbl rm d a b => fmtR s 0x14#6 d a b (bit dbl ++ rm.code ++ 0#6)
  | .fms dbl rm d a b => fmtR s 0x14#6 d a b (bit dbl ++ rm.code ++ 1#6)
  | .fnma dbl rm d a b => fmtR s 0x14#6 d a b (bit dbl ++ rm.code ++ 2#6)
  | .cvt ovf rm dst src d a => fmtR s 0x15#6 d a (0#1 ++ bit ovf ++ rm.code) (dst.code ++ src.code ++ 0#2)
  | .vld w vd m => fmtV s 0x18#6 vd 0#4 0#4 m w.code 0#6
  | .vst w vd m => fmtV s 0x18#6 vd 0#4 0#4 m w.code 1#6
  | .vlds w vd m => fmtV s 0x18#6 vd 0#4 0#4 m w.code 2#6
  | .vsts w vd m => fmtV s 0x18#6 vd 0#4 0#4 m w.code 3#6
  | .vldx w vd vb m => fmtV s 0x18#6 vd 0#4 vb m w.code 4#6
  | .vstx w vd vb m => fmtV s 0x18#6 vd 0#4 vb m w.code 5#6
  | .vldbc w vd m => fmtV s 0x18#6 vd 0#4 0#4 m w.code 6#6
  | .vstm w vd m => fmtV s 0x18#6 vd 0#4 0#4 m w.code 7#6
  | .vadd w m vd va vb => fmtV s 0x19#6 vd va vb m w.code 0#6
  | .vsub w m vd va vb => fmtV s 0x19#6 vd va vb m w.code 1#6
  | .vmul w m vd va vb => fmtV s 0x19#6 vd va vb m w.code 2#6
  | .vmulh w m vd va vb => fmtV s 0x19#6 vd va vb m w.code 3#6
  | .vmac w m vd va vb => fmtV s 0x19#6 vd va vb m w.code 4#6
  | .vmin w m vd va vb => fmtV s 0x19#6 vd va vb m w.code 5#6
  | .vmax w m vd va vb => fmtV s 0x19#6 vd va vb m w.code 6#6
  | .vminu w m vd va vb => fmtV s 0x19#6 vd va vb m w.code 7#6
  | .vmaxu w m vd va vb => fmtV s 0x19#6 vd va vb m w.code 8#6
  | .vand w m vd va vb => fmtV s 0x19#6 vd va vb m w.code 9#6
  | .vor w m vd va vb => fmtV s 0x19#6 vd va vb m w.code 10#6
  | .vxor w m vd va vb => fmtV s 0x19#6 vd va vb m w.code 11#6
  | .vshl w m vd va vb => fmtV s 0x19#6 vd va vb m w.code 12#6
  | .vshr w m vd va vb => fmtV s 0x19#6 vd va vb m w.code 13#6
  | .vsar w m vd va vb => fmtV s 0x19#6 vd va vb m w.code 14#6
  | .vclmul w m vd va vb => fmtV s 0x19#6 vd va vb m w.code 15#6
  | .vclmulh w m vd va vb => fmtV s 0x19#6 vd va vb m w.code 16#6
  | .vpopc w m vd va => fmtV s 0x19#6 vd va 0#4 m w.code 17#6
  | .vfadd dbl rm m vd va vb => fmtV s 0x1a#6 vd va vb m (1#1 ++ bit dbl) (rm.code ++ 0#3)
  | .vfsub dbl rm m vd va vb => fmtV s 0x1a#6 vd va vb m (1#1 ++ bit dbl) (rm.code ++ 1#3)
  | .vfmul dbl rm m vd va vb => fmtV s 0x1a#6 vd va vb m (1#1 ++ bit dbl) (rm.code ++ 2#3)
  | .vfma dbl rm m vd va vb => fmtV s 0x1a#6 vd va vb m (1#1 ++ bit dbl) (rm.code ++ 3#3)
  | .vfmin dbl m vd va vb => fmtV s 0x1a#6 vd va vb m (1#1 ++ bit dbl) (0#3 ++ 4#3)
  | .vfmax dbl m vd va vb => fmtV s 0x1a#6 vd va vb m (1#1 ++ bit dbl) (0#3 ++ 5#3)
  | .vfdiv dbl rm m vd va vb => fmtV s 0x1a#6 vd va vb m (1#1 ++ bit dbl) (rm.code ++ 6#3)
  | .vfsqrt dbl rm m vd va => fmtV s 0x1a#6 vd va 0#4 m (1#1 ++ bit dbl) (rm.code ++ 7#3)
  | .vcmp c w m k va vb => fmtV s 0x1b#6 k va vb m w.code (0#3 ++ c.code)
  | .vfcmp c dbl m k va vb => fmtV s 0x1b#6 k va vb m (1#1 ++ bit dbl) (1#3 ++ c.code)
  | .vsel w vd va vb m => fmtV s 0x1c#6 vd va vb m w.code 0#6
  | .vbcast w vd m => fmtV s 0x1c#6 vd 0#4 0#4 m w.code 8#6
  | .vext w m va hi lo => fmtV s 0x1c#6 hi va lo m w.code 16#6
  | .vins w vd m hi lo => fmtV s 0x1c#6 vd hi lo m w.code 24#6
  | .vperm w vd va vb => fmtV s 0x1c#6 vd va vb 0#5 w.code 32#6
  | .vslide w vd va m => fmtV s 0x1c#6 vd va 0#4 m w.code 40#6
  | .vred op w vd va => fmtV s 0x1c#6 vd va op.code 0#5 w.code (6#3 ++ op.rmCode)
  | .vcvt ovf m dst src vd va => fmtV s 0x1d#6 vd va dst.code m (0#1 ++ bit ovf) (0#2 ++ src.code)
  | .vmxs f vd va => fmtV s 0x1d#6 vd va 0#4 0#5 2#2 (4#4 ++ f.code)
  | .vmxq f vd va vb => fmtV s 0x1d#6 vd va vb 0#5 2#2 (5#4 ++ f.code)
  | .vmxd f vd va vb => fmtV s 0x1d#6 vd va vb 0#5 2#2 (6#4 ++ f.code)
  | .vdot fp m vd va vb => fmtV s 0x1d#6 vd va vb m (bit fp ++ 0#1) 32#6
  | .rpt count len stride => fmtU s 0x1e#6 0#5 (count ++ len ++ stride ++ 0#4)
  | .mfmt k a => fmtR s 0x20#6 0#5 a 0#5 (0#4 ++ bit k ++ 0#1 ++ 0#4)
  | .mzero k x => fmtR s 0x20#6 0#5 0#5 0#5 (0#4 ++ bit k ++ bit x ++ 1#4)
  | .mma k x a b => fmtR s 0x20#6 0#5 a b (0#4 ++ bit k ++ bit x ++ 2#4)
  | .mmas k x a b => fmtR s 0x20#6 0#5 a b (0#4 ++ bit k ++ bit x ++ 3#4)
  | .mldc k x a b => fmtR s 0x20#6 0#5 a b (0#4 ++ bit k ++ bit x ++ 4#4)
  | .mstc k x a b => fmtR s 0x20#6 0#5 a b (0#4 ++ bit k ++ bit x ++ 5#4)
  | .mprog k f32 a => fmtR s 0x20#6 0#5 a 0#5 (0#4 ++ bit k ++ bit f32 ++ 6#4)
  | .mrec k x a b => fmtR s 0x20#6 0#5 a b (0#4 ++ bit k ++ bit x ++ 7#4)
  | .mtlist k x a => fmtR s 0x20#6 0#5 a 0#5 (0#4 ++ bit k ++ bit x ++ 8#4)
  | .mpop d => fmtR s 0x20#6 d 0#5 0#5 0x009#10
  | .aand d a b => fmtA s 0x24#6 0#4 d a b
  | .aor d a b => fmtA s 0x24#6 1#4 d a b
  | .axor d a b => fmtA s 0x24#6 2#4 d a b
  | .anor d a b => fmtA s 0x24#6 3#4 d a b
  | .anand d a b => fmtA s 0x24#6 4#4 d a b
  | .axnor d a b => fmtA s 0x24#6 5#4 d a b
  | .anot d a => fmtA s 0x24#6 6#4 d a 0#7
  | .acopy d a => fmtA s 0x24#6 7#4 d a 0#7
  | .afadd d a b => fmtA s 0x24#6 8#4 d a b
  | .afsub d a b => fmtA s 0x24#6 9#4 d a b
  | .aldp m a => fmtA s 0x24#6 10#4 0#7 a (0#4 ++ m.code)
  | .aldc m a => fmtA s 0x24#6 11#4 0#7 a (0#4 ++ m.code)
  | .astp d => fmtA s 0x24#6 12#4 d 0#7 0#7
  | .astc d => fmtA s 0x24#6 13#4 d 0#7 0#7
  | .ashl d a => fmtA s 0x24#6 14#4 d a 0#7
  | .ashr d a => fmtA s 0x24#6 15#4 d a 0#7
  | .aadd w d a b => fmtX s 0x25#6 d a b w 0#4
  | .asub w d a b => fmtX s 0x25#6 d a b w 1#4
  | .amul w d a b => fmtX s 0x25#6 d a b w 2#4
  | .amac w d a b => fmtX s 0x25#6 d a b w 3#4
  | .acmplt w d a b => fmtX s 0x25#6 d a b w 4#4
  | .amax w d a b => fmtX s 0x25#6 d a b w 5#4
  | .aneg w d a => fmtX s 0x25#6 d a 0#5 w 6#4
  | .aabs w d a => fmtX s 0x25#6 d a 0#5 w 7#4
  | .aadds w d a b => fmtX s 0x25#6 d a b w 8#4
  | .asubs w d a b => fmtX s 0x25#6 d a b w 9#4
  | .asel a => fmtR s 0x26#6 0#5 a 0#5 0x000#10
  | .asetrb a => fmtR s 0x26#6 0#5 a 0#5 0x001#10
  | .axin a b => fmtR s 0x26#6 0#5 a b 0x002#10
  | .axout a b => fmtR s 0x26#6 0#5 a b 0x003#10
  | .adot => fmtR s 0x26#6 0#5 0#5 0#5 0x004#10
  | .abuf va => fmtR s 0x26#6 0#5 (0#1 ++ va) 0#5 0x005#10
  | .aout vd b => fmtR s 0x26#6 (0#1 ++ vd) 0#5 b 0x006#10
  | .achk a => fmtR s 0x26#6 0#5 a 0#5 0x007#10
  | .await => fmtR s 0x26#6 0#5 0#5 0#5 0x008#10
  | .dreg a => fmtR s 0x27#6 0#5 a 0#5 0x000#10
  | .dunreg f a => fmtR s 0x27#6 0#5 a 0#5 (0#6 ++ bit f ++ 1#3)
  | .dstat d a => fmtR s 0x27#6 d a 0#5 0x002#10
  | .dfresh a b => fmtR s 0x27#6 0#5 a b 0x003#10
  | .tkenq a b => fmtR s 0x28#6 0#5 a b 0x000#10
  | .tkenqn d a b => fmtR s 0x28#6 d a b 0x001#10
  | .tkpop d b => fmtR s 0x28#6 d 0#5 b 0x002#10
  | .tksteal d a b => fmtR s 0x28#6 d a b 0x003#10
  | .tkdone => fmtR s 0x28#6 0#5 0#5 0#5 0x004#10
  | .tkdepth d a => fmtR s 0x28#6 d a 0#5 0x005#10
  | .tkqcfg d a b => fmtR s 0x28#6 d a b 0x006#10
  | .lapv op e a => fmtR s 0x28#6 0#5 a 0#5 (0#2 ++ bit e ++ op.code ++ 7#4)
  | .lapw d => fmtR s 0x28#6 d 0#5 0#5 0x008#10
  | .ecpy n d a b => fmtR s 0x29#6 d a b (0#4 ++ bit n ++ 0#5)
  | .ecpy2 n a b => fmtR s 0x29#6 0#5 a b (0#4 ++ bit n ++ 1#5)
  | .egath n a b => fmtR s 0x29#6 0#5 a b (0#4 ++ bit n ++ 2#5)
  | .escat n a b => fmtR s 0x29#6 0#5 a b (0#4 ++ bit n ++ 3#5)
  | .efill n d a b => fmtR s 0x29#6 d a b (0#4 ++ bit n ++ 4#5)
  | .eovl n a b => fmtR s 0x29#6 0#5 a b (0#4 ++ bit n ++ 5#5)
  | .epin d a => fmtR s 0x29#6 d a 0#5 0x006#10
  | .eunpin a => fmtR s 0x29#6 0#5 a 0#5 0x007#10
  | .ebulk n a b => fmtR s 0x29#6 0#5 a b (0#4 ++ bit n ++ 8#5)
  | .epop d => fmtR s 0x29#6 d 0#5 0#5 0x009#10
  | .estat d => fmtR s 0x29#6 d 0#5 0#5 0x00A#10
  | .nrprog a => fmtR s 0x2a#6 0#5 a 0#5 0x000#10
  | .nrrun a => fmtR s 0x2a#6 0#5 a 0#5 0x001#10
  | .nrstat d => fmtR s 0x2a#6 d 0#5 0#5 0x002#10
  | .nrwait d => fmtR s 0x2a#6 d 0#5 0#5 0x003#10
  | .trap a => fmtR s 0x3e#6 0#5 a 0#5 0x000#10
  | .eret => fmtR s 0x3e#6 0#5 0#5 0#5 0x001#10
  | .tlbinv a b => fmtR s 0x3e#6 0#5 a b 0x002#10
  | .genadv d a => fmtR s 0x3e#6 d a 0#5 0x003#10
  | .genadvFloor a b => fmtR s 0x3e#6 0#5 a b 0x103#10
  | .cbswap n a => fmtR s 0x3e#6 0#5 a (0#1 ++ n) 0x004#10
  | .cbswapSeal n => fmtR s 0x3e#6 0#5 0#5 (0#1 ++ n) 0x104#10
  | .cbswapUnit a => fmtR s 0x3e#6 0#5 a 0#5 0x204#10
  | .stopc a => fmtR s 0x3e#6 0#5 a 0#5 0x005#10
  | .bkpt => fmtR s 0x3e#6 0#5 0#5 0#5 0x006#10
  | .haltc => fmtR s 0x3e#6 0#5 0#5 0#5 0x007#10
  | .frsWrite _ => 0#32
  | .frbWrite _ => 0#32
  | .srseedWrite _ => 0#32
  | .msgctlCclr => 0#32
  | .plcfgWrite _ => 0#32
  | .nmctlArm => 0#32
  | .nmctlKey _ => 0#32
  | .nmctlCommit => 0#32
  | .nmctlExit => 0#32
  | .nmctlCancel => 0#32
  | .enterNear _ => 0#32
  | .trctlWrite _ => 0#32
  | .hendRead _ => 0#32
  | .hdeadRead _ => 0#32
  | .errlogRead _ => 0#32
  | .park _ _ => 0#32
  | .implicitPark _ _ => 0#32
  | .helperCodeAbsent _ _ => 0#32
  | .redispatch _ _ => 0#32
  | .replayPass _ => 0#32
  | .replayResume _ _ => 0#32
  | .vectorExecute _ => 0#32
  | .matrixGrant _ => 0#32
  | .matrixStopBoundary _ _ => 0#32
  | .arrayExecute _ => 0#32
  | .arrayHeldAccess _ => 0#32
  | .arrayHalt _ _ => 0#32
  | .homeLoad _ => 0#32
  | .homeStore _ => 0#32
  | .homeAtomic _ => 0#32
  | .readCacheFill _ _ _ _ => 0#32
  | .pageWalk _ _ _ _ => 0#32
  | .tlbInvalidateRequest _ _ _ => 0#32
  | .genAdvanceRequest _ _ _ => 0#32
  | .mergeContribution _ => 0#32
  | .mergeRetry _ => 0#32
  | .putDeliver _ => 0#32
  | .getServe _ => 0#32
  | .counterIncrement _ _ _ => 0#32
  | .handOffRetry _ => 0#32
  | .messageDeposit _ => 0#32
  | .messageRetry _ => 0#32
  | .quiescenceDetect _ => 0#32
  | .taskAccept _ => 0#32
  | .beaconResend _ => 0#32
  | .enqueueRetry _ _ => 0#32
  | .spillRefill _ _ => 0#32
  | .popDecide _ _ _ _ => 0#32
  | .stealDecide _ _ _ _ _ => 0#32
  | .taskComplete _ _ _ => 0#32
  | .priorityAging _ _ _ => 0#32
  | .lapVoteArrive _ _ _ _ _ => 0#32
  | .lapClose _ => 0#32
  | .engineCommandBegin _ => 0#32
  | .engineCommandComplete _ => 0#32
  | .bulkCommand _ => 0#32
  | .engineSuspend _ => 0#32
  | .staleMark _ => 0#32
  | .baseWriteRelease _ => 0#32
  | .recompute _ => 0#32
  | .dfreshRequest _ _ _ => 0#32
  | .rowSlot _ => 0#32
  | .arbitrationWindow _ => 0#32
  | .streamSuspend _ => 0#32
  | .stopArrival _ _ => 0#32
  | .unitWatchdog _ _ => 0#32
  | .launchResume _ => 0#32
  | .handOffTaskStart _ => 0#32
  | .nearModeTaskGrant _ _ => 0#32
  | .launchRecordPost _ _ _ => 0#32
  | .launchStart => 0#32
  | .launchRecordAging _ _ => 0#32
  | .completionWrite _ => 0#32
  | .crheadWrite _ _ => 0#32
  | .lqcfgWrite _ _ _ => 0#32
  | .lstopWrite _ => 0#32
  | .pwrlimWrite _ => 0#32
  | .herrClear _ => 0#32
  | .dropcntWrite _ => 0#32
  | .hostAccess _ _ _ _ => 0#32
  | .hostReadTimeout _ => 0#32
  | .attestationRequest _ => 0#32
  | .quoteComplete _ => 0#32
  | .flitReceive _ _ _ => 0#32
  | .linkRetrain _ => 0#32
  | .mirrorRecord _ _ => 0#32
  | .deviceReset => 0#32
  | .bootStageAdvance _ => 0#32
  | .fullServiceTransition => 0#32
  | .powerControl _ => 0#32
  | .scrub _ _ _ _ => 0#32
  | .unitDisable _ => 0#32
  | .beaconArrival _ _ _ => 0#32
  | .generationFloorRequest _ _ _ => 0#32
  | .linkRetrainingEnd _ _ => 0#32

/-! ### The decoder -/

/-- `i`, where the reserved field `x` is zero (R54). -/
def whenZero {n : Nat} (x : BitVec n) (i : Option Instr) : Option Instr :=
  if x = 0 then i else none

/-- `i`, where `p` holds. -/
def whenTrue (p : Bool) (i : Option Instr) : Option Instr :=
  if p then i else none

/-- INT, major 0x01 (R95, R96). -/
def decInt (w : Word32) : Option Instr :=
  match (fldFn w).toNat with
  | 0x0 => some (.add (fldD w) (fldA w) (fldB w))
  | 0x200 => some (.addw (fldD w) (fldA w) (fldB w))
  | 0x1 => some (.sub (fldD w) (fldA w) (fldB w))
  | 0x201 => some (.subw (fldD w) (fldA w) (fldB w))
  | 0x2 => some (.mul (fldD w) (fldA w) (fldB w))
  | 0x202 => some (.mulw (fldD w) (fldA w) (fldB w))
  | 0x3 => some (.mulh (fldD w) (fldA w) (fldB w))
  | 0x4 => some (.mulhu (fldD w) (fldA w) (fldB w))
  | 0x5 => some (.div (fldD w) (fldA w) (fldB w))
  | 0x205 => some (.divw (fldD w) (fldA w) (fldB w))
  | 0x6 => some (.divu (fldD w) (fldA w) (fldB w))
  | 0x206 => some (.divuw (fldD w) (fldA w) (fldB w))
  | 0x7 => some (.rem (fldD w) (fldA w) (fldB w))
  | 0x207 => some (.remw (fldD w) (fldA w) (fldB w))
  | 0x8 => some (.remu (fldD w) (fldA w) (fldB w))
  | 0x208 => some (.remuw (fldD w) (fldA w) (fldB w))
  | 0x9 => some (.and (fldD w) (fldA w) (fldB w))
  | 0xa => some (.or (fldD w) (fldA w) (fldB w))
  | 0xb => some (.xor (fldD w) (fldA w) (fldB w))
  | 0xc => some (.andn (fldD w) (fldA w) (fldB w))
  | 0xd => some (.shl (fldD w) (fldA w) (fldB w))
  | 0x20d => some (.shlw (fldD w) (fldA w) (fldB w))
  | 0xe => some (.shr (fldD w) (fldA w) (fldB w))
  | 0x20e => some (.shrw (fldD w) (fldA w) (fldB w))
  | 0xf => some (.sar (fldD w) (fldA w) (fldB w))
  | 0x20f => some (.sarw (fldD w) (fldA w) (fldB w))
  | 0x10 => some (.rotl (fldD w) (fldA w) (fldB w))
  | 0x210 => some (.rotlw (fldD w) (fldA w) (fldB w))
  | 0x11 => some (.min (fldD w) (fldA w) (fldB w))
  | 0x12 => some (.max (fldD w) (fldA w) (fldB w))
  | 0x13 => some (.minu (fldD w) (fldA w) (fldB w))
  | 0x14 => some (.maxu (fldD w) (fldA w) (fldB w))
  | 0x15 => some (.seq (fldD w) (fldA w) (fldB w))
  | 0x16 => some (.slt (fldD w) (fldA w) (fldB w))
  | 0x17 => some (.sltu (fldD w) (fldA w) (fldB w))
  | 0x18 => whenZero (fldB w) (some (.clz (fldD w) (fldA w)))
  | 0x218 => whenZero (fldB w) (some (.clzw (fldD w) (fldA w)))
  | 0x19 => whenZero (fldB w) (some (.ctz (fldD w) (fldA w)))
  | 0x219 => whenZero (fldB w) (some (.ctzw (fldD w) (fldA w)))
  | 0x1a => whenZero (fldB w) (some (.popc (fldD w) (fldA w)))
  | 0x21a => whenZero (fldB w) (some (.popcw (fldD w) (fldA w)))
  | 0x1b => whenZero (fldB w) (some (.brev (fldD w) (fldA w)))
  | 0x21b => whenZero (fldB w) (some (.brevw (fldD w) (fldA w)))
  | 0x1c => whenZero (fldB w) (some (.bswap (fldD w) (fldA w)))
  | 0x21c => whenZero (fldB w) (some (.bswapw (fldD w) (fldA w)))
  | 0x1d => whenZero (fldB w) (some (.sextb (fldD w) (fldA w)))
  | 0x1e => whenZero (fldB w) (some (.sexth (fldD w) (fldA w)))
  | 0x1f => some (.clmul (fldD w) (fldA w) (fldB w))
  | 0x20 => some (.clmulh (fldD w) (fldA w) (fldB w))
  | 0x21 => some (.clmulr (fldD w) (fldA w) (fldB w))
  | _ => none

/-- INTI, major 0x02 (R97). -/
def decInti (w : Word32) : Option Instr :=
  match (fldFn3 w).toNat with
  | 0 => some (.addi (fldD w) (fldA w) (fldImm12 w))
  | 1 => some (.slti (fldD w) (fldA w) (fldImm12 w))
  | 2 => some (.sltiu (fldD w) (fldA w) (fldImm12 w))
  | 3 => some (.andi (fldD w) (fldA w) (fldImm12 w))
  | 4 => some (.ori (fldD w) (fldA w) (fldImm12 w))
  | 5 => some (.xori (fldD w) (fldA w) (fldImm12 w))
  | 6 => some (.addiw (fldD w) (fldA w) (fldImm12 w))
  | _ => none

/-- SHI, major 0x03 (R98): the count is 0 to 63, or 0 to 31 in the W forms. -/
def decShi (w : Word32) : Option Instr :=
  match (fldFn3 w).toNat with
  | 0 => whenZero ((fldImm12 w).extractLsb' 6 6) (some (.shli (fldD w) (fldA w) ((fldImm12 w).extractLsb' 0 6)))
  | 1 => whenZero ((fldImm12 w).extractLsb' 6 6) (some (.shri (fldD w) (fldA w) ((fldImm12 w).extractLsb' 0 6)))
  | 2 => whenZero ((fldImm12 w).extractLsb' 6 6) (some (.sari (fldD w) (fldA w) ((fldImm12 w).extractLsb' 0 6)))
  | 3 => whenZero ((fldImm12 w).extractLsb' 6 6) (some (.rotli (fldD w) (fldA w) ((fldImm12 w).extractLsb' 0 6)))
  | 4 => whenZero ((fldImm12 w).extractLsb' 5 7) (some (.shliw (fldD w) (fldA w) ((fldImm12 w).extractLsb' 0 5)))
  | 5 => whenZero ((fldImm12 w).extractLsb' 5 7) (some (.shriw (fldD w) (fldA w) ((fldImm12 w).extractLsb' 0 5)))
  | 6 => whenZero ((fldImm12 w).extractLsb' 5 7) (some (.sariw (fldD w) (fldA w) ((fldImm12 w).extractLsb' 0 5)))
  | _ => none

/-- SEL, major 0x06 (R100). -/
def decSel (w : Word32) : Option Instr :=
  whenZero ((fldFn w).extractLsb' 2 8)
    ((SelCond.ofCode ((fldFn w).extractLsb' 0 2)).map fun c => .sel c (fldD w) (fldA w) (fldB w))

/-- SKIP, major 0x07 (R102). -/
def decSkip (w : Word32) : Option Instr :=
  whenZero ((fldFn w).extractLsb' 3 7)
    ((Hint.ofCode (fldHint w)).bind fun h => (SkipCond.ofCode (fldCond w)).map fun c =>
      .skip h c (fldA w) (fldB w) ((fldFn w).extractLsb' 0 3))

/-- B, major 0x08 (R103). -/
def decBranch (w : Word32) : Option Instr :=
  (Hint.ofCode (fldHint w)).bind fun h =>
    match (fldCond w).toNat with
    | 0 => some (.beq h (fldA w) (fldB w) (fldFn w))
    | 1 => some (.bne h (fldA w) (fldB w) (fldFn w))
    | 2 => some (.blt h (fldA w) (fldB w) (fldFn w))
    | 3 => some (.bge h (fldA w) (fldB w) (fldFn w))
    | 4 => some (.bltu h (fldA w) (fldB w) (fldFn w))
    | 5 => some (.bgeu h (fldA w) (fldB w) (fldFn w))
    | 6 => some (.bbs h (fldA w) (fldB w) (fldFn w))
    | 7 => some (.bbc h (fldA w) (fldB w) (fldFn w))
    | _ => none

/-- BZ, major 0x09 (R104). -/
def decBranchZ (w : Word32) : Option Instr :=
  (Hint.ofCode (fldHint w)).bind fun h =>
    match (fldCond w).toNat with
    | 0 => some (.beqz h (fldA w) (fldOff15 w))
    | 1 => some (.bnez h (fldA w) (fldOff15 w))
    | 2 => some (.bltz h (fldA w) (fldOff15 w))
    | 3 => some (.bgez h (fldA w) (fldOff15 w))
    | 4 => some (.bgtz h (fldA w) (fldOff15 w))
    | 5 => some (.blez h (fldA w) (fldOff15 w))
    | _ => none

/-- CTX, major 0x0C (R79): START and its kin name a helper from 1 to 10; RDSR and WRSR a defined register number. -/
def decCtx (w : Word32) : Option Instr :=
  let imm := fldImm12 w
  let n : BitVec 4 := imm.extractLsb' 0 4
  match (fldFn3 w).toNat with
  | 0 => whenZero (fldD w) (some (.callr (fldA w) imm))
  | 1 => whenZero (fldD w) (some (.jr (fldA w) imm))
  | 2 => whenZero (fldD w) (whenZero (fldA w) (whenZero imm (some .ret)))
  | 3 =>
    if imm.extractLsb' 4 8 = 0#8 then whenTrue (helperOk n) (some (.start n (fldD w) (fldA w)))
    else if imm.extractLsb' 4 8 = 1#8 then
      whenZero (fldD w) (whenZero (fldA w) (whenTrue (helperOk n) (some (.startRes n))))
    else none
  | 4 => whenZero (fldD w) (whenZero (fldA w) (whenZero (imm.extractLsb' 4 8 : BitVec 8) (whenTrue (helperOk n) (some (.stoph n)))))
  | 5 =>
    match imm.toNat with
    | 0 => whenZero (fldD w) (whenZero (fldA w) (some .yield))
    | 1 => whenZero (fldD w) (whenZero (fldA w) (some .nret))
    | 2 => some (.setnh (fldD w) (fldA w))
    | _ => none
  | 6 => whenZero (fldA w) (whenTrue (sysRegOk imm) (some (.rdsr (fldD w) imm)))
  | _ => whenZero (fldD w) (whenTrue (sysRegOk imm) (some (.wrsr (fldA w) imm)))

/-- LD, major 0x0D (R121, R126). -/
def decLd (w : Word32) : Option Instr :=
  match (fldFn3 w).toNat with
  | 0 => some (.ldb (fldD w) (fldA w) (fldImm12 w))
  | 1 => some (.ldh (fldD w) (fldA w) (fldImm12 w))
  | 2 => some (.ldw (fldD w) (fldA w) (fldImm12 w))
  | 3 => some (.ldd (fldD w) (fldA w) (fldImm12 w))
  | 4 => some (.ldbu (fldD w) (fldA w) (fldImm12 w))
  | 5 => some (.ldhu (fldD w) (fldA w) (fldImm12 w))
  | 6 => some (.ldwu (fldD w) (fldA w) (fldImm12 w))
  | _ => whenZero (fldD w) (some (.pref (fldA w) (fldImm12 w)))

/-- ST, major 0x0E (R121). -/
def decSt (w : Word32) : Option Instr :=
  match (fldFn3 w).toNat with
  | 0 => some (.stb (fldD w) (fldA w) (fldImm12 w))
  | 1 => some (.sth (fldD w) (fldA w) (fldImm12 w))
  | 2 => some (.stw (fldD w) (fldA w) (fldImm12 w))
  | 3 => some (.std (fldD w) (fldA w) (fldImm12 w))
  | _ => none

/-- MEMX, major 0x0F (R122). -/
def decMemx (w : Word32) : Option Instr :=
  match (fldFn w).toNat with
  | 0x0 => some (.ldxB (fldD w) (fldA w) (fldB w))
  | 0x1 => some (.ldxH (fldD w) (fldA w) (fldB w))
  | 0x2 => some (.ldxW (fldD w) (fldA w) (fldB w))
  | 0x3 => some (.ldxD (fldD w) (fldA w) (fldB w))
  | 0x4 => some (.ldxBu (fldD w) (fldA w) (fldB w))
  | 0x5 => some (.ldxHu (fldD w) (fldA w) (fldB w))
  | 0x6 => some (.ldxWu (fldD w) (fldA w) (fldB w))
  | 0x100 => some (.stxB (fldD w) (fldA w) (fldB w))
  | 0x101 => some (.stxH (fldD w) (fldA w) (fldB w))
  | 0x102 => some (.stxW (fldD w) (fldA w) (fldB w))
  | 0x103 => some (.stxD (fldD w) (fldA w) (fldB w))
  | 0x200 => whenZero (fldD w) (whenZero (fldA w) (whenZero (fldB w) (some .rcinv)))
  | 0x201 => whenZero (fldD w) (some (.rcinvRange (fldA w) (fldB w)))
  | _ => none

/-- AMO, major 0x10 (R131): kind, D, ord and op are subfields of fn. -/
noncomputable def decAmo (w : Word32) : Option Instr :=
  let fn := fldFn w
  let d := fldD w
  let a := fldA w
  let b := fldB w
  let dbl := fn.getLsbD 7
  if fn.getLsbD 4 then none
  else
    match (fn.extractLsb' 8 2).toNat with
    | 0 => (Ord4.ofCode (fn.extractLsb' 5 2)).bind fun o =>
      match (fn.extractLsb' 0 4).toNat with
      | 0 => some (.amoadd dbl o d a b)
      | 1 => some (.amoand dbl o d a b)
      | 2 => some (.amoor dbl o d a b)
      | 3 => some (.amoxor dbl o d a b)
      | 4 => some (.amomin dbl o d a b)
      | 5 => some (.amomax dbl o d a b)
      | 6 => some (.amominu dbl o d a b)
      | 7 => some (.amomaxu dbl o d a b)
      | 8 => some (.amoswap dbl o d a b)
      | 9 => some (.amocas dbl o d a b)
      | 10 => some (.amofadd dbl o d a b)
      | 11 => some (.amofmin dbl o d a b)
      | 12 => some (.amofmax dbl o d a b)
      | _ => none
    | 1 => whenZero d (whenTrue (! fn.getLsbD 5)
      (let rl := fn.getLsbD 6
       match (fn.extractLsb' 0 4).toNat with
       | 0 => some (.amoaddNr dbl rl a b)
       | 1 => some (.amoandNr dbl rl a b)
       | 2 => some (.amoorNr dbl rl a b)
       | 3 => some (.amoxorNr dbl rl a b)
       | 4 => some (.amominNr dbl rl a b)
       | 5 => some (.amomaxNr dbl rl a b)
       | 6 => some (.amominuNr dbl rl a b)
       | 7 => some (.amomaxuNr dbl rl a b)
       | 10 => some (.amofaddNr dbl rl a b)
       | 11 => some (.amofminNr dbl rl a b)
       | 12 => some (.amofmaxNr dbl rl a b)
       | _ => none))
    | 2 => whenZero (fn.extractLsb' 5 2)
      (match (fn.extractLsb' 0 4).toNat with
       | 0 => some (.amergeAdd dbl d a b)
       | 10 => some (.amergeFadd dbl d a b)
       | _ => none)
    | _ => none

/-- ORD, major 0x11 (R141). -/
noncomputable def decOrd (w : Word32) : Option Instr :=
  let fn := fldFn w
  let lo : BitVec 3 := fn.extractLsb' 0 3
  match (fn.extractLsb' 3 7).toNat with
  | 0x00 => whenZero (fldB w) ((LWidth.ofCode lo).map fun z => .lda z (fldD w) (fldA w))
  | 0x20 => whenZero (fldB w) (whenTrue (! fn.getLsbD 2)
      ((SWidth.ofCode (fn.extractLsb' 0 2)).map fun z => .stl z (fldD w) (fldA w)))
  | 0x42 => whenZero (fldD w) (whenZero (fldA w) (whenZero (fldB w) ((Scope.ofCode lo).map .fenceAcq)))
  | 0x44 => whenZero (fldD w) (whenZero (fldA w) (whenZero (fldB w) ((Scope.ofCode lo).map .fenceRel)))
  | 0x46 => whenZero (fldD w) (whenZero (fldA w) (whenZero (fldB w) ((Scope.ofCode lo).map .fenceFull)))
  | _ => none

/-- MSG, major 0x12 (R165). -/
noncomputable def decMsg (w : Word32) : Option Instr :=
  match (fldFn w).toNat with
  | 0x0 => whenZero (fldD w) (some (.put (fldA w) (fldB w)))
  | 0x1 => some (.putc (fldD w) (fldA w) (fldB w))
  | 0x2 => some (.get (fldD w) (fldA w) (fldB w))
  | 0x3 => some (.cinc (fldD w) (fldA w) (fldB w))
  | 0x4 => whenZero (fldB w) (some (.cget (fldD w) (fldA w)))
  | 0x5 => whenZero (fldD w) (some (.waitc (fldA w) (fldB w)))
  | 0x6 => some (.wtarm (fldD w) (fldA w) (fldB w))
  | 0x7 => some (.send (fldD w) (fldA w) (fldB w))
  | 0x8 => some (.recv (fldD w) (fldA w) (fldB w))
  | _ => none

/-- FP, major 0x13 (R202). -/
def decFp (w : Word32) : Option Instr :=
  let fn := fldFn w
  let p := fn.getLsbD 9
  let r : BitVec 3 := fn.extractLsb' 6 3
  let d := fldD w
  let a := fldA w
  let b := fldB w
  match (fn.extractLsb' 0 6).toNat with
  | 0 => (RM.ofCode r).map fun rm => .fadd p rm d a b
  | 1 => (RM.ofCode r).map fun rm => .fsub p rm d a b
  | 2 => (RM.ofCode r).map fun rm => .fmul p rm d a b
  | 3 => (RM.ofCode r).map fun rm => .fdiv p rm d a b
  | 4 => whenZero b ((RM.ofCode r).map fun rm => .fsqrt p rm d a)
  | 5 => whenZero r (some (.fmin p d a b))
  | 6 => whenZero r (some (.fmax p d a b))
  | 7 =>
    match r.toNat with
    | 0 => some (.fsgn p d a b)
    | 1 => some (.fsgnn p d a b)
    | 2 => some (.fsgnx p d a b)
    | _ => none
  | 8 => whenZero r (some (.feq p d a b))
  | 9 => whenZero r (some (.flt p d a b))
  | 10 => whenZero r (some (.fle p d a b))
  | 11 => whenZero r (whenZero b (some (.fclass p d a)))
  | _ => none

/-- FMA, major 0x14 (R208). -/
def decFma (w : Word32) : Option Instr :=
  let fn := fldFn w
  let p := fn.getLsbD 9
  (RM.ofCode (fn.extractLsb' 6 3)).bind fun rm =>
    match (fn.extractLsb' 0 6).toNat with
    | 0 => some (.fma p rm (fldD w) (fldA w) (fldB w))
    | 1 => some (.fms p rm (fldD w) (fldA w) (fldB w))
    | 2 => some (.fnma p rm (fldD w) (fldA w) (fldB w))
    | _ => none

/-- CVT, major 0x15 (R209). -/
def decCvt (w : Word32) : Option Instr :=
  let fn := fldFn w
  let b := fldB w
  whenZero (fn.extractLsb' 0 2) (whenTrue (! b.getLsbD 4)
    ((RM.ofCode (b.extractLsb' 0 3)).bind fun rm =>
      (Fmt.ofCode (fn.extractLsb' 6 4)).bind fun dst =>
        (Fmt.ofCode (fn.extractLsb' 2 4)).bind fun src =>
          whenTrue (cvtOk (b.getLsbD 3) dst src) (some (.cvt (b.getLsbD 3) rm dst src (fldD w) (fldA w)))))

/-- VLS, major 0x18 (R230): m = 31 is not an instruction in VLDS, VSTS and VSTM. -/
def decVls (w : Word32) : Option Instr :=
  let vd := fldVd w
  let vb := fldVb w
  let m := fldM w
  whenZero (fldVa w) ((VWidth.ofCode (fldW w)).bind fun z =>
    match (fldFn6 w).toNat with
    | 0 => whenZero vb (some (.vld z vd m))
    | 1 => whenZero vb (some (.vst z vd m))
    | 2 => whenZero vb (whenTrue (m != 31#5) (some (.vlds z vd m)))
    | 3 => whenZero vb (whenTrue (m != 31#5) (some (.vsts z vd m)))
    | 4 => some (.vldx z vd vb m)
    | 5 => some (.vstx z vd vb m)
    | 6 => whenZero vb (some (.vldbc z vd m))
    | 7 => whenZero vb (whenTrue (m != 31#5) (some (.vstm z vd m)))
    | _ => none)

/-- VINT, major 0x19 (R232). -/
def decVint (w : Word32) : Option Instr :=
  (VWidth.ofCode (fldW w)).bind fun z =>
    match (fldFn6 w).toNat with
    | 0 => some (.vadd z (fldM w) (fldVd w) (fldVa w) (fldVb w))
    | 1 => some (.vsub z (fldM w) (fldVd w) (fldVa w) (fldVb w))
    | 2 => some (.vmul z (fldM w) (fldVd w) (fldVa w) (fldVb w))
    | 3 => some (.vmulh z (fldM w) (fldVd w) (fldVa w) (fldVb w))
    | 4 => some (.vmac z (fldM w) (fldVd w) (fldVa w) (fldVb w))
    | 5 => some (.vmin z (fldM w) (fldVd w) (fldVa w) (fldVb w))
    | 6 => some (.vmax z (fldM w) (fldVd w) (fldVa w) (fldVb w))
    | 7 => some (.vminu z (fldM w) (fldVd w) (fldVa w) (fldVb w))
    | 8 => some (.vmaxu z (fldM w) (fldVd w) (fldVa w) (fldVb w))
    | 9 => some (.vand z (fldM w) (fldVd w) (fldVa w) (fldVb w))
    | 10 => some (.vor z (fldM w) (fldVd w) (fldVa w) (fldVb w))
    | 11 => some (.vxor z (fldM w) (fldVd w) (fldVa w) (fldVb w))
    | 12 => some (.vshl z (fldM w) (fldVd w) (fldVa w) (fldVb w))
    | 13 => some (.vshr z (fldM w) (fldVd w) (fldVa w) (fldVb w))
    | 14 => some (.vsar z (fldM w) (fldVd w) (fldVa w) (fldVb w))
    | 15 => some (.vclmul z (fldM w) (fldVd w) (fldVa w) (fldVb w))
    | 16 => some (.vclmulh z (fldM w) (fldVd w) (fldVa w) (fldVb w))
    | 17 => whenZero (fldVb w) (some (.vpopc z (fldM w) (fldVd w) (fldVa w)))
    | _ => none

/-- VFP, major 0x1A (R233): only FP32 and FP64 widths. -/
def decVfp (w : Word32) : Option Instr :=
  let fn := fldFn6 w
  let r : BitVec 3 := fn.extractLsb' 3 3
  let p := w.getLsbD 6
  let m := fldM w
  let vd := fldVd w
  let va := fldVa w
  let vb := fldVb w
  whenTrue (w.getLsbD 7)
    (match (fn.extractLsb' 0 3).toNat with
     | 0 => (RM.ofCode r).map fun rm => .vfadd p rm m vd va vb
     | 1 => (RM.ofCode r).map fun rm => .vfsub p rm m vd va vb
     | 2 => (RM.ofCode r).map fun rm => .vfmul p rm m vd va vb
     | 3 => (RM.ofCode r).map fun rm => .vfma p rm m vd va vb
     | 4 => whenZero r (some (.vfmin p m vd va vb))
     | 5 => whenZero r (some (.vfmax p m vd va vb))
     | 6 => (RM.ofCode r).map fun rm => .vfdiv p rm m vd va vb
     | _ => whenZero vb ((RM.ofCode r).map fun rm => .vfsqrt p rm m vd va))

/-- VCMP, major 0x1B (R235). -/
def decVcmp (w : Word32) : Option Instr :=
  let fn := fldFn6 w
  let c : BitVec 3 := fn.extractLsb' 0 3
  match (fn.extractLsb' 3 3).toNat with
  | 0 => (VCond.ofCode c).bind fun cc => (VWidth.ofCode (fldW w)).map fun z =>
      .vcmp cc z (fldM w) (fldVd w) (fldVa w) (fldVb w)
  | 1 => whenTrue (w.getLsbD 7) ((FCond.ofCode c).map fun cc =>
      .vfcmp cc (w.getLsbD 6) (fldM w) (fldVd w) (fldVa w) (fldVb w))
  | _ => none

/-- VMOV, major 0x1C (R236, R237). -/
def decVmov (w : Word32) : Option Instr :=
  let fn := fldFn6 w
  let m := fldM w
  let vd := fldVd w
  let va := fldVa w
  let vb := fldVb w
  let lo : BitVec 3 := fn.extractLsb' 0 3
  (VWidth.ofCode (fldW w)).bind fun z =>
    match (fn.extractLsb' 3 3).toNat with
    | 0 => whenZero lo (some (.vsel z vd va vb m))
    | 1 => whenZero lo (whenZero va (whenZero vb (some (.vbcast z vd m))))
    | 2 => whenZero lo (whenTrue (idxOk z vd vb) (some (.vext z m va vd vb)))
    | 3 => whenZero lo (whenTrue (idxOk z va vb) (some (.vins z vd m va vb)))
    | 4 => whenZero lo (whenZero m (some (.vperm z vd va vb)))
    | 5 => whenZero lo (whenZero vb (some (.vslide z vd va m)))
    | 6 => whenZero m ((RedOp.ofCode vb lo).bind fun op => whenTrue (redOk op z) (some (.vred op z vd va)))
    | _ => none

/-- VCVT, major 0x1D (R238 to R241). -/
def decVcvt (w : Word32) : Option Instr :=
  let fn := fldFn6 w
  let m := fldM w
  let vd := fldVd w
  let va := fldVa w
  let vb := fldVb w
  match (fn.extractLsb' 4 2).toNat with
  | 0 => whenTrue (! w.getLsbD 7) ((Fmt.ofCode vb).bind fun dst => (Fmt.ofCode (fn.extractLsb' 0 4)).bind fun src =>
      whenTrue (vcvtOk (w.getLsbD 6) dst src) (some (.vcvt (w.getLsbD 6) m dst src vd va)))
  | 1 => whenZero m (whenTrue (fldW w == 2#2) ((MxFmt.ofCode (fn.extractLsb' 0 2)).bind fun f =>
      match (fn.extractLsb' 2 2).toNat with
      | 0 => whenZero vb (some (.vmxs f vd va))
      | 1 => some (.vmxq f vd va vb)
      | 2 => some (.vmxd f vd va vb)
      | _ => none))
  | 2 => whenZero (fn.extractLsb' 0 4) (whenTrue (! w.getLsbD 6) (some (.vdot (w.getLsbD 7) m vd va vb)))
  | _ => none

/-- RPT, major 0x1E (R224). -/
def decRpt (w : Word32) : Option Instr :=
  let i := fldImm20 w
  whenZero (fldD w) (whenZero (i.extractLsb' 0 4)
    (some (.rpt (i.extractLsb' 12 8) (i.extractLsb' 8 4) (i.extractLsb' 4 4))))

/-- MAT, major 0x20 (R248). -/
def decMat (w : Word32) : Option Instr :=
  let fn := fldFn w
  let k := fn.getLsbD 5
  let x := fn.getLsbD 4
  let d := fldD w
  let a := fldA w
  let b := fldB w
  whenZero (fn.extractLsb' 6 4)
    (match (fn.extractLsb' 0 4).toNat with
     | 0 => whenZero d (whenZero b (whenTrue (! x) (some (.mfmt k a))))
     | 1 => whenZero d (whenZero a (whenZero b (some (.mzero k x))))
     | 2 => whenZero d (some (.mma k x a b))
     | 3 => whenZero d (some (.mmas k x a b))
     | 4 => whenZero d (some (.mldc k x a b))
     | 5 => whenZero d (some (.mstc k x a b))
     | 6 => whenZero d (whenZero b (some (.mprog k x a)))
     | 7 => whenZero d (some (.mrec k x a b))
     | 8 => whenZero d (whenZero b (some (.mtlist k x a)))
     | 9 => whenZero a (whenZero b (whenTrue (! k && ! x) (some (.mpop d))))
     | _ => none)

/-- AROW, major 0x24 (R278, R280). -/
def decArow (w : Word32) : Option Instr :=
  let d := fldAd w
  let a := fldAa w
  let b := fldAb w
  match (fldVd w).toNat with
  | 0 => some (.aand d a b)
  | 1 => some (.aor d a b)
  | 2 => some (.axor d a b)
  | 3 => some (.anor d a b)
  | 4 => some (.anand d a b)
  | 5 => some (.axnor d a b)
  | 6 => whenZero b (some (.anot d a))
  | 7 => whenZero b (some (.acopy d a))
  | 8 => some (.afadd d a b)
  | 9 => some (.afsub d a b)
  | 10 => whenZero d (whenZero (b.extractLsb' 3 4) ((LatchSrc.ofCode (b.extractLsb' 0 3)).bind fun m => whenTrue (latchOk true m a) (some (.aldp m a))))
  | 11 => whenZero d (whenZero (b.extractLsb' 3 4) ((LatchSrc.ofCode (b.extractLsb' 0 3)).bind fun m => whenTrue (latchOk false m a) (some (.aldc m a))))
  | 12 => whenZero a (whenZero b (some (.astp d)))
  | 13 => whenZero a (whenZero b (some (.astc d)))
  | 14 => whenZero b (some (.ashl d a))
  | _ => whenZero b (some (.ashr d a))

/-- AMACRO, major 0x25 (R281): widths 1 to 32. -/
def decAmacro (w : Word32) : Option Instr :=
  let z := fldW6 w
  let d := fldD w
  let a := fldA w
  let b := fldB w
  whenTrue (w6Ok z)
    (match (fldFn4 w).toNat with
     | 0 => some (.aadd z d a b)
     | 1 => some (.asub z d a b)
     | 2 => some (.amul z d a b)
     | 3 => some (.amac z d a b)
     | 4 => some (.acmplt z d a b)
     | 5 => some (.amax z d a b)
     | 6 => whenZero b (some (.aneg z d a))
     | 7 => whenZero b (some (.aabs z d a))
     | 8 => some (.aadds z d a b)
     | 9 => some (.asubs z d a b)
     | _ => none)

/-- ACTL, major 0x26 (R284): a vector register number above 15 is not an instruction. -/
def decActl (w : Word32) : Option Instr :=
  let d := fldD w
  let a := fldA w
  let b := fldB w
  match (fldFn w).toNat with
  | 0x000 => whenZero d (whenZero b (some (.asel a)))
  | 0x001 => whenZero d (whenZero b (some (.asetrb a)))
  | 0x002 => whenZero d (some (.axin a b))
  | 0x003 => whenZero d (some (.axout a b))
  | 0x004 => whenZero d (whenZero a (whenZero b (some .adot)))
  | 0x005 => whenZero d (whenZero b (whenTrue (! a.getLsbD 4) (some (.abuf (a.extractLsb' 0 4)))))
  | 0x006 => whenZero a (whenTrue (! d.getLsbD 4) (some (.aout (d.extractLsb' 0 4) b)))
  | 0x007 => whenZero d (whenZero b (some (.achk a)))
  | 0x008 => whenZero d (whenZero a (whenZero b (some .await)))
  | _ => none

/-- DRV, major 0x27 (R305). -/
noncomputable def decDrv (w : Word32) : Option Instr :=
  let d := fldD w
  let a := fldA w
  let b := fldB w
  match (fldFn w).toNat with
  | 0x000 => whenZero d (whenZero b (some (.dreg a)))
  | 0x001 => whenZero d (whenZero b (some (.dunreg false a)))
  | 0x009 => whenZero d (whenZero b (some (.dunreg true a)))
  | 0x002 => whenZero b (some (.dstat d a))
  | 0x003 => whenZero d (some (.dfresh a b))
  | _ => none

/-- TASK, major 0x28 (R334). -/
noncomputable def decTask (w : Word32) : Option Instr :=
  let fn := fldFn w
  let d := fldD w
  let a := fldA w
  let b := fldB w
  if fn.extractLsb' 0 4 = 7#4 then
    whenZero d (whenZero b (whenZero (fn.extractLsb' 8 2)
      ((LapOp.ofCode (fn.extractLsb' 4 3)).map fun op => .lapv op (fn.getLsbD 7) a)))
  else
    match fn.toNat with
    | 0x000 => whenZero d (some (.tkenq a b))
    | 0x001 => some (.tkenqn d a b)
    | 0x002 => whenZero a (some (.tkpop d b))
    | 0x003 => some (.tksteal d a b)
    | 0x004 => whenZero d (whenZero a (whenZero b (some .tkdone)))
    | 0x005 => whenZero b (some (.tkdepth d a))
    | 0x006 => some (.tkqcfg d a b)
    | 0x008 => whenZero a (whenZero b (some (.lapw d)))
    | _ => none

/-- ENG, major 0x29 (R351). -/
noncomputable def decEng (w : Word32) : Option Instr :=
  let fn := fldFn w
  let n := fn.getLsbD 5
  let d := fldD w
  let a := fldA w
  let b := fldB w
  whenZero (fn.extractLsb' 6 4)
    (match (fn.extractLsb' 0 5).toNat with
     | 0 => some (.ecpy n d a b)
     | 1 => whenZero d (some (.ecpy2 n a b))
     | 2 => whenZero d (some (.egath n a b))
     | 3 => whenZero d (some (.escat n a b))
     | 4 => some (.efill n d a b)
     | 5 => whenZero d (some (.eovl n a b))
     | 6 => whenTrue (! n) (whenZero b (some (.epin d a)))
     | 7 => whenTrue (! n) (whenZero d (whenZero b (some (.eunpin a))))
     | 8 => whenZero d (some (.ebulk n a b))
     | 9 => whenTrue (! n) (whenZero a (whenZero b (some (.epop d))))
     | 10 => whenTrue (! n) (whenZero a (whenZero b (some (.estat d))))
     | _ => none)

/-- NEAR, major 0x2A (R382). -/
noncomputable def decNear (w : Word32) : Option Instr :=
  match (fldFn w).toNat with
  | 0x000 => whenZero (fldD w) (whenZero (fldB w) (some (.nrprog (fldA w))))
  | 0x001 => whenZero (fldD w) (whenZero (fldB w) (some (.nrrun (fldA w))))
  | 0x002 => whenZero (fldA w) (whenZero (fldB w) (some (.nrstat (fldD w))))
  | 0x003 => whenZero (fldA w) (whenZero (fldB w) (some (.nrwait (fldD w))))
  | _ => none

/-- SYS, major 0x3E (R397). -/
noncomputable def decSys (w : Word32) : Option Instr :=
  let d := fldD w
  let a := fldA w
  let b := fldB w
  let n : BitVec 4 := b.extractLsb' 0 4
  match (fldFn w).toNat with
  | 0x000 => whenZero d (whenZero b (some (.trap a)))
  | 0x001 => whenZero d (whenZero a (whenZero b (some .eret)))
  | 0x002 => whenZero d (some (.tlbinv a b))
  | 0x003 => whenZero b (some (.genadv d a))
  | 0x103 => whenZero d (some (.genadvFloor a b))
  | 0x004 => whenZero d (whenTrue (! b.getLsbD 4 && helperOk n) (some (.cbswap n a)))
  | 0x104 => whenZero d (whenZero a (whenTrue (! b.getLsbD 4 && helperOk n) (some (.cbswapSeal n))))
  | 0x204 => whenZero d (whenZero b (some (.cbswapUnit a)))
  | 0x005 => whenZero d (whenZero b (some (.stopc a)))
  | 0x006 => whenZero d (whenZero a (whenZero b (some .bkpt)))
  | 0x007 => whenZero d (whenZero a (whenZero b (some .haltc)))
  | _ => none

/-- The body of the decoder for the coprocessors' majors: vector, matrix and array words (R55). -/
def decodeCop (w : Word32) : Option Instr :=
  match (fldMajor w).toNat with
  | 0x18 => decVls w
  | 0x19 => decVint w
  | 0x1A => decVfp w
  | 0x1B => decVcmp w
  | 0x1C => decVmov w
  | 0x1D => decVcvt w
  | 0x1E => decRpt w
  | 0x20 => decMat w
  | 0x24 => decArow w
  | 0x25 => decAmacro w
  | 0x26 => decActl w
  | _ => none

/-- The instruction of a word by its major (R55); `none` for every word that is not an instruction (R58). -/
noncomputable def decodeBody (w : Word32) : Option Instr :=
  match (fldMajor w).toNat with
  | 0x01 => decInt w
  | 0x02 => decInti w
  | 0x03 => decShi w
  | 0x04 => some (.ldhi (fldD w) (fldImm20 w))
  | 0x05 => some (.addpc (fldD w) (fldImm20 w))
  | 0x06 => decSel w
  | 0x07 => decSkip w
  | 0x08 => decBranch w
  | 0x09 => decBranchZ w
  | 0x0A => some (.j (fldOff25 w))
  | 0x0B => some (.call (fldOff25 w))
  | 0x0C => decCtx w
  | 0x0D => decLd w
  | 0x0E => decSt w
  | 0x0F => decMemx w
  | 0x10 => decAmo w
  | 0x11 => decOrd w
  | 0x12 => decMsg w
  | 0x13 => decFp w
  | 0x14 => decFma w
  | 0x15 => decCvt w
  | 0x18 => decodeCop w
  | 0x19 => decodeCop w
  | 0x1A => decodeCop w
  | 0x1B => decodeCop w
  | 0x1C => decodeCop w
  | 0x1D => decodeCop w
  | 0x1E => decodeCop w
  | 0x20 => decodeCop w
  | 0x24 => decodeCop w
  | 0x25 => decodeCop w
  | 0x26 => decodeCop w
  | 0x27 => decDrv w
  | 0x28 => decTask w
  | 0x29 => decEng w
  | 0x2A => decNear w
  | 0x3E => decSys w
  | _ => none

/-- The decoder: the switch marker and the instruction of a word, or `none` where the word traps ILLEGAL (R49, R58).
DESIGN CHOICE, log entry 77. -/
noncomputable def decode (w : Word32) : Option (Bool × Instr) :=
  (decodeBody w).map fun i => (fldS w, i)

/-- The word at the front of a list of bytes in the order memory holds them, least significant first (R3, R47). -/
def wordOfBytes : List Byte → Word32
  | b0 :: b1 :: b2 :: b3 :: _ => b3 ++ b2 ++ b1 ++ b0
  | _ => 0#32

/-- The four bytes of a word in the order memory holds them (R3, R47). -/
def bytesOfWord (w : Word32) : List Byte :=
  [w.extractLsb' 0 8, w.extractLsb' 8 8, w.extractLsb' 16 8, w.extractLsb' 24 8]

/-- The instruction that the decoder reads from an instruction of `nbits` bits `w`, bit 0 the least significant bit of the
first word; bits above `nbits` are zero. Every instruction is one 32-bit word, stored little-endian (R47). -/
noncomputable def decodeTableWord (nbits w : Nat) : Option Instr :=
  (decode (wordOfBytes (bytesOfWord (BitVec.ofNat 32 (w % 2 ^ nbits))))).map Prod.snd

end Sys2Proof
end

