-- ==== Sys2Proof/Config.lean ====
section
/-! DEFINITION. What the spec fixes for the part (01_machine, 00_scope) and the FREE VALUES: opaque constants that stand for
what the spec leaves open. Nothing evaluates a free value and no statement rests on one. -/

namespace Sys2Proof.Config

/-- The far cores, slices, slice near units, pseudo-channels and stack near units of the full part (R11). -/
def farCores : Nat := 512

/-- The first unit number of the slice near units: unit `512 + s` is the near unit of slice s (a numbering of this model). -/
def sliceUnit0 : Nat := 512

/-- The first unit number of the stack near units: unit `1024 + p` is the near unit of pseudo-channel p. -/
def stackUnit0 : Nat := 1024

/-- The units of the full part: 512 far cores, 512 slice near units and 512 stack near units (R11). -/
def unitCount : Nat := 1536

/-- A byte of memory that nothing has written. DESIGN CHOICE: the spec gives no contents after power-on; log entry 1. -/
def memDefault : Byte := 0#8

/-- A read of CYCLE (R88): the core's clk count, which the model does not keep. A free value; log entry 5. -/
opaque cycleRead : Nat → Word

/-- Which entry a full TLB, read cache or directory gives up: the spec names none. A free value; log entry 7. -/
opaque victim : Nat → Nat

/-- What a peer device or a routed link answers to a read: it comes from outside the device. A free value; log entry 8. -/
opaque peerRead : Nat → Byte

/-- What a read of the device control window answers: the spec does not give its registers. A free value; log entry 8. -/
opaque controlRead : Nat → Byte

/-- A choice that the spec gives to firmware or to a directory without a rule. A free value; log entry 9. -/
opaque choose : Nat → Nat

/-- A byte that the device answers where the spec gives it none. A free value; log entries 9 and 70. -/
opaque deviceByte : Nat → Byte

/-- A signature verifies: the digest of the key that must have made it, the digest that it signs, the signature (R431). The arithmetic of P-521
is no part of the machine: a free value; log entry 107. -/
opaque verify : BitVec 512 → BitVec 512 → Nat → Bool

/-- Byte of a signature that the identity key makes over a message, with its randomness (R432). The key never leaves the security processor: a
free value; log entry 107. -/
opaque signature : Nat → List Byte → Nat → Byte

end Sys2Proof.Config
end

