-- ==== Sys2Proof/Machine/Float.lean ====
section
/-! DEFINITION. Number formats (09_formats R185 to R212): exact values as rationals, one rounding from the exact value, the
flags, DM8, and the conversions. Bits of a format travel as natural numbers. -/

namespace Sys2Proof.Machine

/-- An exact value: a NaN (signalling or quiet), an infinity, or sign and magnitude `num / den` (R186). -/
inductive FVal where
  | nan (sig : Bool)
  | inf (neg : Bool)
  | fin (neg : Bool) (num den : Nat)
  deriving DecidableEq, Repr

/-- The flags NV, DZ, OF, UF and NX from bit 4 down (R75, R198). -/
abbrev Flags := BitVec 5

/-- No flag. -/
def fNone : Flags := 0#5
/-- NV (R198). -/
def fNV : Flags := 16#5
/-- DZ (R198). -/
def fDZ : Flags := 8#5
/-- OF and NX, which an overflow raises together (R198). -/
def fOFNX : Flags := 5#5
/-- UF and NX (R187, R194, R198). -/
def fUFNX : Flags := 3#5
/-- NX (R198). -/
def fNX : Flags := 1#5

/-- A flag when a condition holds. -/
def fIf (p : Bool) (f : Flags) : Flags := if p then f else fNone

/-- Two to a power that may be negative, as numerator and denominator. -/
def pow2 (e : Int) : Nat × Nat := if 0 ≤ e then (2 ^ e.toNat, 1) else (1, 2 ^ (-e).toNat)

/-- A magnitude times two to a power. -/
def scale2 (num den : Nat) (e : Int) : Nat × Nat := (num * (pow2 e).1, den * (pow2 e).2)

/-- A finite value of an integer. -/
def FVal.ofInt (x : Int) : FVal := .fin (decide (x < 0)) x.natAbs 1

/-- The sign of a value that is no NaN. -/
def FVal.isNeg : FVal → Bool
  | .nan _ => false
  | .inf n => n
  | .fin n _ _ => n

/-- A value with its sign turned over. -/
def FVal.flip : FVal → FVal
  | .nan s => .nan s
  | .inf n => .inf (! n)
  | .fin n a b => .fin (! n) a b

/-- A NaN. -/
def FVal.isNan : FVal → Bool
  | .nan _ => true
  | _ => false

/-- A signalling NaN (R188). -/
def FVal.isSig : FVal → Bool
  | .nan s => s
  | _ => false

/-- A zero of either sign. -/
def FVal.isZero : FVal → Bool
  | .fin _ a _ => a == 0
  | _ => false

/-! ## Binary formats (R186) -/

/-- A binary format: width, fraction bits, bias, the exponent and significand of its largest finite value. -/
structure BinFmt where
  width : Nat
  mbits : Nat
  bias  : Nat
  emax  : Nat
  /-- The significand of the largest finite value, an integer of `mbits + 1` bits. -/
  maxSig : Nat
  /-- Subnormals are kept (R187). -/
  sub   : Bool
  /-- Infinities and NaNs as FP64 has them; else E4M3's or E2M1's rule. -/
  ieee  : Bool
  deriving DecidableEq, Repr

/-- FP64 (R186). -/
def bFP64 : BinFmt := ⟨64, 52, 1023, 1023, 2 ^ 53 - 1, true, true⟩
/-- FP32 (R186). -/
def bFP32 : BinFmt := ⟨32, 23, 127, 127, 2 ^ 24 - 1, true, true⟩
/-- FP16 (R186). -/
def bFP16 : BinFmt := ⟨16, 10, 15, 15, 2 ^ 11 - 1, true, true⟩
/-- BF16, without subnormals (R186, R187). -/
def bBF16 : BinFmt := ⟨16, 7, 127, 127, 2 ^ 8 - 1, false, true⟩
/-- E4M3 (R186). -/
def bE4M3 : BinFmt := ⟨8, 3, 7, 8, 14, true, false⟩
/-- E5M2 (R186). -/
def bE5M2 : BinFmt := ⟨8, 2, 15, 15, 7, true, true⟩
/-- E2M1 (R186). -/
def bE2M1 : BinFmt := ⟨4, 1, 1, 2, 3, true, false⟩

/-- The exponent bits of a format. -/
def BinFmt.ebits (f : BinFmt) : Nat := f.width - 1 - f.mbits

/-- The canonical NaN (R188); E2M1 has none and its conversions give zero (R210). -/
def BinFmt.canon (f : BinFmt) : Nat :=
  if f.ieee then 2 ^ (f.width - 1) - 2 ^ (f.mbits - 1) else if f.width = 8 then 0x7F else 0

/-- The infinity of a sign. -/
def BinFmt.infBits (f : BinFmt) (neg : Bool) : Nat :=
  (if neg then 2 ^ (f.width - 1) else 0) + (2 ^ f.ebits - 1) * 2 ^ f.mbits

/-- The zero of a sign. -/
def BinFmt.zeroBits (f : BinFmt) (neg : Bool) : Nat := if neg then 2 ^ (f.width - 1) else 0

/-- The largest finite value of a sign. -/
def BinFmt.maxBits (f : BinFmt) (neg : Bool) : Nat :=
  f.zeroBits neg + (f.emax + f.bias) * 2 ^ f.mbits + (f.maxSig - 2 ^ f.mbits)

/-- The exact value of the bits of a format (R186, R187, R188). -/
def BinFmt.decode (f : BinFmt) (bits : Nat) : FVal :=
  let neg := bits.testBit (f.width - 1)
  let e := (bits / 2 ^ f.mbits) % 2 ^ f.ebits
  let m := bits % 2 ^ f.mbits
  if f.ieee && e == 2 ^ f.ebits - 1 then
    if m == 0 then .inf neg
    else .nan (decide (f.width ≠ 8) && ! m.testBit (f.mbits - 1))
  else if ! f.ieee && f.width == 8 && e == 15 && m == 7 then .nan false
  else if e == 0 then
    if f.sub then
      let r := scale2 m 1 (1 - (f.bias : Int) - (f.mbits : Int))
      .fin neg r.1 r.2
    else .fin neg 0 1
  else
    let r := scale2 (2 ^ f.mbits + m) 1 ((e : Int) - (f.bias : Int) - (f.mbits : Int))
    .fin neg r.1 r.2

/-! ## Rounding (R195, R196, R197) -/

/-- One step of the LFSR; a state of zero is replaced by 1 just before its first step (R197). -/
def lfsrStep (s0 : Word32) : Word32 :=
  let s := if s0 = 0#32 then 1#32 else s0
  if s.getLsbD 0 then (s >>> 1) ^^^ 0x80200003#32 else s >>> 1

/-- floor(log2 (num / den)) of a positive magnitude. -/
def ilog2 (num den : Nat) : Int :=
  let e : Int := (Nat.log2 num : Int) - (Nat.log2 den : Int)
  let d := scale2 den 1 e
  if num * d.2 < d.1 then e - 1 else e

/-- The integer a magnitude of `num / den` rounds to, and whether it was inexact (R195, R197); `s` is the LFSR after its step. -/
def roundNat (rm : RM) (s : Word32) (neg : Bool) (num den : Nat) : Nat × Bool :=
  let t := num / den
  let r := num % den
  let up : Bool :=
    match rm with
    | .rne | .dyn => decide (den < 2 * r) || (decide (2 * r = den) && t % 2 == 1)
    | .rtz => false
    | .rdn => neg && decide (r ≠ 0)
    | .rup => ! neg && decide (r ≠ 0)
    | .rna => decide (den ≤ 2 * r)
    | .sr => decide (s.toNat < r * 2 ^ 32 / den)
  (if up then t + 1 else t, decide (r ≠ 0))

/-- A magnitude rounded to a significand of `mbits + 1` bits at a quantum: significand, exponent of its last bit, inexact. -/
def roundAt (rm : RM) (s : Word32) (neg : Bool) (num den : Nat) (q : Int) : Nat × Bool :=
  let d := pow2 q
  roundNat rm s neg (num * d.2) (den * d.1)

/-- A significand of at most `mbits + 2` bits brought to at most `mbits + 1` bits, with the exponent of its last bit. -/
def renorm (mbits : Nat) (k : Nat) (q : Int) : Nat × Int :=
  if 2 ^ (mbits + 1) ≤ k then (k / 2, q + 1) else (k, q)

/-- The bits of a finite result: sign, significand and the exponent of its last bit (R186). -/
def BinFmt.pack (f : BinFmt) (neg : Bool) (k : Nat) (q : Int) : Nat :=
  f.zeroBits neg +
    (if k < 2 ^ f.mbits then k else (q + f.mbits + f.bias).toNat * 2 ^ f.mbits + (k - 2 ^ f.mbits))

/-- What an overflow writes: as R196, or the conversion rule of a format that has no infinities or saturates (R190, R210). -/
inductive Over where
  | ieee
  | saturate
  | nan
  deriving DecidableEq, Repr

/-- The bits of an overflow (R196, R210). -/
def BinFmt.overBits (f : BinFmt) (o : Over) (rm : RM) (neg : Bool) : Nat :=
  match o with
  | .saturate => f.maxBits neg
  | .nan => f.canon
  | .ieee =>
    match rm with
    | .rtz => f.maxBits neg
    | .rdn => if neg then f.infBits neg else f.maxBits neg
    | .rup => if neg then f.maxBits neg else f.infBits neg
    | .rne | .rna | .sr | .dyn => f.infBits neg

/-- RoundTo of a nonzero exact magnitude (R187, R196, R198): the bits and the flags. -/
def BinFmt.roundTo (f : BinFmt) (o : Over) (rm : RM) (s : Word32) (neg : Bool) (num den : Nat) : Nat × Flags :=
  let e := ilog2 num den
  let emin : Int := 1 - (f.bias : Int)
  let qfree : Int := e - f.mbits
  let free := roundAt rm s neg num den qfree
  let freeN := renorm f.mbits free.1 qfree
  let tiny : Bool := decide (freeN.2 + f.mbits < emin) || freeN.1 == 0
  if ! f.sub && tiny then (f.zeroBits neg, fUFNX)
  else
    let q : Int := if f.sub && decide (e < emin) then emin - f.mbits else qfree
    let r := roundAt rm s neg num den q
    let n := renorm f.mbits r.1 q
    if decide ((f.emax : Int) < n.2 + f.mbits) || (decide (n.2 + f.mbits = (f.emax : Int)) && decide (f.maxSig < n.1)) then
      (f.overBits o rm neg, fOFNX)
    else (f.pack neg n.1 n.2, if r.2 then (if tiny then fUFNX else fNX) else fNone)

/-- An exact result delivered in a format (R196, R203): NaN, infinity, zero of its sign, or one rounding. -/
def BinFmt.deliver (f : BinFmt) (o : Over) (rm : RM) (s : Word32) (v : FVal) : Nat × Flags :=
  match v with
  | .nan _ => (f.canon, fNone)
  | .inf neg => (f.infBits neg, fNone)
  | .fin neg num den => if num = 0 then (f.zeroBits neg, fNone) else f.roundTo o rm s neg num den

/-! ## Exact operations (R198, R203, R208) -/

/-- An exact sum (R196, R203): the value and NV for ∞ − ∞. -/
def FVal.add (rm : RM) (x y : FVal) : FVal × Flags :=
  match x, y with
  | .nan _, _ => (.nan false, fNone)
  | _, .nan _ => (.nan false, fNone)
  | .inf a, .inf b => if a = b then (.inf a, fNone) else (.nan false, fNV)
  | .inf a, .fin _ _ _ => (.inf a, fNone)
  | .fin _ _ _, .inf b => (.inf b, fNone)
  | .fin na a b, .fin nc c d =>
    let p : Int := (if na then -1 else 1) * (a * d : Nat) + (if nc then -1 else 1) * (c * b : Nat)
    if p = 0 then
      (.fin (if a = 0 ∧ c = 0 ∧ na = nc then na else rm == .rdn) 0 1, fNone)
    else (.fin (decide (p < 0)) p.natAbs (b * d), fNone)

/-- An exact product: NV for 0 × ∞ (R198, R203). -/
def FVal.mul (x y : FVal) : FVal × Flags :=
  match x, y with
  | .nan _, _ => (.nan false, fNone)
  | _, .nan _ => (.nan false, fNone)
  | .inf a, .inf b => (.inf (a != b), fNone)
  | .inf a, .fin n c _ => if c = 0 then (.nan false, fNV) else (.inf (a != n), fNone)
  | .fin n c _, .inf b => if c = 0 then (.nan false, fNV) else (.inf (n != b), fNone)
  | .fin na a b, .fin nc c d => (.fin (na != nc) (a * c) (b * d), fNone)

/-- An exact quotient: NV for 0 / 0 and ∞ / ∞, DZ for a finite nonzero value by zero (R198). -/
def FVal.div (x y : FVal) : FVal × Flags :=
  match x, y with
  | .nan _, _ => (.nan false, fNone)
  | _, .nan _ => (.nan false, fNone)
  | .inf _, .inf _ => (.nan false, fNV)
  | .inf a, .fin n _ _ => (.inf (a != n), fNone)
  | .fin n _ _, .inf b => (.fin (n != b) 0 1, fNone)
  | .fin na a b, .fin nc c d =>
    if c = 0 then (if a = 0 then (.nan false, fNV) else (.inf (na != nc), fDZ))
    else (.fin (na != nc) (a * d) (b * c), fNone)

/-- A square root (R198, R203). An irrational root is given between two neighbours of a grid so fine that every rounding of it,
the stochastic one included, is that of the root itself. -/
def FVal.sqrt (x : FVal) : FVal × Flags :=
  match x with
  | .nan _ => (.nan false, fNone)
  | .inf neg => if neg then (.nan false, fNV) else (.inf false, fNone)
  | .fin neg num den =>
    if num = 0 then (.fin neg 0 1, fNone)
    else if neg then (.nan false, fNV)
    else
      let e := ilog2 num den
      let k : Nat := (200 - e).toNat + 2
      let y := num * 2 ^ (2 * k)
      let r := Nat.sqrt (y / den)
      if r * r * den = y then (.fin false r (2 ^ k), fNone)
      else (.fin false (2 * r + 1) (2 ^ (k + 1)), fNone)

/-- NV for a signalling NaN operand (R198). -/
def sigFlag (x : FVal) : Flags := fIf x.isSig fNV

/-- A result that a NaN or an exact value determines: its bits, the operation's flags and the rounding's. -/
def finishOp (f : BinFmt) (rm : RM) (s : Word32) (r : FVal × Flags) (extra : Flags) : Nat × Flags :=
  let d := f.deliver .ieee rm s r.1
  (d.1, r.2 ||| d.2 ||| extra)

/-- The binary arithmetic of FP and VFP: sum, difference, product, quotient (R203). -/
inductive FOp where
  | add | sub | mul | div
  deriving DecidableEq, Repr

/-- One rounded operation on the bits of a format (R203). -/
def fpOp (f : BinFmt) (op : FOp) (rm : RM) (s : Word32) (a b : Nat) : Nat × Flags :=
  let x := f.decode a
  let y := f.decode b
  let r :=
    match op with
    | .add => x.add rm y
    | .sub => x.add rm y.flip
    | .mul => x.mul y
    | .div => x.div y
  finishOp f rm s r (sigFlag x ||| sigFlag y)

/-- A rounded square root (R203). -/
def fpSqrt (f : BinFmt) (rm : RM) (s : Word32) (a : Nat) : Nat × Flags :=
  let x := f.decode a
  finishOp f rm s x.sqrt (sigFlag x)

/-- The fused forms of R208. -/
inductive FmaOp where
  | fma | fms | fnma
  deriving DecidableEq, Repr

/-- One rounding of ±(x × y) ± w (R208). -/
def fpFma (f : BinFmt) (op : FmaOp) (rm : RM) (s : Word32) (a b w : Nat) : Nat × Flags :=
  let x := f.decode a
  let y := f.decode b
  let z := f.decode w
  let p := x.mul y
  let p' := match op with | .fnma => p.1.flip | _ => p.1
  let z' := match op with | .fms => z.flip | _ => z
  let r := p'.add rm z'
  finishOp f rm s r (p.2 ||| sigFlag x ||| sigFlag y ||| sigFlag z)

/-- x < y of two values that are no NaN; −0 equals +0 (R206). -/
def FVal.lt (x y : FVal) : Bool :=
  match x, y with
  | .nan _, _ => false
  | _, .nan _ => false
  | .inf a, .inf b => a && ! b
  | .inf a, .fin _ _ _ => a
  | .fin _ _ _, .inf b => ! b
  | .fin na a b, .fin nc c d =>
    let l : Int := (if na then -1 else 1) * (a * d : Nat)
    let r : Int := (if nc then -1 else 1) * (c * b : Nat)
    decide (l < r)

/-- x = y of two values that are no NaN (R206). -/
def FVal.eq (x y : FVal) : Bool := ! x.isNan && ! y.isNan && ! x.lt y && ! y.lt x

/-- The lesser or greater of two operands, −0 below +0, a NaN giving way to the other operand (R133, R204). -/
def fMinMaxA (f : BinFmt) (max : Bool) (a b : Nat) : Nat :=
  let x := f.decode a
  let y := f.decode b
  if x.isNan && y.isNan then f.canon
  else if x.isNan then b
  else if y.isNan then a
  else
    let less : Bool := x.lt y || (x.eq y && x.isNeg && ! y.isNeg)
    if max then (if less then b else a) else (if less then a else if x.eq y && x.isNeg == y.isNeg then a else b)

/-- FMIN and FMAX with their NV (R204). -/
def fpMinMax (f : BinFmt) (max : Bool) (a b : Nat) : Nat × Flags :=
  (fMinMaxA f max a b, sigFlag (f.decode a) ||| sigFlag (f.decode b))

/-- The signs of FSGN, FSGNN and FSGNX (R205). -/
inductive SgnOp where
  | sgn | sgnn | sgnx
  deriving DecidableEq, Repr

/-- The magnitude bits of `a` under the sign that R205 gives. -/
def fpSgn (f : BinFmt) (op : SgnOp) (a b : Nat) : Nat :=
  let sa := a.testBit (f.width - 1)
  let sb := b.testBit (f.width - 1)
  let s := match op with | .sgn => sb | .sgnn => ! sb | .sgnx => sa != sb
  a % 2 ^ (f.width - 1) + (if s then 2 ^ (f.width - 1) else 0)

/-- The comparisons of R206 and R235. -/
inductive FCmpOp where
  | eq | lt | le | ne | un
  deriving DecidableEq, Repr

/-- A comparison and its NV: LT and LE raise it for any NaN, the others for a signalling one (R206, R235). -/
def fpCmp (f : BinFmt) (op : FCmpOp) (a b : Nat) : Bool × Flags :=
  let x := f.decode a
  let y := f.decode b
  let any := x.isNan || y.isNan
  let sig := x.isSig || y.isSig
  match op with
  | .eq => (x.eq y, fIf sig fNV)
  | .lt => (x.lt y, fIf any fNV)
  | .le => (! any && ! y.lt x, fIf any fNV)
  | .ne => (! x.eq y, fIf sig fNV)
  | .un => (any, fIf sig fNV)

/-- The class bit of R207. -/
def fpClass (f : BinFmt) (a : Nat) : Nat :=
  let e := (a / 2 ^ f.mbits) % 2 ^ f.ebits
  match f.decode a with
  | .nan sig => if sig then 8 else 9
  | .inf neg => if neg then 0 else 7
  | .fin neg num _ =>
    if num = 0 then (if neg then 3 else 4)
    else if e = 0 then (if neg then 2 else 5)
    else (if neg then 1 else 6)

/-! ## DM8 (R191 to R194) -/

/-- PosBase of R191. -/
def posBase (z : Nat) : Nat :=
  match z with
  | 0 => 0 | 1 => 1 | 2 => 3 | 3 => 7 | 4 => 11 | 5 => 13 | _ => 14

/-- The negative of NegBase of R191. -/
def negBase (z : Nat) : Nat :=
  match z with
  | 0 => 1 | 1 => 2 | 2 => 4 | 3 => 8 | 4 => 12 | _ => 14

/-- The magnitude of a DM8 code whose bits 6:0 are `t`, `t` not zero (R191). -/
def dm8Mag (t : Nat) : Nat × Nat :=
  let hi := Nat.log2 t
  let z := 6 - hi
  let len := 6 - z
  let x := min (z + 1) len
  let f := len - x
  let fld := t % 2 ^ len
  let e := fld / 2 ^ f
  let frac := fld % 2 ^ f
  let h := if 0 < x then e / 2 ^ (x - 1) else 0
  let j := if 1 < x then e % 2 ^ (x - 1) else 0
  let m := 2 ^ f + 9 * frac
  if h = 0 then (m * 10 ^ (posBase z + j), 2 ^ f) else (m, 2 ^ f * 10 ^ (negBase z + j))

/-- The exact value of a DM8 code; NaR counts as a quiet NaN (R191, R193). -/
def dm8Decode (c : Nat) : FVal :=
  if c % 256 = 0 then .fin false 0 1
  else if c % 256 = 0x80 then .nan false
  else
    let m := dm8Mag (c % 128)
    .fin (c.testBit 7) m.1 m.2

/-- `a` at most `b`, of magnitudes. -/
def magLe (a b : Nat × Nat) : Bool := decide (a.1 * b.2 ≤ b.1 * a.2)

/-- The DM8 code below or at a magnitude, 0 standing for zero, and the code above or at it (R194). -/
def dm8Around (x : Nat × Nat) : Nat × Nat :=
  (List.range 128).foldl (fun acc t =>
    if t = 0 then acc
    else
      let m := dm8Mag t
      let lo := if magLe m x && (acc.1 = 0 || magLe (dm8Mag acc.1) m) then t else acc.1
      let hi := if magLe x m && (acc.2 = 0 || magLe m (dm8Mag acc.2)) then t else acc.2
      (lo, hi)) (0, 0)

/-- The magnitude of a candidate: zero for code 0. -/
def dm8Cand (t : Nat) : Nat × Nat := if t = 0 then (0, 1) else dm8Mag t

/-- `x − lo` against `hi − x`: less, equal or greater. -/
def dm8Nearer (x lo hi : Nat × Nat) : Ordering :=
  -- 2 x against lo + hi
  let l := 2 * x.1 * (lo.2 * hi.2)
  let r := (lo.1 * hi.2 + hi.1 * lo.2) * x.2
  compare l r

/-- A finite nonzero magnitude encoded to DM8 (R194): the code and the flags. `nar` is saturate-to-NaR. -/
def dm8Encode (nar : Bool) (rm : RM) (neg : Bool) (num den : Nat) : Nat × Flags :=
  let sg := if neg then 0x80 else 0
  if 10 ^ 14 * den < num then (if nar then 0x80 else sg + 1, fOFNX)
  else
    let x := (num, den)
    let lh := dm8Around x
    if lh.1 = lh.2 then (sg + lh.1, fNone)
    else
      let lo := lh.1
      let hi := lh.2
      let cmp := dm8Nearer x (dm8Cand lo) (dm8Cand hi)
      let t : Nat :=
        match rm with
        | .rtz => lo
        | .rdn => if neg then hi else lo
        | .rup => if neg then lo else hi
        | .rna => if cmp == .lt then lo else hi
        | .rne | .sr | .dyn =>
          if cmp == .lt then lo
          else if cmp == .gt then hi
          else if lo % 2 = hi % 2 then lo
          else if lo % 2 = 0 then lo else hi
      if t = 0 then (0, fUFNX) else (sg + t, fNX)

/-! ## Conversions (R209, R210, R239) -/

/-- The width of a format in bits (R209, R238). -/
def fmtWidth : Fmt → Nat
  | .s64 | .u64 | .fp64 => 64
  | .s32 | .u32 | .fp32 => 32
  | .fp16 | .bf16 | .s16 => 16
  | .e4m3 | .e5m2 | .dm8 | .s8 => 8
  | .e2m1 | .s4 => 4

/-- The binary format of a floating format; `none` for integers and DM8. -/
def fmtBin : Fmt → Option BinFmt
  | .fp64 => some bFP64
  | .fp32 => some bFP32
  | .fp16 => some bFP16
  | .bf16 => some bBF16
  | .e4m3 => some bE4M3
  | .e5m2 => some bE5M2
  | .e2m1 => some bE2M1
  | _ => none

/-- An integer format is unsigned. -/
def fmtUnsigned : Fmt → Bool
  | .u64 | .u32 => true
  | _ => false

/-- The bits of a format read as an integer (R185). -/
def intOfBits (signed : Bool) (w bits : Nat) : Int :=
  let b := bits % 2 ^ w
  if signed && b.testBit (w - 1) then (b : Int) - 2 ^ w else b

/-- The exact value of a source (R210). -/
def srcValue (f : Fmt) (bits : Nat) : FVal :=
  match fmtBin f with
  | some b => b.decode (bits % 2 ^ b.width)
  | none => if f = .dm8 then dm8Decode bits else FVal.ofInt (intOfBits (! fmtUnsigned f) (fmtWidth f) bits)

/-- The least value of an integer format. -/
def intMin (f : Fmt) : Int := if fmtUnsigned f then 0 else - 2 ^ (fmtWidth f - 1)

/-- The greatest value of an integer format. -/
def intMax (f : Fmt) : Int := if fmtUnsigned f then 2 ^ fmtWidth f - 1 else 2 ^ (fmtWidth f - 1) - 1

/-- The low bits of an integer as a natural number. -/
def bitsOfInt (w : Nat) (x : Int) : Nat := (x % 2 ^ w).toNat

/-- RoundInt(x, m) of a finite value (R210). -/
def roundInt (rm : RM) (s : Word32) (neg : Bool) (num den : Nat) : Int × Bool :=
  let r := roundNat rm s neg num den
  (if neg then - (r.1 : Int) else r.1, r.2)

/-- A conversion to an integer format (R210): saturation raises NV and not NX. -/
def toIntFmt (dst : Fmt) (rm : RM) (s : Word32) (v : FVal) : Nat × Flags :=
  let w := fmtWidth dst
  match v with
  | .nan _ => (bitsOfInt w (intMax dst), fNV)
  | .inf neg => (bitsOfInt w (if neg then intMin dst else intMax dst), fNV)
  | .fin neg num den =>
    let r := roundInt rm s neg num den
    if r.1 < intMin dst then (bitsOfInt w (intMin dst), fNV)
    else if intMax dst < r.1 then (bitsOfInt w (intMax dst), fNV)
    else (bitsOfInt w r.1, fIf r.2 fNX)

/-- The overflow rule of a destination (R210). -/
def overOf (ovf : Bool) (dst : Fmt) : Over :=
  match dst with
  | .e4m3 => if ovf then .nan else .saturate
  | .e5m2 => if ovf then .ieee else .saturate
  | .e2m1 => .saturate
  | _ => .ieee

/-- A conversion to a binary format (R210). -/
def toBinFmt (ovf : Bool) (dst : Fmt) (f : BinFmt) (rm : RM) (s : Word32) (v : FVal) : Nat × Flags :=
  match v with
  | .nan sig => if dst = .e2m1 then (0, fNV) else (f.canon, fIf sig fNV)
  | .inf neg =>
    if dst = .e4m3 then (if ovf then 0x7F else f.maxBits neg, fNV)
    else if dst = .e2m1 then (f.maxBits neg, fNV)
    else (f.infBits neg, fNone)
  | .fin _ _ _ => f.deliver (overOf ovf dst) rm s v

/-- CVT and VCVT (R210, R239): the destination's bits and the flags; `s` is the LFSR after its step. -/
def convert (ovf : Bool) (dst src : Fmt) (rm : RM) (s : Word32) (bits : Nat) : Nat × Flags :=
  let v := srcValue src bits
  match fmtBin dst with
  | some f => toBinFmt ovf dst f rm s v
  | none =>
    if dst = .dm8 then
      match v with
      | .nan sig => (0x80, fIf sig fNV)
      | .inf _ => (0x80, fNone)
      | .fin neg num den => if num = 0 then (0, fNone) else dm8Encode ovf rm neg num den
    else toIntFmt dst rm s v

end Sys2Proof.Machine
end

