-- ==== Sys2Proof/Machine/Store.lean ====
section
/-! DEFINITION. The two sparse stores of the model: maps from numbers to data, and memory as address and byte pairs in one
canonical form (00_scope R3: byte-addressed and little-endian). -/

namespace Sys2Proof.Machine

/-- A map from numbers to data: pairs with strictly rising keys; a key that is not listed holds a default that the reader names. -/
abbrev SMap (α : Type) := List (Nat × α)

/-- The data at a key, or the default. -/
def SMap.get {α : Type} (m : SMap α) (k : Nat) (dflt : α) : α :=
  match m with
  | [] => dflt
  | (k', v) :: rest => if k' = k then v else SMap.get rest k dflt

/-- The map with the data at a key replaced, its keys still rising. -/
def SMap.put {α : Type} (m : SMap α) (k : Nat) (v : α) : SMap α :=
  match m with
  | [] => [(k, v)]
  | (k', v') :: rest =>
    if k < k' then (k, v) :: (k', v') :: rest
    else if k = k' then (k, v) :: rest
    else (k', v') :: SMap.put rest k v

/-- The map without a key. -/
def SMap.erase {α : Type} (m : SMap α) (k : Nat) : SMap α :=
  match m with
  | [] => []
  | (k', v') :: rest => if k' = k then rest else (k', v') :: SMap.erase rest k

/-- Memory: bytes by address, addresses strictly rising, no byte equal to what an unlisted address reads as. -/
abbrev Memory := List Host.Cell

/-- The byte at an address (R3); an unlisted address reads as `Config.memDefault`. -/
def Memory.read (m : Memory) (a : Nat) : Byte := SMap.get m a Config.memDefault

/-- Memory with one byte written, still in canonical form: writing the default removes the entry. -/
def Memory.write (m : Memory) (a : Nat) (b : Byte) : Memory :=
  match m with
  | [] => if b = Config.memDefault then [] else [(a, b)]
  | (a', b') :: rest =>
    if a < a' then (if b = Config.memDefault then (a', b') :: rest else (a, b) :: (a', b') :: rest)
    else if a = a' then (if b = Config.memDefault then rest else (a, b) :: rest)
    else (a', b') :: Memory.write rest a b

/-- The canonical form from a least address on. -/
def Memory.wfFrom (lo : Nat) (m : Memory) : Bool :=
  match m with
  | [] => true
  | (a, b) :: rest => decide (lo ≤ a) && ! decide (b = Config.memDefault) && Memory.wfFrom (a + 1) rest

/-- The canonical form of memory: addresses strictly rising, no entry equal to the default. -/
def Memory.wf (m : Memory) : Bool := Memory.wfFrom 0 m

/-- The `n` bytes from an address on, lowest address first. -/
def Memory.readBytes (m : Memory) (a : Nat) : Nat → List Byte
  | 0 => []
  | n + 1 => Memory.read m a :: Memory.readBytes m (a + 1) n

/-- Memory with bytes written from an address on, lowest address first. -/
def Memory.writeBytes (m : Memory) (a : Nat) (bs : List Byte) : Memory :=
  match bs with
  | [] => m
  | b :: rest => Memory.writeBytes (Memory.write m a b) (a + 1) rest

/-- The number whose bytes, least significant first, are given (R3). -/
def natOfBytes (bs : List Byte) : Nat :=
  match bs with
  | [] => 0
  | b :: rest => b.toNat + 256 * natOfBytes rest

/-- The lowest `n` bytes of a number, least significant first (R3). -/
def bytesOfNat : Nat → Nat → List Byte
  | 0, _ => []
  | n + 1, x => BitVec.ofNat 8 x :: bytesOfNat n (x / 256)

/-- The doubleword whose bytes are given (R3). -/
def wordOf (bs : List Byte) : Word := BitVec.ofNat 64 (natOfBytes bs)

/-- The low `n` bytes of a doubleword (R3). -/
def bytesOf (n : Nat) (w : Word) : List Byte := bytesOfNat n w.toNat

/-- The doubleword at an address (R3). -/
def Memory.read64 (m : Memory) (a : Nat) : Word := wordOf (m.readBytes a 8)

/-- Memory with a doubleword written (R3). -/
def Memory.write64 (m : Memory) (a : Nat) (w : Word) : Memory := m.writeBytes a (bytesOf 8 w)

/-- The data of the first `n` keys, with a default where none is listed. -/
def SMap.firstN {α : Type} (m : SMap α) (n : Nat) (dflt : α) : List α :=
  (List.range n).map fun k => SMap.get m k dflt

end Sys2Proof.Machine
end

