-- ==== Sys2Proof/Machine/State.lean ====
section
/-! DEFINITION. The state of the K4 as plain data: contexts (04_contexts R74), units (21_system R414), homes, the hub, and the
model's own schedule; the outcomes other than a next state; and the state after reset. -/

namespace Sys2Proof.Machine

/-- The trap causes (R395). -/
inductive Cause where
  | illegal | profile | priv | align | page | access | staleGen | codeAbsent | coproc | deriveCycle | deriveDepth
  | derivedWrite | wsGuard | rqOvf | restoreBad | stop | uncorr | bkpt | sysCall
  deriving DecidableEq, Repr

/-- One entry of the fault ring (R391); INFO is kept as the word its map describes. -/
structure FaultEntry where
  tpc  : Word
  tval : Word
  fpc  : Word
  info : Word
  deriving DecidableEq, Repr

/-- Where the value of an outstanding deferred result comes from (R66). -/
inductive DefSrc where
  /-- The value is known and lands at the park. -/
  | value (v : Word)
  /-- The home or unit has not answered yet. -/
  | pending
  /-- The access faulted: the destination keeps its value (R67). -/
  | dropped
  /-- EPOP, MPOP and NRWAIT take their value at the park (R356, R267, R386); the word's address, for a sleep that is cancelled. -/
  | epop (fpc : Word)
  | mpop (fpc : Word)
  | nrwait (fpc : Word)
  deriving DecidableEq, Repr

/-- An outstanding deferred result: its destination, its number, its source. -/
structure Deferred where
  dst : Reg
  id  : Nat
  src : DefSrc
  /-- The flags that land with the value (R212). -/
  flags : BitVec 5
  deriving DecidableEq, Repr

/-- A fault that a home returned and that a park takes (R67, R120). -/
structure HomeFault where
  po    : Nat
  cause : Cause
  tval  : Word
  fpc   : Word
  deriving DecidableEq, Repr

/-- The replay record above CSEQ (R228). -/
structure ReplayRec where
  rv   : Bool
  /-- The PC that the context held when the record was written (R229). -/
  pc   : Word
  dist : BitVec 11
  pass : BitVec 8
  word : BitVec 4
  deriving DecidableEq, Repr

/-- One entry of a context's dispatch ring (R221). -/
structure DEntry where
  pc   : Word
  seq  : BitVec 16
  pass : BitVec 8
  unit : BitVec 4
  st   : BitVec 4
  word : Word32
  opa  : Word
  opb  : Word
  fva  : Word
  deriving DecidableEq, Repr

/-- The command FIFOs that a push can find full (R249, R273, R348). -/
inductive Fifo where
  | engine | matrix | array
  deriving DecidableEq, Repr

/-- A waiting word at its park (R67), with the operands it read. -/
inductive Wait where
  | waitc (cnt thr : Word)
  | recv (d : Reg) (buf ring : Word)
  | lapw (d : Reg)
  | haltc
  | dfresh (lo hi : Word)
  /-- The anchor's address, the home and queue it translated to, the descriptor as it was copied (R335). -/
  | tkenq (ea : Word) (pa q : Nat) (desc : List Byte)
  /-- A push that found its command FIFO full: the engine's, the core's matrix FIFO, the slice's (R249, R273, R348). -/
  | fifo (k : Fifo)
  deriving DecidableEq, Repr

/-- What a park that is due is for (R59, R64, R67). -/
inductive ParkWhy where
  /-- The segment has ended. -/
  | segment
  /-- The word at the PC parks before it acts. -/
  | before
  /-- The word at the PC has failed a check; its trap is taken at the park. -/
  | trap (cause : Cause) (tval : Word)
  /-- The helper's next word is not resident: it stops at the park (R396). -/
  | absent (pc : Word)
  /-- The helper has double-trapped: it stops at the park (R394). -/
  | defunct
  /-- The helper has returned from its root frame: it ends at the park (R82). -/
  | ending
  deriving DecidableEq, Repr

/-- One context of a unit (R74). While a context is live its block in local memory is represented here. -/
structure Ctx where
  live    : Bool
  pc      : Word
  wp      : Word
  frb     : Word
  cap     : BitVec 8
  res     : BitVec 8
  spilled : BitVec 32
  bsp     : Word
  nact    : Bool
  npend   : Bool
  fxs     : BitVec 5
  frm     : BitVec 3
  ve      : Bool
  priv    : Level
  lmoor   : Word
  nhpc    : Word
  nhwp    : Word
  cseq    : BitVec 16
  replay  : ReplayRec
  msp     : Word
  /-- The state of the stochastic-rounding register (R197). -/
  srseed  : Word32
  tkanc   : Word
  tkd3    : Word
  tkslc   : Word
  tkhome  : Word
  faults  : Vector FaultEntry 8
  vregs   : Vector (BitVec 2048) 16
  twb     : Word
  asr     : Word
  ptroot  : Word
  ctab    : Word
  drsel   : Word
  drply   : Word
  /-- The dispatch ring: the last 64 entries, oldest first (R221). -/
  dring   : List DEntry
  /-- The array state ARB, CHK, PE and SEL (R274). -/
  arb     : BitVec 8
  chk     : Bool
  pe      : Bool
  sel     : BitVec 24
  /-- Words issued since the last park (R64). -/
  seg     : Nat
  /-- A park is due: the last word carried S or was the 256th (R64). -/
  parking : Bool
  /-- What the park that is due is for. -/
  why     : ParkWhy
  /-- The park that the word at the PC asks for before it acts has been made (R64). -/
  parked  : Bool
  /-- A park has found a refused contribution or a held message: the context is not ready until it is accepted (R68). -/
  stuck   : Bool
  /-- The word at the PC has begun to issue and holds its unit (R68). -/
  holding : Bool
  /-- The shadow window of the running notice handler: NHWP as its diversion found it (R78, R86). -/
  nwin    : Word
  /-- The context has come back by ERET, START.RES or a resume and has not issued since (R223, R229). -/
  resuming : Bool
  /-- Outstanding deferred results in program order (R66). -/
  defs    : List Deferred
  /-- The waiting word whose action the park makes (R67). -/
  wait    : Option Wait
  /-- The waiting word has made its action and sleeps (R67). -/
  asleep  : Bool
  /-- Refused AMERGE contributions and held messages: the context stops at its next park until they are accepted (R68, R138,
  R176). -/
  blocked : List Req
  /-- The event that a sleeping WAITC waits for has come (R170, R171). -/
  woken   : Bool
  /-- The TAIL whose write has woken a sleeping RECV (R180). -/
  latch   : Option Word
  /-- A STOP waits for the context's next park (R407). -/
  stopDue : Bool
  /-- Held by a STOP (R407). -/
  held    : Bool
  /-- The launch that the context runs for, 0 for none (R420). -/
  lid     : Nat
  /-- The last FENCE rel, as a place in program order: later stores wait for what precedes it (R144). -/
  fenced  : Nat
  homeFaults : List HomeFault
  /-- Pending late coprocessor faults: TVAL and the faulting word's address (R219, R220). -/
  late    : List (Word × Word)
  /-- AWAIT has ended the segment: its park waits for the context's array commands (R289). -/
  awaiting : Bool
  /-- A re-dispatch under way: the entries still to be dispatched (R223). -/
  redo    : Option (List DEntry)
  /-- The model's own: the context runs core-runtime code of which no rule gives the words (R346, R398); it moves only by
  `Choice.runtime` and the events of the runtime (log entry 9). -/
  firmware : Bool
  deriving DecidableEq, Repr

/-- One entry of the overlay table (R362). -/
structure Overlay where
  valid  : Bool
  va     : Word
  len    : Nat
  off    : Nat
  asid   : BitVec 12
  gen    : BitVec 16
  pinned : Bool
  deriving DecidableEq, Repr

/-- One TLB entry (R402): the page it maps, its table entry, the address space it was formed in. -/
structure TlbEntry where
  /-- First virtual address of the page or span, and its size. -/
  va    : Nat
  size  : Nat
  pa    : Nat
  asid  : BitVec 12
  /-- Formed from a table rooted at MROOT (R401). -/
  mtab  : Bool
  /-- The low bits of the table entry: permissions, U, G, A, D, MT. -/
  pte   : Word
  deriving DecidableEq, Repr

/-- One line of a far read cache (R116, R127): the line's physical address, its bytes, the virtual line and address space it was
filled through. -/
structure CacheLine where
  pa    : Nat
  va    : Nat
  asid  : BitVec 12
  bytes : List Byte
  deriving DecidableEq, Repr

/-- A vector instruction in the dispatch queue (R216): context, sequence number, scalar operands and mode read at issue. -/
structure VCmd where
  ctx   : Nat
  po    : Nat
  seq   : BitVec 16
  pc    : Word
  instr : Instr
  opa   : Word
  opb   : Word
  rm    : RM
  /-- The deferred result that the instruction answers. -/
  id    : Option Nat
  who   : Issuer
  deriving DecidableEq, Repr

/-- A body word of RPT (R226): its address, the word as an instruction, and the scalar operands and mode its pass 0 read. -/
structure RWord where
  pc    : Word
  instr : Instr
  opa   : Word
  opb   : Word
  rm    : RM
  deriving DecidableEq, Repr

/-- A repetition (R225, R226): the address of its first body word, the body length, the words that pass 0 has issued, count, stride,
and the next pass and word to dispatch. It runs once pass 0 is complete. -/
structure Replay where
  ctx    : Nat
  base   : Word
  len    : Nat
  body   : List RWord
  count  : Nat
  stride : Nat
  pass   : Nat
  word   : Nat
  deriving DecidableEq, Repr

/-- A matrix command in a core's FIFO (R249). -/
structure MatCmd where
  ctx   : Nat
  /-- K: a token is asked for (R251). -/
  k     : Bool
  po    : Nat
  seq   : BitVec 16
  pc    : Word
  instr : Instr
  opa   : Word
  opb   : Word
  who   : Issuer
  deriving DecidableEq, Repr

/-- The progress of an MTLIST or MREC between grants (R250, R264, R266): the next entry or step, CUR, TOUCHED, the row blocks stored, and
the entry that has been read and is not yet summed. -/
structure Walk where
  next    : Nat
  cur     : Nat
  touched : Bool
  stored  : Nat
  entry   : Option (Word × Word)
  /-- The entries beyond, in order, that have been read ahead, each as it was read or with the fault that its reading met (R265). -/
  ahead   : List (Option Cause × Word × Word)
  /-- The parameter block as it was read (R263). -/
  block   : List Word
  deriving DecidableEq, Repr

/-- A core's part of the cluster matrix unit (R244, R249, R251). -/
structure Matrix where
  fifo : List MatCmd
  out  : List Word
  fmt  : Word
  acc0 : SMap Word32
  acc1 : SMap Word32
  /-- The recurrence program and whether its type is .f32 (R261, R262). -/
  prog : Word
  pf32 : Bool
  az   : Bool
  /-- The walk or recurrence under way of the command at the head. -/
  walk : Option Walk
  deriving DecidableEq, Repr

/-- An engine command (R347, R351): op, flags, operands read at the push, the pusher's tags. -/
structure EngCmd where
  op   : Nat
  n    : Bool
  ctx  : Nat
  po   : Nat
  pc   : Word
  opa  : Word
  opb  : Word
  opd  : Word
  /-- The block that the command names, read at the push (R352); of an EGATH or ESCAT that has begun, then the indices of the line read
  last (R360). -/
  block : List Word
  who  : Issuer
  /-- The chunks that it has completed when it waits to go on behind another command that a restore has brought back (R365). -/
  chunks : Nat
  deriving DecidableEq, Repr

/-- The copy engine of a unit (R347, R354, R365). -/
structure Engine where
  infifo : List EngCmd
  /-- The command in progress and the chunks it has completed. -/
  begun  : Option (EngCmd × Nat)
  out    : List Word
  susp   : Bool
  deriving DecidableEq, Repr

/-- A row stream (R373, R375): its block and the block's local offset, the next row, who started it and where in program order. -/
structure Stream where
  off   : Nat
  po    : Nat
  block : List Word
  next  : Nat
  susp  : Bool
  who   : Issuer
  deriving DecidableEq, Repr

/-- Near mode of a pseudo-channel (R367 to R376). -/
structure Near where
  nm     : Bool
  lid    : Nat
  step   : Nat
  owner  : Nat
  /-- The row program: type, K0, K1 and its steps (R370); `none` where none is loaded. -/
  prog   : Option (Nat × Word32 × Word32 × List Word)
  /-- The launch that loaded it (R370). -/
  plid   : Nat
  /-- The accumulators A0 to A3, lane by lane (R372). -/
  accs   : SMap Word32
  stream : Option Stream
  /-- The completion that NRWAIT takes (R376, R386). -/
  done   : Option Word
  /-- EnterNear waits for the accesses in progress at the channel: the launch that enters (R369). -/
  entering : Option Nat
  /-- A slot has ended and its arbitration window has not been held (R377). -/
  due    : Bool
  deriving DecidableEq, Repr

/-- One entry of the waiting-task table (R172). -/
structure Wte where
  armed : Bool
  cnt   : BitVec 8
  thr   : Word
  desc  : List Byte
  ctx   : Nat
  /-- The entry has fired and its hand-off is held (R172). -/
  fired : Bool
  /-- The launch of the context that armed the entry (R310). -/
  lid   : Nat
  deriving DecidableEq, Repr

/-- A sleeping helper that the runtime has swapped out (R330): its slot, its launch, and where in DRAM its block with its seal, and then
its frame ring, stand. -/
structure Swap where
  slot : Nat
  lid  : Nat
  at_  : Nat
  /-- The offset and length of its frame ring. -/
  frb  : Nat
  span : Nat
  deriving DecidableEq, Repr

/-- One programmable unit: a far core, a slice near unit or a stack near unit (R14, R18). -/
structure UnitState where
  code      : Memory
  overlays  : Vector Overlay 16
  /-- The CB pointer of each context slot (R410, R414). -/
  cb        : Vector Word 11
  tvec      : Word
  mtvec     : Word
  mroot     : Word
  usave     : Word
  fence     : BitVec 8
  maxmsg    : BitVec 11
  mrqb      : BitVec 10
  hend      : BitVec 11
  hdead     : BitVec 11
  lapres    : Word
  trsel     : Word
  errlog    : Word
  cache     : List CacheLine
  tlb       : List TlbEntry
  ctxs      : SMap Ctx
  /-- The context that issues (R68). -/
  cur       : Nat
  /-- The word being issued: what TVAL of checks 2 to 4 holds (R59). -/
  word      : Word32
  /-- The control context double-trapped: the unit has stopped issuing (R394). -/
  halted    : Bool
  /-- A helper's missing code, pending for the control context: helper and PC (R396). -/
  absent    : List (Nat × Word)
  /-- The STOPs pending for the control context, by LID, oldest first (R407). -/
  stopPend  : List Nat
  /-- Rings whose overflow is pending as RQOVF (R177). -/
  rqPend    : List Nat
  /-- A deposit was made that an HALTC may still see (R400). -/
  deposit   : Bool
  /-- The 256 counters (R163). -/
  counters  : SMap Word
  /-- The waiting-task table (R172). -/
  wtes      : SMap Wte
  /-- Messages and hand-offs that the interface holds, in arrival order (R172, R176). -/
  heldMsgs  : List Held
  /-- The launches of the hand-offs that ring 0 holds, oldest first (R310). -/
  fires     : List Nat
  /-- The helpers that the runtime has swapped out (R330). -/
  swapped   : List Swap
  /-- A lap has closed since the last LAPW of the voter: its status word (R341). -/
  lapDone   : Option Word
  /-- The vector dispatch queue (R216). -/
  vq        : List VCmd
  /-- The repetitions of its contexts, at most one of each (R226). -/
  replay    : List Replay
  matrix    : Matrix
  engine    : Engine
  deriving DecidableEq, Repr

/-- The trace ring of a home (R147, R148). -/
structure Trace where
  en    : Bool
  wrap  : Bool
  af    : Bool
  asid  : BitVec 12
  count : Nat
  base  : Nat
  seq   : BitVec 16
  deriving DecidableEq, Repr

/-- One target of a merge table (R137). -/
structure MergeEntry where
  lid     : Nat
  target  : Nat
  dbl     : Bool
  fp      : Bool
  next    : Nat
  /-- Pending contributions: index, operand and sender, in arrival order. -/
  pending : List (Nat × Word × Issuer)
  deriving DecidableEq, Repr

/-- A task that a queue holds: ticket, descriptor, and whether its age has given it priority 1 (R313, R329). -/
structure QTask where
  ticket : Word32
  desc   : List Byte
  aged   : Bool
  deriving DecidableEq, Repr

/-- One queue of a home (R313, R315). -/
structure Queue where
  en    : Bool
  fo    : Bool
  frc   : BitVec 2
  lid   : Nat
  asid  : BitVec 12
  t     : Nat
  pa    : Nat
  log2n : Nat
  /-- Resident unstarted tasks, oldest first. -/
  resident : List QTask
  /-- Started and not completed. -/
  started  : List QTask
  /-- Tasks on the spill ring, and the count of tasks that have left it. -/
  spilled  : Nat
  spillHead : Nat
  next     : Word32
  /-- A beacon of the queue stands (R320). -/
  beacon   : Bool
  deriving DecidableEq, Repr

/-- One home (R21). -/
structure Home where
  trace  : Trace
  merges : List MergeEntry
  /-- Generation floors that reached this home alone (R119). -/
  floors : SMap (BitVec 16)
  queues : SMap Queue
  /-- The queue that a pop last took from (R318). -/
  popped : Nat
  deriving DecidableEq, Repr

/-- One die (R17). -/
structure Die where
  tlb : List TlbEntry
  deriving DecidableEq, Repr

/-- The layout of a plot (R272). -/
structure Plot where
  plane : Bool
  wid   : BitVec 3
  deriving DecidableEq, Repr

/-- The latches and the dot format of an array (R271, R286). -/
structure Latch where
  c : BitVec 512
  p : BitVec 512
  /-- The dot-mode weight format: INT4 where true, else INT8 (R286). -/
  int4 : Bool
  deriving DecidableEq, Repr

/-- An array command in a slice's FIFO (R273): context, sequence number, the scalar operands read at issue. -/
structure ArrayCmd where
  ctx   : Nat
  po    : Nat
  seq   : BitVec 16
  pc    : Word
  instr : Instr
  opa   : Word
  opb   : Word
  /-- CTLW.VE at its issue (R276). -/
  ve    : Bool
  /-- The launch of its context. -/
  lid   : Nat
  /-- Its latest dispatch in program order: accesses before it precede the command (R223, R277). -/
  since : Nat
  /-- A stop has marked it; it keeps its acceptance until it is dispatched again (R291). -/
  halted : Bool
  /-- The selection that stood before it when it was marked (R275, R291). -/
  sel   : BitVec 24
  /-- The row operations that an earlier dispatch of the command has completed: it restarts there (R290, R291). -/
  done  : Nat
  deriving DecidableEq, Repr

/-- A macro that an error or a stop has stopped between two row operations (R290, R291): its context and sequence number, and what its later
row operations have still to bring about: each array with the columns it writes, their P at the start, and the rows of the destination band; and
the rows that it senses or writes as they stood when it stopped. -/
structure HalfMacro where
  ctx   : Nat
  seq   : BitVec 16
  bands : List (Nat × BitVec 512 × BitVec 512 × List (Nat × BitVec 512))
  seen  : List (Nat × Nat × BitVec 512)
  deriving DecidableEq, Repr

/-- One silt slice (R16). -/
structure Slice where
  plots   : SMap Plot
  plsel   : BitVec 5
  latches : SMap Latch
  /-- The row buffer of 256 bytes (R287). -/
  rowbuf  : BitVec 2048
  /-- The output registers, 96 × 128 of 32 bits (R287). -/
  outs    : SMap Word32
  fifo    : List ArrayCmd
  /-- The macros that an error has stopped half way (R290). -/
  halves  : List HalfMacro
  deriving DecidableEq, Repr

/-- The kinds of a derivation rule (R293). -/
inductive DKind where
  | transpose | cast | rowsum | colsum
  deriving DecidableEq, Repr

/-- A recompute in progress (R303): its tile, the base doublewords that it has read before a write reached them, whether a mark has come
since it began, and of the reads that were held then, those that had arrived. -/
structure Recompute where
  tile  : Nat
  read  : List (Nat × Word)
  again : Bool
  ahead : List Nat
  deriving DecidableEq, Repr

/-- A signed item of the board flash (R431): the SHA-512 digest of its bytes, its signature and its security version. -/
structure Image where
  digest    : BitVec 512
  signature : Nat
  version   : BitVec 16
  deriving DecidableEq, Repr

/-- A registered derivation rule (R294, R299): its descriptor, and the physical tile each tile of its regions is bound to. -/
structure Rule where
  asid   : BitVec 12
  kind   : DKind
  rm     : RM
  bfmt   : Fmt
  dfmt   : Fmt
  bva    : Nat
  bpitch : Nat
  rows   : Nat
  cols   : Nat
  dva    : Nat
  dpitch : Nat
  /-- Virtual tile number and bound physical tile number of every base tile, then of every derived tile. -/
  btiles : List (Nat × Nat)
  dtiles : List (Nat × Nat)
  /-- The watch entries of its base tiles stand: writes to them mark its tiles (R301, R307). -/
  watched : Bool
  deriving DecidableEq, Repr

/-- A vote of a lap (R332). -/
structure Vote where
  op : LapOp
  e  : Bool
  v  : Word
  deriving DecidableEq, Repr

/-- What has been sent and its home or the relay has not performed: a task's completion (R325), a vote (R340), a pop or a steal (R336). -/
inductive Posted where
  | complete (home q : Nat) (ticket : Word32)
  | vote (lid u : Nat) (v : Vote)
  | pop (u c : Nat) (bind : Word) (id : Nat)
  | steal (u c : Nat) (sel bind : Word) (id : Nat)
  deriving DecidableEq, Repr

/-- A launch that the hub has accepted and that is not completed (R331, R420, R422). -/
structure Launch where
  lid     : Nat
  asid    : BitVec 12
  gen     : BitVec 16
  ptroot  : Word
  ctab    : Word
  prio    : Nat
  tag     : Word
  queue   : Nat
  /-- The far cores of its core table, logical core 0 first. -/
  cores   : List Nat
  /-- LCORES of its record (R420). -/
  lcores  : Nat
  /-- The lap that is open. -/
  lap     : Nat
  votes   : SMap Vote
  /-- Tasks granted or started and not completed (R323). -/
  running : Nat
  stopped : Bool
  /-- Units that have not yet acknowledged a STOP (R407). -/
  owing   : List Nat
  /-- Units that a STOP went to and that have not reported a restore (R411). -/
  away    : List Nat
  taskErrors : Nat
  /-- The deferred pages: the page's address and the physical address of its leaf (R415). -/
  deferred   : List (Word × Nat)
  /-- The deferred pages that have been repaired (R415). -/
  repaired   : List Word
  /-- The helpers that its stop has saved: unit and number (R408, R410). -/
  saved      : List (Nat × Nat)
  /-- The unit states that its stop has saved where no DRAM backs a save area (R430): unit and number of the state. -/
  kept       : List (Nat × Nat)
  /-- The host has cancelled it (R426). -/
  cancel  : Bool
  /-- Voters run a control body instead of the default loop (R398). -/
  control : Bool
  /-- The stall buffer, and whether the detector has reported since the last wake (R183). -/
  stallva  : Word
  stalllen : Nat
  stalled  : Bool
  deriving DecidableEq, Repr

/-- A generation advance that not every unit has acknowledged (R405): the generation, the contexts that have still to adopt it, the units
that have not acknowledged, and the deferred result that waits. -/
structure GenAdvance where
  asid  : BitVec 12
  gen   : BitVec 16
  due   : List (Nat × Nat)
  owing : List Nat
  unit  : Nat
  ctx   : Nat
  id    : Nat
  deriving DecidableEq, Repr

/-- A launch record that a queue holds (R420): the LID given at acceptance, its sixteen doublewords, full milliseconds waited, and its place
in the order of arrival (R422). -/
structure LRecord where
  lid   : Nat
  words : List Word
  age   : Nat
  stamp : Nat
  deriving DecidableEq, Repr

/-- A completion record (R423). -/
structure Completion where
  tag   : Word
  kind  : Nat
  cause : Nat
  lid   : Nat
  laps  : Nat
  value : Word
  terr  : Nat
  deriving DecidableEq, Repr

/-- A launch queue (R419): its LQCFG block, the records it holds, the completions held for a full ring (R423). -/
structure LQueue where
  cfg     : Vector Word 8
  records : List LRecord
  held    : List Completion
  deriving DecidableEq, Repr

/-- A peer port (R427): the lanes it runs, 0 where it is not trained; failures of the last millisecond; retraining. -/
structure Port where
  lanes      : Nat
  fails      : Nat
  retraining : Bool
  deriving DecidableEq, Repr

/-- The unit state of a stopped launch in a save area (R411): its launch, and what the area's body holds. The body's form is private to
the device; the model's body is a number that names one of these records (log entry 14). -/
structure UnitSave where
  lid      : Nat
  counters : SMap Word
  wtes     : SMap Wte
  held     : List Held
  matrix   : Matrix
  engine   : Engine
  rings    : SMap (List DEntry)
  /-- ARB, CHK, PE and SEL of the contexts. -/
  arrays   : SMap (BitVec 8 × Bool × Bool × BitVec 24)
  latches  : SMap Latch
  rowbuf   : BitVec 2048
  outs     : SMap Word32
  halves   : List HalfMacro
  near     : Near
  deriving DecidableEq, Repr

/-- What moves next: a context's next word (with its accesses performed at once, or posted), or one event of the table. -/
inductive Choice where
  | issue (u c : Nat) (async : Bool)
  | event (i : Instr)
  /-- The signed core runtime serves the trap whose handler a context has just entered (R398, R415, R437). -/
  | runtime (u c : Nat)
  /-- The environment brings or lifts errors of the hardware: those that stand from now on (log entry 38). -/
  | upset (es : List Upset)
  /-- The host resizes BAR2 (R417). -/
  | bar2 (size : Nat)
  deriving DecidableEq, Repr

/-- The K4 and the model's schedule. -/
structure State where
  mem    : Memory
  units  : SMap UnitState
  homes  : SMap Home
  dies   : SMap Die
  /-- The current generation of each ASID, kept by the hub (R404). -/
  gens   : SMap (BitVec 16)
  /-- The generation floor that every home keeps where it lists none of its own (R119, R405). -/
  floors : SMap (BitVec 16)
  advances : List GenAdvance
  slices : SMap Slice
  /-- The registered derivation rules, oldest first (R306). -/
  rules  : List Rule
  /-- The physical tile numbers that a stale mark stands on (R301). -/
  stale  : List Nat
  /-- The recomputes in progress, of each slice the one that runs before those that wait for it (R304). -/
  recomputes : List Recompute
  /-- What the part has disabled (R2). -/
  disabled : List PartUnit
  /-- What signed records remove from the map at the next reset (R434). -/
  retired : List PartUnit
  /-- DEV of CAP, and whether the device belongs to a multi-device system (R28, R413). -/
  dev    : Nat
  ports  : SMap Port
  /-- The port that the route table names for a device number (R428). -/
  routes : SMap Nat
  launches : List Launch
  near   : SMap Near
  /-- The next core that each cluster matrix unit grants (R250). -/
  mgrant : SMap Nat
  /-- The steal directories: cluster k at k, the hub's at 32; beacons oldest first (R320). -/
  dirs   : SMap (List Beacon)
  lqs    : SMap LQueue
  /-- DEVSTAT (R418): stage, power, and CAPPED. -/
  stage  : BitVec 4
  pwr    : BitVec 16
  capped : Bool
  pwrlim : BitVec 11
  dropcnt : Word32
  herr   : BitVec 2
  /-- The security firmware, the management firmware, the core runtime, the rule routines and the unit maps (R431). -/
  images : Vector Image 5
  /-- The SHA-512 digest of the Marelo key and the security-version floor, both fused (R431). -/
  keyDigest : BitVec 512
  fusedFloor : BitVec 16
  /-- The mirror records that the hub has sent as first device, oldest first: device coordinate and record (R429). -/
  mirrors : List (Nat × List Word)
  /-- ATTBOX, 4 KiB (R432). -/
  attbox : Memory
  /-- Host memory that the hub writes completions to (R423), and the MSI-X messages it has sent, oldest first: port and
vector. -/
  hostMem : Memory
  msi    : List (Nat × Nat)
  /-- The port that each completion was written on, oldest first (R419). -/
  crPorts : List Nat
  /-- What the last host read through a BAR returned (R418). -/
  hostReply : List Byte
  /-- The unit states that STOPC has saved, by their number in a save area's body (R411). -/
  saves  : List UnitSave
  /-- The errors of the hardware that stand (R129, R412); they come from outside (log entry 38). -/
  upsets : List Upset
  /-- The size that the host has given BAR2, in bytes (R417). -/
  bar2   : Nat
  /-- The model's own: the unit whose context issues next. -/
  cur    : Nat
  /-- The model's own: accesses posted and not yet performed, oldest first. -/
  flight : List Req
  /-- The model's own: pops, steals, completions and votes that have been sent and that their home or relay has not performed, oldest first. -/
  posted : List Posted
  /-- The model's own: the next number in program order and of deferred results. -/
  po     : Nat
  /-- The model's own: accesses are posted instead of performed at issue. -/
  async  : Bool
  /-- The model's own: which agent moves next. -/
  sched  : List Choice
  /-- The model's own: which free value the next open value is. -/
  free   : Nat
  deriving DecidableEq, Repr

/-- Why a step stops without a next state. -/
inductive Fault where
  /-- Raised by `step` when its schedule names a move that the machine cannot make in this state. Safe: nothing is claimed of
  that schedule. -/
  | notEnabled
  deriving DecidableEq, Repr

/-- Why an instruction has no meaning in the model. -/
inductive Refusal where
  /-- Raised by the arms of `exec` that have no meaning yet. Safe: the machine stops. -/
  | notModelled (mnemonic : String)
  deriving DecidableEq, Repr

/-- An empty fault-ring entry (R391). -/
def FaultEntry.zero : FaultEntry := ⟨0#64, 0#64, 0#64, 0#64⟩

/-- An overlay entry that is not valid (R361). -/
def Overlay.none : Overlay := ⟨false, 0#64, 0, 0, 0#12, 0#16, false⟩

/-- The kind of a unit number (R11, R14, R18). -/
def kindOf (u : Nat) : UnitKind :=
  if u < Config.sliceUnit0 then .far else if u < Config.stackUnit0 then .slice else .stack

/-- The frame ring base that the model gives context `c` at reset: DESIGN CHOICE, the runtime's to set; log entry 4. -/
def resetFrb (k : UnitKind) (c : Nat) : Word :=
  match k with
  | .far => BitVec.ofNat 64 (0x60000 + 0xC00 * c)
  | _ => BitVec.ofNat 64 (0x8000 + 0xC00 * c)

/-- The context-block pointer that the model gives slot `c` at reset: DESIGN CHOICE; log entry 4. -/
def resetCb (k : UnitKind) (c : Nat) : Word :=
  match k with
  | .far => BitVec.ofNat 64 (0x68400 + 0x1400 * c)
  | _ => BitVec.ofNat 64 (0xB000 + 0x1400 * c)

/-- A context at reset: CTLW, FRS as R75 and R76 give them, everything the spec gives no value zero (log entry 4). -/
def Ctx.reset (k : UnitKind) (c : Nat) : Ctx where
  live := false
  pc := 0#64
  wp := resetFrb k c + 2880#64
  frb := resetFrb k c
  cap := 16#8
  res := 1#8
  spilled := 0#32
  bsp := 0#64
  nact := false
  npend := false
  fxs := 0#5
  frm := 0#3
  ve := true
  priv := .s
  lmoor := 0#64
  nhpc := 0#64
  nhwp := 0#64
  cseq := 0#16
  replay := ⟨false, 0#64, 0#11, 0#8, 0#4⟩
  msp := 0#64
  srseed := 0#32
  tkanc := 0#64
  tkd3 := 0#64
  tkslc := 0#64
  tkhome := 0#64
  faults := Vector.replicate 8 FaultEntry.zero
  vregs := Vector.replicate 16 0#2048
  twb := 0#64
  asr := 0#64
  ptroot := 0#64
  ctab := 0#64
  drsel := 0#64
  drply := 0#64
  dring := []
  arb := 0#8
  chk := false
  pe := false
  sel := 0#24
  seg := 0
  parking := false
  why := .segment
  parked := false
  stuck := false
  holding := false
  nwin := 0#64
  resuming := false
  defs := []
  wait := none
  asleep := false
  blocked := []
  woken := false
  latch := none
  stopDue := false
  held := false
  lid := 0
  fenced := 0
  homeFaults := []
  late := []
  awaiting := false
  redo := none
  firmware := false

/-- A waiting-task entry that is free (R163). -/
def Wte.free : Wte := ⟨false, 0#8, 0#64, [], 0, false, 0⟩

/-- The matrix state of a core at reset (R244); the type of the reset program is the model's (log entry 4). -/
def Matrix.reset : Matrix := ⟨[], [], 0#64, [], [], 0#64, false, false, none⟩

/-- An engine at reset. -/
def Engine.reset : Engine := ⟨[], none, [], false⟩

/-- A pseudo-channel's near-mode state at reset (R367). -/
def Near.reset : Near := ⟨false, 0, 0, 0, none, 0, [], none, none, none, false⟩

/-- A unit at reset (R414); CB pointers and an empty overlay table are the model's (log entry 4). -/
def UnitState.reset (u : Nat) : UnitState where
  code := []
  overlays := Vector.replicate 16 Overlay.none
  cb := Vector.ofFn fun i => resetCb (kindOf u) i.val
  tvec := 0#64
  mtvec := 0#64
  mroot := 0#64
  usave := 0#64
  fence := match kindOf u with | .far => 0x80#8 | _ => 0x10#8
  maxmsg := 256#11
  mrqb := 0#10
  hend := 0#11
  hdead := 0#11
  lapres := 0#64
  trsel := 0#64
  errlog := 0#64
  cache := []
  tlb := []
  ctxs := []
  cur := 0
  word := 0#32
  halted := false
  absent := []
  stopPend := []
  rqPend := []
  deposit := false
  counters := []
  wtes := []
  heldMsgs := []
  fires := []
  swapped := []
  lapDone := none
  vq := []
  replay := []
  matrix := Matrix.reset
  engine := Engine.reset

/-- A home at reset (R147); the floors are the model's (log entry 4). -/
def Home.reset : Home where
  trace := ⟨false, false, false, 0#12, 0, 0, 0#16⟩
  merges := []
  floors := []
  queues := []
  popped := 7

/-- A queue at reset (R315). -/
def Queue.reset : Queue where
  en := false
  fo := false
  frc := 0#2
  lid := 0
  asid := 0#12
  t := 0
  pa := 0
  log2n := 0
  resident := []
  started := []
  spilled := 0
  spillHead := 0
  next := 0#32
  beacon := false

/-- A launch queue at reset: DESIGN CHOICE zero (log entry 4). -/
def LQueue.reset : LQueue := ⟨Vector.replicate 8 0#64, [], []⟩

/-- A plot at reset: word layout, WID 0 (R272). -/
def Plot.reset : Plot := ⟨false, 0#3⟩

/-- An array's latches at reset: every C 0, every P 1 (R271). -/
def Latch.reset : Latch := ⟨0#512, BitVec.allOnes 512, false⟩

/-- A slice at reset. -/
def Slice.reset : Slice where
  plots := []
  plsel := 0#5
  latches := []
  rowbuf := 0#2048
  outs := []
  fifo := []
  halves := []

/-- A peer port that has not trained (R427). -/
def Port.reset : Port := ⟨0, 0, false⟩

/-- The device right after reset: bring-up stage 0, no context live, nothing listed in memory (R430). -/
def State.reset : State where
  mem := []
  units := []
  homes := []
  dies := []
  gens := []
  floors := []
  advances := []
  slices := []
  rules := []
  stale := []
  recomputes := []
  disabled := []
  retired := []
  dev := 0
  ports := []
  routes := []
  launches := []
  near := []
  mgrant := []
  dirs := []
  lqs := []
  stage := 0#4
  pwr := 0#16
  capped := false
  pwrlim := 2000#11
  dropcnt := 0#32
  herr := 0#2
  images := Vector.replicate 5 ⟨0#512, 0, 0#16⟩
  keyDigest := 0#512
  fusedFloor := 0#16
  mirrors := []
  attbox := []
  hostMem := []
  msi := []
  crPorts := []
  hostReply := []
  saves := []
  upsets := []
  bar2 := 0x8000000000
  cur := 0
  flight := []
  posted := []
  po := 0
  async := false
  sched := []
  free := 0

end Sys2Proof.Machine
end

