-- ==== Sys2Proof/Machine/Ops.lean ====
section
/-! DEFINITION. The named operations over units, contexts, windows and registers (04_contexts R63 to R90), the context block
and its seal (21_system R409), and taking an exception (21_system R393, R394). -/

namespace Sys2Proof.Machine

/-- The answer of a meaning. -/
abbrev Out := Host.Outcome State Fault Refusal

/-- A truth value as a number. -/
def b2n (b : Bool) : Nat := if b then 1 else 0

/-! ## Units, contexts, homes -/

/-- A slice. -/
def State.slice (s : State) (sl : Nat) : Slice := SMap.get s.slices sl Slice.reset

/-- The state with one slice changed. -/
def State.modSlice (s : State) (sl : Nat) (f : Slice → Slice) : State :=
  { s with slices := SMap.put s.slices sl (f (s.slice sl)) }

/-- The state of a unit; a unit nothing has touched is as at reset. -/
def State.unit (s : State) (u : Nat) : UnitState := SMap.get s.units u (UnitState.reset u)

/-- The state with one unit replaced. -/
def State.setUnit (s : State) (u : Nat) (x : UnitState) : State := { s with units := SMap.put s.units u x }

/-- The state with one unit changed. -/
def State.modUnit (s : State) (u : Nat) (f : UnitState → UnitState) : State := s.setUnit u (f (s.unit u))

/-- A context of a unit. -/
def UnitState.ctx (x : UnitState) (u c : Nat) : Ctx := SMap.get x.ctxs c (Ctx.reset (kindOf u) c)

/-- A context. -/
def State.ctx (s : State) (u c : Nat) : Ctx := (s.unit u).ctx u c

/-- The state with one context replaced. -/
def State.setCtx (s : State) (u c : Nat) (x : Ctx) : State :=
  s.modUnit u fun y => { y with ctxs := SMap.put y.ctxs c x }

/-- The state with one context changed. -/
def State.modCtx (s : State) (u c : Nat) (f : Ctx → Ctx) : State := s.setCtx u c (f (s.ctx u c))

/-- A home: slice s is home s, pseudo-channel p home 512 + p, the local memory of unit u home 1024 + u (R21, R147). -/
def State.home (s : State) (h : Nat) : Home := SMap.get s.homes h Home.reset

/-- The state with one home changed. -/
def State.modHome (s : State) (h : Nat) (f : Home → Home) : State :=
  { s with homes := SMap.put s.homes h (f (s.home h)) }

/-- A launch that is accepted and not completed. -/
def State.launch (s : State) (lid : Nat) : Option Launch := s.launches.find? fun l => l.lid == lid

/-- The state with a launch changed. -/
def State.modLaunch (s : State) (lid : Nat) (f : Launch → Launch) : State :=
  { s with launches := s.launches.map fun l => if l.lid = lid then f l else l }

/-- The issuing context's number. -/
def State.c (s : State) : Nat := (s.unit s.cur).cur

/-- The issuing context. -/
def State.cx (s : State) : Ctx := s.ctx s.cur s.c

/-- The issuing unit. -/
def State.ux (s : State) : UnitState := s.unit s.cur

/-- The kind of the issuing unit. -/
def State.kind (s : State) : UnitKind := kindOf s.cur

/-- The state with the issuing context changed. -/
def State.modC (s : State) (f : Ctx → Ctx) : State := s.modCtx s.cur s.c f

/-- The state with the issuing unit changed. -/
def State.modU (s : State) (f : UnitState → UnitState) : State := s.modUnit s.cur f

/-- The size of a unit's local memory (R86, R108). -/
def localSize : UnitKind → Nat
  | .far => 0x80000
  | _ => 0x10000

/-- The physical base of a unit's local memory (R25). -/
def localBase (u : Nat) : Nat :=
  match kindOf u with
  | .far => 0x900000000000 + 0x80000 * u
  | .slice => 0x910000000000 + 0x10000 * (u - Config.sliceUnit0)
  | .stack => 0x910002000000 + 0x10000 * (u - Config.stackUnit0)

/-- The number of helpers of a unit (R14, R18). -/
def helperCount : UnitKind → Nat
  | .far => 10
  | _ => 3

/-- The physical address of a local offset of a unit; offsets count modulo the local size. -/
def localPa (u : Nat) (off : Nat) : Nat := localBase u + off % localSize (kindOf u)

/-- The doubleword of local memory at an offset of a unit. -/
def State.loc64 (s : State) (u off : Nat) : Word := s.mem.read64 (localPa u off)

/-- The state with a doubleword of local memory written. -/
def State.setLoc64 (s : State) (u off : Nat) (w : Word) : State := { s with mem := s.mem.write64 (localPa u off) w }

/-! ## The fault ring (R391) -/

/-- The code of a level in PRIV and PPRIV (R75). -/
def levelCode : Level → BitVec 2
  | .u => 0#2
  | .s => 1#2
  | .m => 3#2

/-- The level of a code; 0b10 is never written (R75, R89). -/
def levelOfCode (x : BitVec 2) : Level :=
  if x = 3#2 then .m else if x = 0#2 then .u else .s

/-- The order of the levels. -/
def levelRank : Level → Nat
  | .u => 0
  | .s => 1
  | .m => 2

/-- The cause codes (R395). -/
def Cause.code : Cause → Nat
  | .illegal => 0x01
  | .profile => 0x02
  | .priv => 0x03
  | .align => 0x04
  | .page => 0x05
  | .access => 0x06
  | .staleGen => 0x07
  | .codeAbsent => 0x08
  | .coproc => 0x09
  | .deriveCycle => 0x0A
  | .deriveDepth => 0x0B
  | .derivedWrite => 0x0C
  | .wsGuard => 0x0D
  | .rqOvf => 0x0E
  | .restoreBad => 0x0F
  | .stop => 0x10
  | .uncorr => 0x11
  | .bkpt => 0x12
  | .sysCall => 0x13

/-- The index of the current entry: the lowest one with CUR = 1 (R391). -/
def Ctx.curEntry (x : Ctx) : Option (Fin 8) :=
  (List.finRange 8).find? fun i => (x.faults.get i).info.getLsbD 63

/-- The current entry has ACT = 1 (R391). -/
def Ctx.act (x : Ctx) : Bool :=
  match x.curEntry with
  | some i => (x.faults.get i).info.getLsbD 62
  | none => false

/-- TSEQ of the current entry; 0xFFFF where there is none (R391). -/
def Ctx.tseq (x : Ctx) : BitVec 16 :=
  match x.curEntry with
  | some i => (x.faults.get i).info.extractLsb' 32 16
  | none => 0xFFFF#16

/-- The current entry, all zeros where there is none (R393). -/
def Ctx.cur (x : Ctx) : FaultEntry :=
  match x.curEntry with
  | some i => x.faults.get i
  | none => FaultEntry.zero

/-- INFO from its fields (R391). -/
def infoWord (cur act dbl deflt : Bool) (ppriv : Level) (tseq : BitVec 16) (hlp : Nat) (cause : Cause) : Word :=
  BitVec.ofBool cur ++ BitVec.ofBool act ++ BitVec.ofBool dbl ++ BitVec.ofBool deflt ++ levelCode ppriv ++ 0#10 ++ tseq
    ++ 0#20 ++ BitVec.ofNat 4 hlp ++ BitVec.ofNat 8 cause.code

/-- A word with one bit set to a value. -/
def setBit (w : Word) (i : Nat) (b : Bool) : Word :=
  if b then w ||| (1#64 <<< i) else w &&& ~~~ (1#64 <<< i)

/-- The fault ring with a new current entry (R393, R394): the old one loses CUR, entry t mod 8 is written. -/
def Ctx.pushFault (x : Ctx) (tpc tval fpc : Word) (act dbl deflt : Bool) (hlp : Nat) (cause : Cause) : Ctx :=
  let t : BitVec 16 := x.tseq + 1#16
  let cleared : Vector FaultEntry 8 :=
    match x.curEntry with
    | some i => x.faults.set i.val
        ⟨(x.faults.get i).tpc, (x.faults.get i).tval, (x.faults.get i).fpc, setBit (x.faults.get i).info 63 false⟩ i.isLt
    | none => x.faults
  let e : FaultEntry := ⟨tpc, tval, fpc, infoWord true act dbl deflt x.priv t hlp cause⟩
  { x with faults := cleared.setIfInBounds (t.toNat % 8) e }

/-- The cause of a code; a code that no cause has is none that an entry holds. -/
def Cause.ofCode (n : Nat) : Cause :=
  ([.illegal, .profile, .priv, .align, .page, .access, .staleGen, .codeAbsent, .deriveCycle, .deriveDepth, .derivedWrite, .wsGuard, .rqOvf,
    .restoreBad, .stop, .uncorr, .bkpt, .sysCall].find? fun c => Cause.code c == n).getD .coproc

/-- A home fault among others in program order (R67). -/
def insertFault (f : HomeFault) : List HomeFault → List HomeFault
  | [] => [f]
  | g :: rest => if f.po < g.po then f :: g :: rest else g :: insertFault f rest

/-- The faults of a context that no park has taken, in the order in which parks take them: its home faults in program order, then its late
ones (R67): cause, TVAL, address of the word. -/
def Ctx.pending (x : Ctx) : List (Cause × Word × Word) :=
  ((x.homeFaults.foldl (fun l f => insertFault f l) []).map fun f => (f.cause, f.tval, f.fpc)) ++ x.late.map fun p => (.coproc, p.1, p.2)

/-- The place in the fault ring of the `k`-th fault that a stop keeps: the entry of the trap that comes `k + 1` traps from now. -/
def Ctx.keptSlot (x : Ctx) (k : Nat) : BitVec 16 := x.tseq + BitVec.ofNat 16 (k + 1)

/-- A fault entry is one that a stop has kept for a trap number (R84). -/
def FaultEntry.kept (e : FaultEntry) (t : BitVec 16) : Bool :=
  ! e.info.getLsbD 63 && ! e.info.getLsbD 62 && e.info.getLsbD 60 && e.info.extractLsb' 32 16 == t

/-- The faults that no park has taken kept in the fault ring (R67, R82, R84): behind the current entry, in the entries of the traps that
come next, none of them current. The entry behind the last of them does not pass for one of theirs. DESIGN CHOICE: the ring's place and form for them; log
entry 29. -/
def Ctx.recordLate (x : Ctx) : Ctx :=
  let e := fun (k : Nat) (f : Cause × Word × Word) =>
    (⟨x.pc, f.2.1, f.2.2, infoWord false false false true x.priv (x.keptSlot k) 0 f.1⟩ : FaultEntry)
  let kept := x.pending.zipIdx.foldl (fun (v : Vector FaultEntry 8) p => v.setIfInBounds ((x.keptSlot p.2).toNat % 8) (e p.2 p.1)) x.faults
  let last := (x.keptSlot x.pending.length).toNat % 8
  let g := (kept[last]?).getD .zero
  let cleared :=
    if g.kept (x.keptSlot x.pending.length) then kept.setIfInBounds last ⟨g.tpc, g.tval, g.fpc, setBit g.info 60 false⟩ else kept
  { x with faults := cleared, late := [], homeFaults := [] }

/-- The faults that a fault ring keeps, in their order (R84). -/
def Ctx.kept (x : Ctx) : List (Cause × Word × Word) :=
  ((List.range 7).map fun k => (x.keptSlot k, (x.faults[(x.keptSlot k).toNat % 8]?).getD .zero))
    |>.takeWhile (fun p => p.2.kept p.1) |>.map fun p => (Cause.ofCode (p.2.info.extractLsb' 0 8).toNat, p.2.tval, p.2.fpc)

/-- The late faults that a fault ring keeps (R84). -/
def Ctx.keptLate (x : Ctx) : List (Word × Word) := (x.kept.filter fun p => p.1 == .coproc).map Prod.snd

/-- The home faults that a fault ring keeps (R67). -/
def Ctx.keptHome (x : Ctx) : List HomeFault := (x.kept.filter fun p => p.1 != .coproc).map fun p => ⟨0, p.1, p.2.1, p.2.2⟩

/-- The fault ring without the faults that it keeps. -/
def Ctx.faultsTaken (x : Ctx) : Vector FaultEntry 8 :=
  (List.range x.kept.length).foldl (fun (v : Vector FaultEntry 8) k => v.setIfInBounds ((x.keptSlot k).toNat % 8) FaultEntry.zero) x.faults

/-! ## Windows (R69) -/

/-- The bytes the ring spans (R69). -/
def Ctx.span (x : Ctx) : Nat := x.cap.toNat * 192

/-- Ring(x) as a local offset (R69): the difference counts as a signed number, so that a step below FRB wraps to the top. -/
def Ctx.ring (x : Ctx) (a : Word) : Word :=
  x.frb + BitVec.ofInt 64 ((a - x.frb).toInt % (x.span : Int))

/-- A word that names a slot of the ring: FRB + k × 192 with k below CAP (R69, R90). -/
def Ctx.isSlot (x : Ctx) (w : Word) : Bool :=
  decide (x.frb.toNat ≤ w.toNat) && decide ((w.toNat - x.frb.toNat) % 192 = 0)
    && decide ((w.toNat - x.frb.toNat) / 192 < x.cap.toNat)

/-- The window is read linearly, without the ring: it is the trap window or the shadow window (R78, R393). DEDUCED: a WP that is
no slot of the ring is read linearly as well, which covers the words between a handler's write of ACT and of WP; log entry 11. -/
def Ctx.linear (x : Ctx) : Bool :=
  (x.act && x.wp == x.twb) || (x.nact && x.wp == x.nwin) || ! x.isSlot x.wp

/-- WinAddr(wp, n) of the ring (R69). -/
def Ctx.ringAddr (x : Ctx) (wp : Word) (n : Nat) : Word := x.ring (wp + BitVec.ofNat 64 (8 * n))

/-- The local offset of register n of the current window (R69, R78, R393). -/
def Ctx.regOff (x : Ctx) (n : Nat) : Word :=
  if x.linear then x.wp + BitVec.ofNat 64 (8 * n) else x.ringAddr x.wp n

/-- The physical address of a register of a context: the registers are local memory (R69). -/
def regPa (u : Nat) (x : Ctx) (r : Reg) : Nat := localPa u (x.regOff r.toNat).toNat

/-- Win[r] of a context (R8, R69). -/
def State.reg (s : State) (u c : Nat) (r : Reg) : Word := s.mem.read64 (regPa u (s.ctx u c) r)

/-- The state with Win[r] of a context written. -/
def State.setReg (s : State) (u c : Nat) (r : Reg) (w : Word) : State :=
  { s with mem := s.mem.write64 (regPa u (s.ctx u c) r) w }

/-- Win[r] of the issuing context. -/
def State.g (s : State) (r : Reg) : Word := s.reg s.cur s.c r

/-- The state with Win[r] of the issuing context written. -/
def State.setG (s : State) (r : Reg) (w : Word) : State := s.setReg s.cur s.c r w

/-- The PC of the issuing context. -/
def State.pc (s : State) : Word := s.cx.pc

/-- The state with the PC of the issuing context set. -/
def State.setPc (s : State) (w : Word) : State := s.modC fun x => { x with pc := w }

/-- The 58-bit PC, its bits 1:0 zero, that a doubleword gives (R47). -/
def pcOf (w : Word) : Word := w &&& 0x03FFFFFFFFFFFFFC#64

/-- The issuing context passes to the next word, with P the PC (R47). DESIGN CHOICE: past the last word of the 58-bit space the PC is
2^58, where no overlay lies; log entry 79. -/
def State.advance (s : State) : State := s.setPc (s.pc + 4#64)

/-- A meaning's answer: the next state, past the word. -/
def State.done (s : State) : Out := .next s.advance

/-- The next number in program order, and the state that has used it. -/
def State.tick (s : State) : State := { s with po := s.po + 1 }

/-- The state that has used a free value. -/
def State.useFree (s : State) : State := { s with free := s.free + 1 }

/-- A context has an outstanding deferred result more (R66). -/
def State.defer (s : State) (u c : Nat) (d : Reg) (src : DefSrc) : State :=
  { (s.modCtx u c fun x => { x with defs := x.defs ++ [⟨d, s.po, src, 0#5⟩] }) with po := s.po + 1 }

/-- Defer(g, x) of R8 for the issuing context: the value lands at its next park. -/
def State.deferG (s : State) (d : Reg) (w : Word) : State := s.defer s.cur s.c d (.value w)

/-- A value and its flags deferred for the issuing context (R212). -/
def State.deferF (s : State) (d : Reg) (w : Word) (f : BitVec 5) : State :=
  { (s.modC fun x => { x with defs := x.defs ++ [⟨d, s.po, .value w, f⟩] }) with po := s.po + 1 }

/-- The answer that a home or unit gives to a deferred result. -/
def State.answer (s : State) (u c id : Nat) (src : DefSrc) : State :=
  s.modCtx u c fun x => { x with defs := x.defs.map fun e => if e.id = id then { e with src := src } else e }

/-! ## The context block and its seal (R74, R75, R76, R409) -/

/-- CTLW as a word (R75). -/
def Ctx.ctlw (x : Ctx) : Word :=
  0#40 ++ BitVec.ofBool x.nact ++ BitVec.ofBool x.npend ++ 0#9 ++ x.fxs ++ x.frm ++ BitVec.ofBool x.ve ++ 0#2 ++ levelCode x.priv

/-- FRS as a word (R76). -/
def Ctx.frs (x : Ctx) : Word := x.spilled ++ 0#16 ++ x.res ++ x.cap

/-- The CSEQ field with its replay record (R228). -/
def Ctx.cseqWord (x : Ctx) : Word :=
  BitVec.ofBool x.replay.rv ++ x.replay.dist ++ x.replay.pass ++ x.replay.word ++ 0#24 ++ x.cseq

/-- The doublewords of the block from offset 0x000 to 0x1FF, the PC first (R74, R324, R391). -/
def Ctx.blockWords (x : Ctx) : List Word :=
  [x.pc, x.wp, x.frb, x.frs, x.bsp, x.ctlw, x.lmoor, x.nhpc, x.nhwp, x.cseqWord, x.msp, x.srseed.setWidth 64,
    x.tkanc, x.tkd3, x.tkslc, x.tkhome] ++ List.replicate 16 0#64
    ++ x.faults.toList.flatMap fun e => [e.tpc, e.tval, e.fpc, e.info]

/-- The bytes of a vector register, lane 0 first (R74). -/
def vbytes (v : BitVec 2048) : List Byte := bytesOfNat 256 v.toNat

/-- The bytes of a block: 512, or 4,608 with the vector registers when VE = 1 (R74). -/
def Ctx.blockBytes (x : Ctx) : List Byte :=
  (x.blockWords.flatMap fun w => bytesOf 8 w) ++ (if x.ve then x.vregs.toList.flatMap vbytes else [])

/-- The size of a context's block (R74). -/
def Ctx.blockSize (x : Ctx) : Nat := if x.ve then 0x1200 else 0x200

/-- One bit of CRC-64: shift the register, and fold the polynomial in when the outgoing bit differs (R409). -/
def crcBit (crc : BitVec 64) (b : Bool) : BitVec 64 :=
  let out := crc.msb != b
  let shifted := crc <<< 1
  if out then shifted ^^^ 0x42F0E1EBA9EA3693#64 else shifted

/-- One byte of CRC-64, most significant bit first (R409). -/
def crcByte (crc : BitVec 64) (b : Byte) : BitVec 64 :=
  [7, 6, 5, 4, 3, 2, 1, 0].foldl (fun acc i => crcBit acc (b.getLsbD i)) crc

/-- CRC-64 over bytes in increasing address order (R409). -/
def crc64 (bs : List Byte) : Word := ~~~ (bs.foldl crcByte (BitVec.allOnes 64))

/-- Doublewords 1 to 7 of a seal record (R409). -/
def sealWords (sv deflt : Bool) (asr ptroot twb : Word) : List Word :=
  [BitVec.ofBool sv ++ BitVec.ofBool deflt ++ 0#18 ++ asr.extractLsb' 32 12 ++ 0#16 ++ asr.extractLsb' 0 16,
    ptroot, twb, 0#64, 0#64, 0#64, 0#64]

/-- The CB pointer of a context slot (R414). -/
def State.cbOf (s : State) (u c : Nat) : Word :=
  match (s.unit u).cb[c]? with
  | some w => w
  | none => 0#64

/-- Memory with a list of bytes written at a local offset of a unit. -/
def State.setLocal (s : State) (u off : Nat) (bs : List Byte) : State :=
  { s with mem := s.mem.writeBytes (localPa u off) bs }

/-- The bytes of local memory at an offset of a unit. -/
def State.getLocal (s : State) (u off n : Nat) : List Byte := s.mem.readBytes (localPa u off) n

/-- The offset of the seal record of the block in memory at a CB pointer: by the VE bit the block holds (R409). DEDUCED, log entry 19. -/
def State.sealOff (s : State) (u : Nat) (cb : Word) : Nat :=
  if (s.loc64 u (cb.toNat + 0x28)).getLsbD 4 then cb.toNat + 0x1200 else cb.toNat + 0x200

/-- The seal record written over the block in memory as it stands (R409, R410). -/
def State.writeSeal (s : State) (u : Nat) (cb : Word) (sv deflt : Bool) (asr ptroot twb : Word) : State :=
  let so := s.sealOff u cb
  let rest := (sealWords sv deflt asr ptroot twb).flatMap fun w => bytesOf 8 w
  let crc := crc64 (s.getLocal u cb.toNat (so - cb.toNat) ++ rest)
  s.setLocal u so (bytesOf 8 crc ++ rest)

/-- A context that issues no more: nothing of its parks remains. -/
def Ctx.retired (x : Ctx) : Ctx :=
  { x with
    live := false, npend := false, parking := false, why := .segment, parked := false, stuck := false, holding := false, resuming := false, seg := 0
    wait := none, asleep := false, woken := false, latch := none, stopDue := false, held := false, awaiting := false }

/-- A context's block, its late faults in its fault ring, written to its place in local memory and sealed with SV = 1 and DEF as
given; the context is no longer live (R84, R394, R409). -/
def State.saveCtx (s : State) (u c : Nat) (deflt : Bool) : State :=
  let x := (s.ctx u c).recordLate
  let cb := s.cbOf u c
  let s1 := s.setLocal u cb.toNat x.blockBytes
  let s2 := s1.writeSeal u cb true deflt x.asr x.ptroot x.twb
  s2.setCtx u c x.retired

/-- Outstanding deferred results land in program order; those that faulted keep the register (R66, R67). -/
def State.land (s : State) (u c : Nat) : State :=
  let ds := (s.ctx u c).defs
  let s1 := ds.foldl (fun acc e => match e.src with | .value v => acc.setReg u c e.dst v | _ => acc) s
  let fl := ds.foldl (fun acc e => match e.src with | .value _ => acc ||| e.flags | _ => acc) 0#5
  s1.modCtx u c fun x => { x with defs := [], awaiting := false, fxs := x.fxs ||| fl }

/-- A fault entry read from memory at a local offset, INFO's reserved bits zero (R6, R391). -/
def State.readEntry (s : State) (u off : Nat) : FaultEntry :=
  ⟨s.loc64 u off, s.loc64 u (off + 8), s.loc64 u (off + 16), s.loc64 u (off + 24) &&& 0xFC00FFFF00000FFF#64⟩

/-- LMOOR without its reserved bits (R6, R110). -/
def lmoorOf (w : Word) : Word := w &&& 0xE0000000000FFFFF#64

/-- PTROOT without its reserved bits (R6, R401). -/
def ptrootOf (w : Word) : Word := w &&& 0x000FFFFFFFFFC000#64

/-- TKHOME without its reserved bits (R6, R324). -/
def tkhomeOf (w : Word) : Word := w &&& 0xE000FFFFFFFF7FFF#64

/-- A context with the fields that a block in local memory holds (R74); a reserved field reads as zero (R6). -/
def State.blockCtx (s : State) (u : Nat) (cb : Word) (old : Ctx) : Ctx :=
  let o := cb.toNat
  let dw := fun (i : Nat) => s.loc64 u (o + i)
  let frs := dw 0x18
  let ctl := dw 0x28
  let cs := dw 0x48
  { old with
    pc := pcOf (dw 0x00)
    wp := dw 0x08
    frb := dw 0x10
    cap := frs.extractLsb' 0 8
    res := frs.extractLsb' 8 8
    spilled := frs.extractLsb' 32 32
    bsp := dw 0x20
    nact := ctl.getLsbD 23
    npend := ctl.getLsbD 22
    fxs := ctl.extractLsb' 8 5
    frm := ctl.extractLsb' 5 3
    ve := ctl.getLsbD 4
    priv := levelOfCode (ctl.extractLsb' 0 2)
    lmoor := lmoorOf (dw 0x30)
    nhpc := dw 0x38
    nhwp := dw 0x40
    cseq := cs.extractLsb' 0 16
    replay := ⟨cs.getLsbD 63, pcOf (dw 0x00), cs.extractLsb' 52 11, cs.extractLsb' 44 8, cs.extractLsb' 40 4⟩
    msp := dw 0x50
    srseed := (dw 0x58).extractLsb' 0 32
    tkanc := dw 0x60
    tkd3 := dw 0x68
    tkslc := dw 0x70
    tkhome := tkhomeOf (dw 0x78)
    faults := Vector.ofFn fun i => s.readEntry u (o + 0x100 + 32 * i.val)
    vregs := if ctl.getLsbD 4 then
        Vector.ofFn fun i => BitVec.ofNat 2048 (natOfBytes (s.getLocal u (o + 0x200 + 256 * i.val) 256))
      else old.vregs }

/-- The context that a block in local memory and its seal record describe, live (R74, R83, R409): the faults that its ring keeps are pending
again (R67, R84). The shadow window of a running notice handler is the window that it runs on, or that the trap handler which interrupts it has
saved (R78, R393). `old` gives what is the slot's and not the block's. -/
def State.loadCtx (s : State) (u : Nat) (cb : Word) (old : Ctx) : Ctx :=
  let so := s.sealOff u cb
  let x := s.blockCtx u cb old
  let twb := s.loc64 u (so + 24)
  { Ctx.reset (kindOf u) 0 with
    live := true
    pc := x.pc
    wp := x.wp
    frb := x.frb
    cap := x.cap
    res := x.res
    spilled := x.spilled
    bsp := x.bsp
    nact := x.nact
    npend := x.npend || old.npend
    fxs := x.fxs
    frm := x.frm
    ve := x.ve
    priv := x.priv
    lmoor := x.lmoor
    nhpc := x.nhpc
    nhwp := x.nhwp
    nwin := if x.act then s.loc64 u (twb.toNat + 160) else x.wp
    resuming := true
    cseq := x.cseq
    replay := x.replay
    msp := x.msp
    srseed := x.srseed
    tkanc := x.tkanc
    tkd3 := x.tkd3
    tkslc := x.tkslc
    tkhome := x.tkhome
    faults := x.faultsTaken
    vregs := x.vregs
    asr := s.loc64 u (so + 8) &&& 0x00000FFF0000FFFF#64
    ptroot := ptrootOf (s.loc64 u (so + 16))
    twb := twb
    ctab := old.ctab
    drsel := old.drsel
    drply := old.drply
    dring := old.dring
    lid := old.lid
    arb := old.arb
    chk := old.chk
    pe := old.pe
    sel := old.sel
    late := x.keptLate
    redo := none
    firmware := false
    homeFaults := x.keptHome }

/-! ## Errors (R412) -/

/-- SRC of ERRLOG (R412). -/
def errSrcCode : ErrSrc → BitVec 5
  | .scalar => 1#5
  | .vector => 2#5
  | .matrix => 3#5
  | .array => 4#5
  | .localSram => 5#5
  | .siltSram => 6#5
  | .dram => 7#5

/-- ERRLOG after an error more (R412): the first one stands until it is read. DEDUCED, log entry 61. -/
def logError (w : Word) (src : ErrSrc) (addr : BitVec 52) (corrected : Bool) : Word :=
  if w.getLsbD 63 then w ||| (1#64 <<< 62) else 1#1 ++ 0#1 ++ BitVec.ofBool (! corrected) ++ errSrcCode src ++ 0#4 ++ addr

/-- An error logged by a unit (R412). -/
def State.logErr (s : State) (u : Nat) (src : ErrSrc) (addr : BitVec 52) (corrected : Bool) : State :=
  s.modUnit u fun x => { x with errlog := logError x.errlog src addr corrected }

/-- An error stands at a place: `some true` where neither a retry nor a code mends it (R269, R290, R412). -/
def State.upsetAt (s : State) (src : ErrSrc) (at_ : Nat) : Option Bool :=
  match s.upsets.filter fun e => e.src == src && e.at_ == at_ with
  | [] => none
  | l => some (l.any fun e => e.uc)

/-! ## Stopping a helper, taking a trap -/

/-- Bit n of HEND set (R326). -/
def State.setHend (s : State) (u n : Nat) : State :=
  s.modUnit u fun x => { x with hend := x.hend ||| (1#11 <<< n) }

/-- Bit n of HDEAD set (R394). -/
def State.setHdead (s : State) (u n : Nat) : State :=
  s.modUnit u fun x => { x with hdead := x.hdead ||| (1#11 <<< n) }

/-- The address of the EPOP, MPOP or NRWAIT that a source stands for. -/
def DefSrc.popPc : DefSrc → Option Word
  | .epop f | .mpop f | .nrwait f => some f
  | _ => none

/-- The sleep of an EPOP, MPOP or NRWAIT cancelled: the PC is left at the first such word (R380), and what the park was for beyond it comes
again when the context has issued up to there. DEDUCED for EPOP and MPOP, whose sleeps
R68 lists beside NRWAIT's; log entry 12. -/
def State.cancelPops (s : State) (u c : Nat) : State :=
  match (s.ctx u c).defs.findSome? fun e => e.src.popPc with
  | none => s
  | some f =>
    s.modCtx u c fun x => { x with pc := f, defs := x.defs.filter fun e => e.src.popPc == none, why := .segment, parked := false, wait := none }

/-- The request of lowest program order of a list. -/
def firstReq : List Req → Option Req
  | [] => none
  | r :: rest =>
    match firstReq rest with
    | none => some r
    | some q => if q.po < r.po then some q else some r

/-- The sleep of a refused AMERGE or a held SEND cancelled: the PC is left at the word, of several at the first in program order, and
what was held is dropped (R138, R176). -/
def State.cancelBlocked (s : State) (u c : Nat) : State :=
  let l := (s.ctx u c).blocked
  match firstReq l with
  | none => s
  | some r =>
    let s1 := s.modCtx u c fun x => { x with pc := r.fpc, blocked := [], stuck := false, why := .segment, parked := false, wait := none }
    s1.units.foldl (fun acc v =>
      if v.2.heldMsgs = [] then acc
      else acc.modUnit v.1 fun x =>
        { x with heldMsgs := x.heldMsgs.filter fun o => match o with | .msg r => ! l.contains r | .handOff _ => true }) s1

/-- A context without a contribution or message that has been accepted: with the last of them it is ready again (R68, R138). -/
def Ctx.unblocked (x : Ctx) (r : Req) : Ctx :=
  { x with
    blocked := x.blocked.filter fun o => o != r
    stuck := x.stuck && (x.blocked.filter fun o => o != r) != [] }

/-- The repetition of a context. -/
def State.replayOf (s : State) (u c : Nat) : Option Replay := (s.unit u).replay.find? fun r => r.ctx == c

/-- A replay runs for a context: its pass 0 has issued whole (R226). -/
def State.replaying (s : State) (u c : Nat) : Bool :=
  match s.replayOf u c with
  | some r => r.body.length == r.len
  | none => false

/-- The state without a context's repetition. -/
def State.dropReplay (s : State) (u c : Nat) : State :=
  s.modUnit u fun x => { x with replay := x.replay.filter fun r => r.ctx != c }

/-- A replay of the context halted between two words, its record written above CSEQ (R227, R228). -/
def State.haltReplay (s : State) (u c : Nat) : State :=
  match s.replayOf u c with
  | none => s
  | some r =>
    (s.dropReplay u c).modCtx u c fun x =>
      { x with replay := ⟨true, x.pc, ((x.pc - r.base) >>> 2).setWidth 11, BitVec.ofNat 8 r.pass, BitVec.ofNat 4 r.word⟩ }

/-- A command with a number and a ring entry; a layout change has none (R272). -/
def numbered : Instr → Bool
  | .wrsr _ _ => false
  | _ => true

/-- An array command of a context waits at its slice; one that a stop has marked does not count (R289, R291). -/
def State.arrayBusy (s : State) (u c : Nat) : Bool :=
  match kindOf u with
  | .slice => (s.slice (u - Config.sliceUnit0)).fifo.any fun k => k.ctx == c && ! k.halted
  | _ => false

/-- An array command of a context that a stop has marked has not been dispatched again (R291). -/
def State.arrayMarked (s : State) (u c : Nat) : Bool :=
  match kindOf u with
  | .slice => (s.slice (u - Config.sliceUnit0)).fifo.any fun k => k.ctx == c && k.lid == (s.ctx u c).lid && k.halted
  | _ => false

/-- A coprocessor instruction that a context has dispatched stands in a queue. -/
def State.copQueued (s : State) (u c : Nat) : Bool :=
  let x := s.unit u
  (x.vq.any fun k => k.ctx == c) || (x.matrix.fifo.any fun k => k.ctx == c) || s.arrayBusy u c

/-- A dispatched coprocessor instruction of a context has not completed, or a replay of the context runs. -/
def State.copBusy (s : State) (u c : Nat) : Bool := s.copQueued u c || s.replaying u c

/-- A helper stops as STOPH stops it: a sleep is cancelled, its results land, its block is written and sealed (R84, R408). -/
def State.stopHelper (s : State) (u n : Nat) (deflt : Bool) : State :=
  ((((s.cancelPops u n).cancelBlocked u n).haltReplay u n).land u n).saveCtx u n deflt

/-- Near mode of a pseudo-channel. -/
def State.nearOf (s : State) (p : Nat) : Near := SMap.get s.near p Near.reset

/-- The state with near mode of a pseudo-channel changed. -/
def State.modNear (s : State) (p : Nat) (f : Near → Near) : State := { s with near := SMap.put s.near p (f (s.nearOf p)) }

/-- The pseudo-channel of a stack near unit. -/
def pchOf (u : Nat) : Nat := u - Config.stackUnit0

/-- A trap of the context that owns a near-mode sequence cancels it (R368). -/
def State.cancelSequence (s : State) (u c : Nat) : State :=
  match kindOf u with
  | .stack =>
    let x := s.nearOf (pchOf u)
    if x.step ≠ 0 ∧ x.owner = c then s.modNear (pchOf u) fun y => { y with step := 0 } else s
  | _ => s

/-- A helper that has double-trapped stops defunct, with its bits of HEND and HDEAD (R394). -/
def State.stopDefunct (s : State) (u n : Nat) : State := ((s.stopHelper u n true).setHend u n).setHdead u n

/-- A double trap (R394): the entry is recorded with DBL = 1 and ACT = 0; a helper stops defunct, the control context stops its
unit. A helper's coprocessor instructions complete first (R84). What the hub then does with the unit's launches is `failUnit` of Hub.lean, which the callers of this operation add. -/
def State.doubleTrap (s : State) (u c : Nat) (tpc tval fpc : Word) (deflt : Bool) (hlp : Nat) (cause : Cause) : State :=
  let s1 := s.modCtx u c fun x => x.pushFault tpc tval fpc false true deflt hlp cause
  if c = 0 then s1.modUnit u fun x => { x with halted := true }
  else if s1.copQueued u c then s1.modCtx u c fun x => { x with parking := true, why := .defunct }
  else s1.stopDefunct u c

/-- The handler's PC: MTVEC at M level, else TVEC (R393). -/
def State.handlerPc (s : State) (u c : Nat) : Word :=
  match (s.ctx u c).priv with
  | .m => (s.unit u).mtvec
  | _ => (s.unit u).tvec

/-- An access of `n` bytes at an offset meets a region. -/
def meets (off n base len : Nat) : Bool := decide (off < base + len) && decide (base < off + n)

/-- The context block of a live context holds some byte of the access (R77). -/
def State.inBlock (s : State) (u c off n : Nat) : Bool :=
  (s.ctx u c).live && meets off n (s.cbOf u c).toNat (s.ctx u c).blockSize

/-- A doubleword stored by trap entry or by a notice: it overwrites whatever lies there, the fields of a live context's block included
(R78, R392). -/
def State.windowStore (s : State) (u off : Nat) (w : Word) : State :=
  let s1 := s.setLoc64 u off w
  (List.range 11).foldl (fun acc c =>
    if s.inBlock u c off 8 then
      let s2 := (s.setLocal u (s.cbOf u c).toNat (s.ctx u c).blockBytes).setLoc64 u off w
      acc.setCtx u c (s2.blockCtx u (s.cbOf u c) (s.ctx u c))
    else acc) s1

/-- The four stores into the window at a local offset: WP, a PC, g22 and g23 (R78, R393). -/
def State.windowStores (s : State) (u t : Nat) (wp pc g22 g23 : Word) : State :=
  (((s.windowStore u (t + 160) wp).windowStore u (t + 168) pc).windowStore u (t + 176) g22).windowStore u (t + 184) g23

/-- TAKING AN EXCEPTION (R393): the entry of the fault ring, the four stores into the trap window, the level, the PC and the
window; a double trap when a handler runs already or no handler is set. A helper that a STOP waits for parks before the handler's first
word (R407). -/
def State.enterTrap (s : State) (u c : Nat) (tpc tval fpc : Word) (deflt : Bool) (hlp : Nat) (cause : Cause) : State :=
  let x := s.ctx u c
  if x.act || s.handlerPc u c == 0#64 then (s.cancelSequence u c).doubleTrap u c tpc tval fpc deflt hlp cause
  else
    let g22 := s.reg u c 22#5
    let g23 := s.reg u c 23#5
    let s1 := (s.cancelSequence u c).modCtx u c fun y => y.pushFault tpc tval fpc true false deflt hlp cause
    (s1.windowStores u x.twb.toNat x.wp tpc g22 g23).modCtx u c fun y =>
      { y with
        pc := pcOf (s.handlerPc u c)
        priv := (match x.priv with | .m => .m | _ => .s)
        wp := x.twb
        seg := 0, parking := y.stopDue, why := .segment, parked := false, holding := false, resuming := false
        wait := none, asleep := false, woken := false, latch := none }

/-- A transfer target that R62 accepts, or the trap it takes. -/
def checkTarget (t : Word) : Option Cause :=
  if t.extractLsb' 0 2 ≠ 0#2 then some .align
  else if t.extractLsb' 58 6 ≠ 0#6 then some .access
  else none

/-! ## Guarded regions (R77, R392) -/

/-- A local offset lies in the `n` bytes from a base on. -/
def inRegion (off base n : Nat) : Bool := decide (base ≤ off) && decide (off < base + n)

/-- The frame ring, the shadow window of a running notice handler or the trap window of a running trap handler of a live context
holds some byte of the access (R77, R392). -/
def State.inWindows (s : State) (u c off n : Nat) : Bool :=
  let x := s.ctx u c
  x.live && (meets off n x.frb.toNat x.span || (x.nact && meets off n x.nwin.toNat 256)
    || (x.act && meets off n x.twb.toNat 256))

/-- Some live context of the unit other than `me` guards some byte of the access (R77). -/
def State.guardedByOther (s : State) (u : Nat) (me : Option Nat) (off n : Nat) : Bool :=
  (List.range 11).any fun c => ! (me == some c) && (s.inBlock u c off n || s.inWindows u c off n)

end Sys2Proof.Machine
end

