-- ==== Sys2Proof/Machine/Places.lean ====
section
/-! DEFINITION. Physical memory: the windows of 01_machine R25 to R28, the interleave and the silt plots of 06_memory R111 to
R114, and the derived tiles of 14_derive R295 to R304, which a read must find fresh. -/

namespace Sys2Proof.Machine

/-- Where a physical address leads (R25, R28). -/
inductive Place where
  | dram (p off : Nat)
  | silt (sl off : Nat)
  | loc (u off : Nat)
  | host
  | peer (n pa : Nat)
  | control
  | unbacked
  deriving DecidableEq, Repr

/-- What early service enables: die 0, with no DRAM and no stack (R430). -/
def earlyUnit : PartUnit → Bool
  | .farCore c => decide (c < 128)
  | .slice k => decide (k < 128)
  | .matrix k => decide (k < 8)
  | .pseudoChannel _ | .stackUnit _ => false
  | .lane _ => true

/-- A unit of the part is enabled (R2), and in early service already (R430). -/
def State.on (s : State) (x : PartUnit) : Bool := ! s.disabled.contains x && (s.stage != 3#4 || earlyUnit x)

/-- Every unit of the full part is enabled. -/
def State.whole (s : State) : Bool := s.disabled == [] && s.stage != 3#4

/-- A pseudo-channel is enabled: it and its stack (R2). -/
def State.pchOn (s : State) (p : Nat) : Bool := s.on (.pseudoChannel p) && s.on (.stackUnit (p / 64))

/-- A programmable unit is enabled: the far core, the slice or the pseudo-channel it stands at (R2, R26). -/
def State.unitOn (s : State) (u : Nat) : Bool :=
  match kindOf u with
  | .far => s.on (.farCore u)
  | .slice => s.on (.slice (u - Config.sliceUnit0))
  | .stack => decide (u < Config.unitCount) && s.pchOn (u - Config.stackUnit0)

/-- The enabled pseudo-channels in increasing order (R111). -/
def State.pchs (s : State) : List Nat := (List.range 512).filter s.pchOn

/-- The number of enabled pseudo-channels, E of R111. -/
def State.pchCount (s : State) : Nat := if s.whole then 512 else s.pchs.length

/-- The bytes of enabled DRAM (R25). A large number stands before the sum or product that it belongs to, here and below, so that the kernel
never counts it down. -/
def State.dramSize (s : State) : Nat := 0x40000000 * s.pchCount

/-- The pseudo-channel with an enabled number (R111). -/
def State.pchNumber (s : State) (k : Nat) : Nat := if s.whole then k else s.pchs.getD k 0

/-- The peer's physical address that an offset of its window maps (R26, R28); `none` where the offset is unbacked. -/
def peerPa (o : Nat) : Option Nat :=
  if o < 0x8000000000 then some o
  else if 0x8000000000 ≤ o ∧ o < 0x8040000000 then
    (if o % 0x200000 < 0x180000 then some (0x800000000000 + o % 0x40000000) else none)
  else if 0xC000000000 ≤ o ∧ o < 0xC010000000 then some (0x900000000000 + o % 0x10000000)
  else if 0xC100000000 ≤ o ∧ o < 0xC104000000 then some (0x910000000000 + o % 0x4000000)
  else none

/-- The place of a physical address (R25, R26, R28, R111). -/
def State.place (s : State) (pa : Nat) : Place :=
  if pa < s.dramSize then
    let g := pa / 4096
    let q := g / s.pchCount
    .dram (s.pchNumber ((g % s.pchCount + q) % s.pchCount)) (q * 4096 + pa % 4096)
  else if 0x800000000000 ≤ pa ∧ pa < 0x800040000000 then
    let sl := pa / 0x200000 % 512
    let off := pa % 0x200000
    if off < 0x180000 ∧ s.on (.slice sl) then .silt sl off else .unbacked
  else if 0x900000000000 ≤ pa ∧ pa < 0x900010000000 then
    let c := pa / 0x80000 % 512
    if s.on (.farCore c) then .loc c (pa % 0x80000) else .unbacked
  else if 0x910000000000 ≤ pa ∧ pa < 0x910004000000 then
    let u := Config.sliceUnit0 + pa / 0x10000 % 1024
    if s.unitOn u then .loc u (pa % 0x10000) else .unbacked
  else if 0xA00000000000 ≤ pa ∧ pa < 0xC00000000000 then .host
  else if 0xC00000000000 ≤ pa ∧ pa < 0xE00000000000 then
    let n := pa / 0x10000000000 % 32
    match peerPa (pa % 0x10000000000) with
    | some p => if n ≠ s.dev then .peer n p else .unbacked
    | none => .unbacked
  else if 0xE00000000000 ≤ pa ∧ pa < 0xF00000000000 then .control
  else .unbacked

/-- The address is backed (R25, R26, R28). -/
def State.backed (s : State) (pa : Nat) : Bool := s.place pa != .unbacked

/-- The home number of a place, for the floors, merge tables and traces of this device (R21, R111, R112). -/
def Place.home : Place → Option Nat
  | .dram p _ => some (512 + p)
  | .silt sl _ => some sl
  | .loc u _ => some (1024 + u)
  | _ => none

/-! ## Silt plots (R113, R114, R270) -/

/-- A plot of a slice. -/
def Slice.plot (x : Slice) (m : Nat) : Plot := SMap.get x.plots m Plot.reset

/-- The physical base of a slice's silt (R25). -/
def siltBase (sl : Nat) : Nat := 0x800000000000 + 0x200000 * sl

/-- The raw bit number, within a plot, of a row and column of one of its arrays: raw bytes stand in word order (R270). -/
def rawBit (array row col : Nat) : Nat := 131072 * array + 512 * row + col

/-- The raw bit of a plot that holds bit `g` of the plot as a load sees it (R113, R114). -/
def Plot.rawOf (x : Plot) (g : Nat) : Nat :=
  if x.plane then
    let n := 2 ^ x.wid.toNat
    let e := g / n
    let c := e % 2048
    rawBit (c / 512) (e / 2048 * n + g % n) (c % 512)
  else g

/-- One raw bit of a plot. -/
def State.siltBit (s : State) (sl m k : Nat) : Bool :=
  (s.mem.read (siltBase sl + 0x10000 * m + k / 8)).getLsbD (k % 8)

/-- The state with one raw bit of a plot written. -/
def State.setSiltBit (s : State) (sl m k : Nat) (b : Bool) : State :=
  let a := siltBase sl + 0x10000 * m + k / 8
  let old := s.mem.read a
  let bitv : Byte := 1#8 <<< (k % 8)
  { s with mem := s.mem.write a (if b then old ||| bitv else old &&& ~~~ bitv) }

/-- A byte from its bits. -/
def byteOfBits (f : Nat → Bool) : Byte :=
  BitVec.ofNat 8 ((List.range 8).foldl (fun acc i => acc + if f i then 2 ^ i else 0) 0)

/-- A byte of silt as a load sees it (R113, R114). -/
def State.siltByte (s : State) (sl off : Nat) : Byte :=
  let p := (s.slice sl).plot (off / 0x10000)
  if p.plane then
    byteOfBits fun i => s.siltBit sl (off / 0x10000) (p.rawOf (8 * (off % 0x10000) + i))
  else s.mem.read (siltBase sl + off)

/-- A byte of silt stored (R113, R114): exactly its bits change. -/
def State.setSiltByte (s : State) (sl off : Nat) (b : Byte) : State :=
  let p := (s.slice sl).plot (off / 0x10000)
  if p.plane then
    (List.range 8).foldl (fun acc i =>
      acc.setSiltBit sl (off / 0x10000) (p.rawOf (8 * (off % 0x10000) + i)) (b.getLsbD i)) s
  else { s with mem := s.mem.write (siltBase sl + off) b }

/-- The byte at a physical address of this device or of the host, as an access sees it. -/
def State.physByte (s : State) (pa : Nat) : Byte :=
  match s.place pa with
  | .silt sl off => s.siltByte sl off
  | _ => s.mem.read pa

/-- The state with the byte at a physical address written. -/
def State.setPhysByte (s : State) (pa : Nat) (b : Byte) : State :=
  match s.place pa with
  | .silt sl off => s.setSiltByte sl off b
  | .peer _ _ | .control | .unbacked => s
  | _ => { s with mem := s.mem.write pa b }

/-- The bytes from a physical address on. -/
def State.physBytes (s : State) (pa : Nat) : Nat → List Byte
  | 0 => []
  | n + 1 => s.physByte pa :: s.physBytes (pa + 1) n

/-- The state with bytes written from a physical address on. -/
def State.setPhysBytes (s : State) (pa : Nat) (bs : List Byte) : State :=
  match bs with
  | [] => s
  | b :: rest => (s.setPhysByte pa b).setPhysBytes (pa + 1) rest

/-- A doubleword at a physical address. -/
def State.phys64 (s : State) (pa : Nat) : Word := wordOf (s.physBytes pa 8)

/-- The state with a doubleword written at a physical address. -/
def State.setPhys64 (s : State) (pa : Nat) (w : Word) : State := s.setPhysBytes pa (bytesOf 8 w)

/-! ## What an access reads, writes and touches (R150) -/

/-- The size of an atomic in bytes (R131). -/
def amoSize (dbl : Bool) : Nat := if dbl then 8 else 4

/-- An access that reads (R150). -/
def reqReads (r : Req) : Bool :=
  match r.act with
  | .load _ _ _ | .atomic _ _ _ _ _ | .get _ _ _ => true
  | _ => false

/-- An access that writes (R150). -/
def reqWrites (r : Req) : Bool :=
  match r.act with
  | .load _ _ _ | .get _ _ _ => false
  | _ => true

/-- The bytes that an access touches. -/
def reqSize (r : Req) : Nat :=
  match r.act with
  | .load n _ _ => n
  | .store n _ => n
  | .atomic _ dbl _ _ _ => amoSize dbl
  | .merge _ dbl _ _ => amoSize dbl
  | .put bs _ => max bs.length 1
  | .get _ n _ => max n 1
  | .cinc _ _ => 1
  | .send _ m => max m.payload.length 1
  | .enqueue _ _ _ _ => 1
  | .spill bs => bs.length

/-- The ranges of physical addresses that an access touches: a GET writes local memory of its unit too (R167). -/
def reqSpans (r : Req) : List (Nat × Nat) :=
  match r.act with
  | .get lo n _ => [(r.pa, max n 1), (localPa r.who.unit lo, n)]
  | _ => [(r.pa, reqSize r)]

/-! ## Derived tensors (R293 to R304) -/

/-- The bit address of element (i, j) of a tensor (R295). -/
def elemBit (va pitch w i j : Nat) : Nat := 8 * (va + i * pitch) + j * w

/-- Rows and columns of the derived tensor (R295). -/
def Rule.dshape (r : Rule) : Nat × Nat :=
  match r.kind with
  | .transpose => (r.cols, r.rows)
  | .cast => (r.rows, r.cols)
  | .rowsum => (r.rows, 1)
  | .colsum => (1, r.cols)

/-- An element touches a tile of 4 KiB (R297). -/
def touchesTile (bit w tile : Nat) : Bool := decide (bit / 32768 = tile) || decide ((bit + w - 1) / 32768 = tile)

/-- The base elements that derived element (i, j) is computed from, in increasing index order (R296). -/
def Rule.sources (r : Rule) (i j : Nat) : List (Nat × Nat) :=
  match r.kind with
  | .transpose => [(j, i)]
  | .cast => [(i, j)]
  | .rowsum => (List.range r.cols).map fun k => (i, k)
  | .colsum => (List.range r.rows).map fun k => (k, j)

/-- The bit address of element (i, j) of the base. -/
def Rule.bbit (r : Rule) (i j : Nat) : Nat := elemBit r.bva r.bpitch (fmtWidth r.bfmt) i j

/-- The bit address of element (i, j) of the derived tensor. -/
def Rule.dbit (r : Rule) (i j : Nat) : Nat := elemBit r.dva r.dpitch (fmtWidth r.dfmt) i j

/-- The elements of the derived tensor, in row order. -/
def Rule.delems (r : Rule) : List (Nat × Nat) :=
  (List.range r.dshape.1).flatMap fun i => (List.range r.dshape.2).map fun j => (i, j)

/-- Derived tile `t` (a virtual tile number) depends on base tile `u` (R297). -/
def Rule.depends (r : Rule) (t u : Nat) : Bool :=
  r.delems.any fun e =>
    touchesTile (r.dbit e.1 e.2) (fmtWidth r.dfmt) t &&
      (r.sources e.1 e.2).any fun b => touchesTile (r.bbit b.1 b.2) (fmtWidth r.bfmt) u

/-- The physical tiles that depend on a physical base tile, over every registered rule whose watches stand (R297, R307). -/
def State.dependents (s : State) (ptile : Nat) : List Nat :=
  (s.rules.filter Rule.watched).flatMap fun r =>
    (r.btiles.filter fun b => b.2 == ptile).flatMap fun b =>
      (r.dtiles.filter fun d => r.depends d.1 b.1).map Prod.snd

/-- The rule that derives a physical tile. -/
def State.deriver (s : State) (ptile : Nat) : Option Rule :=
  s.rules.find? fun r => r.dtiles.any fun d => d.2 == ptile

/-- The address lies in a derived tile (R300). -/
def State.isDerived (s : State) (pa : Nat) : Bool := (s.deriver (pa / 4096)).isSome

/-- A stale mark stands on a tile (R301). -/
def State.isStale (s : State) (ptile : Nat) : Bool := s.stale.contains ptile

/-- A tile's recompute is in progress (R303). -/
def State.inProgress (s : State) (ptile : Nat) : Bool := s.recomputes.any fun x => x.tile == ptile

/-- An access reads a byte of a tile. -/
def reqTile (r : Req) (ptile : Nat) : Bool :=
  reqReads r && decide (r.pa / 4096 ≤ ptile) && decide (ptile ≤ (r.pa + reqSize r - 1) / 4096)

/-- The reads of a tile in flight that have arrived at its slice: which of them have is free (R303; log 28). -/
def State.arrived (s : State) (ptile : Nat) : List Nat :=
  (((s.flight.filter fun r => reqTile r ptile).map Req.po).zipIdx.filter fun p => Config.choose (s.free + p.2) % 2 == 1).map Prod.fst

/-- A mark that comes while a recompute of its tile is in progress marks the tile again: the reads that arrived before it are performed on the
recomputed contents (R303). -/
def State.remark (s : State) (ptile : Nat) : State :=
  if s.inProgress ptile then
    { s with
      recomputes := s.recomputes.map fun x =>
        if x.tile = ptile ∧ x.again = false then { x with again := true, ahead := s.arrived ptile } else x
      free := s.free + s.flight.length }
  else s

/-- A stale mark on a tile (R301). -/
def State.markTile (s : State) (ptile : Nat) : State :=
  (if s.stale.contains ptile then s else { s with stale := s.stale ++ [ptile] }).remark ptile

/-- Stale marks on the dependents of a tile, and on theirs, before a write to it is performed; chains are at most four deep
(R298, R301). -/
def State.markFrom (s : State) : Nat → Nat → State
  | 0, _ => s
  | fuel + 1, ptile => (s.dependents ptile).foldl (fun acc t => (acc.markTile t).markFrom fuel t) s

/-- The base tiles of a rule that a derived tile depends on (R297). -/
def Rule.basesOf (r : Rule) (t : Nat) : List (Nat × Nat) := r.btiles.filter fun b => r.depends t b.1

/-- The physical base tiles of a derived tile. -/
def State.basesOf (s : State) (ptile : Nat) : List Nat :=
  match s.deriver ptile with
  | none => []
  | some r =>
    match r.dtiles.find? fun d => d.2 == ptile with
    | none => []
    | some d => (r.basesOf d.1).map Prod.snd

/-- The aligned doublewords that `n` bytes from an address on meet. -/
def dwordsOf (pa n : Nat) : List Nat := (List.range ((pa % 8 + n + 7) / 8)).map fun i => (pa / 8 + i) * 8

/-- A recompute in progress reads each aligned doubleword of its bases once: one that a write is about to change it has read already, or reads
later; which is free (R302, R303). -/
def State.readBefore (s : State) (pa n : Nat) : State :=
  if s.recomputes = [] then s
  else
    let l := dwordsOf pa n
    { s with
      recomputes := s.recomputes.map fun x =>
        if (s.basesOf x.tile).contains (pa / 4096) then
          { x with
            read := x.read ++ (l.zipIdx.filter fun a => ! (x.read.any fun o => o.1 == a.1) && Config.choose (s.free + a.2) % 2 == 1).map fun a =>
              (a.1, s.phys64 a.1) }
        else x
      free := s.free + l.length }

/-- What comes before a write of `n` bytes to a physical address is performed: the marks of R301. -/
def State.markWrite (s : State) (pa n : Nat) : State :=
  if s.rules = [] then s else (s.readBefore pa n).markFrom 4 (pa / 4096)

/-- A byte of a base as a recompute reads it: from the doublewords that it has read before, or as it stands. -/
def State.baseByte (s : State) (read : List (Nat × Word)) (pa : Nat) : Byte :=
  match read.find? fun o => o.1 == pa / 8 * 8 with
  | some o => o.2.extractLsb' (8 * (pa % 8)) 8
  | none => s.physByte pa

/-- The bits of an element read from the bound tiles of a region (R299). -/
def State.elemBits (s : State) (read : List (Nat × Word)) (tiles : List (Nat × Nat)) (bit w : Nat) : Nat :=
  (List.range w).foldl (fun acc k =>
    let b := bit + k
    match tiles.find? fun t => t.1 == b / 32768 with
    | some t => acc + (if (s.baseByte read (t.2 * 4096 + b / 8 % 4096)).getLsbD (b % 8) then 2 ^ k else 0)
    | none => acc) 0

/-- The state with the bits of an element that lie in one tile written to its bound tile. -/
def State.setElemBits (s : State) (vtile ptile bit w v : Nat) : State :=
  (List.range w).foldl (fun acc k =>
    let b := bit + k
    if b / 32768 = vtile then
      let a := ptile * 4096 + b / 8 % 4096
      let old := acc.physByte a
      let bv : Byte := 1#8 <<< (b % 8)
      acc.setPhysByte a (if v.testBit k then old ||| bv else old &&& ~~~ bv)
    else acc) s

/-- The sum of ROWSUM and COLSUM over base elements (R296). -/
def sumElems (bfmt dfmt : Fmt) (xs : List Nat) : Nat :=
  match fmtBin dfmt with
  | some f =>
    (xs.foldl (fun acc x =>
      let v := srcValue bfmt x
      let r := finishOp f .rne 0#32 ((f.decode acc).add .rne v) fNone
      r.1) 0)
  | none =>
    bitsOfInt (fmtWidth dfmt) ((xs.map fun x => intOfBits (! fmtUnsigned bfmt) (fmtWidth bfmt) x).foldl (· + ·) 0)

/-- A base element that is a BF16 subnormal reads as zero through `srcValue` (R187). The value of a derived element (R296). -/
def Rule.value (r : Rule) (read : Nat × Nat → Nat) (i j : Nat) : Nat :=
  let xs := (r.sources i j).map read
  match r.kind with
  | .transpose => xs.headD 0
  | .cast => (convert false r.dfmt r.bfmt r.rm 0#32 (xs.headD 0)).1
  | .rowsum | .colsum => sumElems r.bfmt r.dfmt xs

/-- Every element of a derived tile written by the rule, and the mark cleared (R302); the writes mark the tiles that depend on this one
(R301). -/
def State.recomputeTile (s : State) (read : List (Nat × Word)) (r : Rule) (d : Nat × Nat) : State :=
  let elems := r.delems.filter fun e => touchesTile (r.dbit e.1 e.2) (fmtWidth r.dfmt) d.1
  let s0 := s.readBefore (d.2 * 4096) 4096
  let s1 := elems.foldl (fun acc e =>
    let v := r.value (fun b => s.elemBits read r.btiles (r.bbit b.1 b.2) (fmtWidth r.bfmt)) e.1 e.2
    acc.setElemBits d.1 d.2 (r.dbit e.1 e.2) (fmtWidth r.dfmt) v) s0
  { s1 with stale := s1.stale.filter fun t => t != d.2 }.markFrom 4 d.2

/-- The recompute of a tile that is in progress finished (R303): its mark is cleared, or stands again where one has come since. -/
def State.finishTile (s : State) (r : Rule) (d : Nat × Nat) (x : Recompute) : State :=
  let s1 := { s with recomputes := s.recomputes.filter fun o => o.tile != x.tile }.recomputeTile x.read r d
  if x.again then s1.markTile d.2 else s1

/-! ## Errors of stored data (R129, R412) -/

/-- Memory whose errors a code finds. -/
def srcMemory : ErrSrc → Bool
  | .localSram | .siltSram | .dram => true
  | _ => false

/-- Some of `n` bytes from a physical address on stand under an error that their code cannot correct (R129). -/
def State.badData (s : State) (pa n : Nat) : Bool :=
  s.upsets.any fun e => e.uc && srcMemory e.src && decide (e.at_ / 8 * 8 < pa + n) && decide (pa < e.at_ / 8 * 8 + 8)

/-- The recompute of a stale tile meets an error in a base read: the tile stays stale (R304). -/
def State.tileBad (s : State) : Nat → Nat → Bool
  | 0, _ => false
  | fuel + 1, ptile =>
    s.isStale ptile && (s.basesOf ptile).any fun b => s.badData (b * 4096) 4096 || s.tileBad fuel b

/-- A read of `n` bytes returns UNCORR (R129, R304). -/
def State.readBad (s : State) (pa n : Nat) : Bool :=
  if s.upsets = [] then false
  else s.badData pa n || s.tileBad 5 (pa / 4096) || s.tileBad 5 ((pa + n - 1) / 4096)

/-- A stale tile recomputed at once, its stale base tiles first (R302, R304), unless a base read fails; chains are at most four deep (R298). What
stands in progress of it is finished. DESIGN CHOICE, log entry 37. -/
def State.freshenTile (s : State) : Nat → Nat → State
  | 0, _ => s
  | fuel + 1, ptile =>
    if s.isStale ptile && ! s.tileBad 5 ptile then
      match s.deriver ptile with
      | none => s
      | some r =>
        match r.dtiles.find? fun d => d.2 == ptile with
        | none => s
        | some d =>
          let s1 := (r.basesOf d.1).foldl (fun acc b => acc.freshenTile fuel b.2) s
          let s2 := match s1.recomputes.find? fun x => x.tile == ptile with | some x => s1.finishTile r d x | none => s1
          if s2.isStale ptile then s2.recomputeTile [] r d else s2
    else s

/-- The state after every stale tile that an access of `n` bytes reads has been recomputed (R302). -/
def State.freshen (s : State) (pa n : Nat) : State :=
  if s.stale = [] then s
  else
    let s1 := s.freshenTile 5 (pa / 4096)
    if (pa + n - 1) / 4096 = pa / 4096 then s1 else s1.freshenTile 5 ((pa + n - 1) / 4096)

/-! ## The arrays of a slice that accesses and commands touch (R275) -/

/-- The arrays that `n` bytes of silt touch: every array that holds one of their bits. -/
def State.siltArrays (s : State) (sl off n : Nat) : List Nat :=
  ((List.range (8 * n)).map fun i =>
    let g := 8 * off + i
    let m := g / 524288
    4 * m + ((s.slice sl).plot m).rawOf (g % 524288) / 131072).eraseDups

/-- The arrays that a command touches, with the selection that stands before it: its selected arrays, the array its operand names, or
the plot whose layout it changes (R275). -/
def ArrayCmd.touches (k : ArrayCmd) (sel : BitVec 24) : List Nat :=
  let idx := (k.opb.extractLsb' 0 7).toNat
  match k.instr with
  | .asel _ | .asetrb _ | .achk _ | .abuf _ | .await => []
  | .axin _ _ | .axout _ _ => if k.opb.extractLsb' 30 2 = 2#2 then (List.range 4).map fun i => 4 * idx + i else [idx]
  | .aout _ _ => [idx]
  | .wrsr _ _ => (List.range 4).map fun i => 4 * k.opb.toNat + i
  | _ => (List.range 96).filter fun y => sel.getLsbD (y / 4)

/-- The commands of a FIFO, each with the arrays it touches: an ASEL acts on the later commands of its context (R274, R285), a command that a
stop has marked touches what it touched then (R291). -/
def State.touchedFrom (s : State) (u : Nat) (sels : SMap (BitVec 24)) : List ArrayCmd → List (ArrayCmd × List Nat)
  | [] => []
  | k :: rest =>
    let sel := if k.halted then k.sel else SMap.get sels k.ctx (s.ctx u k.ctx).sel
    let sels' :=
      match k.instr with
      | .asel _ => if k.opa.extractLsb' 25 39 = 0#39 ∧ k.halted = false then SMap.put sels k.ctx (k.opa.extractLsb' 0 24) else sels
      | _ => sels
    (k, k.touches sel) :: s.touchedFrom u sels' rest

/-- The commands that a slice has accepted and not completed, with the arrays they touch. -/
def State.touched (s : State) (sl : Nat) : List (ArrayCmd × List Nat) :=
  s.touchedFrom (Config.sliceUnit0 + sl) [] (s.slice sl).fifo

/-- A command accepted before a place in the order stands on an array that `n` bytes of silt touch. -/
def State.arraysWait (s : State) (sl off n po : Nat) : Bool :=
  if (s.slice sl).fifo = [] then false
  else
    let l := s.siltArrays sl off n
    (s.touched sl).any fun e => decide (e.1.po < po) && e.2.any fun y => l.contains y

/-- A recompute of a stale tile cannot end yet: a command stands on its arrays or on those of a base tile that it reads (R275, R302). -/
def State.tileArrays (s : State) : Nat → Nat → Bool
  | 0, _ => false
  | fuel + 1, ptile =>
    (match s.place (ptile * 4096) with | .silt sl off => s.arraysWait sl off 4096 s.po | _ => false)
      || (s.isStale ptile && (s.basesOf ptile).any fun b => s.tileArrays fuel b)

/-- A read of a stale tile is held: by commands on the arrays (R275), or until the recompute in progress ends (R302). -/
def State.tileWaits (s : State) (ptile : Nat) : Bool := s.tileArrays 5 ptile || s.inProgress ptile

/-- An access of `n` bytes that stands at a place in the order is held at its slice (R275): behind every command accepted before it on
its arrays; a read of a stale tile, which counts as arriving when the recompute releases it, behind every command. -/
def State.siltWaits (s : State) (pa n po : Nat) : Bool :=
  match s.place pa with
  | .silt sl off =>
    s.arraysWait sl off n po
      || (s.stale != [] && ((s.isStale (pa / 4096) && s.tileWaits (pa / 4096))
          || (s.isStale ((pa + n - 1) / 4096) && s.tileWaits ((pa + n - 1) / 4096))))
  | _ => false

end Sys2Proof.Machine
end

