-- ==== Sys2Proof/Machine/Access.lean ====
section
/-! DEFINITION. How an access reaches memory: translation (21_system R390, R401, R402; 06_memory R107), generation tags
(R119), the faults a home returns (R120), the far read cache (R116, R117), and the one place where a home reads and writes. -/

namespace Sys2Proof.Machine

/-- What an access needs of the leaf (R401). -/
inductive Need where
  | load | store | atomic | exec
  deriving DecidableEq, Repr

/-- The access stores (R402). -/
def Need.stores : Need → Bool
  | .store | .atomic => true
  | _ => false

/-- The die of a unit: stack near units use the die their stack attaches to (R11, R402). -/
def dieOf (u : Nat) : Nat := u % 512 / 128

/-- A list with an entry added, one given up when it was full; which one the spec leaves open (log entry 7). -/
def boundedAdd {α : Type} (free limit : Nat) (l : List α) (x : α) : List α :=
  if l.length < limit then l ++ [x] else l.eraseIdx (Config.victim free % limit) ++ [x]

/-- Entries of the L1 TLB of a unit (R402). -/
def l1Size : UnitKind → Nat
  | .far => 32
  | _ => 16

/-! ## Table entries (R401) -/

/-- Bits that a table entry may not hold (R401): reserved bits, MT 0b11. -/
def pteMalformed (p : Word) : Bool :=
  p.extractLsb' 52 12 != 0#12 || p.extractLsb' 12 2 != 0#2 || p.getLsbD 9 || p.extractLsb' 10 2 == 3#2
    || (p.getLsbD 2 && ! p.getLsbD 1)

/-- The entry is a leaf: some permission is set (R401). -/
def pteLeaf (p : Word) : Bool := p.extractLsb' 1 3 != 0#3

/-- The physical base that an entry holds (R401). -/
def ptePa (p : Word) : Nat := (p &&& 0x000FFFFFFFFFC000#64).toNat

/-- The bytes a leaf maps at a level; 0 where no leaf may stand (R401). -/
def leafSize (level : Nat) (sp : Bool) : Nat :=
  match level with
  | 2 => if sp then 2 ^ 33 else 2 ^ 25
  | 3 => if sp then 2 ^ 21 else 2 ^ 14
  | _ => 0

/-- A TLB entry serves an access (R402): it maps the address for the context, and holds D = 1 when the access stores. -/
def TlbEntry.serves (e : TlbEntry) (x : Ctx) (va : Nat) (store : Bool) : Bool :=
  decide (e.va ≤ va) && decide (va < e.va + e.size) && e.mtab == (x.priv == .m)
    && (e.pte.getLsbD 5 || e.asid == x.asr.extractLsb' 32 12) && (! store || e.pte.getLsbD 7)

/-- The leaf's permissions allow the access at the context's level, and its memory type fits its table and frame (R390, R401). -/
def State.allows (s : State) (x : Ctx) (e : TlbEntry) (pa : Nat) (need : Need) : Bool :=
  let p := e.pte
  let perm :=
    match need with
    | .load => p.getLsbD 1
    | .store => p.getLsbD 2
    | .atomic => p.getLsbD 1 && p.getLsbD 2
    | .exec => p.getLsbD 3
  let ctl := p.extractLsb' 10 2 == 2#2
  let inCtl := s.place pa == .control
  perm && (p.getLsbD 4 || x.priv != .u) && (! ctl || (e.mtab && inCtl)) && (! inCtl || x.priv == .m)

/-- The leaf's memory type is cacheable (R401). -/
def TlbEntry.cacheable (e : TlbEntry) : Bool := e.pte.extractLsb' 10 2 == 0#2

/-! ## Home faults (R119, R120, R300) -/

/-- Who issued an access, with the tags of its context (R119). -/
def State.issuer (s : State) (u c : Nat) : Issuer :=
  let x := s.ctx u c
  ⟨u, c, x.asr.extractLsb' 32 12, x.asr.extractLsb' 0 16, x.priv⟩

/-- A home finds an access stale (R119). -/
def State.isStaleGen (s : State) (h : Nat) (w : Issuer) : Bool :=
  let floor := SMap.get (s.home h).floors w.asid.toNat (SMap.get s.floors w.asid.toNat 0#16)
  let d := (floor - w.gen).toNat
  decide (1 ≤ d) && decide (d ≤ 32767)

/-- A peer device can be reached: the route table names a trained port for it (R427, R428). -/
def State.routed (s : State) (n : Nat) : Bool :=
  match s.routes.find? fun r => r.1 == n with
  | none => false
  | some r => decide (0 < (SMap.get s.ports r.2 Port.reset).lanes)

/-- The fault that the home of an access returns (R27, R77, R119, R129, R300, R428). `own` is the context, on its own unit, whose
loads and stores reach its own regions. -/
def State.homeFault (s : State) (w : Issuer) (tagged write : Bool) (own : Option (Nat × Nat)) (pa n : Nat) : Option Cause :=
  let pl := s.place pa
  match pl with
  | .unbacked => some .access
  | .peer d _ => if s.routed d then none else some .uncorr
  | .host | .control => none
  | _ =>
    let h := pl.home.getD 0
    if tagged && s.isStaleGen h w then some .staleGen
    else
      match pl with
      | .loc u off =>
        let me := match own with | some (v, c) => if v = u then some c else none | none => none
        if s.guardedByOther u me off n then some .wsGuard
        else if ! write && s.badData pa n then some .uncorr else none
      | .silt _ _ =>
        if write then (if s.isDerived pa || s.isDerived (pa + n - 1) then some .derivedWrite else none)
        else if s.readBad pa n then some .uncorr else none
      | _ => if ! write && s.badData pa n then some .uncorr else none

/-! ## Reads and writes at the home -/

/-- The kind of a remote write in the trace (R148). -/
inductive TraceKind where
  | store | atomic | merge | put | engine
  deriving DecidableEq, Repr

/-- The code of a trace kind (R148). -/
def TraceKind.code : TraceKind → Nat
  | .store => 0 | .atomic => 1 | .merge => 2 | .put => 3 | .engine => 4

/-- The source kind and index of a trace entry (R148). -/
def srcCode (k : TraceKind) (u : Nat) : Nat × Nat :=
  match k with
  | .engine => (3, u % 512)
  | _ => match kindOf u with | .far => (0, u) | .slice => (1, u - Config.sliceUnit0) | .stack => (2, u - Config.stackUnit0)

/-- A remote write logged in the trace ring of its home (R147, R148). DESIGN CHOICE: SEQ numbers the logged writes alone, and setting EN does
not restart it (log entry 82); a near unit's write to its slice or channel comes from another unit than the home, which has none (log entry
100). -/
def State.traceWrite (s : State) (h : Nat) (k : TraceKind) (w : Issuer) (tagged : Bool) (pa n : Nat) : State :=
  let t := (s.home h).trace
  let remote := match k with | .engine => true | _ => ! (h == 1024 + w.unit)
  if t.en && remote && (! t.af || (tagged && w.asid == t.asid)) then
    let src := srcCode k w.unit
    let d0 : Word := BitVec.ofNat 64 (k.code * 2 ^ 52 + pa)
    let d1 : Word := BitVec.ofNat 64 ((n - 1) % 1024 * 2 ^ 44 + (if tagged then w.asid.toNat else 0) * 2 ^ 32 + w.ctx % 16 * 2 ^ 28
      + src.1 * 2 ^ 26 + src.2 * 2 ^ 16 + t.seq.toNat)
    let at_ := t.base + 16 * (t.count % 256)
    let s1 := (s.setPhys64 at_ d0).setPhys64 (at_ + 8) d1
    s1.modHome h fun y =>
      { y with trace := { t with
          wrap := t.wrap || decide (256 ≤ t.count)
          count := t.count + 1
          seq := t.seq + 1#16 } }
  else s

/-- A write of more bytes than LEN can name is logged in pieces of 1,024 bytes, lowest address first (R148). DESIGN CHOICE, log entry 82. -/
def State.traceWrites (s : State) (h : Nat) (k : TraceKind) (w : Issuer) (tagged : Bool) (pa n : Nat) : Nat → State
  | 0 => s
  | fuel + 1 =>
    if n ≤ 1024 then s.traceWrite h k w tagged pa n
    else (s.traceWrite h k w tagged pa 1024).traceWrites h k w tagged (pa + 1024) (n - 1024) fuel

/-- The unit that logs an error of stored data: the one whose local memory it is, the slice's or the pseudo-channel's near unit (R412). -/
def State.logsAt (s : State) (pa : Nat) : Option Nat :=
  match s.place pa with
  | .dram p _ => some (Config.stackUnit0 + p)
  | .silt sl _ => some (Config.sliceUnit0 + sl)
  | .loc u _ => some u
  | _ => none

/-- The errors that the code of a memory corrects in a read of `n` bytes, logged (R412, R433). -/
def State.logCorrected (s : State) (pa n : Nat) : State :=
  match (if s.upsets = [] then none else s.logsAt pa) with
  | none => s
  | some u =>
    (s.upsets.filter fun e => ! e.uc && srcMemory e.src && decide (e.at_ / 8 * 8 < pa + n) && decide (pa < e.at_ / 8 * 8 + 8)).foldl
      (fun acc e => acc.logErr u e.src (BitVec.ofNat 52 e.at_) true) s

/-- A window that answers from outside the device, or whose registers the spec does not give, reads as free values; any other
address reads its bytes, every stale tile recomputed first (R302), an error that its code corrects logged (R412). -/
def State.readHome (s : State) (pa n : Nat) : State × List Byte :=
  match s.place pa with
  | .peer _ _ => ({ s with free := s.free + n }, (List.range n).map fun i => Config.peerRead (s.free + i))
  | .control => ({ s with free := s.free + n }, (List.range n).map fun i => Config.controlRead (s.free + i))
  | _ =>
    let s1 := (s.freshen pa n).logCorrected pa n
    (s1, s1.physBytes pa n)

/-- Bytes written at their home: marks first (R301), then the bytes, then the trace entry (R148). -/
def State.writeHome (s : State) (k : TraceKind) (w : Issuer) (tagged : Bool) (pa : Nat) (bs : List Byte) : State :=
  let s1 := s.markWrite pa bs.length
  let s2 := s1.setPhysBytes pa bs
  match (s.place pa).home with
  | some h => s2.traceWrites h k w tagged pa bs.length (bs.length / 1024 + 1)
  | none => s2

/-! ## The walk (R129, R401, R402) -/

/-- The leaf that a walk finds: the state after its reads, each an uncached read at the entry's home (R129, R302), the leaf's address, level
and entry; or PAGE, or UNCORR where a read meets an error that no code corrects (R401). DEDUCED: UNCORR of a walk is precise, as PAGE is; log
entry 101. DESIGN CHOICE: a table at an address that nothing backs reads as bytes that nothing has written, so that its entries have V = 0 and
the walk ends in PAGE; log entry 80. -/
def State.walkFrom (s : State) (va : Nat) (table level : Nat) : Nat → Except Cause (State × Nat × Nat × Word)
  | 0 => .error .page
  | fuel + 1 =>
    let at_ := table + 8 * (va / 2 ^ (47 - 11 * level) % 2048)
    if s.readBad at_ 8 then .error .uncorr
    else
      let r := s.readHome at_ 8
      let p := wordOf r.2
      if ! p.getLsbD 0 || pteMalformed p then .error .page
      else if pteLeaf p then
        let n := leafSize level (p.getLsbD 8)
        if n = 0 ∨ ptePa p % n ≠ 0 then .error .page else .ok (r.1, at_, level, p)
      else if p.getLsbD 8 then .error .page
      else if level = 3 then .error .page
      else r.1.walkFrom va (ptePa p) (level + 1) fuel

/-- A table entry's A and D set by the walk's atomic at its home (R402): a base tile's dependents are marked first (R301), an entry in a
derived tile is not written (R300). DESIGN CHOICE: such a walk completes all the same (log entry 81), and the walker's atomic, which no unit
issues, is not logged in a trace (log entry 100). -/
def State.setEntry (s : State) (at_ : Nat) (p : Word) : State :=
  if s.isDerived at_ then s else (s.markWrite at_ 8).setPhys64 at_ p

/-- A completed walk (R129, R402): A set, D too for a store, at the entry's home, and a TLB entry formed in the unit and its die.
DESIGN CHOICE, log entry 39. -/
def State.walk (s : State) (u c : Nat) (va : Nat) (store : Bool) : Except Cause (State × TlbEntry) :=
  let x := s.ctx u c
  let m := x.priv == .m
  let root := ptePa (if m then (s.unit u).mroot else x.ptroot)
  match s.walkFrom va root 0 4 with
  | .error e => .error e
  | .ok (s0, at_, level, p) =>
    let p' := p ||| 0x40#64 ||| (if store then 0x80#64 else 0#64)
    let s1 := if p' = p then s0 else s0.setEntry at_ p'
    let n := leafSize level (p.getLsbD 8)
    let e : TlbEntry := ⟨va / n * n, n, ptePa p', x.asr.extractLsb' 32 12, m, p'⟩
    let same := fun (o : TlbEntry) => ! (o.va == e.va && o.size == e.size && o.asid == e.asid && o.mtab == e.mtab)
    let s2 := s1.modUnit u fun y => { y with tlb := boundedAdd s.free (l1Size (kindOf u)) (y.tlb.filter same) e }
    let d := SMap.get s2.dies (dieOf u) ⟨[]⟩
    let s3 := { s2 with dies := SMap.put s2.dies (dieOf u) ⟨boundedAdd s.free 8192 (d.tlb.filter same) e⟩ }
    .ok (if d.tlb.length < 8192 ∧ (s.unit u).tlb.length < l1Size (kindOf u) then s3 else s3.useFree, e)

/-- The translation of an address: a TLB entry that serves it, or the walk (R107, R129, R402). -/
def State.leafOf (s : State) (u c : Nat) (va : Nat) (store : Bool) : Except Cause (State × TlbEntry) :=
  let x := s.ctx u c
  match (s.unit u).tlb.find? fun e => e.serves x va store with
  | some e => .ok (s, e)
  | none =>
    match (SMap.get s.dies (dieOf u) ⟨[]⟩).tlb.find? fun e => e.serves x va store with
    | some e =>
      let s1 := s.modUnit u fun y => { y with tlb := boundedAdd s.free (l1Size (kindOf u)) y.tlb e }
      .ok (if (s.unit u).tlb.length < l1Size (kindOf u) then s1 else s1.useFree, e)
    | none => s.walk u c va store

/-- Checks 4 and 5 of R107: the physical address and the leaf, or PAGE or ACCESS, or the UNCORR of a walk. -/
def State.translate (s : State) (u c : Nat) (va : Word) (need : Need) : Except Cause (State × Nat × TlbEntry) :=
  match s.leafOf u c va.toNat need.stores with
  | .error e => .error e
  | .ok (s1, e) =>
    let pa := e.pa + (va.toNat - e.va)
    if s1.allows (s1.ctx u c) e pa need && s1.backed pa then .ok (s1, pa, e) else .error .access

/-! ## The far read cache (R116, R117, R127) -/

/-- The whole read cache of a unit invalidated (R117). -/
def State.rcClear (s : State) (u : Nat) : State := s.modUnit u fun x => { x with cache := [] }

/-- An acquire of a context: the read cache of its core is invalidated (R117). -/
def State.acquire (s : State) (u : Nat) : State :=
  match kindOf u with | .far => s.rcClear u | _ => s

/-- The cached line that holds a physical address. -/
def State.rcLine (s : State) (u pa : Nat) : Option CacheLine :=
  (s.unit u).cache.find? fun l => l.pa == pa / 64

/-- A store's bytes laid into any cached copy of the line (R117). -/
def State.rcStore (s : State) (u pa : Nat) (bs : List Byte) : State :=
  match s.rcLine u pa with
  | none => s
  | some _ => s.modUnit u fun x =>
      { x with cache := x.cache.map fun l =>
          if l.pa = pa / 64 then
            { l with bytes := l.bytes.take (pa % 64) ++ bs ++ l.bytes.drop (pa % 64 + bs.length) }
          else l }

/-- A load may use the read cache (R116): a far core, a cacheable leaf, a home elsewhere, no plane plot. DEDUCED: peer, host and
control windows are not cached; log entry 7. -/
def State.rcMay (s : State) (u pa : Nat) (e : TlbEntry) : Bool :=
  kindOf u == .far && e.cacheable &&
    match s.place pa with
    | .dram _ _ => true
    | .silt sl off => ! ((s.slice sl).plot (off / 0x10000)).plane
    | .loc v _ => v != u
    | _ => false

/-- The fault that the home returns for a read of the whole line that holds an address: such a line is not filled (R116, R129). -/
def State.lineFault (s : State) (w : Issuer) (own : Option (Nat × Nat)) (pa : Nat) : Option Cause :=
  s.homeFault w true false own (pa / 64 * 64) 64

/-- A line filled at its home into the read cache of a far core (R116). -/
def State.rcFill (s : State) (u : Nat) (asid : BitVec 12) (va pa : Nat) : State :=
  let r := s.readHome (pa / 64 * 64) 64
  let s1 := r.1.modUnit u fun x =>
    { x with cache := boundedAdd r.1.free 1024 (x.cache.filter fun l => l.pa != pa / 64) ⟨pa / 64, va / 64, asid, r.2⟩ }
  if (s.unit u).cache.length < 1024 then s1 else s1.useFree

/-- A line of a far core's cache given up, since an access of the core has read or changed its bytes at the home without the copy: no later
load of the core returns an older value (R117, R118, R153). -/
def State.rcEvict (s : State) (u pa n : Nat) : State :=
  match kindOf u with
  | .far =>
    if (s.unit u).cache.any fun l => decide (pa / 64 ≤ l.pa) && decide (l.pa ≤ (pa + n - 1) / 64) then
      s.modUnit u fun x => { x with cache := x.cache.filter fun l => ! (decide (pa / 64 ≤ l.pa) && decide (l.pa ≤ (pa + n - 1) / 64)) }
    else s
  | _ => s

/-- The copy of a store's bytes in its core's cache, where there is one, holds what the store has written (R117). -/
def State.rcAgrees (s : State) (u pa : Nat) (bs : List Byte) : Bool :=
  match s.rcLine u pa with
  | none => true
  | some l => (l.bytes.drop (pa % 64)).take bs.length == bs

/-- A line's bytes at an address. -/
def CacheLine.get (l : CacheLine) (pa n : Nat) : List Byte := (l.bytes.drop (pa % 64)).take n

/-- A core's copy of a line given up where it does not hold what the home holds in the bytes that an access of the core has read or written
there (R117, R118, R151). -/
def State.rcSync (s : State) (u pa n : Nat) : State :=
  if (s.unit u).cache = [] then s
  else if s.rcAgrees u pa (s.physBytes pa n) then s else s.rcEvict u pa n

/-! ## The local window (R77, R108 to R110) -/

/-- The U-level fence in bytes: FENCE × 4 KiB, at most the local size (R109). -/
def State.fenceOf (s : State) (u : Nat) : Nat := min ((s.unit u).fence.toNat * 4096) (localSize (kindOf u))

/-- `n` bytes at a local offset are in range for a level (R108). -/
def State.localInRange (s : State) (u : Nat) (lv : Level) (off n : Nat) : Bool :=
  decide (off + n ≤ localSize (kindOf u)) && (match lv with | .u => decide (off + n ≤ s.fenceOf u) | _ => true)

/-- An out-of-range local access records itself in LMOOR (R108, R110). -/
def State.recordOor (s : State) (u c off n : Nat) (store : Bool) : State :=
  s.modCtx u c fun x =>
    if x.lmoor.getLsbD 63 then x
    else
      let f := s.localInRange u .s off n
      { x with lmoor := BitVec.ofNat 64 (2 ^ 63 + b2n store * 2 ^ 62 + b2n f * 2 ^ 61 + off % 2 ^ 20) }

/-- The bytes of a context's own block at an offset into it: the current fields, and the address of the load at 0x000 (R77). -/
def State.blockRead (s : State) (u c at_ n : Nat) : List Byte := (((s.ctx u c).blockBytes).drop at_).take n

/-- A byte of a vector register written through the block (R77). -/
def setVByte (v : BitVec 2048) (k : Nat) (b : Byte) : BitVec 2048 :=
  (v &&& ~~~ (0xFF#2048 <<< (8 * k))) ||| (b.setWidth 2048 <<< (8 * k))

/-- The vector registers with bytes of the block from offset 0x200 on written (R77). -/
def Ctx.writeBlockV (x : Ctx) (at_ : Nat) (bs : List Byte) : Ctx :=
  match bs with
  | [] => x
  | b :: rest =>
    let r := at_ / 256
    let x1 := { x with vregs := x.vregs.setIfInBounds r (setVByte (x.vregs[r]?.getD 0#2048) (at_ % 256) b) }
    x1.writeBlockV (at_ + 1) rest

/-- A local load at an offset (R77, R108): guarded regions, the own block, the own windows, then the range rule. `window` is the
local window, whose range rule binds; the unit's own physical window has none. -/
def State.localLoad (s : State) (u c off n : Nat) (window : Bool) : Except Cause (State × List Byte) :=
  let x := s.ctx u c
  if s.guardedByOther u (some c) off n then .error .wsGuard
  else if s.inBlock u c off n then .ok (s, s.blockRead u c (off - (s.cbOf u c).toNat) n)
  else if s.inWindows u c off n || ! window || s.localInRange u x.priv off n then .ok (s, s.getLocal u off n)
  else .ok (s.recordOor u c off n false, List.replicate n 0#8)

/-- A local store at an offset (R77, R108). -/
def State.localStore (s : State) (u c off : Nat) (bs : List Byte) (window : Bool) : Except Cause State :=
  let x := s.ctx u c
  let n := bs.length
  if s.guardedByOther u (some c) off n then .error .wsGuard
  else if s.inBlock u c off n then
    let at_ := off - (s.cbOf u c).toNat
    if at_ < 0x200 then .error .wsGuard
    else .ok (s.modCtx u c fun y => y.writeBlockV (at_ - 0x200) bs)
  else if s.inWindows u c off n || ! window || s.localInRange u x.priv off n then .ok (s.setLocal u off bs)
  else .ok (s.recordOor u c off n true)

/-! ## What holds an access at its home (R275, R377, R427) -/

/-- A row stream runs at a pseudo-channel and is not suspended (R377). -/
def State.streaming (s : State) (p : Nat) : Bool :=
  match (s.nearOf p).stream with
  | some t => ! t.susp && (s.nearOf p).done.isNone
  | none => false

/-- The channel of an address serves nothing but its row stream: the stream is between two row boundaries (R377). -/
def State.chanBusy (s : State) (pa : Nat) : Bool :=
  match s.place pa with
  | .dram p _ => s.streaming p && ! (s.nearOf p).due
  | _ => false

/-- Traffic to an address waits while the peer link that it takes retrains (R427). -/
def State.linkBusy (s : State) (pa : Nat) : Bool :=
  match s.place pa with
  | .peer d _ =>
    (match s.routes.find? fun k => k.1 == d with | some k => (SMap.get s.ports k.2 Port.reset).retraining | none => false)
  | _ => false

/-- An access of `n` bytes that stands at a place in the order is held at its home: by array commands accepted before it (R275), by a row
stream (R377), by a link that retrains (R427). -/
def State.accessWaits (s : State) (pa n po : Nat) : Bool :=
  s.siltWaits pa n po || s.chanBusy pa || s.chanBusy (pa + n - 1) || s.linkBusy pa

end Sys2Proof.Machine
end

