-- ==== Sys2Proof/Machine/Homes.lean ====
section
/-! DEFINITION. What a home does with the accesses that reach it: loads and stores (06_memory R120, R123, R124), atomics
(07_ordering R130 to R134), merge contributions and the drain of the merge table (R137 to R139). -/

namespace Sys2Proof.Machine

/-- The access carries ASID and generation: it was not to the local window (R108, R119). -/
def reqTagged (r : Req) : Bool := decide (0x100000 ≤ r.ea.toNat)

/-- A home fault returned to the issuer of an access; a deferred result is dropped (R67, R120). -/
def State.returnFault (s : State) (r : Req) (id : Option Nat) (cause : Cause) : State :=
  let s1 := match id with | some k => s.answer r.who.unit r.who.ctx k .dropped | none => s
  s1.modCtx r.who.unit r.who.ctx fun x => { x with homeFaults := x.homeFaults ++ [⟨r.po, cause, r.ea, r.fpc⟩] }

/-- Bytes extended to a doubleword (R121, R123). -/
def extendBytes (signed : Bool) (bs : List Byte) : Word :=
  let n := 8 * bs.length
  let x := natOfBytes bs
  if signed && x.testBit (n - 1) then BitVec.ofInt 64 ((x : Int) - 2 ^ n) else BitVec.ofNat 64 x

/-- A load performed at its home (R123); no older copy of its line stays in its core's cache (R118). -/
def State.doLoad (s : State) (r : Req) (size : Nat) (signed : Bool) (id : Nat) : State :=
  match s.homeFault r.who (reqTagged r) false (some (r.who.unit, r.who.ctx)) r.pa size with
  | some c => s.returnFault r (some id) c
  | none =>
    let x := s.readHome r.pa size
    (x.1.rcSync r.who.unit r.pa size).answer r.who.unit r.who.ctx id (.value (extendBytes signed x.2))

/-- A store performed at its home (R124); a copy that does not hold what the home then holds, filled since the store's issue or written by a
store that faults and so performs nothing, does not stay in its core's cache (R118, R120). -/
def State.doStore (s : State) (r : Req) (size : Nat) (data : Word) : State :=
  match s.homeFault r.who (reqTagged r) true (some (r.who.unit, r.who.ctx)) r.pa size with
  | some c => (s.returnFault r none c).rcSync r.who.unit r.pa size
  | none => (s.writeHome .store r.who (reqTagged r) r.pa (bytesOf size data)).rcSync r.who.unit r.pa size

/-! ## Atomics (R132, R133) -/

/-- The binary format of a floating atomic (R133). -/
def fmtOf (dbl : Bool) : BinFmt := if dbl then bFP64 else bFP32

/-- A value of `n` bits read as signed (R132). -/
def sNat (n x : Nat) : Int := intOfBits true n x

/-- Op(op, old, v) of R132 on values of `n` bits. -/
def amoApply (op : AmoOp) (dbl : Bool) (old v : Nat) : Nat :=
  let n := if dbl then 64 else 32
  match op with
  | .add => (old + v) % 2 ^ n
  | .and => Nat.land old v
  | .or => Nat.lor old v
  | .xor => Nat.xor old v
  | .min => if sNat n old ≤ sNat n v then old else v
  | .max => if sNat n v ≤ sNat n old then old else v
  | .minu => if old ≤ v then old else v
  | .maxu => if v ≤ old then old else v
  | .swap => v
  | .cas => v
  | .fadd => (fpOp (fmtOf dbl) .add .rne 0#32 old v).1
  | .fmin => fMinMaxA (fmtOf dbl) false old v
  | .fmax => fMinMaxA (fmtOf dbl) true old v

/-- What an atomic writes: nothing for a CAS that does not match (R132). -/
def amoWrites (op : AmoOp) (old expected : Nat) : Bool :=
  match op with
  | .cas => old == expected
  | _ => true

/-- The indivisible step of R132 at a backed address: the old value, and the location written. -/
def State.atomicAt (s : State) (k : TraceKind) (w : Issuer) (tagged : Bool) (pa : Nat) (op : AmoOp) (dbl : Bool)
    (v expected : Nat) : State × Nat :=
  let x := s.readHome pa (amoSize dbl)
  let old := natOfBytes x.2
  if amoWrites op old expected then
    (x.1.writeHome k w tagged pa (bytesOfNat (amoSize dbl) (amoApply op dbl old v)), old)
  else (x.1, old)

/-- The low n bits of an operand (R132). -/
def opNat (dbl : Bool) (w : Word) : Nat := if dbl then w.toNat else w.toNat % 2 ^ 32

/-- The fault that an atomic's home returns: a write's, or that of its read (R129, R134). -/
def State.atomicFault (s : State) (w : Issuer) (tagged : Bool) (pa n : Nat) : Option Cause :=
  match s.homeFault w tagged true none pa n with
  | some c => some c
  | none => if s.readBad pa n then some .uncorr else none

/-- An atomic performed at its home (R130, R132, R134): guarded regions bind the issuer's own context too. -/
def State.doAtomic (s : State) (r : Req) (op : AmoOp) (dbl : Bool) (v expected : Word) (id : Option Nat) : State :=
  match s.atomicFault r.who (reqTagged r) r.pa (amoSize dbl) with
  | some c => s.returnFault r id c
  | none =>
    let x := s.atomicAt .atomic r.who (reqTagged r) r.pa op dbl (opNat dbl v) (opNat dbl expected)
    let s1 := x.1.rcSync r.who.unit r.pa (amoSize dbl)
    match id with
    | some k => s1.answer r.who.unit r.who.ctx k (.value (extendBytes true (bytesOfNat (amoSize dbl) x.2)))
    | none => s1

/-! ## The merge table (R137, R138, R139) -/

/-- What a home does with a contribution. -/
inductive MergeResult where
  | done (s : State)
  | access
  | refused

/-- One contribution applied: the indivisible step of R132 (R137). -/
def State.applyMerge (s : State) (w : Issuer) (pa : Nat) (fp dbl : Bool) (operand : Word) : State :=
  (s.atomicAt .merge w true pa (if fp then .fadd else .add) dbl (opNat dbl operand) 0).1.rcSync w.unit pa (amoSize dbl)

/-- Every pending contribution of index `next`, in arrival order, and then of the following indices, each with its sender (R137, R148). -/
def State.mergeRun (s : State) (e : MergeEntry) : Nat → State × MergeEntry
  | 0 => (s, e)
  | fuel + 1 =>
    let now := e.pending.filter fun p => p.1 == e.next
    if now = [] then (s, e)
    else
      let s1 := now.foldl (fun acc p => acc.applyMerge p.2.2 e.target e.fp e.dbl p.2.1) s
      s1.mergeRun { e with next := e.next + 1, pending := e.pending.filter fun p => p.1 != e.next } fuel

/-- The merge table of a home with one entry replaced, or added. -/
def putMerge (l : List MergeEntry) (e : MergeEntry) : List MergeEntry :=
  if l.any fun o => o.target == e.target && o.lid == e.lid then
    l.map fun o => if o.target == e.target && o.lid == e.lid then e else o
  else l ++ [e]

/-- The contribution applied, kept or refused, the entry chosen (R137). -/
def State.mergeAccept (s : State) (w : Issuer) (h : Nat) (e : MergeEntry) (k : Nat) (operand : Word) : MergeResult :=
  if k < e.next then
    .done ((s.applyMerge w e.target e.fp e.dbl operand).modHome h fun y => { y with merges := putMerge y.merges e })
  else if k = e.next then
    let s1 := s.applyMerge w e.target e.fp e.dbl operand
    let r := s1.mergeRun { e with next := k + 1 } 65
    .done (r.1.modHome h fun y => { y with merges := putMerge y.merges r.2 })
  else if 64 ≤ e.pending.length then .refused
  else .done (s.modHome h fun y => { y with merges := putMerge y.merges { e with pending := e.pending ++ [(k, operand, w)] } })

/-- A contribution that arrives at its home (R137). -/
def State.mergeAt (s : State) (w : Issuer) (h lid pa : Nat) (fp dbl : Bool) (operand : Word) (k : Nat) : MergeResult :=
  let table := (s.home h).merges
  let mine := table.filter fun e => e.lid == lid
  match mine.find? fun e => e.target == pa with
  | none =>
    if 16 ≤ mine.length then .access
    else s.mergeAccept w h ⟨lid, pa, dbl, fp, 0, []⟩ k operand
  | some e =>
    if e.dbl ≠ dbl ∨ e.fp ≠ fp then .access else s.mergeAccept w h e k operand

/-- An AMERGE contribution performed at its home (R137, R138): a refused one stops its context at its next park until it is
accepted. -/
def State.doMerge (s : State) (r : Req) (fp dbl : Bool) (operand : Word) (k : Nat) : State :=
  match s.atomicFault r.who (reqTagged r) r.pa (amoSize dbl) with
  | some c => s.returnFault r none c
  | none =>
    match (s.place r.pa).home with
    | none => s.returnFault r none .access
    | some h =>
      match s.mergeAt r.who h (s.ctx r.who.unit r.who.ctx).lid r.pa fp dbl operand k with
      | .done s1 => s1
      | .access => s.returnFault r none .access
      | .refused => s.modCtx r.who.unit r.who.ctx fun x => { x with blocked := if x.blocked.contains r then x.blocked else x.blocked ++ [r] }

/-- The pending contributions of an entry in increasing index order, equal indices in arrival order (R139). -/
def sortPending (l : List (Nat × Word × Issuer)) : List (Nat × Word × Issuer) :=
  l.foldl (fun acc p => acc.takeWhile (fun q => decide (q.1 ≤ p.1)) ++ [p] ++ acc.dropWhile (fun q => decide (q.1 ≤ p.1))) []

/-- The merge tables of a launch drained at every home that holds one (R139). -/
def State.drainMerges (s : State) (lid : Nat) : State :=
  s.homes.foldl (fun acc hh =>
    let es := hh.2.merges.filter fun e => e.lid == lid
    let acc1 := es.foldl (fun a e =>
      (sortPending e.pending).foldl (fun b p => b.applyMerge p.2.2 e.target e.fp e.dbl p.2.1) a) acc
    acc1.modHome hh.1 fun y => { y with merges := y.merges.filter fun e => e.lid != lid }) s

end Sys2Proof.Machine
end

