-- ==== Sys2Proof/Machine/Messages.lean ====
section
/-! DEFINITION. Puts, gets, counters, the waiting-task table and the receive rings (08_messages R163 to R181), as the units that
receive them act. -/

namespace Sys2Proof.Machine

/-- A counter reaches a threshold (R163). -/
def reaches (c t : Word) : Bool := decide ((c - t).toNat < 2 ^ 63)

/-- A counter of a far core (R163). -/
def State.counter (s : State) (core : Nat) (n : Nat) : Word := SMap.get (s.unit core).counters (n % 256) 0#64

/-- An entry of the waiting-task table (R172). -/
def State.wte (s : State) (core e : Nat) : Wte := SMap.get (s.unit core).wtes e Wte.free

/-- The state with an entry of the waiting-task table replaced. -/
def State.setWte (s : State) (core e : Nat) (x : Wte) : State :=
  s.modUnit core fun y => { y with wtes := SMap.put y.wtes e x }

/-! ## Receive rings (R173 to R177) -/

/-- The local offset of a ring block (R173). DESIGN CHOICE: a block beyond the local memory counts modulo its size; log entry 83. -/
def State.ringBlock (s : State) (core ring : Nat) : Nat := (s.unit core).mrqb.toNat * 1024 + 64 * ring

/-- LOG2CNT, LOG2SLOT and BASE of a CFG doubleword (R174). -/
def ringCfg (cfg : Word) : Nat × Nat × Nat :=
  ((cfg.extractLsb' 32 4).toNat, (cfg.extractLsb' 24 4).toNat, (cfg.extractLsb' 6 14).toNat * 64)

/-- The ring's block is valid: sizes in range, inside local memory, clear of guarded regions (R174). -/
def State.ringValid (s : State) (core : Nat) (cfg : Word) : Bool :=
  let f := ringCfg cfg
  let n := 2 ^ f.1 * 2 ^ f.2.1
  decide (1 ≤ f.1) && decide (f.1 ≤ 12) && decide (6 ≤ f.2.1) && decide (f.2.1 ≤ 11)
    && decide (f.2.2 + n ≤ localSize (kindOf core)) && ! s.guardedByOther core none f.2.2 n

/-- The header of a slot (R175). -/
def slotHeader (m : Message) : List Byte :=
  let kind := match m.kind with | .far => 0 | .slice => 1 | .stack => 2
  let d0 := m.dev % 32 * 2 ^ 34 + m.src % 1024 * 2 ^ 24 + kind * 2 ^ 22 + m.ctx % 16 * 2 ^ 18
    + (if m.handOff then 2 ^ 16 else 0) + m.payload.length % 2048
  let d1 := m.wte % 64 * 2 ^ 32 + m.tag.toNat
  bytesOfNat 8 d0 ++ bytesOfNat 8 d1

/-- What the interface does with a message (R176). -/
inductive Deposit where
  | done (s : State)
  | refused
  | held

/-- The header and payload written to an overflow slot with the control context's translation and tags, its address checked as R107 checks
it; `none` is a fault, or a home that holds the write back (R275, R377). -/
def State.overflowWrite (s : State) (core : Nat) (va : Word) (bs : List Byte) : Option State :=
  if va.extractLsb' 58 6 ≠ 0#6 then none
  else if va.toNat < 0x100000 then (s.localStore core 0 va.toNat bs true).toOption
  else
    match s.translate core 0 va .store with
    | .error _ => none
    | .ok (s1, pa, _) =>
      let w := s1.issuer core 0
      if s1.accessWaits pa bs.length s1.po then none else
      match s1.homeFault w true true none pa bs.length with
      | some _ => none
      | none => some (s1.writeHome .store w true pa bs)

/-- A write has changed the TAIL that a sleeping RECV of a context watches: its value is kept for the wake (R180). -/
def State.latchTail (s : State) (u c : Nat) : State :=
  let x := s.ctx u c
  match x.wait with
  | some (.recv _ last ring) =>
    let tail := s.loc64 u (s.ringBlock u (ring.toNat % 16) + 16)
    if x.asleep && x.latch == none && tail != last then s.modCtx u c fun y => { y with latch := some tail } else s
  | _ => s

/-- Every sleeping RECV of a unit that a write of TAIL has woken, at the write (R180). -/
def State.latchTails (s : State) (u : Nat) : State := (List.range 11).foldl (fun acc c => acc.latchTail u c) s

/-- A message deposited, refused for its size, or held (R176, R177). DESIGN CHOICE: OVFVA is taken as it stands, its bits 11:0 included; log
entry 84. -/
def State.deposit (s : State) (core ring : Nat) (m : Message) : Deposit :=
  let o := s.ringBlock core ring
  let cfg := s.loc64 core o
  let head := s.loc64 core (o + 8)
  let tail := s.loc64 core (o + 16)
  let ova := s.loc64 core (o + 24)
  let ohead := s.loc64 core (o + 32)
  let otail := s.loc64 core (o + 40)
  let f := ringCfg cfg
  let valid := s.ringValid core cfg
  let slot := 2 ^ f.2.1
  let cnt := 2 ^ f.1
  let bs := slotHeader m ++ m.payload
  if m.handOff && ! (cfg.getLsbD 63 && valid) then .held
  else if (if valid then slot else 64) < bs.length then (if m.handOff then .held else .refused)
  else if cfg.getLsbD 63 && valid && ohead == otail && decide ((tail - head).toNat < cnt) then
    let s1 := s.setLocal core (f.2.2 + slot * (tail.toNat % cnt)) bs
    let s2 := s1.setLoc64 core (o + 16) (tail + 1#64)
    .done ((s2.modUnit core fun x => { x with deposit := true }).latchTails core)
  else if ova ≠ 0#64 ∧ (otail - ohead).toNat < cnt then
    match s.overflowWrite core (ova + BitVec.ofNat 64 (slot * (otail.toNat % cnt))) bs with
    | none => .held
    | some s1 =>
      let s2 := s1.setLoc64 core (o + 40) (otail + 1#64)
      .done (if otail + 1#64 - ohead = 1#64 then
          s2.modUnit core fun x => { x with rqPend := if x.rqPend.contains ring then x.rqPend else x.rqPend ++ [ring] }
        else s2)
  else .held

/-- The ring that a held message waits for (R172, R176). -/
def heldRing : Held → Nat
  | .msg r => match r.act with | .send k _ => k | _ => 0
  | .handOff _ => 0

/-- A message of a list waits for a ring: one that arrives stands behind it (R176). -/
def ringHeld (l : List Held) (ring : Nat) : Bool := l.any fun h => heldRing h == ring

/-- The hand-off of an entry offered to ring 0 (R172): deposited, its launch noted for the task's start and the entry freed; `none` where
ring 0 cannot take it. -/
def State.handOff (s : State) (core e : Nat) : Option State :=
  let x := s.wte core e
  match s.deposit core 0 ⟨true, s.dev, core, .far, x.ctx, e, 0#32, x.desc⟩ with
  | .done s1 => some ((s1.setWte core e Wte.free).modUnit core fun y => { y with fires := y.fires ++ [x.lid] })
  | _ => none

/-- An entry fires (R172): its hand-off is deposited, or held behind those that ring 0 holds already. The task runs for its launch's lap
from the firing (R310). -/
def State.fire (s : State) (core e : Nat) : State :=
  let x := s.wte core e
  let s0 := s.modLaunch x.lid fun l => { l with running := l.running + 1 }
  match (if ringHeld (s0.unit core).heldMsgs 0 then none else s0.handOff core e) with
  | some s1 => s1
  | none => (s0.setWte core e { x with fired := true }).modUnit core fun y => { y with heldMsgs := y.heldMsgs ++ [.handOff e] }

/-- An entry freed (R172): a hand-off that it holds is discarded, and its task runs no more. -/
def State.freeWte (s : State) (core e : Nat) : State :=
  let x := s.wte core e
  let s1 := s.setWte core e Wte.free
  if x.fired then
    (s1.modLaunch x.lid fun l => { l with running := l.running - 1 }).modUnit core fun y =>
      { y with heldMsgs := y.heldMsgs.filter fun h => h != .handOff e }
  else s1

/-- Every entry that a counter's new value fires (R172). DESIGN CHOICE: several fire in the order of their indices; log entry 85. -/
def State.fireReached (s : State) (core cnt : Nat) : State :=
  (List.range 64).foldl (fun acc e =>
    let x := acc.wte core e
    if x.armed && ! x.fired && x.cnt.toNat == cnt && reaches (acc.counter core cnt) x.thr then acc.fire core e else acc) s

/-- Every sleeping WAITC that a counter's new value wakes (R170, R171). -/
def State.wakeWaiters (s : State) (core cnt : Nat) : State :=
  (List.range 11).foldl (fun acc c =>
    let x := acc.ctx core c
    match x.wait with
    | some (.waitc k t) =>
      if x.live && x.asleep && k.toNat % 256 == cnt && reaches (acc.counter core cnt) t then
        acc.modCtx core c fun y => { y with woken := true }
      else acc
    | _ => acc) s

/-- An increment in the counter's order (R163, R171): the value, the sleepers it wakes, the entries it fires. -/
def State.increment (s : State) (core cnt : Nat) (amount : Word) : State :=
  let n := cnt % 256
  let s1 := s.modUnit core fun x => { x with counters := SMap.put x.counters n (SMap.get x.counters n 0#64 + amount) }
  (s1.wakeWaiters core n).fireReached core n

/-- The counters set to zero, which wakes nobody (R170), and the entries of the waiting-task table freed (R164). -/
def State.clearCounters (s : State) (core : Nat) : State :=
  ((List.range 64).foldl (fun acc e => acc.freeWte core e) s).modUnit core fun x => { x with counters := [], wtes := [] }

/-! ## What arrives at a unit (R167, R168, R179) -/

/-- The unit whose local memory an address lies in. -/
def State.unitAt (s : State) (pa : Nat) : Option Nat :=
  match s.place pa with | .loc u _ => some u | _ => none

/-- A put performed at its destination, and then its increment (R167, R168). -/
def State.doPut (s : State) (r : Req) (bs : List Byte) (cnt : Option Nat) : State :=
  match s.homeFault r.who (reqTagged r) true none r.pa (max bs.length 1) with
  | some c => s.returnFault r none c
  | none =>
    let s1 := if bs = [] then s else (s.writeHome .put r.who (reqTagged r) r.pa bs).rcEvict r.who.unit r.pa bs.length
    match cnt, s.unitAt r.pa with
    | some n, some u => s1.increment u n 1#64
    | _, _ => s1

/-- A get served by its home, its bytes in local memory, its result answered (R167). -/
def State.doGet (s : State) (r : Req) (lo n id : Nat) : State :=
  match s.homeFault r.who (reqTagged r) false none r.pa (max n 1) with
  | some c => s.returnFault r (some id) c
  | none =>
    let x := s.readHome r.pa n
    ((x.1.rcEvict r.who.unit r.pa n).setLocal r.who.unit lo x.2).answer r.who.unit r.who.ctx id (.value (BitVec.ofNat 64 n))

/-- An increment performed at the core that homes its address (R167). -/
def State.doCinc (s : State) (r : Req) (cnt : Nat) (amount : Word) : State :=
  match s.homeFault r.who (reqTagged r) true none r.pa 1 with
  | some c => s.returnFault r none c
  | none => match s.unitAt r.pa with | some u => s.increment u cnt amount | none => s

/-- A message that arrives is accepted by its ring, or refused; `none` where it is held (R176, R179). -/
def State.depositReq (s : State) (r : Req) (core ring : Nat) (m : Message) : Option State :=
  match s.deposit core ring m with
  | .done s1 => some s1
  | .refused => some (s.returnFault r none .access)
  | .held => none

/-- A message arrives at its destination; one that is held, or that stands behind one held for its ring, stops its sender at its next park
(R176, R179). -/
def State.doSend (s : State) (r : Req) (ring : Nat) (m : Message) : State :=
  match s.homeFault r.who (reqTagged r) true none r.pa (max m.payload.length 1) with
  | some c => s.returnFault r none c
  | none =>
    match s.unitAt r.pa with
    | none => s
    | some core =>
      match (if ringHeld (s.unit core).heldMsgs ring then none else s.depositReq r core ring m) with
      | some s1 => s1
      | none =>
        let s1 := s.modUnit core fun x => { x with heldMsgs := x.heldMsgs ++ [.msg r] }
        s1.modCtx r.who.unit r.who.ctx fun x => { x with blocked := x.blocked ++ [r] }

/-- A held message offered to its ring again; `none` where it stays held. -/
def State.offer (s : State) (core : Nat) : Held → Option State
  | .msg r =>
    match r.act with
    | .send ring m =>
      (s.depositReq r core ring m).map fun s1 =>
        s1.modCtx r.who.unit r.who.ctx fun x => x.unblocked r
    | _ => none
  | .handOff e => s.handOff core e

/-- The held messages of a core of one kind retried in arrival order (R172, R176): none passes one held before it for its ring, and those
accepted release their senders. -/
def State.retryHeld (s : State) (core : Nat) (kind : Held → Bool) : State :=
  ((s.unit core).heldMsgs).foldl (fun acc h =>
    if ! kind h || ringHeld ((acc.unit core).heldMsgs.takeWhile fun o => o != h) (heldRing h) then acc
    else
      match acc.offer core h with
      | none => acc
      | some s1 => s1.modUnit core fun x => { x with heldMsgs := x.heldMsgs.filter fun o => o != h }) s

/-- A held message is a hand-off. -/
def heldHandOff : Held → Bool
  | .handOff _ => true
  | .msg _ => false

end Sys2Proof.Machine
end

