-- ==== Sys2Proof/Machine/Tasks.lean ====
section
/-! DEFINITION. Queues, pops, steals, beacons and completion at the homes, and the votes of laps at the relay (16_tasks R312 to
R341). -/

namespace Sys2Proof.Machine

/-! ## Descriptors (R312) -/

/-- Doubleword `i` of a descriptor. -/
def descWord (d : List Byte) (i : Nat) : Word := wordOf ((d.drop (8 * i)).take 8)

/-- The anchor's base. -/
def anchorBase (d : List Byte) : Nat := (descWord d 2).toNat

/-- The anchor's length. -/
def anchorLen (d : List Byte) : Nat := ((descWord d 3).extractLsb' 0 32).toNat

/-- NOSTEAL. -/
def descNoSteal (d : List Byte) : Bool := (descWord d 3).getLsbD 32

/-- The order class is COMMUTING. -/
def descCommuting (d : List Byte) : Bool := (descWord d 3).getLsbD 48

/-- The priority bit. -/
def descPriority (d : List Byte) : Bool := (descWord d 3).getLsbD 49

/-- Reserved fields zero and the length from 1 to 4,096 (check 2 of R335). -/
def descOk (d : List Byte) : Bool :=
  let w := descWord d 3
  w.extractLsb' 33 15 == 0#15 && w.extractLsb' 50 14 == 0#14 && (descWord d 4).extractLsb' 32 32 == 0#32
    && decide (1 ≤ anchorLen d) && decide (anchorLen d ≤ 4096)

/-- Two anchors share a byte (R312). -/
def anchorsOverlap (a b : List Byte) : Bool :=
  decide (anchorBase a < anchorBase b + anchorLen b) && decide (anchorBase b < anchorBase a + anchorLen a)

/-! ## Queues -/

/-- A queue of a home. -/
def State.queue (s : State) (h q : Nat) : Queue := SMap.get (s.home h).queues q Queue.reset

/-- The state with a queue replaced. -/
def State.setQueue (s : State) (h q : Nat) (x : Queue) : State :=
  s.modHome h fun y => { y with queues := SMap.put y.queues q x }

/-- The low 15 bits of a queue's selector (R314). -/
def selOf (h q : Nat) : Nat := (if h < 512 then 0 else 2 ^ 13) + h % 512 * 8 + q

/-- A selector that R314 accepts, ANY aside. -/
def State.selOk (s : State) (w : Word) (any : Bool) : Bool :=
  w.extractLsb' 15 48 == 0#48 && (any || ! w.getLsbD 63) &&
    ((any && w.getLsbD 63) ||
      (! w.getLsbD 14 && decide ((w.extractLsb' 3 10).toNat < 512) &&
        (if w.getLsbD 13 then s.pchOn (w.extractLsb' 3 10).toNat else s.on (.slice (w.extractLsb' 3 10).toNat))))

/-- The home and queue of a selector (R314). -/
def selHome (w : Word) : Nat × Nat :=
  ((if w.getLsbD 13 then 512 else 0) + (w.extractLsb' 3 10).toNat, (w.extractLsb' 0 3).toNat)

/-- FO as FRC leaves it (R315). -/
def Queue.far (x : Queue) : Bool := x.frc == 2#2 || (x.fo && x.frc != 1#2)

/-- The steal threshold; `none` where the queue gives no steal (R315, R319). -/
def Queue.threshold (x : Queue) : Option Nat :=
  if x.frc = 1#2 then none else if x.far then some 1 else if x.t = 0 then none else some x.t

/-- A task's priority, its age counted (R312, R329). -/
def QTask.prio (t : QTask) : Bool := descPriority t.desc || t.aged

/-- A resident task is eligible (R316). -/
def Queue.eligible (x : Queue) (t : QTask) : Bool :=
  descCommuting t.desc ||
    ! ((x.resident ++ x.started).any fun o =>
      decide (o.ticket.toNat < t.ticket.toNat) && ! descCommuting o.desc && anchorsOverlap o.desc t.desc)

/-- A beacon of a queue (R320). -/
def Queue.beaconOf (x : Queue) (h q : Nat) : Beacon := ⟨h, q, x.lid, x.resident.any QTask.prio⟩

/-! ## Beacons and directories (R320) -/

/-- A directory. -/
def State.dir (s : State) (d : Nat) : List Beacon := SMap.get s.dirs d []

/-- A beacon or a retraction reaches a directory; a full directory drops new ones (R320). -/
def State.beaconArrive (s : State) (d : Nat) (b : Beacon) (retract : Bool) : State :=
  let l := s.dir d
  let same := fun (o : Beacon) => o.home == b.home && o.q == b.q
  let l' :=
    if retract then l.filter fun o => ! same o
    else if l.any same then l.map fun o => if same o then b else o
    else if l.length < 64 then l ++ [b] else l
  { s with dirs := SMap.put s.dirs d l' }

/-- The directories that a home's beacons go to: the clusters of its die, and the hub's (R320). -/
def beaconDirs (h : Nat) : List Nat := ((List.range 8).map fun k => h % 512 / 128 * 8 + k) ++ [32]

/-- A beacon sent to every directory of a home. DESIGN CHOICE, log entry 35. -/
def State.beaconSend (s : State) (h : Nat) (b : Beacon) (retract : Bool) : State :=
  (beaconDirs h).foldl (fun acc d => acc.beaconArrive d b retract) s

/-- A queue replaced, and its beacon sent, kept up or retracted as its depth then stands (R320, R339). -/
def State.putQueue (s : State) (h q : Nat) (x : Queue) : State :=
  let stands : Bool := x.en && (match x.threshold with | some t => decide (t ≤ x.resident.length) | none => false)
  let s1 := s.setQueue h q { x with beacon := stands }
  if stands then s1.beaconSend h (x.beaconOf h q) false
  else if (s.queue h q).beacon then s1.beaconSend h (x.beaconOf h q) true
  else s1

/-! ## Acceptance, spill and refill (R313, R327, R335) -/

/-- The spill ring's capacity; 0 where there is none (R315). -/
def Queue.spillCap (x : Queue) : Nat := if x.log2n = 0 then 0 else 2 ^ x.log2n

/-- A task written to a spill ring by its home: an engine write that carries no ASID (R313). -/
def State.spillWrite (s : State) (h at_ : Nat) (desc : List Byte) : State :=
  s.writeHome .engine ⟨1024 + h % 512, 0, 0#12, 0#16, .s⟩ false at_ desc

/-- The write of a task to its spill ring, held where a row stream holds its channel (R377); the model's own issuer of it is no context. -/
def State.spillPost (s : State) (h at_ : Nat) (desc : List Byte) : State :=
  if s.chanBusy at_ then
    { s with
      flight := s.flight ++ [⟨⟨1024 + h % 512, 15, 0#12, 0#16, .s⟩, s.po, 0#64, 0#64, at_, .spill desc, false, false, false⟩]
      po := s.po + 1 }
  else s.spillWrite h at_ desc

/-- A task offered to a queue: the state and the status 0 resident, 1 spilled, 2 refused (R313, R335). -/
def State.enqueueAt (s : State) (h q : Nat) (desc : List Byte) : State × Nat :=
  let x := s.queue h q
  let t : QTask := ⟨x.next, desc, false⟩
  if x.resident.length < 256 ∧ x.spilled = 0 then
    (s.putQueue h q { x with resident := x.resident ++ [t], next := x.next + 1#32 }, 0)
  else if x.spilled < x.spillCap then
    let at_ := x.pa + 64 * ((x.spillHead + x.spilled) % x.spillCap)
    ((s.spillPost h at_ desc).putQueue h q { x with spilled := x.spilled + 1, next := x.next + 1#32 }, 1)
  else (s, 2)

/-- The spill ring's head moved to the resident entries (R313): its ticket is the oldest that is not resident. It waits while a row stream
holds the channel (R377). -/
def State.refill (s : State) (h q : Nat) : State :=
  let x := s.queue h q
  let at_ := x.pa + 64 * (x.spillHead % x.spillCap)
  if x.spilled = 0 ∨ 256 ≤ x.resident.length then s
  else if s.chanBusy at_ || (s.flight.any fun r => r.pa == at_ && match r.act with | .spill _ => true | _ => false) then s
  else
    let r := s.readHome at_ 64
    let t : QTask := ⟨x.next - BitVec.ofNat 32 x.spilled, r.2, false⟩
    r.1.putQueue h q { x with resident := x.resident ++ [t], spilled := x.spilled - 1, spillHead := x.spillHead + 1 }

/-- What a home answers to an enqueue: accepted with a status, or ACCESS (R335). -/
def State.enqueueReq (s : State) (r : Req) (q : Nat) (desc : List Byte) (lid : Nat) : Except Cause (State × Nat) :=
  match s.homeFault r.who (reqTagged r) true none r.pa 1 with
  | some .derivedWrite => go
  | some c => .error c
  | none => go
where
  /-- The queue's own checks (R335). -/
  go : Except Cause (State × Nat) :=
    match (s.place r.pa).home with
    | none => .error .access
    | some h =>
      let x := s.queue h q
      if ! x.en || x.lid ≠ lid || x.asid ≠ r.who.asid then .error .access
      else .ok (s.enqueueAt h q desc)

/-- An enqueue performed at its home; a refused TKENQ leaves its context asleep (R327, R335). -/
def State.doEnqueue (s : State) (r : Req) (q : Nat) (desc : List Byte) (lid : Nat) (id : Option Nat) : State :=
  match s.enqueueReq r q desc lid, id with
  | .error c, _ => s.returnFault r id c
  | .ok (s1, st), some k => s1.answer r.who.unit r.who.ctx k (.value (BitVec.ofNat 64 st))
  | .ok (s1, st), none =>
    s1.modCtx r.who.unit r.who.ctx fun x =>
      if st = 2 then { x with asleep := true } else { x with woken := true }

/-! ## Pops, steals, grants and completion (R318 to R325) -/

/-- A status word of R333. -/
def statusWord (code : Nat) (ticket : Word32) (sel : Nat) : Word :=
  BitVec.ofNat 64 (code * 2 ^ 56 + ticket.toNat * 2 ^ 16 + sel % 2 ^ 15)

/-- The tasks of a queue that a pop may take for their kind (R315, R318). -/
def Queue.poppable (x : Queue) : List QTask := x.resident.filter fun t => ! x.far || descNoSteal t.desc

/-- The task that a pop takes from a queue: the oldest eligible one, or the code it fails with (R318, R333). -/
def Queue.popFrom (x : Queue) : Except Nat QTask :=
  if x.resident = [] then .error 1
  else if x.poppable = [] then .error 3
  else if 32 ≤ x.started.length then .error 2
  else
    match x.poppable.find? x.eligible with
    | some t => .ok t
    | none => .error 2

/-- The queues of a home in a pop's round-robin order (R318). -/
def State.popOrder (s : State) (h : Nat) : List Nat :=
  (List.range 8).map fun k => ((s.home h).popped + 1 + k) % 8

/-- A launch that a STOP has stopped is neither popped nor stolen from (R330). -/
def State.stoppedLaunch (s : State) (lid : Nat) : Bool := match s.launch lid with | some l => l.stopped | none => false

/-- A queue is enabled and bound to a launch, by its LID and its ASID (R319). -/
def State.boundQueue (s : State) (x : Queue) (lid : Nat) : Bool :=
  x.en && x.lid == lid && match s.launch lid with | some l => x.asid == l.asid | none => true

/-- What a pop for a launch finds in a queue: a stopped launch's tasks wait (R318, R330). DEDUCED, log entry 24. -/
def State.popTry (s : State) (h q lid : Nat) : Except Nat QTask :=
  if s.stoppedLaunch lid then .error (if (s.queue h q).resident = [] then 1 else 2) else (s.queue h q).popFrom

/-- A pop's decision (R318): the queue and task, or the failure's code and queue. DEDUCED, log entry 42. -/
def State.popDecision (s : State) (h lid : Nat) : Except (Nat × Nat) (Nat × QTask) :=
  let qs := (s.popOrder h).filter fun q => s.boundQueue (s.queue h q) lid
  let gives := qs.filterMap fun q => match s.popTry h q lid with | .ok t => some (q, t) | .error _ => none
  match gives.find? fun g => g.2.prio with
  | some g => .ok g
  | none =>
    match gives with
    | g :: _ => .ok g
    | [] =>
      let fails := qs.filterMap fun q => match s.popTry h q lid with | .ok _ => none | .error e => some (e, q)
      match fails.find? fun f => f.1 == 2 with
      | some f => .error f
      | none =>
        match fails.find? fun f => f.1 == 3 with
        | some f => .error f
        | none => .error (1, match fails with | f :: _ => f.2 | [] => 0)

/-- A steal's decision at a queue (R319): the task, or the failure's code. -/
def State.stealDecision (s : State) (h q lid : Nat) (asid : BitVec 12) : Except Nat QTask :=
  let x := s.queue h q
  if ! x.en || x.lid ≠ lid || x.asid ≠ asid then .error 3
  else if s.stoppedLaunch lid then .error 2
  else if x.resident = [] then .error 1
  else
    match x.threshold with
    | none => .error 3
    | some t =>
      if x.resident.length < t then .error 3
      else if 32 ≤ x.started.length then .error 2
      else
        match (x.resident.filter fun k => ! descNoSteal k.desc && x.eligible k).getLast? with
        | some k => .ok k
        | none => .error 2

/-- The helper and the offset of a bind word (R333). -/
def bindHelper (w : Word) : Nat := (w.extractLsb' 32 4).toNat

/-- The descriptor offset of a bind word (R333). -/
def bindOff (w : Word) : Nat := (w.extractLsb' 0 20).toNat

/-- Task information written into a helper's context block (R322, R324). -/
def State.writeTaskInfo (s : State) (u n : Nat) (desc : List Byte) (live queued far : Bool) (ticket : Word32) (sel : Nat) : State :=
  let cb := (s.cbOf u n).toNat
  let home := b2n live * 2 ^ 63 + b2n queued * 2 ^ 62 + b2n far * 2 ^ 61 + ticket.toNat * 2 ^ 16 + sel % 2 ^ 15
  (((s.setLoc64 u (cb + 0x60) (descWord desc 2)).setLoc64 u (cb + 0x68) (descWord desc 3)).setLoc64 u (cb + 0x70)
    (descWord desc 4)).setLoc64 u (cb + 0x78) (BitVec.ofNat 64 home)

/-- A granted task (R322): removed and started, its descriptor copied, the helper's task information written, the read cache
invalidated; a body PC that fails its check completes the task at once with PCBAD. The state and the status word. -/
def State.grant (s : State) (u h q : Nat) (t : QTask) (far : Bool) (bind : Word) : State × Word :=
  let x := s.queue h q
  let resident := x.resident.filter fun o => o != t
  let pc := descWord t.desc (if far then 1 else 0)
  let sel := selOf h q
  let s0 := s.setLocal u (bindOff bind) t.desc
  match checkTarget pc with
  | some _ =>
    let s1 := s0.putQueue h q { x with resident := resident }
    (s1.modLaunch x.lid fun l => { l with taskErrors := l.taskErrors + 1 }, statusWord 4 t.ticket sel)
  | none =>
    let s1 := s0.putQueue h q { x with resident := resident, started := x.started ++ [t] }
    let s2 := s1.writeTaskInfo u (bindHelper bind) t.desc true true far t.ticket sel
    let s3 := s2.modLaunch x.lid fun l => { l with running := l.running + 1 }
    (s3.acquire u, statusWord 0 t.ticket sel)

/-- A pop at a home, issued by its near unit for a launch (R318, R321, R322). -/
def State.popAt (s : State) (u h lid : Nat) (bind : Word) : State × Word :=
  match s.popDecision h lid with
  | .error (code, q) => (s, statusWord code 0#32 (selOf h q))
  | .ok (q, t) =>
    let g := s.grant u h q t false bind
    ((g.1.modHome h fun y => { y with popped := q }).refill h q, g.2)

/-- A steal from one queue (R319, R321, R322); `none` where it grants nothing, with the code. -/
def State.stealAt (s : State) (u h q lid : Nat) (asid : BitVec 12) (bind : Word) : Except Nat (State × Word) :=
  match s.stealDecision h q lid asid with
  | .error e => .error e
  | .ok t =>
    let g := s.grant u h q t true bind
    .ok (g.1.refill h q, g.2)

/-- A launch's beacons of a directory in the order a steal tries them (R320). -/
def State.beaconsOf (s : State) (d lid : Nat) : List Beacon :=
  let mine := (s.dir d).filter fun b => b.lid == lid
  (mine.filter fun b => b.prio) ++ (mine.filter fun b => ! b.prio)

/-- The homes of a list tried in turn, until one grants or none remains (R320, R333). -/
def State.stealAny (s : State) (u lid : Nat) (asid : BitVec 12) (bind : Word) : List Beacon → State × Word
  | [] => (s, statusWord 5 0#32 0)
  | [b] =>
    match s.stealAt u b.home b.q lid asid bind with
    | .ok r => r
    | .error e => (s, statusWord e 0#32 (selOf b.home b.q))
  | b :: rest =>
    match s.stealAt u b.home b.q lid asid bind with
    | .ok r => r
    | .error _ => s.stealAny u lid asid bind rest

/-- A far core's steal (R319, R320). -/
def State.steal (s : State) (u lid : Nat) (asid : BitVec 12) (sel bind : Word) : State × Word :=
  if sel.getLsbD 63 then
    let near := s.beaconsOf (u / 16) lid
    s.stealAny u lid asid bind (if near = [] then s.beaconsOf 32 lid else near)
  else
    let hq := selHome sel
    match s.stealAt u hq.1 hq.2 lid asid bind with
    | .ok r => r
    | .error e => (s, statusWord e 0#32 (selOf hq.1 hq.2))

/-- A task's completion at its home (R325). -/
def State.completeAt (s : State) (h q : Nat) (ticket : Word32) : State :=
  let x := s.queue h q
  s.putQueue h q { x with started := x.started.filter fun t => t.ticket != ticket }

/-- The priority 0 task of a ticket has waited 1 ms (R329). -/
def State.ageTask (s : State) (h q : Nat) (ticket : Word32) : State :=
  let x := s.queue h q
  s.putQueue h q { x with resident := x.resident.map fun t =>
    if t.ticket = ticket ∧ x.eligible t then { t with aged := true } else t }

/-! ## Voters, votes and closure (R331, R332) -/

/-- The near unit of a home. -/
def nearUnit (h : Nat) : Nat := if h < 512 then Config.sliceUnit0 + h else Config.stackUnit0 + (h - 512)

/-- The home of a near unit. -/
def homeOfNear (u : Nat) : Nat := u - Config.sliceUnit0

/-- A home has an enabled queue bound to a launch. -/
def State.bound (s : State) (h lid : Nat) : Bool :=
  (List.range 8).any fun q => s.boundQueue (s.queue h q) lid

/-- A unit is a voter of a launch (R331). -/
def State.isVoter (s : State) (u lid : Nat) : Bool :=
  match s.launch lid with
  | none => false
  | some l => if u < 512 then l.cores.contains u else s.bound (homeOfNear u) lid

/-- The voters of a launch (R331). -/
def State.voters (s : State) (l : Launch) : List Nat :=
  l.cores ++ ((s.homes.filter fun h => decide (h.1 < 1024) && s.bound h.1 l.lid).map fun h => nearUnit h.1)

/-- The votes of two voters combined (R332). -/
def combineVotes (op : LapOp) (a b : Word) : Word :=
  match op with
  | .and => a &&& b
  | .or => a ||| b
  | .min => if a.toInt ≤ b.toInt then a else b
  | .max => if b.toInt ≤ a.toInt then a else b
  | .sum => a + b

/-- The closure's value and whether it carries ERR (R332). -/
def voteResult (vs : List Vote) : Word × Bool :=
  match vs with
  | [] => (0#64, false)
  | v :: rest =>
    if rest.all fun o => o.op == v.op then (rest.foldl (fun acc o => combineVotes v.op acc o.v) v.v, false)
    else (0#64, true)

/-- A contribution of a launch is pending whose application is held: at a channel that serves its row stream alone, or behind array commands
(R137, R162, R275, R377). -/
def State.mergesHeld (s : State) (lid : Nat) : Bool :=
  s.homes.any fun h => h.2.merges.any fun e =>
    e.lid == lid && e.pending != [] && s.accessWaits e.target (if e.dbl then 8 else 4) s.po

/-- Some coprocessor, engine or stream work, a re-dispatch, a refused contribution or a held message of a launch has not been performed (R160,
R376). -/
def State.launchWork (s : State) (lid : Nat) : Bool :=
  (s.units.any fun u =>
    let mine := fun (c : Nat) => (u.2.ctx u.1 c).lid == lid
    (u.2.vq.any fun k => mine k.ctx) || (u.2.replay.any fun k => mine k.ctx) || (u.2.matrix.fifo.any fun k => mine k.ctx)
      || (u.2.engine.infifo.any fun k => mine k.ctx) || (match u.2.engine.begun with | some k => mine k.1.ctx | none => false)
      || (u.2.ctxs.any fun x => x.2.lid == lid && (x.2.blocked != [] || x.2.redo.isSome)))
    || (s.slices.any fun x => x.2.fifo.any fun k => k.lid == lid)
    || (s.near.any fun n => n.2.lid == lid && n.2.stream.isSome && n.2.done.isNone)
    || s.mergesHeld lid

/-- Every queue of a launch is empty, no access of it is in flight and no work of it outstanding (R160, R331). -/
def State.drained (s : State) (l : Launch) : Bool :=
  s.homes.all (fun h => h.2.queues.all fun q =>
    q.2.lid != l.lid || ! q.2.en || (q.2.resident == [] && q.2.spilled == 0 && q.2.started == []))
    && ! (s.flight.any fun r => (s.ctx r.who.unit r.who.ctx).lid == l.lid) && ! s.launchWork l.lid

/-- The host has cancelled a launch whose stop is done: no context of it runs again, its commands are performed and their tokens go nowhere (R424,
R426). -/
def State.cancelling (s : State) (lid : Nat) : Bool :=
  match s.launch lid with
  | some l => l.cancel && l.stopped && l.owing == []
  | none => false

/-- Something sent belongs to a launch: the completion of a task of its queue, its vote, a pop or a steal of its context. -/
def State.sentFor (s : State) (lid : Nat) (p : Posted) : Bool :=
  match p with
  | .complete h q _ => (s.queue h q).lid == lid
  | .vote l _ _ => l == lid
  | .pop u c _ _ | .steal u c _ _ _ => (s.ctx u c).lid == lid

/-- Something sent on its way. -/
def State.sendOut (s : State) (p : Posted) : State := { s with posted := s.posted ++ [p] }

/-- Something sent that arrives now; `none` where it is not on its way. -/
def State.takeSent (s : State) (p : Posted) : Option State :=
  if s.posted.contains p then some { s with posted := s.posted.erase p } else none

/-- The votes on their way from a unit to the relay, oldest first. -/
def State.votesSent (s : State) (lid u : Nat) : List Posted :=
  s.posted.filter fun p => match p with | .vote l v _ => l == lid && v == u | _ => false

/-- The relay can close the lap of a launch (R331). -/
def State.lapReady (s : State) (l : Launch) : Bool :=
  ! l.stopped && decide (l.running = 0) && s.drained l && (s.voters l).all fun u => l.votes.any fun v => v.1 == u

/-- A vote stands at the relay (R331, R340). -/
def State.castVote (s : State) (lid u : Nat) (v : Vote) : State :=
  s.modLaunch lid fun l => { l with votes := SMap.put l.votes u v }

end Sys2Proof.Machine
end

