-- ==== Sys2Proof/Machine/Hub.lean ====
section
/-! DEFINITION. The hub's side of launches (23_device R419 to R426): completions, the end and the failure of a launch, the sending of
STOP (21_system R407). -/

namespace Sys2Proof.Machine

/-- A launch queue. -/
def State.lq (s : State) (q : Nat) : LQueue := SMap.get s.lqs q LQueue.reset

/-- The state with a launch queue replaced. -/
def State.setLq (s : State) (q : Nat) (x : LQueue) : State := { s with lqs := SMap.put s.lqs q x }

/-- Doubleword `i` of the LQCFG block. -/
def LQueue.dw (x : LQueue) (i : Nat) : Word := match x.cfg[i]? with | some w => w | none => 0#64

/-- CRLOG2 (R419). -/
def LQueue.crlog2 (x : LQueue) : Nat := ((x.dw 5).extractLsb' 0 4).toNat

/-- The queue is enabled: EN, and CRLOG2 from 4 to 12 (R419). -/
def LQueue.enabled (x : LQueue) : Bool := (x.dw 0).getLsbD 63 && decide (4 ≤ x.crlog2) && decide (x.crlog2 ≤ 12)

/-- CRHEAD and CRTAIL (R419). -/
def LQueue.crhead (x : LQueue) : Word32 := (x.dw 6).extractLsb' 0 32
/-- CRTAIL (R419). -/
def LQueue.crtail (x : LQueue) : Word32 := (x.dw 7).extractLsb' 0 32

/-- The ring is full (R423). -/
def LQueue.ringFull (x : LQueue) : Bool := (x.crtail - x.crhead) == BitVec.ofNat 32 (2 ^ x.crlog2)

/-- The 32 bytes of a completion (R423). -/
def Completion.bytes (c : Completion) : List Byte :=
  bytesOf 8 c.tag ++ bytesOfNat 8 (c.kind * 2 ^ 56 + c.cause * 2 ^ 48 + c.lid % 2 ^ 16 * 2 ^ 32 + c.laps % 2 ^ 32)
    ++ bytesOf 8 c.value ++ bytesOfNat 8 (c.terr % 2 ^ 32 * 2 ^ 32)

/-- CRPORT: the port that completions and their MSI-X messages go to (R419). -/
def LQueue.crport (x : LQueue) : Nat := ((x.dw 5).extractLsb' 12 1).toNat

/-- One completion written to the queue's ring on its port, CRTAIL advanced, and the MSI-X message sent there (R419, R423). -/
def State.writeCompletion (s : State) (q : Nat) (c : Completion) : State :=
  let x := s.lq q
  let at_ := (x.dw 4 &&& 0xFFFFFFFFFFFFF000#64).toNat + 32 * (x.crtail.toNat % 2 ^ x.crlog2)
  let s1 := { s with hostMem := s.hostMem.writeBytes at_ c.bytes, crPorts := s.crPorts ++ [x.crport] }
  let s2 := s1.setLq q { x with cfg := x.cfg.setIfInBounds 7 ((x.crtail + 1#32).setWidth 64) }
  if (x.dw 5).getLsbD 8 then { s2 with msi := s2.msi ++ [(x.crport, ((x.dw 5).extractLsb' 4 4).toNat)] } else s2

/-- A completion posted, or held behind a full ring (R423). -/
def State.postCompletion (s : State) (q : Nat) (c : Completion) : State :=
  let x := s.lq q
  if x.held ≠ [] ∨ x.ringFull then s.setLq q { x with held := x.held ++ [c] } else s.writeCompletion q c

/-- The first held completion written once the ring has room (R423). -/
def State.releaseHeld (s : State) (q : Nat) : State :=
  let x := s.lq q
  match x.held with
  | [] => s
  | c :: rest => if x.ringFull then s else (s.setLq q { x with held := rest }).writeCompletion q c

/-- Every context of a launch stops issuing, but for those of a unit that is to go on to its trap (R394, R407, R410, R426). -/
def State.holdLaunch (s : State) (lid : Nat) (but : Option Nat) : State :=
  s.units.foldl (fun acc u =>
    if but = some u.1 then acc
    else u.2.ctxs.foldl (fun a x => if x.2.lid = lid ∧ x.2.live then a.modCtx u.1 x.1 fun y => { y with held := true } else a) acc) s

/-- Near mode without what a launch has of it: its program, its mode, its entry under way (R369, R370, R386). -/
def Near.without (x : Near) (lid : Nat) : Near :=
  let y : Near := if x.plid = lid then { x with prog := none, plid := 0 } else x
  let z : Near := if y.entering = some lid then { y with entering := none } else y
  if z.nm ∧ z.lid = lid then { z with nm := false, lid := 0, stream := none, done := none, due := false } else z

/-- The channels of a launch that ends return to normal mode, its row programs go, and a near-mode sequence of its contexts is
cancelled (R368 to R370, R386). -/
def State.leaveNear (s : State) (lid : Nat) : State :=
  s.near.foldl (fun acc n =>
    acc.modNear n.1 fun y =>
      let z := y.without lid
      if z.step ≠ 0 ∧ (s.ctx (Config.stackUnit0 + n.1) z.owner).lid = lid then { z with step := 0 } else z) s

/-- What a launch that fails has not performed is dropped: no write of it follows the failure (R424). -/
def State.dropWork (s : State) (lid : Nat) : State :=
  let mine := fun (u c : Nat) => (s.ctx u c).lid == lid
  let s1 : State :=
    { s with
      flight := s.flight.filter fun r => ! mine r.who.unit r.who.ctx
      posted := s.posted.filter fun p => ! s.sentFor lid p }
  let s2 : State := s1.units.foldl (fun acc u => acc.modUnit u.1 fun x =>
    { x with
      vq := x.vq.filter fun k => ! mine u.1 k.ctx
      replay := x.replay.filter fun k => ! mine u.1 k.ctx
      heldMsgs := x.heldMsgs.filter fun h =>
        match h with
        | .msg r => ! mine r.who.unit r.who.ctx
        | .handOff e => (SMap.get x.wtes e Wte.free).lid != lid
      wtes := x.wtes.filter fun k => k.2.lid != lid
      swapped := x.swapped.filter fun k => k.lid != lid
      matrix :=
        { x.matrix with
          fifo := x.matrix.fifo.filter fun k => ! mine u.1 k.ctx
          walk := if (x.matrix.fifo.take 1).any fun k => mine u.1 k.ctx then none else x.matrix.walk }
      engine :=
        { x.engine with
          infifo := x.engine.infifo.filter fun k => ! mine u.1 k.ctx
          begun := match x.engine.begun with | some k => (if mine u.1 k.1.ctx then none else some k) | none => none } }) s1
  let slices : SMap Slice := s2.slices.map fun x =>
    (x.1, { x.2 with fifo := x.2.fifo.filter fun k => k.lid != lid })
  let homes : SMap Home := s2.homes.map fun h => (h.1, { h.2 with merges := h.2.merges.filter fun e => e.lid != lid })
  { s2 with slices := slices, homes := homes }

/-- A launch ends; where its voters have ended it their contexts go on to LAPW's result (R332, R394, R407, R426): its record of the hub is
dropped, its contexts stop but for those of a unit that traps, its completion is posted. DEDUCED, log entry 55. -/
def State.endLaunchBut (s : State) (but : Option Nat) (lid kind cause : Nat) (value : Word) : State :=
  match s.launch lid with
  | none => s
  | some l =>
    let s0 := if kind = 1 then s else s.holdLaunch lid but
    let s1 := (if kind = 2 ∨ kind = 5 then s0.dropWork lid else s0).leaveNear lid
    let s2 : State :=
      { s1 with
        launches := s1.launches.filter fun o => o.lid != lid
        posted := s1.posted.filter fun p => match p with | .vote k _ _ => k != lid | _ => true }
    s2.postCompletion l.queue ⟨l.tag, kind, cause, lid, l.lap - 1, value, l.taskErrors⟩

/-- A launch ends on every unit. -/
def State.endLaunch (s : State) (lid kind cause : Nat) (value : Word) : State := s.endLaunchBut none lid kind cause value

/-- A launch fails with an error completion (R394, R410, R437). -/
def State.failLaunch (s : State) (lid cause : Nat) : State := s.endLaunch lid 2 cause 0#64

/-- The launches that a unit serves: those of its live contexts, and those it votes in (R331). -/
def State.launchesOf (s : State) (u : Nat) : List Nat :=
  ((((s.unit u).ctxs.filter fun x => x.2.live && x.2.lid != 0).map fun x => x.2.lid)
    ++ (s.launches.filter fun l => s.isVoter u l.lid).map Launch.lid).eraseDups

/-- A control context has double-trapped (R394): every launch its unit serves fails. -/
def State.failUnit (s : State) (u cause : Nat) : State :=
  (s.launchesOf u).foldl (fun acc lid => acc.failLaunch lid cause) s

/-- A launch's core table or home queues name a unit (R434). -/
def State.names (s : State) (l : Launch) (x : PartUnit) : Bool :=
  match x with
  | .farCore c => l.cores.contains c
  | .slice k => s.bound k l.lid
  | .pseudoChannel p => s.bound (512 + p) l.lid
  | .stackUnit j => (List.range 64).any fun i => s.bound (512 + 64 * j + i) l.lid
  | .matrix _ | .lane _ => false

/-- A launch names a unit that a signed record removes at the next reset (R434). -/
def State.namesRetired (s : State) (l : Launch) : Bool := s.retired.any fun x => s.names l x

/-- The hub fails every launch whose core table or home queues name a retired unit (R434). DEDUCED, log entry 63. -/
def State.failRetired (s : State) : State :=
  (s.launches.filter s.namesRetired).foldl (fun acc l => acc.failLaunch l.lid Cause.uncorr.code) s

/-- A STOP reaches one context of the launch (R407): it parks before its next word; one that sleeps is held at once with its PC at the
waiting word, and the sleep of EPOP, MPOP or NRWAIT and of a contribution or message is cancelled too (R138, R176, R380). -/
def State.stopCtx (s : State) (u c : Nat) : State :=
  let x := s.ctx u c
  let s1 := if x.parking then (s.cancelPops u c).cancelBlocked u c else s
  s1.modCtx u c fun y =>
    if y.asleep && c != 0 then { y with held := true, asleep := false, woken := false, latch := none, wait := none }
    else { y with stopDue := c != 0, parking := true }

/-- A near-mode sequence that a context of a launch has begun is cancelled (R381). -/
def State.cancelFor (s : State) (u lid : Nat) : State :=
  match kindOf u with
  | .stack =>
    let x := s.nearOf (pchOf u)
    if x.step ≠ 0 ∧ (s.ctx u x.owner).lid = lid then s.modNear (pchOf u) fun y => { y with step := 0 } else s
  | _ => s

/-- A STOP of a launch arrives at a unit (R407): its live helpers are held at their next park, its control context is to take STOP at its
own, and a near-mode sequence is cancelled. -/
def State.stopArrive (s : State) (u lid : Nat) : State :=
  let s1 := (List.range 11).foldl (fun acc c =>
    let x := acc.ctx u c
    if x.live ∧ ((c ≠ 0 ∧ x.lid = lid) ∨ (c = 0 ∧ ¬ x.act = true)) then acc.stopCtx u c else acc) (s.cancelFor u lid)
  s1.modUnit u fun x => { x with stopPend := if x.stopPend.contains lid then x.stopPend else x.stopPend ++ [lid] }

/-- The hub stops a launch: STOP goes to every unit of it, with a live context of it or as a voter (R331, R407). -/
def State.sendStop (s : State) (lid : Nat) : State :=
  let us := (((s.units.filter fun u => u.2.ctxs.any fun x => x.2.lid == lid && x.2.live).map Prod.fst)
    ++ (match s.launch lid with | some l => s.voters l | none => [])).eraseDups
  let s1 := s.modLaunch lid fun l => { l with stopped := true, owing := us, away := us }
  us.foldl (fun acc u => acc.stopArrive u lid) s1

/-- A trap taken (R393), with what the hub does when it is the double trap of a control context (R394). -/
def State.takeTrap (s : State) (u c : Nat) (tpc tval fpc : Word) (deflt : Bool) (hlp : Nat) (cause : Cause) : State :=
  let x := s.ctx u c
  let s1 := s.enterTrap u c tpc tval fpc deflt hlp cause
  if c = 0 && (x.act || s.handlerPc u c == 0#64) then s1.failUnit u cause.code else s1

end Sys2Proof.Machine
end

