-- ==== Sys2Proof/Machine/Park.lean ====
section
/-! DEFINITION. Posting and performing accesses (07_ordering R151), the park (04_contexts R64 to R68), the waits that end segments,
notices (R78), and the precise trap (03_encoding R59). -/

namespace Sys2Proof.Machine

/-! ## Accesses in flight -/

/-- An access performed at its home, each kind by its own operation. -/
def State.performAt (s : State) (r : Req) : State :=
  match r.act with
  | .load size sg id => s.doLoad r size sg id
  | .store size data => s.doStore r size data
  | .atomic op dbl v e id => s.doAtomic r op dbl v e id
  | .merge fp dbl v k => s.doMerge r fp dbl v k
  | .put bs cnt => s.doPut r bs cnt
  | .get lo n id => s.doGet r lo n id
  | .cinc cnt amount => s.doCinc r cnt amount
  | .send ring m => s.doSend r ring m
  | .enqueue q desc lid id => s.doEnqueue r q desc lid id
  | .spill desc => s.spillWrite (r.who.unit - 1024) r.pa desc

/-- An access performed; an acquire invalidates the read cache of its core then (R117, R146). -/
def State.perform (s : State) (r : Req) : State :=
  if r.acq then (s.performAt r).acquire r.who.unit else s.performAt r

/-- Two accesses touch one location (R150). -/
def sameLocation (a b : Req) : Bool := (reqSpans a).any fun x => (reqSpans b).any fun y => meets x.1 x.2 y.1 y.2

/-- Preserved program order between two accesses of one context, the first earlier (R124, R143, R151). -/
def State.ppoBefore (s : State) (a b : Req) : Bool :=
  a.acq || b.rel || sameLocation a b || (reqReads a && reqWrites b)
    || (reqWrites a && reqWrites b && (s.place a.pa).home == (s.place b.pa).home)

/-- An access that stands in the store queue of its unit until it is sent (R128, R135, R182). -/
def reqQueued (r : Req) : Bool :=
  match r.act with
  | .store _ _ | .atomic _ _ _ _ none | .merge _ _ _ _ | .put _ _ | .cinc _ _ | .send _ _ => true
  | _ => false

/-- The store queue of a unit holds its 32 entries (R128). -/
def State.storesFull (s : State) (u : Nat) : Bool := decide (32 ≤ (s.flight.filter fun r => r.who.unit == u && reqQueued r).length)

/-- A vector instruction that accesses memory (R218). -/
def vectorMemory : Instr → Bool
  | .vld _ _ _ | .vst _ _ _ | .vlds _ _ _ | .vsts _ _ _ | .vldx _ _ _ _ | .vstx _ _ _ _ | .vldbc _ _ _ | .vstm _ _ _ => true
  | _ => false

/-- A vector memory instruction of a context that precedes a place in program order waits in the queue (R218). -/
def State.vectorBefore (s : State) (u c po : Nat) : Bool :=
  (s.unit u).vq.any fun k => k.ctx == c && decide (k.po < po) && vectorMemory k.instr

/-- A row stream runs at the channel that homes an access, and holds it until a window (R377). -/
def State.channelHeld (s : State) (r : Req) : Bool :=
  match s.place r.pa with
  | .dram p _ => s.streaming p && (match r.act with | .enqueue _ _ _ _ => false | _ => true)
  | _ => false

/-- An EPOP, MPOP or NRWAIT of a context that precedes a place in program order has not taken its token or completion: it is an acquire
(R146, R151, R376). -/
def State.acquireBefore (s : State) (u c po : Nat) : Bool :=
  (s.ctx u c).defs.any fun e => decide (e.id < po) && e.src.popPc.isSome

/-! ## What a word reads of its unit's own memory at issue -/

/-- The accesses of the issuing context in flight. -/
def State.ownFlight (s : State) : List Req := s.flight.filter fun r => r.who.unit == s.cur && r.who.ctx == s.c

/-- Bytes at an address with those that an access stores laid over them. -/
def storedOver (pa : Nat) (bs : List Byte) (r : Req) : List Byte :=
  match r.act with
  | .store k w =>
    bs.zipIdx.map fun b => if r.pa ≤ pa + b.2 ∧ pa + b.2 < r.pa + k then (bytesOf k w).getD (pa + b.2 - r.pa) 0#8 else b.1
  | _ => bs

/-- The bytes of the unit's own memory that the word being issued reads: those of the issuing context's own stores in flight come before what
memory holds (R118, R151). DEDUCED, log entry 99. -/
def State.ownBytes (s : State) (off n : Nat) : List Byte :=
  s.ownFlight.foldl (storedOver (localPa s.cur off)) (s.getLocal s.cur off n)

/-- The doublewords of the unit's own memory that the word being issued reads. -/
def State.ownWords (s : State) (off n : Nat) : List Word := (List.range n).map fun i => wordOf (s.ownBytes (off + 8 * i) 8)

/-- An access writes bytes that only its performance gives: an atomic, a merge, a put, or a get's local range. -/
def writesUnseen (off n : Nat) (r : Req) : Bool :=
  match r.act with
  | .store _ _ | .load _ _ _ => false
  | .get lo k _ => meets (localPa r.who.unit off) n (localPa r.who.unit lo) k
  | _ => meets (localPa r.who.unit off) n r.pa (reqSize r)

/-- An acquire of the issuing context is not performed: no access that follows it is performed before it (R142, R151). -/
def State.ownAcquires (s : State) : Bool := ! s.acquireBefore s.cur s.c s.po && s.ownFlight.any Req.acq

/-- The word being issued waits before it reads its unit's own memory: an earlier access of its context, or a vector memory instruction, is yet
to write there, or an acquire before it is not performed (R142). DEDUCED, log entry 99. -/
def State.ownPending (s : State) (off n : Nat) : Bool :=
  decide (n ≠ 0) && ! s.acquireBefore s.cur s.c s.po
    && (s.ownFlight.any (fun r => r.acq || writesUnseen off n r) || s.vectorBefore s.cur s.c s.po)

/-- No earlier access of its context stands before an access, posted, refused or held, nor an earlier vector memory instruction, EPOP or
MPOP; and no array command accepted before it at its slice on an array it touches (R137, R151, R168, R275). -/
def State.orderFree (s : State) (r : Req) : Bool :=
  (s.flight.all fun a =>
    ! (a.who.unit == r.who.unit && a.who.ctx == r.who.ctx && decide (a.po < r.po) && s.ppoBefore a r))
    && ((s.ctx r.who.unit r.who.ctx).blocked.all fun a => ! (decide (a.po < r.po) && s.ppoBefore a r))
    && ! s.vectorBefore r.who.unit r.who.ctx r.po && ! s.acquireBefore r.who.unit r.who.ctx r.po
    && ! s.siltWaits r.pa (reqSize r) r.po

/-- An access can be performed now. -/
def State.mayPerform (s : State) (r : Req) : Bool := ! s.channelHeld r && ! s.linkBusy r.pa && s.orderFree r

/-- An access that is in flight performed and removed. -/
def State.performNow (s : State) (r : Req) : State :=
  { s with flight := s.flight.filter fun o => o != r }.perform r

/-- An access with the release that a FENCE rel before it asks of a write: it waits for what precedes the fence (R144). -/
def State.fencedReq (s : State) (r : Req) : Req :=
  let x := s.ctx r.who.unit r.who.ctx
  let held := reqWrites r &&
    ((s.flight.any fun a => a.who.unit == r.who.unit && a.who.ctx == r.who.ctx && decide (a.po < x.fenced))
      || x.blocked.any fun a => decide (a.po < x.fenced))
  { r with rel := r.rel || held }

/-- An access posted: performed at once when the model performs accesses at issue and nothing stands before it. -/
def State.post (s : State) (r : Req) : State :=
  if ! s.async && s.mayPerform (s.fencedReq r) then s.perform (s.fencedReq r) else { s with flight := s.flight ++ [s.fencedReq r] }

/-- Every access of a context that can be performed is performed, in program order. -/
def State.drainNow (s : State) (u c : Nat) : State :=
  if s.flight = [] then s
  else
    let mine := s.flight.filter fun r => r.who.unit == u && r.who.ctx == c
    mine.foldl (fun acc r => if acc.mayPerform r then acc.performNow r else acc) s

/-- The same where the model performs accesses at issue; where it posts them, each waits for its own event (log entry 3). -/
def State.drain (s : State) (u c : Nat) : State := if s.async then s else s.drainNow u c

/-- No access of a context is in flight, refused or held. -/
def State.quiet (s : State) (u c : Nat) : Bool :=
  ! (s.flight.any fun r => r.who.unit == u && r.who.ctx == c) && (s.ctx u c).blocked == []

/-- Every earlier access of a context, its vector instructions' among them, is performed and acknowledged (R144, R146, R403). -/
def State.allPerformed (s : State) (u c : Nat) : Bool := s.quiet u c && ! s.vectorBefore u c s.po

/-! ## Deferred sources that a park resolves (R267, R356, R386) -/

/-- A unit owes an engine token (R356). -/
def Engine.owes (e : Engine) : Bool := e.infifo != [] || e.begun.isSome

/-- A core owes a matrix token (R267). -/
def Matrix.owes (m : Matrix) : Bool := m.fifo.any MatCmd.k

/-- The value that an EPOP, MPOP or NRWAIT takes now, and the state that has given it; `none` while it must wait. -/
def State.takeSource (s : State) (u : Nat) (src : DefSrc) : Option (State × Word) :=
  match src with
  | .epop _ =>
    match (s.unit u).engine.out with
    | t :: rest => some ((s.modUnit u fun x => { x with engine := { x.engine with out := rest } }).acquire u, t)
    | [] => if (s.unit u).engine.owes then none else some (s, 0#64)
  | .mpop _ =>
    match (s.unit u).matrix.out with
    | t :: rest => some ((s.modUnit u fun x => { x with matrix := { x.matrix with out := rest } }).acquire u, t)
    | [] => if (s.unit u).matrix.owes then none else some (s, 0#64)
  | .nrwait _ =>
    match (s.nearOf (pchOf u)).done with
    | some w => some (s.modNear (pchOf u) fun x => { x with done := none, stream := none }, w)
    | none => if (s.nearOf (pchOf u)).stream.isSome then none else some (s, 0#64)
  | _ => none

/-- Every source of a context resolved that can be, in program order. -/
def State.resolve (s : State) (u c : Nat) : State :=
  (s.ctx u c).defs.foldl (fun acc e =>
    match acc.takeSource u e.src with
    | some (s1, w) => s1.answer u c e.id (.value w)
    | none => acc) s

/-! ## Steps 1 to 5 of a park (R67) -/

/-- What a park finds. -/
inductive Settled where
  /-- A result is outstanding. -/
  | waiting (s : State)
  /-- A fault, a STOP or a notice has diverted the context. -/
  | diverted (s : State)
  /-- Nothing was taken. -/
  | clear (s : State)

/-- The pending home fault of lowest program order (R67). -/
def Ctx.firstFault (x : Ctx) : Option HomeFault :=
  x.homeFaults.foldl (fun acc f => match acc with | none => some f | some g => if f.po < g.po then some f else acc) none

/-- The recorded late fault that is first in dispatch order (R219): it is the one delivered, since the re-dispatch that its delivery
asks for runs every later one again (R223). DEDUCED; log entry 13. -/
def Ctx.firstLate (x : Ctx) : Option (Word × Word) :=
  x.late.foldl (fun acc f =>
    match acc with
    | none => some f
    | some g => if 32768 ≤ (f.1.extractLsb' 0 16 - g.1.extractLsb' 0 16).toNat then some f else some g) none

/-- A notice diverts the context to its handler (R78). -/
def State.divertNotice (s : State) (u c : Nat) (resume : Word) : State :=
  let x := s.ctx u c
  let s1 := s.windowStores u x.nhwp.toNat x.wp resume (s.reg u c 22#5) (s.reg u c 23#5)
  s1.modCtx u c fun y =>
    { y with
      wp := x.nhwp, nact := true, nwin := x.nhwp, npend := false, pc := pcOf x.nhpc
      seg := 0, parking := false, why := .segment, parked := false, holding := false, wait := none, asleep := false, woken := false, latch := none }

/-- Traps of the control context that a park takes after step 3: RQOVF (R177), then a helper's CODEABSENT (R396).
DEDUCED, log entry 43. -/
def State.controlTrap (s : State) (u : Nat) (resume : Word) : Option State :=
  match (s.unit u).rqPend, (s.unit u).absent with
  | ring :: rest, _ =>
    some ((s.modUnit u fun x => { x with rqPend := rest }).takeTrap u 0 resume (BitVec.ofNat 64 ring) resume false 0 .rqOvf)
  | [], (n, pc) :: rest =>
    some ((s.modUnit u fun x => { x with absent := rest }).takeTrap u 0 resume pc pc false n .codeAbsent)
  | [], [] => none

/-- The current generation in the ASR of a context of an address space (R404, R405). -/
def State.newestGen (s : State) (u c : Nat) (asid : BitVec 12) : State :=
  if (s.ctx u c).asr.extractLsb' 32 12 = asid then
    s.modCtx u c fun x => { x with asr := x.asr &&& ~~~ 0xFFFF#64 ||| (SMap.get s.gens asid.toNat 0#16).setWidth 64 }
  else s

/-- A context at its park adopts the generation that an advance has given it (R405). -/
def State.adoptGen (s : State) (u c : Nat) : State :=
  s.advances.foldl (fun acc a =>
    if a.due.contains (u, c) then
      let s1 := acc.newestGen u c a.asid
      { s1 with advances := s1.advances.map fun b => if b.id = a.id then { b with due := b.due.filter fun k => k != (u, c) } else b }
    else acc) s

/-- What a park waits for and the unit can bring is brought: accesses that may be performed, tokens, and the accesses that waited for
those (R64, R151). -/
def State.bring (s : State) (u c : Nat) : State := ((s.drain u c).resolve u c).drain u c

/-- The park finds a refused contribution or a held message: the context is not ready from now until it is accepted (R68). -/
def State.markStuck (s : State) (u c : Nat) : State :=
  let x := s.ctx u c
  if x.stuck = (x.blocked != []) then s else s.modCtx u c fun y => { y with stuck := x.blocked != [] }

/-- A STOP is to be taken by a context at its park (R67, R407). -/
def State.stopComing (s : State) (u c : Nat) : Bool :=
  if c = 0 then ! (s.ctx u c).act && (s.unit u).stopPend != [] else (s.ctx u c).stopDue

/-- This park is one at which a COPROC is delivered or, where it takes one, a STOP (R67, R227). -/
def State.halting (s : State) (u c : Nat) (stop : Bool) : Bool :=
  let x := s.ctx u c
  if ! x.act && x.homeFaults != [] then false
  else if ! x.act && x.late != [] then true
  else stop && s.stopComing u c && (c != 0 || ((s.unit u).rqPend == [] && (s.unit u).absent == []))

/-- A STOP that is coming cancels the sleeps of its context: those of EPOP, MPOP and NRWAIT, and of what is not accepted (R138, R176, R380). -/
def State.cancelSleeps (s : State) (u c : Nat) : State :=
  if s.stopComing u c then (s.cancelPops u c).cancelBlocked u c else s

/-- A deferred result of a context has neither come nor faulted. -/
def Ctx.owed (x : Ctx) : Bool := x.defs.any fun e => match e.src with | .value _ | .dropped => false | _ => true

/-- A result is still outstanding, or a replay of the context runs that this park, which takes a STOP or takes none, does not halt; or AWAIT waits
for array commands, for those that a stop has marked too unless the park takes a fault or a STOP (R64, R227, R289). -/
def State.outstanding (s : State) (u c : Nat) (stop : Bool) : Bool :=
  let x := s.ctx u c
  let diverts := s.halting u c stop || (! x.act && x.homeFaults != [])
  x.owed || (! s.halting u c stop && s.replaying u c) || (x.awaiting && (s.arrayBusy u c || (! diverts && s.arrayMarked u c)))

/-- An AWAIT whose commands a stop has marked issues again once they have been dispatched again (R289, R291). DEDUCED, log entry 103. -/
def State.awaitAgain (s : State) (u c : Nat) : State :=
  if (s.ctx u c).awaiting && s.arrayMarked u c then s.modCtx u c fun x => { x with pc := x.pc - 4#64 } else s

/-- The dispatched words of a context that stand behind a late fault and have not begun, marked discarded and removed when the fault is
delivered (R219, R253, R276): the head of the core's matrix FIFO stays where it is under way; a layout change is no coprocessor instruction (R272).
An array command's entry keeps its count of row operations (R221). -/
def State.discardQueued (s : State) (u c : Nat) : State :=
  let x := s.ctx u c
  if x.late = [] then s
  else
    let behind := fun (q : BitVec 16) => x.late.any fun f =>
      let d := (q - f.1.extractLsb' 0 16).toNat
      decide (0 < d) && decide (d < 32768)
    let y := s.unit u
    let begun := fun (k : MatCmd) => y.matrix.walk.isSome && y.matrix.fifo.head? == some k
    let gone := fun (k : ArrayCmd) => k.ctx == c && numbered k.instr && ! k.halted && behind k.seq
    let seqs := ((y.vq.filter fun k => k.ctx == c && behind k.seq).map fun k => (k.seq, 0))
      ++ ((y.matrix.fifo.filter fun k => k.ctx == c && behind k.seq && ! begun k).map fun k => (k.seq, 0))
      ++ (match kindOf u with
          | .slice => ((s.slice (u - Config.sliceUnit0)).fifo.filter gone).map fun k => (k.seq, k.done)
          | _ => [])
    if seqs = [] then s
    else
      let s1 := s.modUnit u fun z =>
        { z with
          vq := z.vq.filter fun k => ! (k.ctx == c && behind k.seq)
          matrix := { z.matrix with fifo := z.matrix.fifo.filter fun k => ! (k.ctx == c && behind k.seq && ! begun k) } }
      let s2 :=
        match kindOf u with
        | .slice => s1.modSlice (u - Config.sliceUnit0) fun z => { z with fifo := z.fifo.filter fun k => ! gone k }
        | _ => s1
      s2.modCtx u c fun z =>
        { z with dring := z.dring.map fun e =>
            match seqs.find? fun q => q.1 == e.seq with | some q => { e with st := 3#4, fva := BitVec.ofNat 64 q.2 } | none => e }

/-- Steps 1 to 3 of R67 at a park at the context's PC, and for the control context what R177 and R396 add. DEDUCED, log entry 41. `stop` says
whether the park takes a STOP: the park of a word that is about to trap does not (R67). -/
def State.settleFaults (s : State) (u c : Nat) (stop : Bool) : Settled :=
  let s0 := (s.adoptGen u c).bring u c
  let s1 := (if stop then s0.cancelSleeps u c else s0).markStuck u c
  if s1.outstanding u c stop then .waiting s1
  else
    let s2 := (s1.awaitAgain u c).land u c
    let resume := (s2.ctx u c).pc
    let x := s2.ctx u c
    if x.act then .clear s2
    else
      match x.firstFault with
      | some f =>
        let s3 := s2.modCtx u c fun y => { y with homeFaults := y.homeFaults.filter fun g => g != f }
        .diverted (s3.takeTrap u c resume f.tval f.fpc true 0 f.cause)
      | none =>
        match x.firstLate with
        | some (tval, fpc) =>
          let s3 := ((s2.haltReplay u c).discardQueued u c).modCtx u c fun y =>
            { y with late := [], drply := (1#64 <<< 63) ||| (tval &&& 0xFFFF#64) }
          .diverted (s3.takeTrap u c resume tval fpc true 0 .coproc)
        | none => if c = 0 then (match s2.controlTrap u resume with | some s3 => .diverted s3 | none => .clear s2) else .clear s2

/-- A helper held by a STOP at its park (R407): its state stays in its registers. -/
def Ctx.stoppedAt (x : Ctx) (resume : Word) : Ctx :=
  { x with
    held := true, stopDue := false, pc := resume, seg := 0, parking := false, why := .segment, parked := false, holding := false, wait := none }

/-- Steps 1 to 5 of R67. -/
def State.settle (s : State) (u c : Nat) : Settled :=
  match s.settleFaults u c true with
  | .waiting s1 => .waiting s1
  | .diverted s1 => .diverted s1
  | .clear s1 =>
    let x := s1.ctx u c
    let resume := x.pc
    if c ≠ 0 ∧ x.stopDue then .diverted ((s1.haltReplay u c).modCtx u c fun y => y.stoppedAt resume)
    else
      match (if c = 0 ∧ ! x.act then (s1.unit u).stopPend else []) with
      | lid :: rest =>
        .diverted (((s1.haltReplay u c).modUnit u fun y => { y with stopPend := rest }).takeTrap u 0 resume (BitVec.ofNat 64 lid) resume false 0
          .stop)
      | [] =>
        if x.npend && x.nhpc != 0#64 && ! x.nact then .diverted (s1.divertNotice u c resume) else .clear s1

/-! ## Waiting words (R67, R170, R180, R309, R335, R341, R400) -/

/-- Work that LAPW reports (R341). -/
def State.workFor (s : State) (u lid : Nat) : Bool :=
  if u < 512 then ((s.dir (u / 16)) ++ (s.dir 32)).any fun b => b.lid == lid
  else match s.popDecision (homeOfNear u) lid with | .ok _ => true | .error _ => false

/-- A trap is pending for the control context (R400). -/
def State.trapPending (s : State) (u : Nat) : Bool :=
  let x := s.unit u
  x.stopPend != [] || x.rqPend != [] || x.absent != [] || (s.ctx u 0).late != []

/-- A trap is pending for the control context, and no handler runs that it must wait for (R393). -/
def State.controlPending (s : State) (u : Nat) : Bool := ! (s.ctx u 0).act && s.trapPending u

/-- The derived tiles of a range of virtual addresses made fresh through the issuer's translation (R309). -/
def State.freshRange (s : State) (u c : Nat) (lo : Nat) : Nat → State
  | 0 => s
  | n + 1 =>
    if lo < 256 then s.freshRange u c (lo + 1) n else
    match s.translate u c (BitVec.ofNat 64 (lo * 4096)) .load with
    | .error _ => s.freshRange u c (lo + 1) n
    | .ok (s1, pa, _) => (s1.freshen pa 1).freshRange u c (lo + 1) n

/-- The physical tiles of a range of virtual addresses, each with its virtual number. -/
def State.rangeTiles (s : State) (u c : Nat) (lo n : Nat) : List (Nat × Nat) :=
  (List.range n).filterMap fun k =>
    if lo + k < 256 then none
    else match s.translate u c (BitVec.ofNat 64 ((lo + k) * 4096)) .load with | .ok (_, pa, _) => some (lo + k, pa / 4096) | .error _ => none

/-- A command FIFO of a unit is full: 16 engine commands, 8 matrix commands, 32 array commands (R347, R249, R273). -/
def State.fifoFull (s : State) (u : Nat) (k : Fifo) : Bool :=
  match k with
  | .engine => decide (16 ≤ (s.unit u).engine.infifo.length)
  | .matrix => decide (8 ≤ (s.unit u).matrix.fifo.length)
  | .array => decide (32 ≤ (s.slice (u - Config.sliceUnit0)).fifo.length)

/-- What a waiting word does at its park: the state in which it has completed, or `none` while it must sleep. -/
def State.waitDone (s : State) (u c : Nat) (w : Wait) : Option State :=
  let x := s.ctx u c
  match w with
  | .fifo k => if s.fifoFull u k then none else some s
  | .waitc k t => if x.woken || (! x.asleep && reaches (s.counter u (k.toNat % 256)) t) then some (s.acquire u) else none
  | .recv d last ring =>
    if x.asleep then x.latch.map fun tail => (s.setReg u c d tail).acquire u
    else
      let tail := s.loc64 u (s.ringBlock u (ring.toNat % 16) + 16)
      if tail = last then none else some ((s.setReg u c d tail).acquire u)
  | .lapw d =>
    match (s.unit u).lapDone with
    | some st => some (((s.modUnit u fun y => { y with lapDone := none }).setReg u c d st).acquire u)
    | none => if x.woken || s.workFor u x.lid then some (s.setReg u c d (1#64 <<< 62)) else none
  | .haltc =>
    let y := s.unit u
    if y.hend ≠ 0#11 || y.deposit || x.npend || s.trapPending u then
      some (s.modUnit u fun z => { z with deposit := false })
    else none
  | .dfresh lo len =>
    let a := lo.toNat / 4096
    let n := if len = 0#64 then 0 else (lo.toNat + len.toNat - 1) / 4096 - a + 1
    let tiles := s.rangeTiles u c a n
    if tiles.any fun t => s.isStale t.2 && s.tileWaits t.2 then none
    else
      let s1 := (s.freshRange u c a n).acquire u
      match tiles.find? fun t => s.isStale t.2 && s.tileBad 5 t.2 with
      | some t => some (s1.modCtx u c fun y => { y with homeFaults := y.homeFaults ++ [⟨s.po, .uncorr, BitVec.ofNat 64 (t.1 * 4096), x.pc⟩] })
      | none => some s1
  | .tkenq ea pa q desc =>
    if x.woken then some s
    else if ! s.allPerformed u c then none
    else
      let r : Req := ⟨s.issuer u c, s.po, x.pc, ea, pa, .enqueue q desc x.lid none, false, true, false⟩
      match s.enqueueReq r q desc x.lid with
      | .error cz => some ({ s with po := s.po + 1 }.returnFault r none cz)
      | .ok (s1, st) => if st = 2 then none else some { s1 with po := s1.po + 1 }

/-- What the last step has brought to a sleeping context: the TAIL of a RECV (R180), work of a LAPW, which wakes although another may take it
before the context issues (R341). -/
def State.latchWake (s : State) (u c : Nat) : State :=
  let x := s.ctx u c
  match x.wait with
  | some (.lapw _) => if x.asleep && ! x.woken && s.workFor u x.lid then s.modCtx u c fun y => { y with woken := true } else s
  | _ => s.latchTail u c

/-- Every sleeping RECV and LAPW that the last step has woken (R180, R341). -/
def State.latchWakes (s : State) : State :=
  s.units.foldl (fun acc u => u.2.ctxs.foldl (fun a x => a.latchWake u.1 x.1) acc) s

/-- A step's answer with what it has woken. DESIGN CHOICE, log entry 96. -/
def latched (o : Out) : Out := match o with | .next t => .next t.latchWakes | o => o

/-! ## Rotation (R63, R68) -/

/-- The queue of a coprocessor, by its unit code, has no place (R216, R249, R273). -/
def State.queueFull (s : State) (u code : Nat) : Bool :=
  if code = 1 then decide (16 ≤ (s.unit u).vq.length)
  else if code = 2 then s.fifoFull u .matrix
  else s.fifoFull u .array

/-- The results of a context's park are outstanding, whatever the unit can bring now. -/
def State.parkWaits (s : State) (u c : Nat) : Bool :=
  let s1 := ((s.resolve u c).drain u c).cancelSleeps u c
  s1.outstanding u c (match (s1.ctx u c).why with | .trap _ _ => false | _ => true)

/-- An array command of a context that a stop has marked keeps its place in the slice's FIFO (R291). -/
def State.keepsPlace (s : State) (u c : Nat) (seq : BitVec 16) : Bool :=
  match kindOf u with
  | .slice =>
    (s.slice (u - Config.sliceUnit0)).fifo.any fun k => k.ctx == c && k.lid == (s.ctx u c).lid && k.seq == seq && k.halted
  | _ => false

/-- An entry to be dispatched again finds no place in its unit's queue (R223). -/
def State.redoFull (s : State) (u c : Nat) (e : DEntry) : Bool := s.queueFull u e.unit.toNat && ! s.keepsPlace u c e.seq

/-- A re-dispatch of a context waits for a place, or for the results of what it has dispatched (R223). -/
def State.redoWaits (s : State) (u c : Nat) : Bool :=
  match (s.ctx u c).redo with
  | some (e :: _) => s.redoFull u c e
  | some [] => s.parkWaits u c
  | none => false

/-- A helper that is to stop at its park waits for its results, its accepted accesses and its coprocessor instructions (R84, R394, R396). -/
def State.stopWaits (s : State) (u c : Nat) : Bool :=
  (((s.resolve u c).drain u c).ctx u c).owed || (s.ctx u c).blocked != [] || s.copQueued u c

/-- The handler's PC that the runtime writes to TVEC. -/
def runtimePc : Word := 0x3000000000#64

/-- A context has entered the runtime's handler. DESIGN CHOICE, log entry 76. -/
def State.runtimeReady (s : State) (u c : Nat) : Bool :=
  let x := s.ctx u c
  x.live && x.act && ! x.firmware && x.priv == .s && x.pc == runtimePc && (s.unit u).tvec == runtimePc && ! (s.unit u).halted

/-- The park that is due of a context can be made. -/
def State.parkReady (s : State) (u c : Nat) : Bool :=
  match (s.ctx u c).why with
  | .absent _ | .defunct | .ending => ! s.stopWaits u c
  | _ => ! s.parkWaits u c && (s.stopComing u c || (s.ctx u c).blocked == [])

/-- A context is ready to issue (R63): live, not held, not in the runtime's own code, and neither asleep nor at a park or a re-dispatch that
must wait, nor stopped by a contribution or message that is not accepted. -/
def State.ready (s : State) (u c : Nat) : Bool :=
  let x := s.ctx u c
  x.live && ! x.held && ! x.firmware && ! (s.unit u).halted && ! s.runtimeReady u c && ! s.redoWaits u c && ! (x.stuck && x.blocked != [] && ! s.stopComing u c) &&
    (if x.asleep then
        match x.wait with
        | some w => (s.waitDone u c w).isSome || (c == 0 && s.controlPending u)
        | none => true
      else if x.parking then s.parkReady u c
      else true)

/-- The next ready helper after a context in cyclic order (R68). -/
def State.nextHelper (s : State) (u c : Nat) : Option Nat :=
  ((List.range 10).map fun k => (c + k) % 10 + 1).find? fun n => s.ready u n

/-- The context that issues after a park of context `c` (R68). -/
def State.nextCtx (s : State) (u c : Nat) : Nat :=
  if s.ready u 0 then 0
  else match s.nextHelper u c with | some n => n | none => c

/-- Issue rotates after a park of a context (R68). -/
def State.rotate (s : State) (u c : Nat) : State :=
  let n := s.nextCtx u c
  if n = (s.unit u).cur then s else s.modUnit u fun x => { x with cur := n }

/-! ## The park (R64, R67) -/

/-- A segment ends: the counts start again. -/
def State.endSegment (s : State) (u c : Nat) : State :=
  s.modCtx u c fun x => { x with seg := 0, parking := false, why := .segment, parked := false, holding := false }

/-- The park before the word at the PC has been made: the word acts when it next issues (R64). -/
def State.parkedBefore (s : State) (u c : Nat) : State :=
  s.modCtx u c fun x => { x with seg := 0, parking := false, why := .segment, parked := true, holding := false }

/-- A STOP that waited for the control context's handler or sleep is taken before its next word once no handler runs (R399, R407). -/
def State.stopAfter (s : State) (u c : Nat) : State :=
  if c = 0 ∧ (s.unit u).stopPend ≠ [] ∧ ¬ (s.ctx u c).act = true then s.modCtx u c fun x => { x with parking := true } else s

/-- A waiting word has completed: the context passes it. -/
def State.passWait (s : State) (u c : Nat) : State :=
  (s.modCtx u c fun x =>
    { x with
      pc := x.pc + 4#64, wait := none, asleep := false, woken := false, latch := none, seg := 0, parking := x.stopDue, why := .segment
      parked := false, holding := false }).stopAfter u c

/-- A sleep ends with its word not done: the context stands at a park before the word again. -/
def State.unsleep (s : State) (u c : Nat) : State :=
  s.modCtx u c fun y => { y with asleep := false, woken := false, latch := none, wait := none, parking := true, why := .segment }

/-- A sleeping context whose wait is over goes on; a trap of the control context cancels its sleep first (R170, R400). -/
def State.wake (s : State) (u c : Nat) : State :=
  let x := s.ctx u c
  match x.wait with
  | none => s.unsleep u c
  | some w =>
    let cancels := c == 0 && s.controlPending u && (match w with | .haltc => false | _ => true)
    if cancels || (match w with | .fifo k => ! s.fifoFull u k | _ => false) then s.unsleep u c
    else
      match s.waitDone u c w with
      | some s1 => s1.passWait u c
      | none => s

/-- The park of a helper that is to stop (R84, R394, R396): its replay is halted between two words, what it has dispatched completes, its
results land, its block is written and sealed; its PC stays where it is. -/
def State.stopPark (s : State) (u c : Nat) (stop : State → State) : State :=
  let s1 := ((s.haltReplay u c).adoptGen u c).bring u c
  if s1.stopWaits u c then s1.rotate u c else (stop (s1.land u c)).rotate u c

/-- The helper's missing code is the control context's to take (R396). -/
def State.reportAbsent (s : State) (u c : Nat) (pc : Word) : State :=
  (s.saveCtx u c false).modUnit u fun x => { x with absent := x.absent ++ [(c, pc)] }

/-- EndHelper (R82): the helper is no longer live, its late faults stand in its fault ring, its notice is discarded, and HEND tells the
control context (R326). DEDUCED, log entry 30. -/
def State.endHelper (s : State) (u n : Nat) : State :=
  let s1 := s.modCtx u n fun x => { x.recordLate with npend := false }
  let s2 := s1.setLocal u (s1.cbOf u n).toNat (s1.ctx u n).blockBytes
  (s2.modCtx u n Ctx.retired).setHend u n

/-- What a park at which nothing is taken does: it waits for what is not accepted, ends the segment, lets the word at the PC act next, or
makes the waiting word's action. -/
def State.parkClear (s : State) (u c : Nat) : State :=
  let x := s.ctx u c
  if x.blocked ≠ [] then s
  else
    match x.wait with
    | none => (match x.why with | .before => s.parkedBefore u c | _ => s.endSegment u c)
    | some w =>
      match s.waitDone u c w with
      | some s2 => s2.passWait u c
      | none => s.modCtx u c fun y => { y with asleep := true }

/-- Steps 1 to 5 of a park, and what the park is for where they take nothing (R67). -/
def State.parkSettled (s : State) (u c : Nat) : State :=
  match s.settle u c with
  | .waiting s1 | .diverted s1 => s1
  | .clear s1 => s1.parkClear u c

/-- The park of a word that has failed a check (R67): its trap is taken where steps 2 and 3 take nothing. -/
def State.parkTrap (s : State) (u c : Nat) (cause : Cause) (tval : Word) : State :=
  match s.settleFaults u c false with
  | .waiting s1 | .diverted s1 => s1
  | .clear s1 => s1.takeTrap u c (s.ctx u c).pc tval (s.ctx u c).pc false 0 cause

/-- A park that is due: steps 1 to 5, the waiting word's action, and rotation (R67). A STOP that cancels a sleep at the park of a word that
has failed a check leaves the PC before that word, which issues again (R170, R380). -/
def State.parkNow (s : State) (u c : Nat) : State :=
  let x := s.ctx u c
  if x.asleep then s.wake u c
  else
    match x.why with
    | .absent pc => s.stopPark u c fun s1 => s1.reportAbsent u c pc
    | .defunct => s.stopPark u c fun s1 => s1.stopDefunct u c
    | .ending => s.stopPark u c fun s1 => s1.endHelper u c
    | .trap cause tval =>
      let s0 := (s.bring u c).cancelSleeps u c
      (match (s0.ctx u c).why with
       | .trap _ _ => s0.parkTrap u c cause tval
       | _ => s0.parkSettled u c).rotate u c
    | _ => (s.parkSettled u c).rotate u c

/-- The context parks before the word at its PC, and rotation follows. -/
def State.parkBefore (s : State) (u c : Nat) : State :=
  (s.modCtx u c fun x => { x with parking := true, why := .before, holding := false }).rotate u c

/-- A word that has parked first begins: it counts as the first word of its segment, and its marker makes a park due after it (R64). -/
def State.beginFirst (s : State) : State :=
  s.modC fun x => { x with parked := false, seg := 1, parking := s.ux.word.getLsbD 31, why := .segment }

/-- The park before a word that parks first (R64): the word acts in the same step when nothing diverts the context and rotation
keeps it; otherwise it acts when the context next issues. DEDUCED, log entry 17. -/
def State.parkFirst (s : State) (act : State → State) : State :=
  let u := s.cur
  let c := s.c
  if s.cx.parked then act s.beginFirst
  else
    match s.settle u c with
    | .waiting s1 => s1.parkBefore u c
    | .diverted s1 => s1.rotate u c
    | .clear s1 =>
      if (s1.ctx u c).blocked ≠ [] then s1.parkBefore u c
      else
        let s2 := s1.parkedBefore u c
        if s2.nextCtx u c = c then act s2.beginFirst else s2.rotate u c

/-- TAKING A PRECISE TRAP at the word being issued (R59, R67): the results of the segment land first, steps 2 and 3 of the park come
first, then the trap is entered and issue rotates. -/
def State.trapAt (s : State) (cause : Cause) (tval : Word) : State :=
  let u := s.cur
  let c := s.c
  match s.settleFaults u c false with
  | .waiting s1 => (s1.modCtx u c fun x => { x with parking := true, why := .trap cause tval, holding := false }).rotate u c
  | .diverted s1 => s1.rotate u c
  | .clear s1 => (s1.takeTrap u c s.pc tval s.pc false 0 cause).rotate u c

/-- A precise trap as the answer of a meaning. -/
def State.trap (s : State) (cause : Cause) (tval : Word) : Out := .next (s.trapAt cause tval)

/-- The trap of a failed profile or privilege check: TVAL is the word, zero-extended (R59). -/
def State.trapWord (s : State) (cause : Cause) : Out := s.trap cause (s.ux.word.setWidth 64)

/-- A word that only S and M levels may issue (R57). -/
def State.privileged (s : State) (act : Out) : Out :=
  match s.cx.priv with
  | .u => s.trapWord .priv
  | _ => act

/-- A word that only some kinds of unit execute (R55, R56). -/
def State.profile (s : State) (ok : Bool) (act : Out) : Out := if ok then act else s.trapWord .profile

end Sys2Proof.Machine
end

