-- ==== Sys2Proof/Machine/Scalar.lean ====
section
/-! DEFINITION. Scalar addresses and their checks (06_memory R107), and the frame ring's spills and fills (R71, R72). -/

namespace Sys2Proof.Machine

/-! ## Checked addresses (R107) -/

/-- Where a checked address leads: an offset of the issuing unit's own local memory, through the local window or its physical
window, or a home. -/
inductive Target where
  | own (off : Nat) (window : Bool)
  | home (pa : Nat) (leaf : TlbEntry)

/-- The checks of R107 in their order: bits 63:58, alignment, translation, permission and backing. -/
def State.checkEa (s : State) (u c : Nat) (ea : Word) (size : Nat) (need : Need) : Except Cause (State × Target) :=
  if ea.extractLsb' 58 6 ≠ 0#6 then .error .access
  else if ea.toNat % size ≠ 0 then .error .align
  else if ea.toNat < 0x100000 then .ok (s, .own ea.toNat true)
  else
    match s.translate u c ea need with
    | .error e => .error e
    | .ok (s1, pa, leaf) =>
      match s1.place pa with
      | .loc v off => if v = u then .ok (s1, .own off false) else .ok (s1, .home pa leaf)
      | _ => .ok (s1, .home pa leaf)

/-- A doubleword stored at a virtual address by the hardware for a context: the state, or the fault (R71). -/
def State.vstore64 (s : State) (u c : Nat) (va w : Word) : Except Cause State :=
  match s.checkEa u c va 8 .store with
  | .error e => .error e
  | .ok (s1, .own off win) =>
    if ! win && s1.isStaleGen (1024 + u) (s1.issuer u c) then .error .staleGen else s1.localStore u c off (bytesOf 8 w) win
  | .ok (s1, .home pa _) =>
    let who := s1.issuer u c
    match s1.homeFault who true true (some (u, c)) pa 8 with
    | some e => .error e
    | none => .ok (((s1.writeHome .store who true pa (bytesOf 8 w))).rcStore u pa (bytesOf 8 w))

/-- A doubleword loaded at a virtual address by the hardware for a context (R72). -/
def State.vload64 (s : State) (u c : Nat) (va : Word) : Except Cause (State × Word) :=
  match s.checkEa u c va 8 .load with
  | .error e => .error e
  | .ok (s1, .own off win) =>
    if ! win && s1.isStaleGen (1024 + u) (s1.issuer u c) then .error .staleGen
    else if ! s1.inBlock u c off 8 && s1.badData (localPa u off) 8 then .error .uncorr
    else (s1.localLoad u c off 8 win).map fun r => (r.1.logCorrected (localPa u off) 8, wordOf r.2)
  | .ok (s1, .home pa _) =>
    let who := s1.issuer u c
    match s1.homeFault who true false (some (u, c)) pa 8 with
    | some e => .error e
    | none =>
      let r := s1.readHome pa 8
      .ok (r.1.rcSync u pa 8, wordOf r.2)

/-! ## Spills and fills (R71, R72) -/

/-- A spill store or fill load among `n` doublewords is held at its home (R162, R275, R377, R427), or stands behind an access of its context
to the same bytes that is not performed (R151). -/
def State.framesWait (s : State) (u c : Nat) (lo : Word) (n : Nat) (need : Need) : Bool :=
  (List.range n).any fun i =>
    match s.checkEa u c (lo + BitVec.ofNat 64 (8 * i)) 8 need with
    | .ok (s1, .home pa _) =>
      s1.accessWaits pa 8 s1.po
        || s1.flight.any fun r => r.who.unit == u && r.who.ctx == c && (reqSpans r).any fun a => meets a.1 a.2 pa 8
    | _ => false

/-- The spill of a context's frames down to a resident count waits. -/
def State.spillWaits (s : State) (u c target : Nat) : Bool :=
  let x := s.ctx u c
  let n := x.res.toNat - target
  s.framesWait u c (x.bsp - BitVec.ofNat 64 (192 * n)) (24 * n) .store

/-- The fill of a context's frames up to a resident count waits. -/
def State.fillWaits (s : State) (u c target : Nat) : Bool :=
  let x := s.ctx u c
  s.framesWait u c x.bsp (24 * min (target - x.res.toNat) x.spilled.toNat) .load

/-- The result of a hardware sequence: the state it reached, and the trap it took, if any. -/
abbrev Seq := State × Option (Cause × Word)

/-- Doublewords `i` to 23 of the oldest frame stored below BSP (R71). -/
def State.spillFrom (s : State) (u c : Nat) (old : Nat) (bsp : Word) (i : Nat) : Nat → Seq
  | 0 => (s, none)
  | n + 1 =>
    let va := bsp - 192#64 + BitVec.ofNat 64 (8 * i)
    match s.vstore64 u c va (s.loc64 u (old + 8 * i)) with
    | .error e => (s, some (e, va))
    | .ok s1 => s1.spillFrom u c old bsp (i + 1) n

/-- Spill() of R71. Bytes written before a fault stand; BSP, FRS and WP do not change then. DESIGN CHOICE, log entry 40. -/
def State.spill (s : State) (u c : Nat) : Seq :=
  let x := s.ctx u c
  if x.bsp.extractLsb' 0 3 ≠ 0#3 then (s, some (.align, x.bsp))
  else
    let old := (x.ring (x.wp + BitVec.ofNat 64 ((x.res.toNat - 1) * 192))).toNat
    match (s.drainNow u c).spillFrom u c old x.bsp 0 24 with
    | (s1, some e) => (s1, some e)
    | (s1, none) =>
      (s1.modCtx u c fun y => { y with bsp := y.bsp - 192#64, spilled := y.spilled + 1#32, res := y.res - 1#8 }, none)

/-- Doublewords `i` to 23 of the newest spilled frame read (R72). -/
def State.fillFrom (s : State) (u c : Nat) (bsp : Word) (i : Nat) : Nat → Except (Cause × Word) (State × List Word)
  | 0 => .ok (s, [])
  | n + 1 =>
    let va := bsp + BitVec.ofNat 64 (8 * i)
    match s.vload64 u c va with
    | .error e => .error (e, va)
    | .ok (s1, w) => (s1.fillFrom u c bsp (i + 1) n).map fun r => (r.1, w :: r.2)

/-- Fill() of R72. -/
def State.fill (s : State) (u c : Nat) : Seq :=
  let x := s.ctx u c
  let slot := (x.ring (x.wp + BitVec.ofNat 64 (x.res.toNat * 192))).toNat
  match (s.drainNow u c).fillFrom u c x.bsp 0 24 with
  | .error e => (s, some e)
  | .ok (s1, ws) =>
    let s2 := s1.setLocal u slot (ws.flatMap fun w => bytesOf 8 w)
    (s2.modCtx u c fun y => { y with bsp := y.bsp + 192#64, spilled := y.spilled - 1#32, res := y.res + 1#8 }, none)

/-- Frames filled until RES ≥ 2 or SPILLED = 0 (R70). -/
def State.fillResident (s : State) (u c : Nat) : Nat → Seq
  | 0 => (s, none)
  | fuel + 1 =>
    let x := s.ctx u c
    if 2 ≤ x.res.toNat ∨ x.spilled = 0#32 then (s, none)
    else
      match s.fill u c with
      | (s1, some e) => (s1, some e)
      | (s1, none) => s1.fillResident u c fuel

/-- Frames spilled until RES is a number, oldest first (R90, R408). -/
def State.spillTo (s : State) (u c target : Nat) : Nat → Seq
  | 0 => (s, none)
  | fuel + 1 =>
    if (s.ctx u c).res.toNat ≤ target then (s, none)
    else
      match s.spill u c with
      | (s1, some e) => (s1, some e)
      | (s1, none) => s1.spillTo u c target fuel

/-- Frames filled until RES is a number, while SPILLED > 0 (R90). -/
def State.fillTo (s : State) (u c target : Nat) : Nat → Seq
  | 0 => (s, none)
  | fuel + 1 =>
    let x := s.ctx u c
    if target ≤ x.res.toNat ∨ x.spilled = 0#32 then (s, none)
    else
      match s.fill u c with
      | (s1, some e) => (s1, some e)
      | (s1, none) => s1.fillTo u c target fuel

/-- A sequence of the issuing context that ends in its trap, or goes on (R71, R72, R90). -/
def seqThen (r : Seq) (act : State → State) : State :=
  match r with
  | (s1, some e) => s1.trapAt e.1 e.2
  | (s1, none) => act s1

end Sys2Proof.Machine
end

