-- ==== Sys2Proof/Machine/Operands.lean ====
section
/-! DEFINITION. The operand forms of the scalar instructions (03_encoding R52) and the shapes that the meanings of majors 0x01 to 0x0A
share (05_integer R91 to R106). -/

namespace Sys2Proof.Machine

/-! ## Operands (R52) -/

/-- The signed immediate of the I and M formats. -/
def simm (i : BitVec 12) : Word := i.signExtend 64

/-- The operand of the U format: bits 31:12, sign-extended. -/
def uimm (i : BitVec 20) : Word := (i ++ 0#12).signExtend 64

/-- The low half of a doubleword: the operand of a W form (R92). -/
def lo32 (w : Word) : Word32 := w.setWidth 32

/-- A 32-bit result sign-extended (R92). -/
def ext32 (w : Word32) : Word := w.signExtend 64

/-- A truth value as a doubleword. -/
def flagWord (b : Bool) : Word := if b then 1#64 else 0#64

/-- The target of a PC-relative transfer: P plus a signed count of words (R52). -/
def State.rel {n : Nat} (s : State) (off : BitVec n) : Word := s.pc + (off.signExtend 64 <<< 2)

/-! ## Shapes -/

/-- A binary operation on doublewords: `op gd, ga, gb` (R95). -/
def State.bin (s : State) (d a b : Reg) (f : Word → Word → Word) : Out := (s.setG d (f (s.g a) (s.g b))).done

/-- A binary W form (R92). -/
def State.binW (s : State) (d a b : Reg) (f : Word32 → Word32 → Word32) : Out :=
  (s.setG d (ext32 (f (lo32 (s.g a)) (lo32 (s.g b))))).done

/-- A unary operation on a doubleword: `op gd, ga` (R95). -/
def State.un (s : State) (d a : Reg) (f : Word → Word) : Out := (s.setG d (f (s.g a))).done

/-- A unary W form (R92). -/
def State.unW (s : State) (d a : Reg) (f : Word32 → Word32) : Out := (s.setG d (ext32 (f (lo32 (s.g a))))).done

/-- The effect of a transfer under a condition: a taken one checks its target (R61), an untaken one passes on (R103, R106). -/
def State.branchTo (s : State) (taken : Bool) (target : Word) : State :=
  if taken then (if target.extractLsb' 58 6 ≠ 0#6 then s.trapAt .access target else s.setPc target) else s.advance

/-- The context parks before a transfer while a replay of its runs (R227). -/
def State.afterReplay (s : State) (act : State → State) : Out :=
  .next (if s.replaying s.cur s.c then s.parkFirst act else act s)

/-- A transfer under a condition on the registers, to a target that its word gives (R103, R106, R227). -/
def State.branch (s : State) (taken : State → Bool) (target : Word) : Out :=
  s.afterReplay fun s1 => s1.branchTo (taken s1) target

/-! ## Arithmetic of R96, by width -/

/-- Quotient of signed operands. -/
def divS {n : Nat} (u v : BitVec n) : BitVec n :=
  if v = 0#n then BitVec.allOnes n
  else if u = BitVec.intMin n ∧ v = BitVec.allOnes n then BitVec.intMin n
  else BitVec.ofInt n (u.toInt.tdiv v.toInt)

/-- Quotient of unsigned operands. -/
def divU {n : Nat} (u v : BitVec n) : BitVec n :=
  if v = 0#n then BitVec.allOnes n else BitVec.ofNat n (u.toNat / v.toNat)

/-- Remainder of signed operands: it takes the sign of the dividend. -/
def remS {n : Nat} (u v : BitVec n) : BitVec n :=
  if v = 0#n then u
  else if u = BitVec.intMin n ∧ v = BitVec.allOnes n then 0#n
  else BitVec.ofInt n (u.toInt - v.toInt * u.toInt.tdiv v.toInt)

/-- Remainder of unsigned operands. -/
def remU {n : Nat} (u v : BitVec n) : BitVec n :=
  if v = 0#n then u else BitVec.ofNat n (u.toNat % v.toNat)

/-- The high half of a signed product. -/
def mulHi (u v : Word) : Word := BitVec.ofInt 64 (u.toInt * v.toInt / 2 ^ 64)

/-- The high half of an unsigned product. -/
def mulHiU (u v : Word) : Word := BitVec.ofNat 64 (u.toNat * v.toNat / 2 ^ 64)

/-- A shift or rotate amount: the low bits of the operand (R96). -/
def amount {n : Nat} (v : BitVec n) : Nat := v.toNat % n

/-- Rotation toward the most significant bit. -/
def rotL {n : Nat} (u : BitVec n) (k : Nat) : BitVec n := u <<< k ||| u >>> (n - k)

/-- Zero bits above the highest set bit. -/
def clzOf {n : Nat} (u : BitVec n) : BitVec n :=
  if u = 0#n then BitVec.ofNat n n else BitVec.ofNat n (n - 1 - Nat.log2 u.toNat)

/-- The index of the lowest set bit from `i` on, within `fuel` bits; `n` where none is set. -/
def lowBit {n : Nat} (u : BitVec n) (i : Nat) : Nat → Nat
  | 0 => n
  | fuel + 1 => if u.getLsbD i then i else lowBit u (i + 1) fuel

/-- Zero bits below the lowest set bit. -/
def ctzOf {n : Nat} (u : BitVec n) : BitVec n := BitVec.ofNat n (lowBit u 0 n)

/-- The set bits among the first `n` of a number. -/
def popNat (x : Nat) : Nat → Nat
  | 0 => 0
  | n + 1 => (if x.testBit n then 1 else 0) + popNat x n

/-- Set bits. -/
def popOf {n : Nat} (u : BitVec n) : BitVec n := BitVec.ofNat n (popNat u.toNat n)

/-- The bytes of a value in the opposite order. -/
def bswapOf {n : Nat} (u : BitVec n) : BitVec n := BitVec.ofNat n (natOfBytes (bytesOfNat (n / 8) u.toNat).reverse)

/-- The carry-less product of two numbers, over the first `n` bits of the second (R96). -/
def clmNat (u v : Nat) : Nat → Nat
  | 0 => 0
  | n + 1 => Nat.xor (if v.testBit n then u * 2 ^ n else 0) (clmNat u v n)

/-- Clm of R96 shifted down by a number of bits. -/
def clmOf (u v : Word) (k : Nat) : Word := BitVec.ofNat 64 (clmNat u.toNat v.toNat 64 / 2 ^ k)

/-! ## Conditions -/

/-- Zc of SEL (R100). -/
def selCond (c : SelCond) (x : Word) : Bool :=
  match c with
  | .eqz => x == 0#64
  | .nez => x != 0#64
  | .ltz => x.slt 0#64
  | .gez => ! x.slt 0#64

/-- Cmp of SKIP (R101). -/
def skipCond (c : SkipCond) (x y : Word) : Bool :=
  match c with
  | .eq => x == y
  | .ne => x != y
  | .lt => x.slt y
  | .ge => ! x.slt y
  | .ltu => x.ult y
  | .geu => ! x.ult y

/-- Bit y[5:0] of x (R101). -/
def bitTest (x y : Word) : Bool := x.getLsbD (y.toNat % 64)

end Sys2Proof.Machine
end

