-- ==== Sys2Proof/Machine/Flags.lean ====
section
/-! DEFINITION. Rounding modes as they resolve at issue, the stochastic-rounding register (09_formats R195, R197), and the sticky flags
FXS (R198, R212). Which flags an operation raises is computed with its result in Float.lean. -/

namespace Sys2Proof.Machine

/-- The mode that FRM names (R75, R195); WRSR never writes 6 and 7 (R89). DESIGN CHOICE: of a block that holds one of them the mode is RNE;
log entry 95. -/
def rmOfFrm (f : BitVec 3) : RM :=
  match f.toNat with
  | 1 => .rtz
  | 2 => .rdn
  | 3 => .rup
  | 4 => .rna
  | 5 => .sr
  | _ => .rne

/-- The mode of an rm field at issue (R195). -/
def Ctx.mode (x : Ctx) (rm : RM) : RM := match rm with | .dyn => rmOfFrm x.frm | m => m

/-- A mode draws from the LFSR (R197). -/
def drawsLfsr (m : RM) : Bool := match m with | .sr => true | _ => false

/-- The LFSR state that a rounding in a mode of the issuing context uses: that after its step in SR (R197). -/
def State.draw (s : State) (m : RM) : Word32 := if drawsLfsr m then lfsrStep s.cx.srseed else 0#32

/-- The state after one rounding in a mode (R197). -/
def State.stepLfsr (s : State) (m : RM) : State :=
  if drawsLfsr m then s.modC fun x => { x with srseed := lfsrStep x.srseed } else s

/-- Flags ORed into FXS (R198, R212). -/
def State.raise (s : State) (f : Flags) : State := s.modC fun x => { x with fxs := x.fxs ||| f }

end Sys2Proof.Machine
end

