-- ==== Sys2Proof/Machine/Lanes.lean ====
section
/-! DEFINITION. Element-wise computation on vector registers (10_vector R213, R214, R232 to R241): elements, masks, reductions trees,
and the MX conversions (09_formats R189, R190; 11_program_mxint8 R243). -/

namespace Sys2Proof.Machine

/-! ## Elements (R213) -/

/-- The element size in bytes. -/
def vsize : VWidth → Nat
  | .b8 => 1
  | .h16 => 2
  | .w32 => 4
  | .d64 => 8

/-- The element width in bits. -/
def vbits (w : VWidth) : Nat := 8 * vsize w

/-- Element `i` of width `n` bits of a register. -/
def elem (n : Nat) (v : BitVec 2048) (i : Nat) : Nat := v.toNat / 2 ^ (i * n) % 2 ^ n

/-- The number whose digits of `n` bits are given, the first lowest. -/
def packElems (n : Nat) : List Nat → Nat
  | [] => 0
  | x :: rest => x % 2 ^ n + 2 ^ n * packElems n rest

/-- A register from its elements; what they do not reach is zero. -/
def ofElems (n : Nat) (xs : List Nat) : BitVec 2048 := BitVec.ofNat 2048 (packElems n xs)

/-- The indices of the elements. -/
def vidx (w : VWidth) : List Nat := List.range (256 / vsize w)

/-- Active(i) of R214, the mask given. -/
def active (size : Nat) (mask : Word) (i : Nat) : Bool := mask.getLsbD (i * size / 4)

/-- Element-wise computation under a mask (R214, R232). -/
def mapElems (w : VWidth) (mask : Word) (x y t : BitVec 2048) (f : Nat → Nat → Nat → Nat) : BitVec 2048 :=
  let n := vbits w
  ofElems n ((vidx w).map fun i =>
    if active (vsize w) mask i then f (elem n x i) (elem n y i) (elem n t i) else elem n t i)

/-! ## Integer operations (R232), at width `n` -/

/-- The operations of VINT. -/
inductive VIntOp where
  | add | sub | mul | mulh | mac | min | max | minu | maxu | and | or | xor | shl | shr | sar | clmul | clmulh | popc
  deriving DecidableEq, Repr

/-- Op of R232. -/
def vint (op : VIntOp) (n u v t : Nat) : Nat :=
  let k := v % n
  match op with
  | .add => u + v
  | .sub => u + 2 ^ n - v
  | .mul => u * v
  | .mulh => bitsOfInt n (sNat n u * sNat n v / 2 ^ n)
  | .mac => t + u * v
  | .min => if sNat n u ≤ sNat n v then u else v
  | .max => if sNat n v ≤ sNat n u then u else v
  | .minu => if u ≤ v then u else v
  | .maxu => if v ≤ u then u else v
  | .and => Nat.land u v
  | .or => Nat.lor u v
  | .xor => Nat.xor u v
  | .shl => u * 2 ^ k
  | .shr => u / 2 ^ k
  | .sar => bitsOfInt n (sNat n u / 2 ^ k)
  | .clmul => clmNat u v n % 2 ^ n
  | .clmulh => clmNat u v n / 2 ^ n
  | .popc => popNat u n

/-! ## Floating operations (R233, R234) -/

/-- What a floating vector instruction carries from one rounding to the next: the LFSR state and the flags. -/
structure FAcc where
  seed  : Word32
  flags : Flags
  deriving DecidableEq, Repr

/-- One rounding in a mode: the LFSR steps first in SR (R197). -/
def FAcc.round (a : FAcc) (m : RM) (f : Word32 → Nat × Flags) : Nat × FAcc :=
  let seed := if drawsLfsr m then lfsrStep a.seed else a.seed
  let r := f seed
  (r.1, ⟨seed, a.flags ||| r.2⟩)

/-- Elements computed in increasing index order, each one rounding; inactive ones keep `t` (R214, R234). -/
def mapRound (m : RM) (act : Nat → Bool) (keep : Nat → Nat) (f : Nat → Word32 → Nat × Flags) (a : FAcc) :
    List Nat → List Nat × FAcc
  | [] => ([], a)
  | i :: rest =>
    let r := if act i then a.round m (f i) else (keep i, a)
    let s := mapRound m act keep f r.2 rest
    (r.1 :: s.1, s.2)

/-- The operations of VFP. -/
inductive VFpOp where
  | add | sub | mul | div | fma | sqrt | min | max
  deriving DecidableEq, Repr

/-- The result of one element (R233). -/
def vfp (op : VFpOp) (dbl : Bool) (m : RM) (x y t : Nat) (seed : Word32) : Nat × Flags :=
  match op with
  | .add => fpOp (fmtOf dbl) .add m seed x y
  | .sub => fpOp (fmtOf dbl) .sub m seed x y
  | .mul => fpOp (fmtOf dbl) .mul m seed x y
  | .div => fpOp (fmtOf dbl) .div m seed x y
  | .fma => fpFma (fmtOf dbl) .fma m seed x y t
  | .sqrt => fpSqrt (fmtOf dbl) m seed x
  | .min => fpMinMax (fmtOf dbl) false x y
  | .max => fpMinMax (fmtOf dbl) true x y

/-- The width of a floating vector format. -/
def fpWidth (dbl : Bool) : VWidth := if dbl then .d64 else .w32

/-- A VFP instruction on registers (R233). -/
def mapFp (op : VFpOp) (dbl : Bool) (m : RM) (mask : Word) (x y t : BitVec 2048) (a : FAcc) : BitVec 2048 × FAcc :=
  let w := fpWidth dbl
  let n := vbits w
  let r := mapRound m (active (vsize w) mask) (elem n t) (fun i => vfp op dbl m (elem n x i) (elem n y i) (elem n t i)) a (vidx w)
  (ofElems n r.1, r.2)

/-! ## Comparisons (R235) -/

/-- The conditions of VCMP. -/
def vcond (c : VCond) (n u v : Nat) : Bool :=
  match c with
  | .eq => u == v
  | .ne => u != v
  | .lt => decide (sNat n u < sNat n v)
  | .ge => decide (sNat n v ≤ sNat n u)
  | .ltu => decide (u < v)
  | .geu => decide (v ≤ u)

/-- The conditions of VFCMP. -/
def fcond : FCond → FCmpOp
  | .eq => .eq
  | .lt => .lt
  | .le => .le
  | .ne => .ne
  | .un => .un

/-- The result: bit j is 1 when every element that overlaps lane j is active and fulfils the condition (R235). -/
def laneBits (size : Nat) (mask : Word) (holds : Nat → Bool) : Word :=
  let elems := fun (j : Nat) => if size = 8 then [j / 2] else (List.range (4 / size)).map fun k => j * (4 / size) + k
  BitVec.ofNat 64 ((List.range 64).foldl (fun acc j =>
    acc + if (elems j).all fun i => active size mask i && holds i then 2 ^ j else 0) 0)

/-! ## Reductions (R200, R237) -/

/-- One level of the pairwise tree. -/
def pairUp (f : Nat → Nat → FAcc → Nat × FAcc) (a : FAcc) : List Nat → List Nat × FAcc
  | x :: y :: rest =>
    let r := f x y a
    let s := pairUp f r.2 rest
    (r.1 :: s.1, s.2)
  | l => (l, a)

/-- The tree, level by level. -/
def treeReduce (f : Nat → Nat → FAcc → Nat × FAcc) (a : FAcc) (l : List Nat) : Nat → Nat × FAcc
  | 0 => (l.headD 0, a)
  | fuel + 1 =>
    match l with
    | _ :: _ :: _ =>
      let r := pairUp f a l
      treeReduce f r.2 r.1 fuel
    | l' => (l'.headD 0, a)

/-- The combination of VRED (R237). DEDUCED: a signalling operand of fmin and fmax raises NV, as R198 says of every operand; log entry 16. -/
def redOpF (op : RedOp) (m : RM) (n : Nat) (x y : Nat) (a : FAcc) : Nat × FAcc :=
  let dbl : Bool := n == 64
  match op with
  | .add => ((x + y) % 2 ^ n, a)
  | .min => (vint .min n x y 0, a)
  | .max => (vint .max n x y 0, a)
  | .minu => (vint .minu n x y 0, a)
  | .maxu => (vint .maxu n x y 0, a)
  | .and => (Nat.land x y, a)
  | .or => (Nat.lor x y, a)
  | .xor => (Nat.xor x y, a)
  | .fadd _ => a.round m (fun seed => fpOp (fmtOf dbl) .add m seed x y)
  | .fmin => let r := fpMinMax (fmtOf dbl) false x y; (r.1, ⟨a.seed, a.flags ||| r.2⟩)
  | .fmax => let r := fpMinMax (fmtOf dbl) true x y; (r.1, ⟨a.seed, a.flags ||| r.2⟩)

/-- VRED (R237): the result in element 0, zero elsewhere. -/
def vreduce (op : RedOp) (m : RM) (w : VWidth) (x : BitVec 2048) (a : FAcc) : BitVec 2048 × FAcc :=
  let n := vbits w
  let r := treeReduce (redOpF op m n) a ((vidx w).map (elem n x)) 8
  (ofElems n [r.1], r.2)

/-- An exact product of FP32 operands with its flags, +0 where inactive (R241). -/
def dotProduct (on : Bool) (x y : Nat) : FVal × Flags :=
  if on then
    let u := bFP32.decode x
    let v := bFP32.decode y
    let p := u.mul v
    (p.1, p.2 ||| sigFlag u ||| sigFlag v)
  else (.fin false 0 1, fNone)

/-- VDOT on FP32 (R241). -/
def dotF32 (m : RM) (mask : Word) (x y : BitVec 2048) (a : FAcc) : BitVec 2048 × FAcc :=
  let level1 := mapRound m (fun _ => true) (fun _ => 0) (fun i seed =>
    let p := dotProduct (mask.getLsbD (2 * i)) (elem 32 x (2 * i)) (elem 32 y (2 * i))
    let q := dotProduct (mask.getLsbD (2 * i + 1)) (elem 32 x (2 * i + 1)) (elem 32 y (2 * i + 1))
    let r := p.1.add m q.1
    finishOp bFP32 m seed r (p.2 ||| q.2)) a (List.range 32)
  let r := treeReduce (redOpF (.fadd m) m 32) level1.2 level1.1 6
  (ofElems 32 [r.1], r.2)

/-- VDOT on INT8 (R241). -/
def dotI8 (mask : Word) (x y : BitVec 2048) : BitVec 2048 :=
  let t : Int := (List.range 256).foldl (fun acc i =>
    if active 1 mask i then acc + sNat 8 (elem 8 x i) * sNat 8 (elem 8 y i) else acc) 0
  ofElems 32 [bitsOfInt 32 t]

/-! ## Conversions (R239) -/

/-- The mode in which VCVT rounds (R193, R238). DEDUCED: from DM8 it rounds in RNE to every format, and SR steps no LFSR; log entry 115. -/
def vcvtMode (src : Fmt) (m : RM) : RM := if src = .dm8 then .rne else m

/-- VCVT on registers. -/
def vconvert (ovf : Bool) (dst src : Fmt) (m0 : RM) (mask : Word) (x t : BitVec 2048) (a : FAcc) : BitVec 2048 × FAcc :=
  let m := vcvtMode src m0
  let ws := fmtWidth src
  let wd := fmtWidth dst
  let count := if ws = 64 ∨ wd = 64 then 32 else 64
  let r := mapRound m (fun i => mask.getLsbD i) (elem wd t) (fun i seed => convert ovf dst src m seed (elem ws x i)) a
    (List.range count)
  (ofElems wd r.1, r.2)

/-! ## MX blocks (R189, R190, R240, R243) -/

/-- The element format of the floating MX formats; `none` for MXINT8. -/
def mxBin : MxFmt → Option BinFmt
  | .mxint8 => none
  | .mxe4m3 => some bE4M3
  | .mxe5m2 => some bE5M2
  | .mxfp4 => some bE2M1

/-- The element width in bits. -/
def mxWidth : MxFmt → Nat
  | .mxfp4 => 4
  | _ => 8

/-- emax of R190. -/
def mxEmax : MxFmt → Int
  | .mxint8 => 0
  | .mxe4m3 => 8
  | .mxe5m2 => 15
  | .mxfp4 => 2

/-- A value times two to a power. -/
def scaleF (v : FVal) (e : Int) : FVal :=
  match v with
  | .fin neg a b => let r := scale2 a b e; .fin neg r.1 r.2
  | w => w

/-- The value is a NaN or an infinity. -/
def special : FVal → Bool
  | .fin _ _ _ => false
  | _ => true

/-- The FP32 values of block j. -/
def mxBlock (x : BitVec 2048) (j : Nat) : List FVal := (List.range 32).map fun i => bFP32.decode (elem 32 x (32 * j + i))

/-- The scale code of a block, and whether it is special (R190). -/
def mxScale (f : MxFmt) (xs : List FVal) : Nat × Bool :=
  if xs.any special then (0xFF, true)
  else
    let es := xs.filterMap fun v => match v with | .fin _ a b => if a = 0 then none else some (ilog2 a b) | _ => none
    match es with
    | [] => (0, false)
    | e :: rest =>
      let k : Int := rest.foldl max e - mxEmax f + 127
      ((if k < 0 then 0 else if 254 < k then 254 else k.toNat), false)

/-- VMXS (R240). -/
def mxScales (f : MxFmt) (x : BitVec 2048) : BitVec 2048 × Flags :=
  let b0 := mxScale f (mxBlock x 0)
  let b1 := mxScale f (mxBlock x 1)
  (ofElems 8 [b0.1, b1.1], fIf (b0.2 || b1.2) fNV)

/-- One element quantised by step 3 of R190 under a scale code, with the flags of R240 and R243. -/
def mxQuant (f : MxFmt) (m : RM) (k : Nat) (v : FVal) (seed : Word32) : Nat × Flags :=
  if k = 0xFF then (0, fIf (special v) fNV)
  else
    match v with
    | .nan _ => (0, fNV)
    | .inf neg =>
      match mxBin f with
      | none => (bitsOfInt 8 (if neg then -127 else 127), fNV)
      | some b => (b.maxBits neg, fNV)
    | .fin neg num den =>
      match mxBin f with
      | none =>
        let r := scale2 num den (133 - (k : Int))
        let q := roundInt m seed neg r.1 r.2
        let y : Int := if 127 < q.1 then 127 else if q.1 < -127 then -127 else q.1
        (bitsOfInt 8 y, fIf (q.2 || y != q.1) fNX)
      | some b =>
        let r := b.deliver .saturate m seed (scaleF (.fin neg num den) (127 - (k : Int)))
        (r.1, r.2 &&& fUFNX)

/-- Every element of block j is ±0 (step 1 of R190). -/
def zeroBlock (x : BitVec 2048) (j : Nat) : Bool := (List.range 32).all fun i => elem 32 x (32 * j + i) % 2 ^ 31 == 0

/-- VMXQ (R240, R243). A special element under a scale 0xFF raises NV as R240 states for a NaN and an infinity; a block of zeros is no
ordinary block: its codes are all zeros whatever the signs (step 1 of R190). DEDUCED, both; log entry 16. -/
def mxQuantise (f : MxFmt) (m : RM) (x sc : BitVec 2048) (a : FAcc) : BitVec 2048 × FAcc :=
  let r := mapRound m (fun _ => true) (fun _ => 0) (fun i seed =>
    mxQuant f m (elem 8 sc (i / 32)) (bFP32.decode (if zeroBlock x (i / 32) then 0 else elem 32 x i)) seed) a (List.range 64)
  (ofElems (mxWidth f) r.1, r.2)

/-- The exact value of an MX element code (R189). -/
def mxValue (f : MxFmt) (code : Nat) : FVal :=
  match mxBin f with
  | none => scaleF (FVal.ofInt (sNat 8 code)) (-6)
  | some b => b.decode code

/-- One element read back (R240). -/
def mxElement (f : MxFmt) (m : RM) (k code : Nat) (seed : Word32) : Nat × Flags :=
  let v := mxValue f code
  if k = 0xFF ∨ v.isNan then (bFP32.canon, fNone)
  else bFP32.deliver .ieee m seed (scaleF v ((k : Int) - 127))

/-- VMXD (R240). -/
def mxDequantise (f : MxFmt) (m : RM) (x sc : BitVec 2048) (a : FAcc) : BitVec 2048 × FAcc :=
  let r := mapRound m (fun _ => true) (fun _ => 0) (fun i seed =>
    mxElement f m (elem 8 sc (i / 32)) (elem (mxWidth f) x i) seed) a (List.range 64)
  (ofElems 32 r.1, r.2)

end Sys2Proof.Machine
end

