-- ==== Sys2Proof/Machine/Calls.lean ====
section
/-! DEFINITION. Calls, returns, helpers and notices: CALL, and the CTX instructions but for RDSR and WRSR (04_contexts R79 to R87), with
the end of a helper and of its task (R82, 16_tasks R325, R337) and the check of a sealed block (21_system R410). -/

namespace Sys2Proof.Machine

/-- The word waits and issues again: nothing of it has taken effect, and it counts once toward the segment (R68).
DEDUCED, log entry 49. -/
def State.hold (s : State) : State := s.modC fun x => { x with seg := x.seg - 1, parking := x.stopDue, holding := true }

/-- A word that posts into the store queue of its unit: while the queue holds its 32 entries the word holds issue (R128, R135, R182). -/
def State.queued (s : State) (act : Out) : Out := if s.storesFull s.cur then .next s.hold else act

/-- The context parks before the word, which issues again after the park. -/
def State.parkAgain (s : State) : State := s.modC fun x => { x with parking := true, why := .before }

/-- A word that reads its unit's own memory at issue: it holds while an earlier access of its context is yet to write there. -/
def State.reading (s : State) (off n : Nat) (act : Out) : Out := if s.ownPending off n then .next s.hold else act

/-- A word that has parked first waits and issues again without another park: its hold is the unit's (R68). DEDUCED, log entry 49. -/
def State.holdFirst (s : State) : State := s.modC fun x => { x with parked := true, parking := x.stopDue, seg := 0, holding := true }

/-- A word that has parked first waits: it holds the unit, but where a contribution or a message of its context is not accepted it parks, and
the context is not ready until it is (R68). -/
def State.waitFirst (s : State) : State := if s.cx.blocked = [] then s.holdFirst else s.parkAgain

/-- A word that has parked first waits for accesses of other contexts: where one of them is refused or held at its home, which only other words
of the unit may free, it parks instead of holding the unit. DEDUCED, log entry 49. -/
def State.waitFor (s : State) (refused : Bool) : State := if refused then s.parkAgain else s.waitFirst

/-! ## Calls and returns -/

/-- A PC-relative target's check (R61). -/
def relTarget (t : Word) : Option Cause := if t.extractLsb' 58 6 ≠ 0#6 then some .access else none

/-- The effect of CALL and CALLR after their park (R80): the checks, the spill, the new window with its link. -/
def State.callTo (s : State) (t : Word) (bad : Option Cause) : State :=
  let x := s.cx
  if x.act then s.trapAt .access x.twb
  else if x.nact then s.trapAt .access x.nwin
  else
    match bad with
    | some e => s.trapAt e t
    | none =>
      if s.spillWaits s.cur s.c (x.cap.toNat - 1) then s.waitFirst
      else seqThen (if x.res = x.cap then s.spill s.cur s.c else (s, none)) fun s1 =>
        let link := s1.pc + 4#64
        let g22 := s1.g 22#5
        let g23 := s1.g 23#5
        let s2 := s1.modC fun y => { y with wp := y.ring (y.wp - 192#64), res := y.res + 1#8, pc := t }
        ((s2.setG 21#5 link).setG 22#5 g22).setG 23#5 g23

/-- CALL (R80). -/
def execCall (off : BitVec 25) (s : State) : Out :=
  .next (s.parkFirst fun s1 => s1.callTo (s1.rel off) (relTarget (s1.rel off)))

/-- CALLR (R80). -/
def execCallr (a : Reg) (imm : BitVec 12) (s : State) : Out :=
  .next (s.parkFirst fun s1 => s1.callTo (s1.g a + simm imm) (checkTarget (s1.g a + simm imm)))

/-- JR (R81). -/
def execJr (a : Reg) (imm : BitVec 12) (s : State) : Out :=
  s.afterReplay fun s1 =>
    let t := s1.g a + simm imm
    match checkTarget t with
    | some e => s1.trapAt e t
    | none => s1.setPc t

/-- The end of a helper that holds no task: its coprocessor instructions complete first (R82). -/
def State.endBody (s : State) : State :=
  if s.copQueued s.cur s.c then (s.modC fun x => { x with parking := true, why := .ending }).rotate s.cur s.c
  else (s.endHelper s.cur s.c).rotate s.cur s.c

/-- The ticket of a context's task is started and not completed at its home. -/
def State.taskStarted (s : State) (home : Word) : Bool :=
  (s.queue (selHome home).1 (selHome home).2).started.any fun t => t.ticket == home.extractLsb' 16 32

/-- The completion of a task sent to its home, or performed there at once (R325): the state, and whether the context waits for it. -/
def State.sendCompletion (s : State) (home : Word) : State × Bool :=
  let p : Posted := .complete (selHome home).1 (selHome home).2 (home.extractLsb' 16 32)
  if s.posted.contains p then (s, true)
  else if s.async && s.taskStarted home then (s.sendOut p, true)
  else (s.completeAt (selHome home).1 (selHome home).2 (home.extractLsb' 16 32), false)

/-- The completion of the task that a context holds (R325, R337), made after its park: a fault that has come is taken at a park first, and it
waits for the context's accesses and coprocessor instructions; then it sends the ticket's completion to its home and waits for it, and the
helper ends. -/
def State.finishTask (s : State) : State :=
  let u := s.cur
  let c := s.c
  let x := s.cx
  if ! x.act && (x.homeFaults != [] || x.late != []) then s.parkAgain
  else if ! s.allPerformed u c || s.copBusy u c then s.waitFirst
  else
    let r := if x.tkhome.getLsbD 62 then s.sendCompletion x.tkhome else (s, false)
    if r.2 then r.1.waitFirst
    else
      let s2 := r.1.modLaunch x.lid fun l => { l with running := l.running - 1 }
      let s3 := s2.modC fun y => { y with tkhome := setBit y.tkhome 63 false }
      (s3.endHelper u c).rotate u c

/-- The effect of RET after its park (R82). A failed fill leaves the window and the counts as they were (R72). -/
def State.retFrom (s : State) : State :=
  let x := s.cx
  let t := s.g 21#5
  if x.act then s.trapAt .access x.twb
  else if x.nact then s.trapAt .access x.nwin
  else if x.res = 1#8 ∧ x.spilled = 0#32 then
    (if s.c = 0 then s.trapAt .access t
     else if x.tkhome.getLsbD 63 then s.finishTask
     else s.endBody)
  else
    match checkTarget t with
    | some e => s.trapAt e t
    | none =>
      let s1 := s.modC fun y => { y with wp := y.ring (y.wp + 192#64), res := y.res - 1#8 }
      if s1.fillWaits s.cur s.c 2 then s.waitFirst else
      match s1.fillResident s.cur s.c 2 with
      | (_, some e) => s.trapAt e.1 e.2
      | (s2, none) => s2.setPc t

/-- RET (R82). -/
def execRet (s : State) : Out := .next (s.parkFirst fun s1 => s1.retFrom)

/-! ## Helpers (R83, R84) -/

/-- A helper number that the issuing unit has (R56, R79). -/
def State.hasHelper (s : State) (n : BitVec 4) : Bool := decide (n.toNat ≤ helperCount s.kind)

/-- The helper that START begins (R74, R83): the block as the runtime wrote it, the fields of R74's Reset column, and the arguments.
DEDUCED, log entry 31. -/
def State.startHelper (s : State) (n : Nat) (pc task : Word) (args : List Word) : State :=
  let u := s.cur
  let x := s.loadCtx u (s.cbOf u n) { s.ctx u n with npend := false }
  let y : Ctx :=
    { x with
      faults := (s.blockCtx u (s.cbOf u n) x).faults
      nwin := x.nhwp
      resuming := false
      pc := pc
      wp := x.frb + BitVec.ofNat 64 ((x.cap.toNat - 1) * 192)
      res := 1#8
      spilled := 0#32
      priv := .u
      lmoor := 0#64
      nhpc := 0#64
      replay := { x.replay with rv := false }
      arb := 0#8
      chk := false
      pe := false
      sel := 0#24
      late := []
      homeFaults := []
      lid := s.cx.lid }
  let s1 := s.setCtx u n y
  let s2 := ((s1.setReg u n 21#5 0#64).setReg u n 22#5 task).setReg u n 23#5 y.msp
  (args.zipIdx).foldl (fun acc a => acc.setReg u n (BitVec.ofNat 5 (24 + a.2)) a.1) s2

/-- START (R83): it holds until every earlier access of the issuer has been performed (R146). DESIGN CHOICE: the target is checked before the
helper; log entry 86. -/
def execStart (n : BitVec 4) (d a : Reg) (s : State) : Out :=
  s.profile (s.hasHelper n) (s.privileged (.next (s.parkFirst fun s1 =>
    match checkTarget (s1.g a) with
    | some e => s1.trapAt e (s1.g a)
    | none =>
      if (s1.ctx s1.cur n.toNat).live then s1.trapAt .access (n.setWidth 64)
      else if ! s1.allPerformed s1.cur s1.c then s1.waitFirst
      else
        (s1.startHelper n.toNat (s1.g a) (s1.g d)
          [s1.g 0#5, s1.g 1#5, s1.g 2#5, s1.g 3#5, s1.g 4#5, s1.g 5#5, s1.g 6#5, s1.g 7#5]).advance)))

/-- The block and its seal pass the check of R410. -/
def State.sealOk (s : State) (u : Nat) (cb : Word) : Bool :=
  let so := s.sealOff u cb
  let d1 := s.loc64 u (so + 8)
  d1.getLsbD 63 && ! d1.getLsbD 62 && ! s.badData (localPa u cb.toNat) (so - cb.toNat + 64)
    && s.loc64 u so == crc64 (s.getLocal u cb.toNat (so - cb.toNat) ++ s.getLocal u (so + 8) 56)

/-- DEF set in a seal record (R394, R410). -/
def State.markDefunct (s : State) (u : Nat) (cb : Word) : State :=
  let so := s.sealOff u cb
  s.setLoc64 u (so + 8) (setBit (s.loc64 u (so + 8)) 62 true)

/-- START.RES (R83, R410): a block that fails its check fails the launch, whose other units the hub stops. -/
def execStartRes (n : BitVec 4) (s : State) : Out :=
  s.profile (s.hasHelper n) (s.privileged (.next (s.parkFirst fun s1 =>
    let u := s1.cur
    let k := n.toNat
    let cb := s1.cbOf u k
    if (s1.ctx u k).live then s1.trapAt .access (n.setWidth 64)
    else if ! s1.allPerformed u s1.c then s1.waitFirst
    else if ! s1.sealOk u cb then
      let s2 := (s1.markDefunct u cb).endLaunchBut (some u) s1.cx.lid 2 Cause.restoreBad.code 0#64
      s2.trapAt .restoreBad (n.setWidth 64)
    else
      (s1.setCtx u k { s1.loadCtx u cb (s1.ctx u k) with lid := s1.cx.lid }).advance)))

/-- A helper's coprocessor instructions, its loads, or accesses whose faults its block is to keep (R67, R84), keep its stop from being whole. -/
def State.stopping (s : State) (u k : Nat) : Bool :=
  s.copQueued u k || (s.ctx u k).owed || s.flight.any fun r => r.who.unit == u && r.who.ctx == k

/-- A live helper brought toward its stop (R84): its replay is halted, its accesses and tokens come where they can, its sleeps are cancelled. -/
def State.toStop (s : State) (u k : Nat) : State :=
  ((((s.haltReplay u k).bring u k).cancelPops u k).cancelBlocked u k).bring u k

/-- STOPH (R84): the issuer's next word issues only when the helper is stopped: its replay is halted, what it has dispatched completes, its
loads land. DEDUCED, log entry 29. DESIGN CHOICE: a STOPH that names its issuer parks, passes the word and stops the issuer; log entry 87. -/
def execStoph (n : BitVec 4) (s : State) : Out :=
  s.profile (s.hasHelper n) (s.privileged (
    let u := s.cur
    let k := n.toNat
    if ! (s.ctx u k).live then s.done
    else if k = s.c then
      .next (s.parkFirst fun s1 =>
        if s1.copQueued u k then (s1.haltReplay u k).holdFirst else ((s1.advance).stopHelper u k false).rotate u k)
    else
      let s1 := s.toStop u k
      if s1.stopping u k then .next s1.hold else (s1.stopHelper u k false).done))

/-! ## Yielding and notices (R85 to R87) -/

/-- The next ready context after a YIELD that has parked: after the control context a helper (R68, R85). -/
def State.yieldTo (s : State) : State :=
  let u := s.cur
  let c := s.c
  let s2 := (s.advance).endSegment u c
  if c = 0 then (match s2.nextHelper u c with | some k => s2.modUnit u fun x => { x with cur := k } | none => s2)
  else s2.rotate u c

/-- YIELD (R85): the park of R67, then the next ready context. -/
def execYield (s : State) : Out :=
  let u := s.cur
  let c := s.c
  if s.cx.parked then .next s.yieldTo
  else
    match s.settle u c with
    | .waiting s1 => .next (s1.parkBefore u c)
    | .diverted s1 => .next (s1.rotate u c)
    | .clear s1 => .next (if (s1.ctx u c).blocked ≠ [] then s1.parkBefore u c else s1.yieldTo)

/-- SETNH (R86): NHPC and NHWP are what the next diversion reads; a running handler keeps its window, `Ctx.nwin`, for NRET, ERET and the
traps of CALL and RET. DEDUCED: the registers show the new values at once; log entry 114. -/
def execSetnh (d a : Reg) (s : State) : Out :=
  let pc := s.g a
  let w := s.g d
  if pc.extractLsb' 0 2 ≠ 0#2 then s.trap .align pc
  else if w.extractLsb' 0 6 ≠ 0#6 ∨ localSize s.kind < w.toNat + 256 then s.trap .access w
  else (s.modC fun x => { x with nhpc := pc, nhwp := w }).done

/-- The effect of NRET after its park (R87); a notice that arrived during the handler diverts again. -/
def State.nretFrom (s : State) : State :=
  let x := s.cx
  let u := s.cur
  let c := s.c
  if ! x.nact then s.trapAt .access 0#64
  else
    let t := s.loc64 u (x.nwin.toNat + 168)
    let w := s.loc64 u (x.nwin.toNat + 160)
    match checkTarget t with
    | some e => s.trapAt e t
    | none =>
      if ! x.isSlot w then s.trapAt .access w
      else
        let s1 := s.modC fun y => { y with wp := w, nact := false, pc := t }
        if x.npend && x.nhpc != 0#64 then s1.divertNotice u c t else s1

/-- NRET (R87). -/
def execNret (s : State) : Out := .next (s.parkFirst fun s1 => s1.nretFrom)

end Sys2Proof.Machine
end

