-- ==== Sys2Proof/Machine/Memory.lean ====
section
/-! DEFINITION. Scalar loads and stores, PREF and RCINV, majors 0x0D to 0x0F (06_memory R107 to R127), LDA, STL and FENCE, major 0x11
(07_ordering R141 to R145), and the events by which posted loads and stores are performed. -/

namespace Sys2Proof.Machine

/-! ## Own local memory -/

/-- An access of the issuing context to its unit's own local memory, through the local window or the physical one. -/
def State.ownReq (s : State) (ea : Word) (off : Nat) (act : Action) (acq rel : Bool) : Req :=
  ⟨s.issuer s.cur s.c, s.po, s.pc, ea, localPa s.cur off, act, acq, rel, false⟩

/-- The bytes are registers or the block of the issuing context, which no other party reaches: they are coherent with its words (R77). -/
def State.ownPrivate (s : State) (off n : Nat) : Bool := s.inBlock s.cur s.c off n || s.inWindows s.cur s.c off n

/-- A hold of issue at the context's own registers and block: an earlier vector memory instruction may reach them, and a store into the block
waits for every vector instruction of the context (R77, R151). -/
def State.ownHold (s : State) (off n : Nat) (store : Bool) : Bool :=
  (s.ownPrivate off n && s.vectorBefore s.cur s.c s.po) || (store && s.inBlock s.cur s.c off n && s.copBusy s.cur s.c)

/-- The access is in range and must wait for an earlier access (R108, R151). -/
def State.ownWaits (s : State) (r : Req) (off n : Nat) (window : Bool) : Bool :=
  ! s.ownPrivate off n && (! window || s.localInRange s.cur s.cx.priv off n) && ! s.orderFree (s.fencedReq r)

/-- An access to the unit's own local memory acts at issue where nothing stands before it; otherwise it is posted (R143, R151). -/
def State.ownAccess (s : State) (ea : Word) (off n : Nat) (window store : Bool) (me : Option Nat) (req : State → Req)
    (post act : State → Out) : Out :=
  let s1 := s.drain s.cur s.c
  if s1.ownHold off n store then .next s1.hold
  else if s1.ownWaits (req s1) off n window then
    (if s1.guardedByOther s1.cur me off n then s.trap .wsGuard ea else post s1)
  else act s1

/-- An access through the unit's own physical window carries tags, and its home can find it stale (R119, R120). -/
def State.ownStale (s : State) (window : Bool) : Bool := ! window && s.isStaleGen (1024 + s.cur) (s.issuer s.cur s.c)

/-- The unit's own memory, its own home, finds an error in what is read that it cannot correct (R129); the fields of the block are
registers. -/
def State.ownBad (s : State) (off n : Nat) : Bool :=
  s.upsets != [] && ! s.inBlock s.cur s.c off n && s.badData (localPa s.cur off) n

/-- A home fault of the word being issued, returned at once (R120). -/
def State.faultNow (s : State) (ea : Word) (cause : Cause) : State :=
  { (s.modC fun x => { x with homeFaults := x.homeFaults ++ [⟨s.po, cause, ea, x.pc⟩] }) with po := s.po + 1 }

/-! ## Loads -/

/-- A store of a context of a core that is not performed stands on some of the bytes (R117). -/
def State.coreStores (s : State) (u pa n : Nat) : Bool :=
  s.flight.any fun r => r.who.unit == u && (match r.act with | .store k _ => meets pa n r.pa k | _ => false)

/-- A load posted to its home; a hit of the read cache answers at once, a miss fills the line (R116, R118). An acquiring load reads at the
home (R142), and so does one of bytes that a store of the core has laid into the copy and not yet performed, which no other context may read
before the home has them (R155). -/
def State.homeLoad (s : State) (d : Reg) (ea : Word) (pa : Nat) (leaf : TlbEntry) (size : Nat) (signed acq : Bool) : State :=
  let u := s.cur
  let c := s.c
  let r : Req := ⟨s.issuer u c, s.po, s.pc, ea, pa, .load size signed s.po, acq, false, ! acq && s.rcMay u pa leaf && ! s.coreStores u pa size⟩
  if r.line && s.mayPerform r then
    match s.rcLine u pa with
    | some l => s.deferG d (extendBytes signed (l.get pa size))
    | none =>
      let s1 :=
        if s.async || (s.lineFault r.who (some (u, c)) pa).isSome then s
        else s.rcFill u r.who.asid ea.toNat pa
      (s1.defer u c d .pending).post r
  else (s.defer u c d .pending).post r

/-- The load of `size` bytes at an effective address into gd (R107, R108, R123). -/
def State.loadEa (s : State) (d : Reg) (ea : Word) (size : Nat) (signed acq : Bool) : Out :=
  match s.checkEa s.cur s.c ea size .load with
  | .error e => s.trap e ea
  | .ok (s1, .home pa leaf) => (s1.homeLoad d ea pa leaf size signed acq).done
  | .ok (s1, .own off window) =>
    let req := fun (t : State) => t.ownReq ea off (.load size signed t.po) acq false
    s1.ownAccess ea off size window false (some s1.c) req (fun s2 => ((s2.defer s2.cur s2.c d .pending).post (req s2)).done) fun s2 =>
      if s2.ownStale window then ((s2.defer s2.cur s2.c d .dropped).faultNow ea .staleGen).done
      else if s2.ownBad off size then ((s2.defer s2.cur s2.c d .dropped).faultNow ea .uncorr).done
      else
        match s2.localLoad s2.cur s2.c off size window with
        | .error e => s.trap e ea
        | .ok (s3, bs) =>
          let s4 := (s3.logCorrected (localPa s3.cur off) size).deferG d (extendBytes signed bs)
          (if acq then s4.acquire s4.cur else s4).done

/-- Size in bytes and signedness of a load (R121). -/
def loadShape : LWidth → Nat × Bool
  | .b8 => (1, true)
  | .h16 => (2, true)
  | .w32 => (4, true)
  | .d64 => (8, true)
  | .bu8 => (1, false)
  | .hu16 => (2, false)
  | .wu32 => (4, false)

/-- Size in bytes of a store (R121). -/
def storeSize : SWidth → Nat
  | .b8 => 1
  | .h16 => 2
  | .w32 => 4
  | .d64 => 8

/-- The effective address of the M format (R123). -/
def State.eaM (s : State) (a : Reg) (imm : BitVec 12) : Word := s.g a + simm imm

/-- The effective address of LDX and STX (R125). -/
def State.eaX (s : State) (a b : Reg) (size : Nat) : Word := s.g a + s.g b * BitVec.ofNat 64 size

/-- LDB (R123). -/
def execLdb (d a : Reg) (imm : BitVec 12) (s : State) : Out := s.loadEa d (s.eaM a imm) 1 true false

/-- LDH (R123). -/
def execLdh (d a : Reg) (imm : BitVec 12) (s : State) : Out := s.loadEa d (s.eaM a imm) 2 true false

/-- LDW (R123). -/
def execLdw (d a : Reg) (imm : BitVec 12) (s : State) : Out := s.loadEa d (s.eaM a imm) 4 true false

/-- LDD (R123). -/
def execLdd (d a : Reg) (imm : BitVec 12) (s : State) : Out := s.loadEa d (s.eaM a imm) 8 true false

/-- LDBU (R123). -/
def execLdbu (d a : Reg) (imm : BitVec 12) (s : State) : Out := s.loadEa d (s.eaM a imm) 1 false false

/-- LDHU (R123). -/
def execLdhu (d a : Reg) (imm : BitVec 12) (s : State) : Out := s.loadEa d (s.eaM a imm) 2 false false

/-- LDWU (R123). -/
def execLdwu (d a : Reg) (imm : BitVec 12) (s : State) : Out := s.loadEa d (s.eaM a imm) 4 false false

/-- LDX.B (R125). -/
def execLdxB (d a b : Reg) (s : State) : Out := s.loadEa d (s.eaX a b 1) 1 true false

/-- LDX.H (R125). -/
def execLdxH (d a b : Reg) (s : State) : Out := s.loadEa d (s.eaX a b 2) 2 true false

/-- LDX.W (R125). -/
def execLdxW (d a b : Reg) (s : State) : Out := s.loadEa d (s.eaX a b 4) 4 true false

/-- LDX.D (R125). -/
def execLdxD (d a b : Reg) (s : State) : Out := s.loadEa d (s.eaX a b 8) 8 true false

/-- LDX.BU (R125). -/
def execLdxBu (d a b : Reg) (s : State) : Out := s.loadEa d (s.eaX a b 1) 1 false false

/-- LDX.HU (R125). -/
def execLdxHu (d a b : Reg) (s : State) : Out := s.loadEa d (s.eaX a b 2) 2 false false

/-- LDX.WU (R125). -/
def execLdxWu (d a b : Reg) (s : State) : Out := s.loadEa d (s.eaX a b 4) 4 false false

/-- LDA (R142). -/
def execLda (z : LWidth) (d a : Reg) (s : State) : Out := s.loadEa d (s.g a) (loadShape z).1 (loadShape z).2 true

/-! ## Stores -/

/-- The store of the low `size` bytes of a doubleword at an effective address (R107, R108, R117, R124). -/
def State.storeEa (s : State) (data ea : Word) (size : Nat) (rel : Bool) : Out :=
  match s.checkEa s.cur s.c ea size .store with
  | .error e => s.trap e ea
  | .ok (s1, .home pa _) =>
    let s2 := s1.drain s1.cur s1.c
    let r : Req := ⟨s2.issuer s2.cur s2.c, s2.po, s2.pc, ea, pa, .store size data, false, rel, false⟩
    s2.queued (((s2.rcStore s2.cur pa (bytesOf size data)).tick).post r).done
  | .ok (s1, .own off window) =>
    let req := fun (t : State) => t.ownReq ea off (.store size data) false rel
    s1.ownAccess ea off size window true (some s1.c) req
      (fun s2 => s2.queued ((s2.tick).post (req s2)).done) fun s2 =>
      if s2.ownStale window then (s2.faultNow ea .staleGen).done
      else
        match s2.localStore s2.cur s2.c off (bytesOf size data) window with
        | .error e => s.trap e ea
        | .ok s3 => s3.done

/-- STB (R124). -/
def execStb (d a : Reg) (imm : BitVec 12) (s : State) : Out := s.storeEa (s.g d) (s.eaM a imm) 1 false

/-- STH (R124). -/
def execSth (d a : Reg) (imm : BitVec 12) (s : State) : Out := s.storeEa (s.g d) (s.eaM a imm) 2 false

/-- STW (R124). -/
def execStw (d a : Reg) (imm : BitVec 12) (s : State) : Out := s.storeEa (s.g d) (s.eaM a imm) 4 false

/-- STD (R124). -/
def execStd (d a : Reg) (imm : BitVec 12) (s : State) : Out := s.storeEa (s.g d) (s.eaM a imm) 8 false

/-- STX.B (R125). -/
def execStxB (d a b : Reg) (s : State) : Out := s.storeEa (s.g d) (s.eaX a b 1) 1 false

/-- STX.H (R125). -/
def execStxH (d a b : Reg) (s : State) : Out := s.storeEa (s.g d) (s.eaX a b 2) 2 false

/-- STX.W (R125). -/
def execStxW (d a b : Reg) (s : State) : Out := s.storeEa (s.g d) (s.eaX a b 4) 4 false

/-- STX.D (R125). -/
def execStxD (d a b : Reg) (s : State) : Out := s.storeEa (s.g d) (s.eaX a b 8) 8 false

/-- STL (R143). -/
def execStl (z : SWidth) (d a : Reg) (s : State) : Out := s.storeEa (s.g d) (s.g a) (storeSize z) true

/-! ## The read cache (R126, R127) -/

/-- The line that holds an address filled, where a read of the line would not fault and R116 would cache it (R126). A home that holds accesses back fills
nothing for it: the line would be given up again. -/
def State.prefetch (s : State) (ea : Word) : State :=
  match s.checkEa s.cur s.c ea 1 .load with
  | .ok (s1, .home pa leaf) =>
    let who := s1.issuer s1.cur s1.c
    if s1.rcMay s1.cur pa leaf && (s1.rcLine s1.cur pa).isNone
        && (s1.lineFault who (some (s1.cur, s1.c)) pa).isNone && ! s1.accessWaits (pa / 64 * 64) 64 s1.po then
      s1.rcFill s1.cur who.asid ea.toNat pa
    else s
  | _ => s

/-- PREF (R126). -/
def execPref (a : Reg) (imm : BitVec 12) (s : State) : Out := (s.prefetch (s.eaM a imm)).done

/-- RCINV (R127). -/
def execRcinv (s : State) : Out := (s.acquire s.cur).done

/-- A virtual line holds a byte of a range taken modulo 2^64 (R127). -/
def lineMeets (line : Nat) (a n : Word) : Bool :=
  let l : Word := BitVec.ofNat 64 (line * 64)
  decide ((l - a).toNat < n.toNat) || decide ((a - l).toNat < 64)

/-- RCINV with a range (R127). -/
def execRcinvRange (a b : Reg) (s : State) : Out :=
  let lo := s.g a
  let n := s.g b
  if n = 0#64 then s.done
  else if 65536 < n.toNat then (s.acquire s.cur).done
  else
    let asid := s.cx.asr.extractLsb' 32 12
    (s.modU fun x => { x with cache := x.cache.filter fun l => ! (l.asid == asid && lineMeets l.va lo n) }).done

/-! ## FENCE (R144, R145) -/

/-- The contexts that a scope includes around a context `c` of unit `u`: whether context `d` of unit `v` is a party (R145). The engines and
coprocessors that a context commands are of its party. -/
def scopeParty (z : Scope) (u c v d : Nat) : Bool :=
  match z with
  | .context => u == v && c == d
  | .core => u == v
  | .cluster =>
    (match kindOf u with
    | .far => kindOf v == .far && u / 16 == v / 16
    | _ => dieOf u == dieOf v)
  | .die => dieOf u == dieOf v
  | .device | .system => true

/-- A vector instruction that reads memory waits in the queue for a context (R144, R218). -/
def State.vectorReads (s : State) (u c : Nat) : Bool :=
  (s.unit u).vq.any fun k => k.ctx == c &&
    match k.instr with | .vld _ _ _ | .vlds _ _ _ | .vldx _ _ _ _ | .vldbc _ _ _ => true | _ => false

/-- Some earlier load or atomic of a context has not been performed (R144). -/
def State.readsBefore (s : State) (u c : Nat) : Bool :=
  (s.flight.any fun r => r.who.unit == u && r.who.ctx == c && reqReads r) || s.vectorReads u c || s.acquireBefore u c s.po

/-- FENCE acq (R144): earlier loads and atomics stand performed, and the read cache is invalidated. The scope narrows no effect: an access has
one home, and what is performed there is performed toward every party (R145). -/
def execFenceAcq (_z : Scope) (s : State) : Out :=
  .next (s.parkFirst fun s1 => if s1.readsBefore s1.cur s1.c then s1.waitFirst else (s1.acquire s1.cur).advance)

/-- FENCE rel (R144): later stores, atomics and contributions wait for every access before it, toward every party (R145). -/
def execFenceRel (_z : Scope) (s : State) : Out :=
  ((s.modC fun x => { x with fenced := s.po }).tick).done

/-- FENCE full (R144): every earlier access stands performed toward every party (R145), and the read cache is invalidated. -/
def execFenceFull (_z : Scope) (s : State) : Out :=
  .next (s.parkFirst fun s1 => if s1.allPerformed s1.cur s1.c then (s1.acquire s1.cur).advance else s1.waitFirst)

/-! ## Events: posted accesses performed at their homes (R21, R150, R151) -/

/-- A posted access performed, where preserved program order lets it be; otherwise it waits. -/
def State.performEvent (s : State) (r : Req) : Out :=
  if s.flight.contains r && s.mayPerform r then .next (s.performNow r) else .next s

/-- HOME_LOAD (R123). -/
def execHomeLoad (r : Req) (s : State) : Out := s.performEvent r

/-- HOME_STORE (R124). -/
def execHomeStore (r : Req) (s : State) : Out := s.performEvent r

/-- A posted load asks for a line through a virtual address of an address space, and can be performed now without a fault (R116). -/
def State.asksLine (s : State) (u : Nat) (asid : BitVec 12) (va : Word) (pa : Nat) (r : Req) : Bool :=
  r.line && r.who.unit == u && r.who.asid == asid && r.ea.toNat / 64 == va.toNat / 64 && r.pa / 64 == pa / 64 && s.mayPerform r
    && (s.lineFault r.who (some (r.who.unit, r.who.ctx)) r.pa).isNone

/-- READ_CACHE_FILL (R116): the line that a posted load asks for is filled at its home, and answers the load. -/
def execReadCacheFill (u : Nat) (asid : BitVec 12) (va : Word) (pa : Nat) (s : State) : Out :=
  match s.flight.find? (s.asksLine u asid va pa) with
  | some r => .next ((s.rcFill u asid va.toNat pa).performNow r)
  | none => .next s

/-- PAGE_WALK (R401, R402): a walk for a context, its table entry's A and D set and a TLB entry formed. -/
def execPageWalk (u c : Nat) (va : Word) (store : Bool) (s : State) : Out :=
  match s.walk u c va.toNat store with
  | .ok (s1, _) => .next s1
  | .error _ => .next s

end Sys2Proof.Machine
end

