-- ==== Sys2Proof/Machine/Vector.lean ====
section
/-! DEFINITION. The vector unit (10_vector R216 to R241): dispatch and the dispatch ring, late faults, memory elements, execution of a
queued instruction, repetition, re-dispatch; and the vector instructions, majors 0x18 to 0x1E. -/

namespace Sys2Proof.Machine

/-! ## The dispatch ring (R221, R222) -/

/-- The ring with an entry more; it keeps the last 64. -/
def pushEntry (l : List DEntry) (e : DEntry) : List DEntry := if l.length < 64 then l ++ [e] else l.drop 1 ++ [e]

/-- The state of a dispatched instruction in the ring: ST and FVA (R221). -/
def State.ringMark (s : State) (u c : Nat) (seq : BitVec 16) (st : BitVec 4) (fva : Word) : State :=
  s.modCtx u c fun x =>
    { x with dring := x.dring.map fun e => if e.seq = seq then { e with st := st, fva := fva } else e }

/-- The ring's entry of a sequence number: the one at its position, if it holds that number (R222). -/
def Ctx.ringEntry (x : Ctx) (seq : BitVec 16) : Option DEntry :=
  match x.dring.reverse.find? fun e => e.seq.toNat % 64 == seq.toNat % 64 with
  | some e => if e.seq = seq then some e else none
  | none => none

/-- A doubleword of a ring entry (R221). -/
def DEntry.dw (e : DEntry) (i : Nat) : Word :=
  match i with
  | 0 => e.pc
  | 1 => e.seq ++ e.pass ++ e.unit ++ e.st ++ e.word
  | 2 => e.opa
  | 3 => e.opb
  | 4 => e.fva
  | _ => 0#64

/-- A coprocessor instruction dispatched (R221): its number, its entry, the next number. -/
def State.dispatch (s : State) (u c : Nat) (pc : Word) (pass : BitVec 8) (unit : BitVec 4) (word : Word32) (opa opb : Word) : State :=
  s.modCtx u c fun x =>
    { x with
      cseq := x.cseq + 1#16
      dring := pushEntry x.dring ⟨pc, x.cseq, pass, unit, 1#4, word, opa, opb, 0#64⟩ }

/-- The code of a fault in the SUB field (R220). -/
def subCode : Cause → Nat
  | .align => 1
  | .page => 2
  | .access => 3
  | .staleGen => 4
  | .uncorr => 5
  | .wsGuard => 6
  | .derivedWrite => 7
  | c => c.code

/-- A late fault recorded (R219, R220): the entry's ST and FVA, and TVAL with the word's address for the park that delivers it. -/
def State.recordLate (s : State) (u c : Nat) (pc : Word) (seq : BitVec 16) (tval fva : Word) : State :=
  (s.ringMark u c seq 2#4 fva).modCtx u c fun x => { x with late := x.late ++ [(tval, pc)] }

/-- An instruction of the context stands after a recorded fault in dispatch order: it is discarded (R219). -/
def Ctx.discards (x : Ctx) (seq : BitVec 16) : Bool :=
  x.late.any fun f => let d := (seq - f.1.extractLsb' 0 16).toNat; decide (1 ≤ d) && decide (d ≤ 32767)

/-! ## Vector registers -/

/-- A vector register of a context. -/
def State.v (s : State) (u c : Nat) (r : VReg) : BitVec 2048 := ((s.ctx u c).vregs[r.toNat]?).getD 0#2048

/-- The state with a vector register of a context written. -/
def State.setV (s : State) (u c : Nat) (r : VReg) (v : BitVec 2048) : State :=
  s.modCtx u c fun x => { x with vregs := x.vregs.setIfInBounds r.toNat v }

/-- The LFSR state and no flags: what a floating vector instruction starts from (R234). -/
def State.facc (s : State) (u c : Nat) : FAcc := ⟨(s.ctx u c).srseed, fNone⟩

/-- The LFSR state and the flags that a floating vector instruction leaves (R234). -/
def State.setFacc (s : State) (u c : Nat) (a : FAcc) : State :=
  s.modCtx u c fun x => { x with srseed := a.seed, fxs := x.fxs ||| a.flags }

/-! ## Memory elements (R218, R219, R231) -/

/-- The home's fault of an access at once, the unit's own memory included (R119, R120). -/
def State.elemFault (s : State) (u c : Nat) (write : Bool) (pa n : Nat) : Option Cause :=
  s.homeFault (s.issuer u c) true write (some (u, c)) pa n

/-- One element read (R114, R116, R123): its bytes, or the fault. -/
def State.elemRead (s : State) (u c : Nat) (ea : Word) (n : Nat) : Except Cause (State × List Byte) :=
  match s.checkEa u c ea n .load with
  | .error e => .error e
  | .ok (s1, .own off window) =>
    if ! window && s1.isStaleGen (1024 + u) (s1.issuer u c) then .error .staleGen
    else if ! s1.inBlock u c off n && s1.badData (localPa u off) n then .error .uncorr
    else (s1.localLoad u c off n window).map fun r => (r.1.logCorrected (localPa u off) n, r.2)
  | .ok (s1, .home pa leaf) =>
    match (if s1.rcMay u pa leaf then s1.rcLine u pa else none) with
    | some l => .ok (s1, l.get pa n)
    | none =>
      match s1.elemFault u c false pa n with
      | some e => .error e
      | none =>
        if s1.rcMay u pa leaf && (s1.lineFault (s1.issuer u c) (some (u, c)) pa).isNone then .ok ((s1.rcFill u ((s1.ctx u c).asr.extractLsb' 32 12) ea.toNat pa).readHome pa n)
        else .ok (let r := s1.readHome pa n; (r.1.rcSync u pa n, r.2))

/-- One element written (R117, R124), or the fault. -/
def State.elemWrite (s : State) (u c : Nat) (ea : Word) (bs : List Byte) : Except Cause State :=
  match s.checkEa u c ea bs.length .store with
  | .error e => .error e
  | .ok (s1, .own off window) =>
    if ! window && s1.isStaleGen (1024 + u) (s1.issuer u c) then .error .staleGen else s1.localStore u c off bs window
  | .ok (s1, .home pa _) =>
    match s1.elemFault u c true pa bs.length with
    | some e => .error e
    | none => .ok (((s1.rcStore u pa bs).writeHome .store (s1.issuer u c) true pa bs).rcSync u pa bs.length)

/-- The first element whose address fails its checks (R219). -/
def State.elemCheck (s : State) (u c n : Nat) (need : Need) : List (Nat × Word) → Option (Nat × Word × Cause)
  | [] => none
  | (i, ea) :: rest =>
    match s.checkEa u c ea n need with
    | .error e => some (i, ea, e)
    | .ok (s1, _) => s1.elemCheck u c n need rest

/-- What a vector memory instruction comes to. -/
inductive VMem where
  | done (s : State) (xs : List Nat)
  | fault (s : State) (i : Nat) (ea : Word) (cause : Cause)

/-- Elements read in increasing index order (R218). -/
def State.elemLoads (s : State) (u c n : Nat) (acc : List Nat) : List (Nat × Word) → VMem
  | [] => .done s acc
  | (i, ea) :: rest =>
    match s.elemRead u c ea n with
    | .error e => .fault s i ea e
    | .ok (s1, bs) => s1.elemLoads u c n (acc ++ [natOfBytes bs]) rest

/-- Elements written in increasing index order (R218); those before a fault stand (R219). -/
def State.elemStores (s : State) (u c n : Nat) (val : Nat → Nat) : List (Nat × Word) → VMem
  | [] => .done s []
  | (i, ea) :: rest =>
    match s.elemWrite u c ea (bytesOfNat n (val i)) with
    | .error e => .fault s i ea e
    | .ok s1 => s1.elemStores u c n val rest

/-- A vector load: every element checked, then read, then the register written (R219, R231). -/
def State.vload (s : State) (u c : Nat) (w : VWidth) (vd : VReg) (addrs : List (Nat × Word)) (spread : Bool) : VMem :=
  let n := vsize w
  match s.elemCheck u c n .load addrs with
  | some (i, ea, e) => .fault s i ea e
  | none =>
    match s.elemLoads u c n [] addrs with
    | .fault s1 i ea e => .fault s1 i ea e
    | .done s1 xs =>
      let ys := if spread then List.replicate (256 / n) (xs.headD 0) else xs
      .done (s1.setV u c vd (ofElems (8 * n) ys)) []

/-- A vector store (R219, R231). -/
def State.vstore (s : State) (u c : Nat) (w : VWidth) (vd : VReg) (addrs : List (Nat × Word)) : VMem :=
  let n := vsize w
  match s.elemCheck u c n .store addrs with
  | some (i, ea, e) => .fault s i ea e
  | none => s.elemStores u c n (elem (8 * n) (s.v u c vd)) addrs

/-- Unit-stride addresses (R230). -/
def unitAddrs (w : VWidth) (base : Word) : List (Nat × Word) :=
  (vidx w).map fun i => (i, base + BitVec.ofNat 64 (i * vsize w))

/-- Strided addresses (R230). -/
def strideAddrs (w : VWidth) (base stride : Word) : List (Nat × Word) :=
  (vidx w).map fun i => (i, base + BitVec.ofNat 64 i * stride)

/-- Indexed addresses (R230). -/
def indexAddrs (w : VWidth) (base : Word) (x : BitVec 2048) : List (Nat × Word) :=
  (vidx w).map fun i => (i, base + BitVec.ofNat 64 (elem (vbits w) x i * vsize w))

/-! ## Execution of one vector instruction (R231 to R241) -/

/-- What a vector instruction comes to: done, with its scalar result if it has one, or a fault of an element. -/
inductive VOut where
  | done (s : State) (res : Option Word)
  | fault (s : State) (i : Nat) (ea : Word) (cause : Cause)

/-- A memory instruction's outcome as the instruction's. -/
def VMem.out : VMem → VOut
  | .done s _ => .done s none
  | .fault s i ea e => .fault s i ea e

/-- The mask of an instruction whose mask field is `m` (R214). -/
def maskOf (m : Reg) (opa : Word) : Word := if m = 0#5 then BitVec.allOnes 64 else opa

/-- A vector register written. -/
def State.vput (s : State) (u c : Nat) (vd : VReg) (v : BitVec 2048) : VOut := .done (s.setV u c vd v) none

/-- A vector register written, with the flags and the LFSR state. -/
def State.vputF (s : State) (u c : Nat) (vd : VReg) (r : BitVec 2048 × FAcc) : VOut :=
  .done ((s.setV u c vd r.1).setFacc u c r.2) none

/-- VINT (R232). -/
def State.vintAt (s : State) (u c : Nat) (op : VIntOp) (w : VWidth) (mask : Word) (vd va vb : VReg) : VOut :=
  s.vput u c vd (mapElems w mask (s.v u c va) (s.v u c vb) (s.v u c vd) (vint op (vbits w)))

/-- VFP (R233). -/
def State.vfpAt (s : State) (u c : Nat) (op : VFpOp) (dbl : Bool) (m : RM) (mask : Word) (vd va vb : VReg) : VOut :=
  s.vputF u c vd (mapFp op dbl m mask (s.v u c va) (s.v u c vb) (s.v u c vd) (s.facc u c))

/-- VCMP (R235). -/
def State.vcmpAt (s : State) (u c : Nat) (cond : VCond) (w : VWidth) (mask : Word) (va vb : VReg) : VOut :=
  let n := vbits w
  .done s (some (laneBits (vsize w) mask fun i => vcond cond n (elem n (s.v u c va) i) (elem n (s.v u c vb) i)))

/-- VFCMP (R235): the flags of the active elements. -/
def State.vfcmpAt (s : State) (u c : Nat) (cond : FCond) (dbl : Bool) (mask : Word) (va vb : VReg) : VOut :=
  let w := fpWidth dbl
  let n := vbits w
  let r := fun (i : Nat) => fpCmp (fmtOf dbl) (fcond cond) (elem n (s.v u c va) i) (elem n (s.v u c vb) i)
  let fl := (vidx w).foldl (fun acc i => if active (vsize w) mask i then acc ||| (r i).2 else acc) fNone
  .done (s.modCtx u c fun x => { x with fxs := x.fxs ||| fl }) (some (laneBits (vsize w) mask fun i => (r i).1))

/-- A vector instruction executed: operands in `k`, mode resolved at issue (R215, R231 to R241). -/
def State.vexec (s : State) (u : Nat) (k : VCmd) : VOut :=
  let c := k.ctx
  let v := s.v u c
  match k.instr with
  | .vld w vd _ => (s.vload u c w vd (unitAddrs w k.opa) false).out
  | .vst w vd _ => (s.vstore u c w vd (unitAddrs w k.opa)).out
  | .vlds w vd _ => (s.vload u c w vd (strideAddrs w k.opa k.opb) false).out
  | .vsts w vd _ => (s.vstore u c w vd (strideAddrs w k.opa k.opb)).out
  | .vldx w vd vb _ => (s.vload u c w vd (indexAddrs w k.opa (v vb)) false).out
  | .vstx w vd vb _ => (s.vstore u c w vd (indexAddrs w k.opa (v vb))).out
  | .vldbc w vd _ => (s.vload u c w vd [(0, k.opa)] true).out
  | .vstm w vd _ => (s.vstore u c w vd ((unitAddrs w k.opa).filter fun a => active (vsize w) k.opb a.1)).out
  | .vadd w m vd va vb => s.vintAt u c .add w (maskOf m k.opa) vd va vb
  | .vsub w m vd va vb => s.vintAt u c .sub w (maskOf m k.opa) vd va vb
  | .vmul w m vd va vb => s.vintAt u c .mul w (maskOf m k.opa) vd va vb
  | .vmulh w m vd va vb => s.vintAt u c .mulh w (maskOf m k.opa) vd va vb
  | .vmac w m vd va vb => s.vintAt u c .mac w (maskOf m k.opa) vd va vb
  | .vmin w m vd va vb => s.vintAt u c .min w (maskOf m k.opa) vd va vb
  | .vmax w m vd va vb => s.vintAt u c .max w (maskOf m k.opa) vd va vb
  | .vminu w m vd va vb => s.vintAt u c .minu w (maskOf m k.opa) vd va vb
  | .vmaxu w m vd va vb => s.vintAt u c .maxu w (maskOf m k.opa) vd va vb
  | .vand w m vd va vb => s.vintAt u c .and w (maskOf m k.opa) vd va vb
  | .vor w m vd va vb => s.vintAt u c .or w (maskOf m k.opa) vd va vb
  | .vxor w m vd va vb => s.vintAt u c .xor w (maskOf m k.opa) vd va vb
  | .vshl w m vd va vb => s.vintAt u c .shl w (maskOf m k.opa) vd va vb
  | .vshr w m vd va vb => s.vintAt u c .shr w (maskOf m k.opa) vd va vb
  | .vsar w m vd va vb => s.vintAt u c .sar w (maskOf m k.opa) vd va vb
  | .vclmul w m vd va vb => s.vintAt u c .clmul w (maskOf m k.opa) vd va vb
  | .vclmulh w m vd va vb => s.vintAt u c .clmulh w (maskOf m k.opa) vd va vb
  | .vpopc w m vd va => s.vintAt u c .popc w (maskOf m k.opa) vd va va
  | .vfadd dbl _ m vd va vb => s.vfpAt u c .add dbl k.rm (maskOf m k.opa) vd va vb
  | .vfsub dbl _ m vd va vb => s.vfpAt u c .sub dbl k.rm (maskOf m k.opa) vd va vb
  | .vfmul dbl _ m vd va vb => s.vfpAt u c .mul dbl k.rm (maskOf m k.opa) vd va vb
  | .vfma dbl _ m vd va vb => s.vfpAt u c .fma dbl k.rm (maskOf m k.opa) vd va vb
  | .vfmin dbl m vd va vb => s.vfpAt u c .min dbl .rne (maskOf m k.opa) vd va vb
  | .vfmax dbl m vd va vb => s.vfpAt u c .max dbl .rne (maskOf m k.opa) vd va vb
  | .vfdiv dbl _ m vd va vb => s.vfpAt u c .div dbl k.rm (maskOf m k.opa) vd va vb
  | .vfsqrt dbl _ m vd va => s.vfpAt u c .sqrt dbl k.rm (maskOf m k.opa) vd va va
  | .vcmp cond w m _ va vb => s.vcmpAt u c cond w (maskOf m k.opa) va vb
  | .vfcmp cond dbl m _ va vb => s.vfcmpAt u c cond dbl (maskOf m k.opa) va vb
  | .vsel w vd va vb _ =>
    s.vput u c vd (ofElems (vbits w) ((vidx w).map fun i =>
      elem (vbits w) (if active (vsize w) k.opa i then v va else v vb) i))
  | .vbcast w vd _ => s.vput u c vd (ofElems (vbits w) ((vidx w).map fun _ => k.opa.toNat))
  | .vext w _ va hi lo =>
    .done s (some (BitVec.ofInt 64 (sNat (vbits w) (elem (vbits w) (v va) (hi.toNat * 16 + lo.toNat)))))
  | .vins w vd _ hi lo =>
    s.vput u c vd (ofElems (vbits w) ((vidx w).map fun i =>
      if i = hi.toNat * 16 + lo.toNat then k.opa.toNat else elem (vbits w) (v vd) i))
  | .vperm w vd va vb =>
    s.vput u c vd (ofElems (vbits w) ((vidx w).map fun i => elem (vbits w) (v va) (elem (vbits w) (v vb) i % w.count)))
  | .vslide w vd va _ =>
    s.vput u c vd (ofElems (vbits w) ((vidx w).map fun (i : Nat) =>
      let j : Int := (i : Int) + k.opa.toInt
      if 0 ≤ j ∧ j < w.count then elem (vbits w) (v va) j.toNat else 0))
  | .vred op w vd va => s.vputF u c vd (vreduce op k.rm w (v va) (s.facc u c))
  | .vcvt ovf m dst src vd va => s.vputF u c vd (vconvert ovf dst src k.rm (maskOf m k.opa) (v va) (v vd) (s.facc u c))
  | .vmxs f vd va => let r := mxScales f (v va); s.vputF u c vd (r.1, ⟨(s.ctx u c).srseed, r.2⟩)
  | .vmxq f vd va vb => s.vputF u c vd (mxQuantise f k.rm (v va) (v vb) (s.facc u c))
  | .vmxd f vd va vb => s.vputF u c vd (mxDequantise f k.rm (v va) (v vb) (s.facc u c))
  | .vdot fp m vd va vb =>
    if fp then s.vputF u c vd (dotF32 k.rm (maskOf m k.opa) (v va) (v vb) (s.facc u c))
    else s.vput u c vd (dotI8 (maskOf m k.opa) (v va) (v vb))
  | _ => .done s none

/-- The TVAL of a COPROC from the vector unit (R220). -/
def vectorTval (i : Nat) (cause : Cause) (seq : BitVec 16) : Word :=
  BitVec.ofNat 64 (i % 256 * 2 ^ 28 + subCode cause * 2 ^ 20 + 2 ^ 16 + seq.toNat)

/-- The deferred result of a vector instruction answered. -/
def State.vanswer (s : State) (u c : Nat) (id : Option Nat) (src : DefSrc) : State :=
  match id with | some k => s.answer u c k src | none => s

/-- A dispatched vector instruction carried out (R216, R217, R219): discarded after a recorded fault of its context, else executed. -/
def State.vrun (s : State) (u : Nat) (k : VCmd) : State :=
  let c := k.ctx
  if (s.ctx u c).discards k.seq then (s.ringMark u c k.seq 3#4 0#64).vanswer u c k.id .dropped
  else
    match s.vexec u k with
    | .done s1 res =>
      (s1.ringMark u c k.seq 0#4 0#64).vanswer u c k.id (match res with | some w => .value w | none => .dropped)
    | .fault s1 i ea e => (s1.recordLate u c k.pc k.seq (vectorTval i e k.seq) ea).vanswer u c k.id .dropped

/-- An earlier matrix or array command of the context is not complete: a scalar result must not land before it (R217). -/
def State.commandBefore (s : State) (u c po : Nat) : Bool :=
  ((s.unit u).matrix.fifo.any fun k => k.ctx == c && decide (k.po < po))
    || (match kindOf u with
        | .slice => (s.slice (u - Config.sliceUnit0)).fifo.any fun k => k.ctx == c && decide (k.since < po) && ! k.halted
        | _ => false)

/-- An array command that moves a vector register (R287). -/
def arrayVector : Instr → Bool
  | .abuf _ | .aout _ _ => true
  | _ => false

/-- An earlier ABUF or AOUT of a context has not executed: vector instructions wait behind it (R287). -/
def State.arrayVectorBefore (s : State) (u c po : Nat) : Bool :=
  match kindOf u with
  | .slice => (s.slice (u - Config.sliceUnit0)).fifo.any fun k => k.ctx == c && decide (k.since < po) && ! k.halted && arrayVector k.instr
  | _ => false

/-- The elements that a queued memory instruction accesses: what it needs, their size, their indices and addresses (R230). -/
def State.vaddrs (s : State) (u : Nat) (k : VCmd) : Need × Nat × List (Nat × Word) :=
  match k.instr with
  | .vld w _ _ => (.load, vsize w, unitAddrs w k.opa)
  | .vst w _ _ => (.store, vsize w, unitAddrs w k.opa)
  | .vlds w _ _ => (.load, vsize w, strideAddrs w k.opa k.opb)
  | .vsts w _ _ => (.store, vsize w, strideAddrs w k.opa k.opb)
  | .vldx w _ vb _ => (.load, vsize w, indexAddrs w k.opa (s.v u k.ctx vb))
  | .vstx w _ vb _ => (.store, vsize w, indexAddrs w k.opa (s.v u k.ctx vb))
  | .vldbc w _ _ => (.load, vsize w, [(0, k.opa)])
  | .vstm w _ _ => (.store, vsize w, (unitAddrs w k.opa).filter fun a => active (vsize w) k.opb a.1)
  | _ => (.load, 1, [])

/-- Some element of a queued memory instruction is held at its home as a scalar access is (R218, R275, R377, R427). -/
def State.elemsWait (s : State) (u : Nat) (k : VCmd) : Bool :=
  let m := s.vaddrs u k
  m.2.2.any fun a =>
    match s.checkEa u k.ctx a.2 m.2.1 m.1 with
    | .ok (s1, .home pa _) => s1.accessWaits pa m.2.1 k.po
    | .ok (s1, .own off _) => s1.accessWaits (localPa u off) m.2.1 k.po
    | .error _ => false

/-- A vector memory instruction may be performed: its context's earlier accesses are, and no home holds it (R151, R218). -/
def State.vmemReady (s : State) (u : Nat) (k : VCmd) : Bool :=
  ! (s.flight.any fun r => r.who.unit == u && r.who.ctx == k.ctx && decide (r.po < k.po))
    && ! ((s.ctx u k.ctx).blocked.any fun r => decide (r.po < k.po)) && ! s.acquireBefore u k.ctx k.po && ! s.elemsWait u k

/-- An instruction of the queue may run now: a memory instruction's accesses may be performed (R218), and an instruction with a scalar
result has no earlier command before it (R217). -/
def State.vready (s : State) (u : Nat) (k : VCmd) : Bool :=
  ! (k.id.isSome && s.commandBefore u k.ctx k.po) && ! s.arrayVectorBefore u k.ctx k.po && (! vectorMemory k.instr || s.vmemReady u k)

/-! ## Issue (R215, R216, R219, R221, R227) -/

/-- A register of the next number (R230). -/
def nextReg (m : Reg) : Reg := m + 1#5

/-- A body word that pass 0 issues is captured (R226). DEDUCED, log entry 33. DESIGN CHOICE: a handler entered within pass 0 leaves the capture
as it is, and an RPT of the handler replaces it; log entry 88. -/
def captureWord (r : Replay) (c : Nat) (w : RWord) : Replay :=
  if r.ctx = c ∧ r.body.length < r.len ∧ w.pc = r.base + BitVec.ofNat 64 (4 * r.body.length) then
    { r with body := r.body ++ [w] }
  else r

/-- A coprocessor word waits for the park that delivers a recorded fault, or for a running replay (R219, R227). -/
def State.copWord (s : State) (act : State → State) : Out :=
  if s.cx.late ≠ [] || s.replaying s.cur s.c then .next (s.parkFirst act) else .next (act s)

/-- The check of a vector word's results (R412): a mismatch is logged with the word's address; a second one traps UNCORR precisely at the word,
with none of its effect. -/
def State.vchecked (s : State) (act : State → Out) : Out :=
  match s.upsetAt .vector s.cur with
  | none => act s
  | some uc =>
    let s1 := s.logErr s.cur .vector (s.pc.setWidth 52) (! uc)
    if uc then s1.trap .uncorr 0#64 else act s1

/-- The issue of a vector word: profile (R75), the check of its results (R412), the queue, the number, the entry; then the queue, or at once when nothing is queued. Its
scalar operands are read at issue, after the park that it may have made first (R215). -/
def State.vissue (s : State) (instr : Instr) (opnds : State → Word × Word) (rm : RM) (dst : Option Reg) : Out :=
  s.profile s.cx.ve (s.vchecked fun s0 => s0.copWord fun s1 =>
    let u := s1.cur
    let c := s1.c
    let opa := (opnds s1).1
    let opb := (opnds s1).2
    if 16 ≤ (s1.unit u).vq.length then s1.hold
    else
      let mode := s1.cx.mode rm
      let k : VCmd := ⟨c, s1.po, s1.cx.cseq, s1.pc, instr, opa, opb, mode,
        (match dst with | some _ => some s1.po | none => none), s1.issuer u c⟩
      let s2 := (s1.dispatch u c s1.pc 0#8 1#4 s1.ux.word opa opb).modU fun x =>
        { x with replay := x.replay.map fun r => captureWord r c ⟨s1.pc, instr, opa, opb, mode⟩ }
      let s3 := (match dst with | some g => s2.defer u c g .pending | none => s2.tick)
      let s4 := s3.drain u c
      let s5 := if (s4.unit u).vq = [] && ! s4.async && s4.vready u k then s4.vrun u k
        else s4.modUnit u fun x => { x with vq := x.vq ++ [k] }
      s5.advance)

/-- The mask operand of an instruction (R214, R221): nothing where it is unmasked. -/
def State.maskOp (s : State) (m : Reg) : Word := if m = 0#5 then 0#64 else s.g m

/-! ## The instructions -/

/-- VLD (R230, R231). -/
def execVld (w : VWidth) (vd : VReg) (m : Reg) (s : State) : Out := s.vissue (.vld w vd m) (fun t => (t.g m, 0#64)) .rne none

/-- VST (R230, R231). -/
def execVst (w : VWidth) (vd : VReg) (m : Reg) (s : State) : Out := s.vissue (.vst w vd m) (fun t => (t.g m, 0#64)) .rne none

/-- VLDS (R230, R231). -/
def execVlds (w : VWidth) (vd : VReg) (m : Reg) (s : State) : Out :=
  s.vissue (.vlds w vd m) (fun t => (t.g m, t.g (nextReg m))) .rne none

/-- VSTS (R230, R231). -/
def execVsts (w : VWidth) (vd : VReg) (m : Reg) (s : State) : Out :=
  s.vissue (.vsts w vd m) (fun t => (t.g m, t.g (nextReg m))) .rne none

/-- VLDX (R230, R231). -/
def execVldx (w : VWidth) (vd vb : VReg) (m : Reg) (s : State) : Out := s.vissue (.vldx w vd vb m) (fun t => (t.g m, 0#64)) .rne none

/-- VSTX (R230, R231). -/
def execVstx (w : VWidth) (vd vb : VReg) (m : Reg) (s : State) : Out := s.vissue (.vstx w vd vb m) (fun t => (t.g m, 0#64)) .rne none

/-- VLDBC (R230, R231). -/
def execVldbc (w : VWidth) (vd : VReg) (m : Reg) (s : State) : Out := s.vissue (.vldbc w vd m) (fun t => (t.g m, 0#64)) .rne none

/-- VSTM (R230, R231). -/
def execVstm (w : VWidth) (vd : VReg) (m : Reg) (s : State) : Out :=
  s.vissue (.vstm w vd m) (fun t => (t.g m, t.g (nextReg m))) .rne none

/-- VADD (R232). -/
def execVadd (w : VWidth) (m : Reg) (vd va vb : VReg) (s : State) : Out :=
  s.vissue (.vadd w m vd va vb) (fun t => (t.maskOp m, 0#64)) .rne none

/-- VSUB (R232). -/
def execVsub (w : VWidth) (m : Reg) (vd va vb : VReg) (s : State) : Out :=
  s.vissue (.vsub w m vd va vb) (fun t => (t.maskOp m, 0#64)) .rne none

/-- VMUL (R232). -/
def execVmul (w : VWidth) (m : Reg) (vd va vb : VReg) (s : State) : Out :=
  s.vissue (.vmul w m vd va vb) (fun t => (t.maskOp m, 0#64)) .rne none

/-- VMULH (R232). -/
def execVmulh (w : VWidth) (m : Reg) (vd va vb : VReg) (s : State) : Out :=
  s.vissue (.vmulh w m vd va vb) (fun t => (t.maskOp m, 0#64)) .rne none

/-- VMAC (R232). -/
def execVmac (w : VWidth) (m : Reg) (vd va vb : VReg) (s : State) : Out :=
  s.vissue (.vmac w m vd va vb) (fun t => (t.maskOp m, 0#64)) .rne none

/-- VMIN (R232). -/
def execVmin (w : VWidth) (m : Reg) (vd va vb : VReg) (s : State) : Out :=
  s.vissue (.vmin w m vd va vb) (fun t => (t.maskOp m, 0#64)) .rne none

/-- VMAX (R232). -/
def execVmax (w : VWidth) (m : Reg) (vd va vb : VReg) (s : State) : Out :=
  s.vissue (.vmax w m vd va vb) (fun t => (t.maskOp m, 0#64)) .rne none

/-- VMINU (R232). -/
def execVminu (w : VWidth) (m : Reg) (vd va vb : VReg) (s : State) : Out :=
  s.vissue (.vminu w m vd va vb) (fun t => (t.maskOp m, 0#64)) .rne none

/-- VMAXU (R232). -/
def execVmaxu (w : VWidth) (m : Reg) (vd va vb : VReg) (s : State) : Out :=
  s.vissue (.vmaxu w m vd va vb) (fun t => (t.maskOp m, 0#64)) .rne none

/-- VAND (R232). -/
def execVand (w : VWidth) (m : Reg) (vd va vb : VReg) (s : State) : Out :=
  s.vissue (.vand w m vd va vb) (fun t => (t.maskOp m, 0#64)) .rne none

/-- VOR (R232). -/
def execVor (w : VWidth) (m : Reg) (vd va vb : VReg) (s : State) : Out :=
  s.vissue (.vor w m vd va vb) (fun t => (t.maskOp m, 0#64)) .rne none

/-- VXOR (R232). -/
def execVxor (w : VWidth) (m : Reg) (vd va vb : VReg) (s : State) : Out :=
  s.vissue (.vxor w m vd va vb) (fun t => (t.maskOp m, 0#64)) .rne none

/-- VSHL (R232). -/
def execVshl (w : VWidth) (m : Reg) (vd va vb : VReg) (s : State) : Out :=
  s.vissue (.vshl w m vd va vb) (fun t => (t.maskOp m, 0#64)) .rne none

/-- VSHR (R232). -/
def execVshr (w : VWidth) (m : Reg) (vd va vb : VReg) (s : State) : Out :=
  s.vissue (.vshr w m vd va vb) (fun t => (t.maskOp m, 0#64)) .rne none

/-- VSAR (R232). -/
def execVsar (w : VWidth) (m : Reg) (vd va vb : VReg) (s : State) : Out :=
  s.vissue (.vsar w m vd va vb) (fun t => (t.maskOp m, 0#64)) .rne none

/-- VCLMUL (R232). -/
def execVclmul (w : VWidth) (m : Reg) (vd va vb : VReg) (s : State) : Out :=
  s.vissue (.vclmul w m vd va vb) (fun t => (t.maskOp m, 0#64)) .rne none

/-- VCLMULH (R232). -/
def execVclmulh (w : VWidth) (m : Reg) (vd va vb : VReg) (s : State) : Out :=
  s.vissue (.vclmulh w m vd va vb) (fun t => (t.maskOp m, 0#64)) .rne none

/-- VPOPC (R232). -/
def execVpopc (w : VWidth) (m : Reg) (vd va : VReg) (s : State) : Out :=
  s.vissue (.vpopc w m vd va) (fun t => (t.maskOp m, 0#64)) .rne none

/-- VFADD (R233). -/
def execVfadd (dbl : Bool) (rm : RM) (m : Reg) (vd va vb : VReg) (s : State) : Out :=
  s.vissue (.vfadd dbl rm m vd va vb) (fun t => (t.maskOp m, 0#64)) rm none

/-- VFSUB (R233). -/
def execVfsub (dbl : Bool) (rm : RM) (m : Reg) (vd va vb : VReg) (s : State) : Out :=
  s.vissue (.vfsub dbl rm m vd va vb) (fun t => (t.maskOp m, 0#64)) rm none

/-- VFMUL (R233). -/
def execVfmul (dbl : Bool) (rm : RM) (m : Reg) (vd va vb : VReg) (s : State) : Out :=
  s.vissue (.vfmul dbl rm m vd va vb) (fun t => (t.maskOp m, 0#64)) rm none

/-- VFMA (R233). -/
def execVfma (dbl : Bool) (rm : RM) (m : Reg) (vd va vb : VReg) (s : State) : Out :=
  s.vissue (.vfma dbl rm m vd va vb) (fun t => (t.maskOp m, 0#64)) rm none

/-- VFDIV (R233). -/
def execVfdiv (dbl : Bool) (rm : RM) (m : Reg) (vd va vb : VReg) (s : State) : Out :=
  s.vissue (.vfdiv dbl rm m vd va vb) (fun t => (t.maskOp m, 0#64)) rm none

/-- VFMIN (R233). -/
def execVfmin (dbl : Bool) (m : Reg) (vd va vb : VReg) (s : State) : Out :=
  s.vissue (.vfmin dbl m vd va vb) (fun t => (t.maskOp m, 0#64)) .rne none

/-- VFMAX (R233). -/
def execVfmax (dbl : Bool) (m : Reg) (vd va vb : VReg) (s : State) : Out :=
  s.vissue (.vfmax dbl m vd va vb) (fun t => (t.maskOp m, 0#64)) .rne none

/-- VFSQRT (R233). -/
def execVfsqrt (dbl : Bool) (rm : RM) (m : Reg) (vd va : VReg) (s : State) : Out :=
  s.vissue (.vfsqrt dbl rm m vd va) (fun t => (t.maskOp m, 0#64)) rm none

/-- The scalar destination of a comparison: g8 to g23 (R235). -/
def cmpDest (k : VReg) : Reg := k.setWidth 5 + 8#5

/-- VCMP (R235): deferred (R217). -/
def execVcmp (c : VCond) (w : VWidth) (m : Reg) (k va vb : VReg) (s : State) : Out :=
  s.vissue (.vcmp c w m k va vb) (fun t => (t.maskOp m, 0#64)) .rne (some (cmpDest k))

/-- VFCMP (R235): deferred (R217). -/
def execVfcmp (c : FCond) (dbl : Bool) (m : Reg) (k va vb : VReg) (s : State) : Out :=
  s.vissue (.vfcmp c dbl m k va vb) (fun t => (t.maskOp m, 0#64)) .rne (some (cmpDest k))

/-- VSEL (R236). -/
def execVsel (w : VWidth) (vd va vb : VReg) (m : Reg) (s : State) : Out := s.vissue (.vsel w vd va vb m) (fun t => (t.g m, 0#64)) .rne none

/-- VBCAST (R236). -/
def execVbcast (w : VWidth) (vd : VReg) (m : Reg) (s : State) : Out := s.vissue (.vbcast w vd m) (fun t => (t.g m, 0#64)) .rne none

/-- VEXT (R236): deferred into gm (R217). -/
def execVext (w : VWidth) (m : Reg) (va hi lo : VReg) (s : State) : Out := s.vissue (.vext w m va hi lo) (fun _ => (0#64, 0#64)) .rne (some m)

/-- VINS (R236). -/
def execVins (w : VWidth) (vd : VReg) (m : Reg) (hi lo : VReg) (s : State) : Out :=
  s.vissue (.vins w vd m hi lo) (fun t => (t.g m, 0#64)) .rne none

/-- VPERM (R236). -/
def execVperm (w : VWidth) (vd va vb : VReg) (s : State) : Out := s.vissue (.vperm w vd va vb) (fun _ => (0#64, 0#64)) .rne none

/-- VSLIDE (R236). -/
def execVslide (w : VWidth) (vd va : VReg) (m : Reg) (s : State) : Out := s.vissue (.vslide w vd va m) (fun t => (t.g m, 0#64)) .rne none

/-- The rounding mode of a reduction (R237). -/
def redMode : RedOp → RM
  | .fadd rm => rm
  | _ => .rne

/-- VRED (R237). -/
def execVred (op : RedOp) (w : VWidth) (vd va : VReg) (s : State) : Out := s.vissue (.vred op w vd va) (fun _ => (0#64, 0#64)) (redMode op) none

/-- VCVT (R239): it rounds in FRM (R238). -/
def execVcvt (ovf : Bool) (m : Reg) (dst src : Fmt) (vd va : VReg) (s : State) : Out :=
  s.vissue (.vcvt ovf m dst src vd va) (fun t => (t.maskOp m, 0#64)) .dyn none

/-- VMXS (R240). -/
def execVmxs (f : MxFmt) (vd va : VReg) (s : State) : Out := s.vissue (.vmxs f vd va) (fun _ => (0#64, 0#64)) .dyn none

/-- VMXQ (R240). -/
def execVmxq (f : MxFmt) (vd va vb : VReg) (s : State) : Out := s.vissue (.vmxq f vd va vb) (fun _ => (0#64, 0#64)) .dyn none

/-- VMXD (R240). -/
def execVmxd (f : MxFmt) (vd va vb : VReg) (s : State) : Out := s.vissue (.vmxd f vd va vb) (fun _ => (0#64, 0#64)) .dyn none

/-- VDOT (R241). -/
def execVdot (fp : Bool) (m : Reg) (vd va vb : VReg) (s : State) : Out :=
  s.vissue (.vdot fp m vd va vb) (fun t => (t.maskOp m, 0#64)) .dyn none

end Sys2Proof.Machine
end

