-- ==== Sys2Proof/Machine/Copro.lean ====
section
/-! DEFINITION. What the matrix unit, the array sequencer, the engines and the streams share: a full FIFO (12_matrix R249, 13_array R273,
18_engines R348), checks of local operands (R254, R277), and accesses made with the tags of the context that pushed a command (R265,
R353). -/

namespace Sys2Proof.Machine

/-! ## Full FIFOs -/

/-- The park before a push that finds its FIFO full: the context sleeps until a place frees, and the word issues again. -/
def State.sleepFull (s : State) (k : Fifo) : State :=
  s.parkFirst fun s1 =>
    if s1.fifoFull s1.cur k then
      (s1.modC fun x => { x with wait := some (.fifo k), asleep := true, parking := false }).rotate s1.cur s1.c
    else s1.hold

/-- A push: its effect when its FIFO has a place. -/
def State.pushTo (s : State) (k : Fifo) (act : State → State) : State :=
  if s.fifoFull s.cur k then s.sleepFull k else act s

/-! ## Local operands -/

/-- The checks of local operands in their order: alignment to a power, range for the pusher's level, guarded regions. Each region is its
offset and length. -/
def State.localFault (s : State) (u : Nat) (lv : Level) (align : Nat) (regions : List (Nat × Nat)) : Option (Cause × Word) :=
  match regions.find? fun r => decide (r.1 % align ≠ 0) with
  | some r => some (.align, BitVec.ofNat 64 r.1)
  | none =>
    match regions.find? fun r => ! s.localInRange u lv r.1 r.2 with
    | some r => some (.access, BitVec.ofNat 64 r.1)
    | none =>
      match regions.find? fun r => s.guardedByOther u none r.1 r.2 with
      | some r => some (.wsGuard, BitVec.ofNat 64 r.1)
      | none => none

/-- The checks of local operands that are read: those of `localFault`, then an error that no code corrects in their bytes (R220, R412). -/
def State.localReadFault (s : State) (u : Nat) (lv : Level) (align : Nat) (regions : List (Nat × Nat)) : Option (Cause × Word) :=
  match s.localFault u lv align regions with
  | some e => some e
  | none =>
    if s.upsets = [] then none
    else (regions.find? fun r => s.badData (localPa u r.1) r.2).map fun r => (.uncorr, BitVec.ofNat 64 r.1)

/-- The errors that a code corrects in local operands that are read, logged (R412). -/
def State.logLocal (s : State) (u : Nat) (regions : List (Nat × Nat)) : State :=
  if s.upsets = [] then s else regions.foldl (fun acc r => acc.logCorrected (localPa u r.1) r.2) s

/-- The regions of `n` rows of `len` bytes at a stride. -/
def rowRegions (base stride n len : Nat) : List (Nat × Nat) := (List.range n).map fun i => (base + i * stride, len)

/-! ## Accesses with a pusher's tags -/

/-- A context whose level, ASID and generation are those of an issuer. -/
def Ctx.asIssuer (x : Ctx) (w : Issuer) : Ctx := { x with priv := w.level, asr := 0#20 ++ w.asid ++ 0#16 ++ w.gen }

/-- An access of a context made with the level, ASID and generation of an issuer (R265, R353). -/
def State.withIssuer {α : Type} (s : State) (w : Issuer) (act : State → Except Cause (State × α)) : Except Cause (State × α) :=
  let old := s.ctx w.unit w.ctx
  match act (s.modCtx w.unit w.ctx fun x => x.asIssuer w) with
  | .error e => .error e
  | .ok (s1, r) => .ok (s1.modCtx w.unit w.ctx fun x => { x with priv := old.priv, asr := old.asr }, r)

/-- Bytes read at a virtual address at their home with a permission, never through the read cache, in one page; a local-window address
reads local memory. -/
def State.readVaFor (s : State) (need : Need) (w : Issuer) (va : Word) (n align : Nat) : Except Cause (State × List Byte) :=
  s.withIssuer w fun s0 =>
    match s0.checkEa w.unit w.ctx va align need with
    | .error e => .error e
    | .ok (s1, .own off window) =>
      if window && ! s1.localInRange w.unit w.level off n then .error .access
      else if ! window && s1.isStaleGen (1024 + w.unit) w then .error .staleGen
      else if s1.guardedByOther w.unit none off n then .error .wsGuard
      else if s1.badData (localPa w.unit off) n then .error .uncorr
      else .ok (s1.logCorrected (localPa w.unit off) n, s1.getLocal w.unit off n)
    | .ok (s1, .home pa _) =>
      match s1.homeFault w true false none pa n with
      | some e => .error e
      | none => .ok (s1.readHome pa n)

/-- An access of `n` bytes with an issuer's tags at a virtual address is held at its home (R275, R377, R427). -/
def State.vaWaits (s : State) (need : Need) (w : Issuer) (va : Word) (n : Nat) : Bool :=
  match s.withIssuer w fun s0 =>
      match s0.checkEa w.unit w.ctx va 1 need with
      | .error e => .error e
      | .ok (s1, .own _ _) => .ok (s1, false)
      | .ok (s1, .home pa _) => .ok (s1, s1.accessWaits pa n s1.po) with
  | .error _ => false
  | .ok r => r.2

/-- Bytes read with R permission. -/
def State.readVa (s : State) (w : Issuer) (va : Word) (n align : Nat) : Except Cause (State × List Byte) :=
  s.readVaFor .load w va n align

/-- Bytes written at a virtual address at their home, in one page. -/
def State.writeVa (s : State) (w : Issuer) (va : Word) (bs : List Byte) (align : Nat) : Except Cause State :=
  (s.withIssuer w fun s0 =>
    match s0.checkEa w.unit w.ctx va align .store with
    | .error e => .error e
    | .ok (s1, .own off window) =>
      if window && ! s1.localInRange w.unit w.level off bs.length then .error .access
      else if ! window && s1.isStaleGen (1024 + w.unit) w then .error .staleGen
      else if s1.guardedByOther w.unit none off bs.length then .error .wsGuard
      else .ok (s1.writeHome .engine w (! window) (localPa w.unit off) bs, ())
    | .ok (s1, .home pa _) =>
      match s1.homeFault w true true none pa bs.length with
      | some e => .error e
      | none => .ok (s1.writeHome .engine w true pa bs, ())).map Prod.fst

/-- Chunks of a size that cover `n` bytes from an address on: each address with its length. -/
def chunksFrom (va : Word) (size : Nat) (n : Nat) : Nat → List (Word × Nat)
  | 0 => []
  | fuel + 1 =>
    if n = 0 then []
    else
      let k := min n (size - va.toNat % size)
      (va, k) :: chunksFrom (va + BitVec.ofNat 64 k) size (n - k) fuel

/-- Bytes of several chunks read in turn, or the first fault with its address. -/
def State.readChunks (s : State) (w : Issuer) (acc : List Byte) : List (Word × Nat) → Except (Cause × Word) (State × List Byte)
  | [] => .ok (s, acc)
  | (va, k) :: rest =>
    match s.readVa w va k 1 with
    | .error e => .error (e, va)
    | .ok (s1, bs) => s1.readChunks w (acc ++ bs) rest

/-! ## Late faults of commands -/

/-- DRPLY set as the delivery of a COPROC sets it, unless V stands already (R266). -/
def Ctx.markReplay (x : Ctx) (seq : BitVec 16) : Ctx :=
  if x.drply.getLsbD 63 then x else { x with drply := (1#64 <<< 63) ||| seq.setWidth 64 }

/-- TVAL of a COPROC from the matrix unit or the array sequencer (R253, R276). -/
def commandTval (unit index sub : Nat) (seq : BitVec 16) : Word :=
  BitVec.ofNat 64 (index % 2 ^ 32 * 2 ^ 28 + sub % 256 * 2 ^ 20 + unit * 2 ^ 16 + seq.toNat)

/-- An earlier access of a context that a command must see is not performed: posted, refused, held, or a vector memory instruction's (R255, R277,
R355). A command does not wait for an EPOP or MPOP of its segment: its token may be the one that the word waits for (R267, R356, R416). -/
def State.before (s : State) (u c po : Nat) : Bool :=
  s.flight.any (fun r => r.who.unit == u && r.who.ctx == c && decide (r.po < po)) || ((s.ctx u c).blocked.any fun r => decide (r.po < po))
    || s.vectorBefore u c po

end Sys2Proof.Machine
end

