-- ==== Sys2Proof/Machine/Matrix.lean ====
section
/-! DEFINITION. The cluster matrix unit (12_matrix R244 to R269, 22_program_blocksparse R416): the format word, the accumulator slots, the
computation, the tile-list walker, grants, and the matrix instructions, major 0x20. -/

namespace Sys2Proof.Machine

/-! ## The format word (R245, R246) -/

/-- The format of an operand code. -/
def matFmt (code : Nat) : Option Fmt :=
  match code with
  | 0 => some .e4m3
  | 1 => some .e5m2
  | 2 => some .e2m1
  | 3 => some .s8
  | 4 => some .s4
  | 5 => some .bf16
  | 6 => some .fp16
  | 7 => some .dm8
  | 8 => some .fp32
  | 9 => some .fp64
  | _ => none

/-- A format word in its parts. -/
structure MatShape where
  a   : Nat
  b   : Nat
  acc : Nat
  m   : Nat
  n   : Nat
  k   : Nat
  scm : Nat
  deriving DecidableEq, Repr

/-- The parts of a format word (R245). -/
def matShape (w : Word) : MatShape where
  a := (w.extractLsb' 0 4).toNat
  b := (w.extractLsb' 4 4).toNat
  acc := (w.extractLsb' 12 2).toNat
  m := 32 * 2 ^ (w.extractLsb' 15 2).toNat
  n := 32 * 2 ^ (w.extractLsb' 17 2).toNat
  k := 32 * ((w.extractLsb' 19 3).toNat + 1)
  scm := (w.extractLsb' 22 2).toNat

/-- The combination of formats, scaling and accumulator is a row of R246. -/
def MatShape.rowOk (f : MatShape) : Bool :=
  let fp32 := f.acc == 0
  let fp8 := decide (f.a ≤ 1) && decide (f.b ≤ 1)
  let wide := decide (5 ≤ f.a) && decide (f.a ≤ 7) && decide (5 ≤ f.b) && decide (f.b ≤ 7)
  (fp8 && decide (f.scm ≤ 1) && fp32)
    || (f.a == 3 && f.b == 3 && ((f.scm == 0 && f.acc == 2) || (f.scm == 1 && fp32)))
    || (f.a == 2 && f.b == 2 && decide (f.scm ≤ 1) && fp32)
    || (f.a == 4 && f.b == 4 && f.scm == 0 && f.acc == 2)
    || (wide && f.scm == 0 && fp32)
    || (f.a == 8 && f.b == 8 && f.scm == 0 && fp32)
    || (f.a == 9 && f.b == 9 && f.scm == 0 && f.acc == 1 && decide (f.n ≤ 64) && decide (f.k ≤ 128))

/-- A format word is valid: bits 63:24 are zero, no reserved code, a row of R246 (R245, R246). Bits 14 and 11:8 are ignored (R6). -/
def matOk (w : Word) : Bool :=
  w.extractLsb' 24 40 == 0#40 && w.extractLsb' 15 2 != 3#2 && w.extractLsb' 17 2 != 3#2 && (matShape w).rowOk

/-- The group along K (R246). -/
def MatShape.group (f : MatShape) : Nat :=
  if 8 ≤ f.a then 1 else if 5 ≤ f.a then 8 else 32

/-- Bytes of an accumulator cell (R247). -/
def MatShape.cell (f : MatShape) : Nat := if f.acc = 1 then 8 else 4

/-- The format of the operands. -/
def MatShape.fmtA (f : MatShape) : Fmt := (matFmt f.a).getD .e4m3
/-- The format of the B operand. -/
def MatShape.fmtB (f : MatShape) : Fmt := (matFmt f.b).getD .e4m3

/-- The bytes of one row of an operand. -/
def rowBytes (fmt : Fmt) (k : Nat) : Nat := k * fmtWidth fmt / 8

/-! ## Cells (R247) -/

/-- A matrix unit's slot. -/
def Matrix.acc (x : Matrix) (slot : Bool) : SMap Word32 := if slot then x.acc1 else x.acc0

/-- The unit with a slot replaced. -/
def Matrix.setAcc (x : Matrix) (slot : Bool) (v : SMap Word32) : Matrix :=
  if slot then { x with acc1 := v } else { x with acc0 := v }

/-- Cell (i, j) of a slot, in 32-bit cells or pairs of them. -/
def cellGet (v : SMap Word32) (dbl : Bool) (i j : Nat) : Nat :=
  if dbl then (SMap.get v (128 * i + 2 * j) 0#32).toNat + 2 ^ 32 * (SMap.get v (128 * i + 2 * j + 1) 0#32).toNat
  else (SMap.get v (128 * i + j) 0#32).toNat

/-- The 32-bit cells of cell (i, j) that are not zero. -/
def cellEntries (dbl : Bool) (i j x : Nat) : SMap Word32 :=
  let lo : Nat × Word32 := (if dbl then 128 * i + 2 * j else 128 * i + j, BitVec.ofNat 32 x)
  let l := if dbl then [lo, (lo.1 + 1, BitVec.ofNat 32 (x / 2 ^ 32))] else [lo]
  l.filter fun e => e.2 != 0#32

/-- A slot with every cell i < m, j < n replaced, the others kept (R247). -/
def cellsPut (v : SMap Word32) (dbl : Bool) (m n : Nat) (f : Nat → Nat → Nat) : SMap Word32 :=
  let wide := if dbl then 2 * n else n
  (List.range 128).flatMap fun i =>
    let old := v.filter fun e => e.1 / 128 == i
    if i < m then
      ((List.range n).flatMap fun j => cellEntries dbl i j (f i j)) ++ old.filter fun e => decide (wide ≤ e.1 % 128)
    else old

/-! ## Products and sums (R258, R259) -/

/-- Element `i` of packed elements of a width in bits, the lower index in the lower bits (R185, R258). -/
def packedElem (x w i : Nat) : Nat := x / 2 ^ (i * w) % 2 ^ w

/-- The exact value of an operand element; a DM8 operand is decoded to FP32 in RNE first (R193), an MXINT8 element counts 64ths
(R189). -/
def matValue (fmt : Fmt) (scaled : Bool) (bits : Nat) : FVal :=
  match fmt with
  | .dm8 => bFP32.decode (bFP32.deliver .ieee .rne 0#32 (dm8Decode bits)).1
  | .s8 => if scaled then mxValue .mxint8 bits else srcValue .s8 bits
  | f => srcValue f bits

/-- The exact product of two factors under a scale: a scale byte 0xFF is a NaN (R189, R259). -/
def matProduct (x y : FVal) (sa sb : Option Nat) : FVal :=
  match sa, sb with
  | some p, some q =>
    if p = 0xFF ∨ q = 0xFF then .nan false else scaleF (x.mul y).1 ((p : Int) - 127 + ((q : Int) - 127))
  | _, _ => (x.mul y).1

/-- The exact sum of the products of a group, and its sign of zero (R258, R259). -/
def sumProducts (l : List FVal) : FVal :=
  match l with
  | [] => .fin false 0 1
  | p :: rest => rest.foldl (fun acc q => (acc.add .rne q).1) p

/-- The running value after one group (R258). -/
def matStep (f : MatShape) (c : Nat) (ps : List FVal) : Nat :=
  let acc := fmtOf (f.acc == 1)
  if f.group = 1 then (acc.deliver .ieee .rne 0#32 ((acc.decode c).add .rne (sumProducts ps)).1).1
  else (fpOp bFP32 .add .rne 0#32 c (bFP32.deliver .ieee .rne 0#32 (sumProducts ps)).1).1

/-- The groups of a list. -/
def groupsOf {α : Type} (g : Nat) (l : List α) : Nat → List (List α)
  | 0 => []
  | fuel + 1 => if l.length = 0 then [] else l.take g :: groupsOf g (l.drop g) fuel

/-- One cell of A × Bᵀ accumulated: the rows' elements, and their scales by block of 32 (R258). -/
def matCell (f : MatShape) (scaled : Bool) (c ra rb : Nat) (sa sb : Option (List Nat)) : Nat :=
  let wa := fmtWidth f.fmtA
  let wb := fmtWidth f.fmtB
  if f.acc = 2 then
    let t : Int := (List.range f.k).foldl (fun acc k =>
      acc + intOfBits true wa (packedElem ra wa k) * intOfBits true wb (packedElem rb wb k)) 0
    bitsOfInt 32 ((c : Int) + t)
  else
    let ps := (List.range f.k).map fun k =>
      matProduct (matValue f.fmtA scaled (packedElem ra wa k)) (matValue f.fmtB scaled (packedElem rb wb k))
        (sa.map fun l => l.getD (k / 32) 0) (sb.map fun l => l.getD (k / 32) 0)
    (groupsOf f.group ps f.k).foldl (matStep f) c

/-- A slot after A × Bᵀ is accumulated into it (R258). -/
def matAccumulate (f : MatShape) (scaled : Bool) (v : SMap Word32) (as bs : List Nat) (sa sb : Option (List (List Nat))) :
    SMap Word32 :=
  let dbl : Bool := f.acc == 1
  cellsPut v dbl f.m f.n fun i j =>
    matCell f scaled (cellGet v dbl i j) (as.getD i 0) (bs.getD j 0) (sa.map fun l => l.getD i []) (sb.map fun l => l.getD j [])

/-- Rows of bytes at a base and stride, each as a number. -/
def State.rowsAt (s : State) (u base stride n len : Nat) : List Nat :=
  (List.range n).map fun i => natOfBytes (s.getLocal u (base + i * stride) len)

/-- The scales of rows, `q` bytes a row. -/
def State.scalesAt (s : State) (u base n q : Nat) : List (List Nat) :=
  (List.range n).map fun i => (s.getLocal u (base + i * q) q).map BitVec.toNat

/-! ## The recurrence (R261, R262) -/

/-- A slot of a program word. -/
def progSlot (w : Word) (q : Nat) : BitVec 16 := w.extractLsb' (16 * q) 16

/-- The operand fields that an op uses: X, Y, Z (R261). -/
def progUses (op : Nat) : Bool × Bool × Bool :=
  match op with
  | 0 => (false, false, false)
  | 4 => (true, true, true)
  | 7 => (true, false, false)
  | _ => (true, true, false)

/-- One slot is well formed (R261). DEDUCED: an operand field that the op does not use and that is not 0b00 makes the word malformed; log entry
108. -/
def slotOk (x : BitVec 16) : Bool :=
  let op := (x.extractLsb' 12 4).toNat
  let use := progUses op
  decide (op ≤ 7) && decide (x.extractLsb' 10 2 ≠ 2#2) && decide (x.extractLsb' 10 2 ≠ 3#2) && x.extractLsb' 0 4 == 0#4
    && (use.1 || x.extractLsb' 8 2 == 0#2) && (use.2.1 || x.extractLsb' 6 2 == 0#2) && (use.2.2 || x.extractLsb' 4 2 == 0#2)

/-- A program word is accepted (R261): each slot well formed, and zero after an END. -/
def progOk (w : Word) : Bool :=
  (List.range 4).all fun q =>
    slotOk (progSlot w q) &&
      ((List.range q).all fun p => (progSlot w p).extractLsb' 12 4 != 0#4 || progSlot w q == 0#16)

/-- An op of a program on its operands (R262). -/
def recOp (f32 : Bool) (op x y z : Nat) : Nat :=
  if f32 then
    match op with
    | 1 => (fpOp bFP32 .add .rne 0#32 x y).1
    | 2 => (fpOp bFP32 .sub .rne 0#32 x y).1
    | 3 => (fpOp bFP32 .mul .rne 0#32 x y).1
    | 4 => (fpFma bFP32 .fma .rne 0#32 x y z).1
    | 5 => fMinMaxA bFP32 false x y
    | 6 => fMinMaxA bFP32 true x y
    | _ => x
  else
    match op with
    | 1 => (x + y) % 2 ^ 32
    | 2 => (x + 2 ^ 32 - y) % 2 ^ 32
    | 3 => x * y % 2 ^ 32
    | 4 => (x * y + z) % 2 ^ 32
    | 5 => vint .min 32 x y 0
    | 6 => vint .max 32 x y 0
    | _ => x

/-- The value of an operand code. -/
def recArg (code : BitVec 2) (sv tv av bv : Nat) : Nat :=
  if code = 0#2 then sv else if code = 1#2 then tv else if code = 2#2 then av else bv

/-- The program run on one cell from slot `q` on: the final s (R262). -/
def recRun (w : Word) (f32 : Bool) (av bv sv tv q : Nat) : Nat → Nat
  | 0 => sv
  | fuel + 1 =>
    let x := progSlot w q
    let op := (x.extractLsb' 12 4).toNat
    if op = 0 then sv
    else
      let r := recOp f32 op (recArg (x.extractLsb' 8 2) sv tv av bv) (recArg (x.extractLsb' 6 2) sv tv av bv)
        (recArg (x.extractLsb' 4 2) sv tv av bv)
      if x.extractLsb' 10 2 = 0#2 then recRun w f32 av bv r tv (q + 1) fuel else recRun w f32 av bv sv r (q + 1) fuel

/-! ## What a grant comes to -/

/-- The outcome of one grant (R250, R253). -/
inductive Grant where
  /-- The command is complete, with the COUNT of its token. -/
  | done (s : State) (count : Nat)
  /-- More grants follow. -/
  | more (s : State) (w : Walk)
  | fault (s : State) (index sub : Nat) (fva : Word)

/-- A core's matrix state. -/
def State.mat (s : State) (u : Nat) : Matrix := (s.unit u).matrix

/-- The state with a core's matrix state changed. -/
def State.modMat (s : State) (u : Nat) (f : Matrix → Matrix) : State := s.modUnit u fun x => { x with matrix := f x.matrix }

/-- The local offset that a spec or operand names (R248). -/
def matOff (w : Word) : Nat := (w.extractLsb' 0 20).toNat
/-- The scale offset of a spec (R248). -/
def matScale (w : Word) : Nat := (w.extractLsb' 32 20).toNat

/-- FMTBAD (R253). -/
def fmtBad : Nat := 0x10

/-- The residues of a core's grants mismatch a second time (R269). -/
def State.macFails (s : State) (u : Nat) : Bool := s.upsetAt .matrix u == some true

/-- The operands of an MMA checked, and its slot accumulated (R254, R258) unless the residues fail (R269). DEDUCED, log entry 44. -/
def State.matMul (s : State) (u : Nat) (lv : Level) (slot scaled : Bool) (sa sb : Word) : Grant :=
  let f := matShape (s.mat u).fmt
  if (if scaled then f.scm ≠ 1 else f.scm ≠ 0) then .fault s 0 fmtBad 0#64
  else
    let la := rowBytes f.fmtA f.k
    let lb := rowBytes f.fmtB f.k
    let q := f.k / 32
    let scales := if scaled then [(matScale sa, f.m * q), (matScale sb, f.n * q)] else []
    let reads := [(matOff sa, f.m * la), (matOff sb, f.n * lb)] ++ scales
    match s.localReadFault u lv 64 reads with
    | some e => .fault s 0 (subCode e.1) e.2
    | none =>
      if s.macFails u then .fault s 0 (subCode .uncorr) 0#64 else
      let as := s.rowsAt u (matOff sa) la f.m la
      let bs := s.rowsAt u (matOff sb) lb f.n lb
      let qa := if scaled then some (s.scalesAt u (matScale sa) f.m q) else none
      let qb := if scaled then some (s.scalesAt u (matScale sb) f.n q) else none
      .done ((s.logLocal u reads).modMat u fun x => x.setAcc slot (matAccumulate f scaled (x.acc slot) as bs qa qb)) 0

/-- Rows of cells of a slot stored, in increasing address order (R260, R264). -/
def State.storeCells (s : State) (u : Nat) (f : MatShape) (v : SMap Word32) (base stride : Nat) : State :=
  (List.range f.m).foldl (fun acc i =>
    acc.setLocal u (base + i * stride)
      ((List.range f.n).flatMap fun j => bytesOfNat f.cell (cellGet v (f.acc == 1) i j))) s

/-- MLDC and MSTC (R260). -/
def State.matCells (s : State) (u : Nat) (lv : Level) (slot store : Bool) (a b : Word) : Grant :=
  let f := matShape (s.mat u).fmt
  if b.toNat % 64 ≠ 0 ∨ b.toNat < f.n * f.cell then .fault s 0 (subCode .align) b
  else
    let regions := rowRegions (matOff a) b.toNat f.m (f.n * f.cell)
    match (if store then s.localFault u lv 64 regions else s.localReadFault u lv 64 regions) with
    | some e => .fault s 0 (subCode e.1) e.2
    | none =>
      if store then .done (s.storeCells u f ((s.mat u).acc slot) (matOff a) b.toNat) 0
      else
        let dbl : Bool := f.acc == 1
        let rows := s.rowsAt u (matOff a) b.toNat f.m (f.n * f.cell)
        .done ((s.logLocal u regions).modMat u fun x =>
          x.setAcc slot (cellsPut (x.acc slot) dbl f.m f.n fun i j => packedElem (rows.getD i 0) (8 * f.cell) j)) 0

/-- Early service refuses every operand format but BF16 and FP32 (R430). -/
def State.formatServed (s : State) (w : Word) : Bool :=
  let f := matShape w
  let ok := fun (x : Fmt) => x == .bf16 || x == .fp32
  s.stage != 3#4 || (ok f.fmtA && ok f.fmtB)

/-- MFMT (R256): the format word replaced; another accumulator format clears both slots and sets AZ (R247). -/
def State.matFormat (s : State) (u : Nat) (w : Word) : Grant :=
  if ! matOk w || ! s.formatServed w then .fault s 0 fmtBad 0#64
  else if (matShape w).acc = (matShape (s.mat u).fmt).acc then .done (s.modMat u fun x => { x with fmt := w }) 0
  else .done (s.modMat u fun x => { x with fmt := w, acc0 := [], acc1 := [], az := true }) 0

/-- The alignment of an MREC's records, which binds where it has none (R254). -/
def recAlign (off : Nat) : Option (Cause × Word) := if off % 64 ≠ 0 then some (.align, BitVec.ofNat 64 off) else none

/-- One step of MREC (R250, R262), unless its records hold an error that no code corrects (R253) or the residues fail (R269). -/
def State.matRec (s : State) (u : Nat) (lv : Level) (slot : Bool) (a b : Word) (walk : Option Walk) : Grant :=
  let f := matShape (s.mat u).fmt
  let c := b.toNat
  let len := 4 * (f.m + f.n)
  let begun := walk.isSome
  if ! begun && (4096 < c || (if (s.mat u).pf32 then f.acc ≠ 0 else f.acc ≠ 2)) then .fault s 0 fmtBad 0#64
  else
    match (if begun then none else if c = 0 then recAlign (matOff a) else s.localFault u lv 64 [(matOff a, c * len)]) with
    | some e => .fault s 0 (subCode e.1) e.2
    | none =>
      let w := walk.getD ⟨0, 0, false, 0, none, [], []⟩
      let at_ := matOff a + w.next * len
      if c ≤ w.next then .done s 0
      else if s.badData (localPa u at_) len then .fault s 0 (subCode .uncorr) (BitVec.ofNat 64 at_)
      else if s.macFails u then .fault s 0 (subCode .uncorr) 0#64
      else
        let av := s.rowsAt u at_ 4 f.m 4
        let bv := s.rowsAt u (at_ + 4 * f.m) 4 f.n 4
        let s1 := (s.logLocal u [(at_, len)]).modMat u fun x =>
          x.setAcc slot (cellsPut (x.acc slot) false f.m f.n fun i j =>
            recRun x.prog x.pf32 (av.getD i 0) (bv.getD j 0) (cellGet (x.acc slot) false i j) 0 0 4)
        if w.next + 1 = c then .done s1 0 else .more s1 { w with next := w.next + 1 }

/-! ## The tile-list walker (R263 to R266) -/

/-- A doubleword of the parameter block. -/
def Walk.dw (w : Walk) (i : Nat) : Word := w.block.getD i 0#64

/-- START, CUR and TOUCHED written back to the block, its other fields as they stand there (R263, R264, R266). -/
def State.walkBack (s : State) (u : Nat) (off : Nat) (w : Walk) : State :=
  let d1 := (s.loc64 u (off + 8) &&& 0xFFFFFFFF00000000#64) ||| BitVec.ofNat 64 (w.next % 2 ^ 32)
  let d2 := (s.loc64 u (off + 16) &&& 0xFFFF0000FFFFFFFE#64) ||| BitVec.ofNat 64 (w.cur % 2 ^ 16 * 2 ^ 32 + (if w.touched then 1 else 0))
  (s.setLoc64 u (off + 8) d1).setLoc64 u (off + 16) d2

/-- A fault at the entry that the walker has reached: the block is written back first (R266). -/
def State.walkFault (s : State) (u off : Nat) (w : Walk) (sub : Nat) (fva : Word) : Grant :=
  .fault (s.walkBack u off w) w.next sub fva

/-- A row block of C stored (R264). -/
def State.storeBlock (s : State) (u : Nat) (lv : Level) (w : Walk) (v : SMap Word32) : Except (Cause × Word) State :=
  let f := matShape (s.mat u).fmt
  let base := matOff (w.dw 5)
  let stride := matOff (w.dw 6)
  if stride < f.n * f.cell then .error (.align, BitVec.ofNat 64 stride)
  else
    let at_ := base + w.cur * f.m * stride
    match s.localFault u lv 64 (rowRegions at_ stride f.m (f.n * f.cell)) with
    | some e => .error e
    | none => .ok (s.storeCells u f v at_ stride)

/-- One step of Advance(r) (R264): a store of the slot, a zero store, or the passing of row blocks that are not stored. -/
def State.advanceBlock (s : State) (u off : Nat) (lv : Level) (slot : Bool) (w : Walk) (r : Nat) : Except Grant (State × Walk) :=
  if w.touched then
    match s.storeBlock u lv w ((s.mat u).acc slot) with
    | .error e => .error (s.walkFault u off w (subCode e.1) e.2)
    | .ok s1 =>
      let f := matShape (s.mat u).fmt
      .error (.more (s1.modMat u fun x => x.setAcc slot (cellsPut (x.acc slot) (f.acc == 1) f.m f.n fun _ _ => 0))
        { w with touched := false, cur := w.cur + 1, stored := w.stored + 1 })
  else if w.cur < r ∧ (w.dw 7).getLsbD 0 then
    match s.storeBlock u lv w [] with
    | .error e => .error (s.walkFault u off w (subCode e.1) e.2)
    | .ok s1 => .error (.more s1 { w with cur := w.cur + 1, stored := w.stored + 1 })
  else .ok (s, { w with cur := max w.cur r })

/-- The rows of an A block, from local memory or from its home (R263). -/
def State.blockRows (s : State) (u : Nat) (who : Issuer) (va : Word) (m len : Nat) : Except (Cause × Word) (State × List Nat) :=
  if va.toNat < 0x100000 then
    match s.localReadFault u who.level 64 [(va.toNat, m * len)] with
    | some e => .error e
    | none => .ok (s.logLocal u [(va.toNat, m * len)], s.rowsAt u va.toNat len m len)
  else if va.toNat % 64 ≠ 0 then .error (.align, va)
  else
    match s.readChunks who [] (chunksFrom va 64 (m * len) (m * len)) with
    | .error e => .error e
    | .ok (s1, bs) => .ok (s1, (List.range m).map fun i => natOfBytes ((bs.drop (i * len)).take len))

/-- The MMA of an entry (R263, R264), unless the residues fail (R269). -/
def State.entryMul (s : State) (u off : Nat) (who : Issuer) (slot : Bool) (w : Walk) (e : Word × Word) : Grant :=
  let f := matShape (s.mat u).fmt
  let la := rowBytes f.fmtA f.k
  let lb := rowBytes f.fmtB f.k
  let stride := matOff (w.dw 4)
  let bAt := matOff (w.dw 3) + (e.1.extractLsb' 16 16).toNat * lb
  let rows := rowRegions bAt stride f.n lb
  match s.localReadFault u who.level 1 rows with
  | some x => s.walkFault u off w (subCode x.1) x.2
  | none =>
    match s.blockRows u who e.2 f.m la with
    | .error x => s.walkFault u off w (subCode x.1) x.2
    | .ok (s1, as) =>
      if s1.macFails u then s1.walkFault u off w (subCode .uncorr) 0#64 else
      let bs := s1.rowsAt u bAt stride f.n lb
      .more ((s1.logLocal u rows).modMat u fun x => x.setAcc slot (matAccumulate f false (x.acc slot) as bs none none))
        { w with touched := true, next := w.next + 1, entry := none }

/-- An entry as it is read: its two doublewords, or the fault that the reading met and its address (R265). -/
def State.readListEntry (s : State) (who : Issuer) (va : Word) : State × Option Cause × Word × Word :=
  match s.readVa who va 8 8 with
  | .error e => (s, some e, va, 0#64)
  | .ok (s1, b0) =>
    match s1.readVa who (va + 8#64) 8 8 with
    | .error e => (s1, some e, va + 8#64, 0#64)
    | .ok (s2, b1) => (s2, none, wordOf b0, wordOf b1)

/-- The address of an entry (R263). -/
def Walk.entryVa (w : Walk) (i : Nat) : Word := w.dw 0 + BitVec.ofNat 64 (16 * i)

/-- The entries beyond the current one read ahead, while the list reaches and no home holds the read (R265). -/
def State.readAhead (s : State) (who : Issuer) (w : Walk) : Nat → State × Walk
  | 0 => (s, w)
  | n + 1 =>
    let i := w.next + 1 + w.ahead.length
    if ((w.dw 1).extractLsb' 32 32).toNat ≤ i || 8 ≤ w.ahead.length || s.vaWaits .load who (w.entryVa i) 16 then (s, w)
    else
      let r := s.readListEntry who (w.entryVa i)
      r.1.readAhead who { w with ahead := w.ahead ++ [r.2] } n

/-- The current entry of a walk: read already, or read now. -/
def State.currentEntry (s : State) (who : Issuer) (w : Walk) : State × Option Cause × Word × Word :=
  match w.entry with
  | some e => (s, none, e.1, e.2)
  | none =>
    match w.ahead with
    | e :: _ => (s, e)
    | [] => s.readListEntry who (w.entryVa w.next)

/-- One grant of a walk under way (R250, R264). How many of the eight entries beyond have been read ahead is a free value (R265); log
entry 39. -/
def State.walkGrant (s : State) (u off : Nat) (who : Issuer) (slot : Bool) (w : Walk) : Grant :=
  let count := ((w.dw 1).extractLsb' 32 32).toNat
  let rowEnd := ((w.dw 2).extractLsb' 48 16).toNat
  if count ≤ w.next then
    match s.advanceBlock u off who.level slot w rowEnd with
    | .error g => g
    | .ok (s1, w1) => .done (s1.walkBack u off w1) w1.stored
  else
    let va := w.entryVa w.next
    match s.currentEntry who w with
    | (_, some _, a, _) => s.walkFault u off w 0x11 a
    | (s0, none, e0, e1) =>
      let w0 := if w.entry.isSome then w else { w with ahead := w.ahead.drop 1 }
      let (s1, w0) := s0.useFree.readAhead who w0 (Config.choose s0.free % 9)
      let rb := (e0.extractLsb' 0 16).toNat
      if e0.extractLsb' 33 31 ≠ 0#31 ∨ rb < w.cur ∨ rowEnd ≤ rb then s1.walkFault u off w 0x12 va
      else if e0.getLsbD 32 then .more s1 { w0 with next := w.next + 1, entry := none }
      else
        let w1 := { w0 with entry := some (e0, e1) }
        if w.cur < rb then
          match s1.advanceBlock u off who.level slot w1 rb with
          | .error g => g
          | .ok (s2, w2) => s2.entryMul u off who slot w2 (e0, e1)
        else s1.entryMul u off who slot w1 (e0, e1)

/-- The A block of an entry is held at its home (R263, R275). -/
def State.blockWaits (s : State) (u : Nat) (who : Issuer) (va : Word) : Bool :=
  let f := matShape (s.mat u).fmt
  let n := f.m * rowBytes f.fmtA f.k
  decide (0x100000 ≤ va.toNat) && (chunksFrom va 64 n n).any fun k => s.vaWaits .load who k.1 k.2

/-- The parameter block of an MTLIST as its local memory holds it (R263). -/
def State.listBlock (s : State) (u off : Nat) : List Word := (List.range 8).map fun i => s.loc64 u (off + 8 * i)

/-- A fresh walk of a parameter block (R263). -/
def walkOf (b : List Word) : Walk :=
  ⟨((b.getD 1 0#64).extractLsb' 0 32).toNat, ((b.getD 2 0#64).extractLsb' 32 16).toNat, (b.getD 2 0#64).getLsbD 0, 0, none, [], b⟩

/-- The next grant of a command waits for a home that holds its entry or its A block (R275, R377). -/
def State.walkWaits (s : State) (u : Nat) (k : MatCmd) : Bool :=
  match k.instr with
  | .mtlist _ _ _ =>
    let w := ((s.mat u).walk).getD (walkOf (s.listBlock u (matOff k.opa)))
    if ((w.dw 1).extractLsb' 32 32).toNat ≤ w.next then false
    else if w.entry.isNone && w.ahead == [] && s.vaWaits .load k.who (w.entryVa w.next) 16 then true
    else
      match s.currentEntry k.who w with
      | (_, some _, _, _) => false
      | (_, none, _, e1) => s.blockWaits u k.who e1
  | _ => false

/-- The first offset or stride of a parameter block that is no multiple of 64 (R254). -/
def listAlign (b : List Word) : Option Word := ((List.range 4).map fun i => b.getD (i + 3) 0#64).find? fun x => matOff x % 64 != 0

/-- A grant of an MTLIST (R263, R264): the block is read and checked first, each of its offsets and strides too (R254). -/
def State.matList (s : State) (u : Nat) (who : Issuer) (slot : Bool) (a : Word) (walk : Option Walk) : Grant :=
  let off := matOff a
  match walk with
  | some w => s.walkGrant u off who slot w
  | none =>
    match s.localReadFault u who.level 64 [(off, 64)] with
    | some e => .fault s 0 (subCode e.1) e.2
    | none =>
      let b := s.listBlock u off
      let dw := fun (i : Nat) => b.getD i 0#64
      let w := walkOf b
      let reserved : Bool := (dw 2).extractLsb' 1 31 != 0#31 || (dw 3).extractLsb' 20 44 != 0#44 || (dw 4).extractLsb' 20 44 != 0#44
        || (dw 5).extractLsb' 20 44 != 0#44 || (dw 6).extractLsb' 20 44 != 0#44 || (dw 7).extractLsb' 1 63 != 0#63
      if reserved || (dw 0).extractLsb' 0 4 != 0#4 || (matShape (s.mat u).fmt).scm != 0 then .fault s w.next fmtBad (BitVec.ofNat 64 off)
      else
        match listAlign b with
        | some x => .fault s w.next (subCode .align) x
        | none => (s.logLocal u [(off, 64)]).walkGrant u off who slot w

/-! ## Grants (R249 to R253) -/

/-- The op code of a matrix command (R248). -/
def matOpCode : Instr → Nat
  | .mfmt _ _ => 0
  | .mzero _ _ => 1
  | .mma _ _ _ _ => 2
  | .mmas _ _ _ _ => 3
  | .mldc _ _ _ _ => 4
  | .mstc _ _ _ _ => 5
  | .mprog _ _ _ => 6
  | .mrec _ _ _ _ => 7
  | _ => 8

/-- One grant of a command (R256 to R264). -/
def State.matRun (s : State) (u : Nat) (k : MatCmd) (walk : Option Walk) : Grant :=
  let lv := k.who.level
  match k.instr with
  | .mfmt _ _ => s.matFormat u k.opa
  | .mzero _ x => .done (s.modMat u fun y => y.setAcc x []) 0
  | .mma _ x _ _ => s.matMul u lv x false k.opa k.opb
  | .mmas _ x _ _ => s.matMul u lv x true k.opa k.opb
  | .mldc _ x _ _ => s.matCells u lv x false k.opa k.opb
  | .mstc _ x _ _ => s.matCells u lv x true k.opa k.opb
  | .mprog _ f32 _ =>
    if progOk k.opa then .done (s.modMat u fun y => { y with prog := k.opa, pf32 := f32 }) 0 else .fault s 0 fmtBad 0#64
  | .mrec _ x _ _ => s.matRec u lv x k.opa k.opb walk
  | .mtlist _ x _ => s.matList u k.who x k.opa walk
  | _ => .done s 0

/-- The token of a command (R252). -/
def matToken (az : Bool) (k : MatCmd) (count : Nat) : Word :=
  BitVec.ofNat 64 (2 ^ 63 + b2n az * 2 ^ 62 + matOpCode k.instr * 2 ^ 52 + k.ctx % 16 * 2 ^ 48 + k.seq.toNat * 2 ^ 32 + count % 2 ^ 32)

/-- The head command leaves the FIFO. -/
def State.matPop (s : State) (u : Nat) : State := s.modMat u fun x => { x with fifo := x.fifo.drop 1, walk := none }

/-- The head command's token written; it clears AZ (R251, R252). -/
def State.matPost (s : State) (u : Nat) (k : MatCmd) (count : Nat) : State :=
  if k.k && ! s.cancelling (s.ctx u k.ctx).lid then s.modMat u fun x => { x with out := x.out ++ [matToken x.az k count], az := false } else s

/-- The entry of an MREC: its step records and its count without the steps that are done (R266). -/
def DEntry.stepped (e : DEntry) (seq : BitVec 16) (bytes steps : Nat) : DEntry :=
  if e.seq = seq then { e with opa := e.opa + BitVec.ofNat 64 bytes, opb := e.opb - BitVec.ofNat 64 steps } else e

/-- The ring entry of an MREC that ends between two steps (R266). -/
def State.stepBack (s : State) (u : Nat) (k : MatCmd) (walk : Option Walk) : State :=
  let f := matShape (s.mat u).fmt
  match walk, k.instr with
  | some w, .mrec _ _ _ _ =>
    s.modCtx u k.ctx fun x => { x with dring := x.dring.map fun (e : DEntry) => e.stepped k.seq (w.next * 4 * (f.m + f.n)) w.next }
  | _, _ => s

/-- A command whose columns are checked by residues (R269). -/
def usesMac : Instr → Bool
  | .mma _ _ _ _ | .mmas _ _ _ _ | .mrec _ _ _ _ | .mtlist _ _ _ => true
  | _ => false

/-- A residue mismatch of a grant logged, recomputed or not (R269, R412). -/
def State.macLog (s : State) (u : Nat) (k : MatCmd) : State :=
  match s.upsetAt .matrix u with
  | some uc => if usesMac k.instr then s.logErr u .matrix (BitVec.ofNat 52 (localPa u 0)) (! uc) else s
  | none => s

/-- A core's head command granted (R250, R253, R416). DEDUCED: an MREC whose residues fail keeps the steps before, as at a stop (R266); log
entry 44. -/
def State.matGrant (s0 : State) (u : Nat) (k : MatCmd) : State :=
  let walk := (s0.mat u).walk
  if walk.isNone && (s0.ctx u k.ctx).discards k.seq then (s0.ringMark u k.ctx k.seq 3#4 0#64).matPop u
  else
    let s := s0.macLog u k
    match s.matRun u k walk with
    | .done s1 count => ((s1.matPost u k count).ringMark u k.ctx k.seq 0#4 0#64).matPop u
    | .more s1 w => s1.modMat u fun x => { x with walk := some w }
    | .fault s1 index sub fva => ((s1.stepBack u k walk).recordLate u k.ctx k.pc k.seq (commandTval 2 index sub k.seq) fva).matPop u

/-- A STOP of a launch has reached a unit, which has not acknowledged it (R407). -/
def State.stopReaches (s : State) (u lid : Nat) : Bool :=
  match s.launch lid with
  | some l => l.stopped && l.owing.contains u
  | none => false

/-- The head command of a core can be granted: its cluster's unit is enabled, a place for its token is free, what it must observe is
performed (R251, R255), and no stop of its launch has reached the core (R266). DEDUCED, log entry 45. -/
def State.matCan (s : State) (u : Nat) : Option MatCmd :=
  match (s.mat u).fifo with
  | [] => none
  | k :: _ =>
    if s.on (.matrix (u / 16)) && (! k.k || decide ((s.mat u).out.length < 16) || s.cancelling (s.ctx u k.ctx).lid) && ! s.before u k.ctx k.po
      && ! s.stopReaches u (s.ctx u k.ctx).lid && ! s.walkWaits u k then some k else none

/-- The core that a cluster's unit grants next: round-robin by core index among those whose FIFO holds a command (R250). -/
def State.matNext (s : State) (cluster : Nat) : Option (Nat × MatCmd) :=
  let first := SMap.get s.mgrant cluster 0
  ((List.range 16).map fun i => cluster * 16 + (first + i) % 16).findSome? fun u => (s.matCan u).map fun k => (u, k)

/-- MATRIX_GRANT (R250): one grant of the cluster's unit. -/
def execMatrixGrant (k : Nat) (s : State) : Out :=
  match s.matNext k with
  | none => .next s
  | some (u, cmd) => .next { (s.matGrant u cmd) with mgrant := SMap.put s.mgrant k ((u % 16 + 1) % 16) }

/-- A command that a stop returns to its dispatch ring (R266): an MREC's operands count the steps that are done. -/
def State.matReturn (s : State) (u : Nat) (k : MatCmd) (walk : Option Walk) : State :=
  let s1 :=
    match walk, k.instr with
    | some w, .mtlist _ _ _ => s.walkBack u (matOff k.opa) w
    | _, _ => s.stepBack u k walk
  (s1.ringMark u k.ctx k.seq 3#4 0#64).modCtx u k.ctx fun x => x.markReplay k.seq

/-- The commands of a launch leave a core's FIFO for re-dispatch (R266). -/
def State.matStop (s : State) (u lid : Nat) : State :=
  let mine := fun (k : MatCmd) => (s.ctx u k.ctx).lid == lid
  let x := s.mat u
  match x.fifo with
  | [] => s
  | k :: rest =>
    let s1 := if mine k then s.matReturn u k x.walk else s
    let s2 := (rest.filter mine).foldl (fun acc o => acc.matReturn u o none) s1
    s2.modMat u fun y => { y with fifo := y.fifo.filter fun o => ! mine o, walk := if mine k then none else y.walk }

/-- MATRIX_STOP_BOUNDARY (R266): at a grant boundary, the commands of a stopped launch leave the FIFO for re-dispatch. -/
def execMatrixStopBoundary (u : Nat) (lid : Nat) (s : State) : Out := .next (if s.stopReaches u lid then s.matStop u lid else s)

/-! ## The instructions (R248, R249) -/

/-- A command pushed (R249): profile, the number and the ring entry, a place in the core's FIFO; its operands are read at issue. -/
def State.matPush (s : State) (instr : Instr) (k : Bool) (a b : Reg) : Out :=
  s.profile (s.kind == .far) (s.copWord fun s1 => s1.pushTo .matrix fun s2 =>
    let u := s2.cur
    let c := s2.c
    let opa := s2.g a
    let opb := s2.g b
    let cmd : MatCmd := ⟨c, k, s2.po, s2.cx.cseq, s2.pc, instr, opa, opb, s2.issuer u c⟩
    (((s2.dispatch u c s2.pc 0#8 2#4 s2.ux.word opa opb).tick).modMat u fun x => { x with fifo := x.fifo ++ [cmd] }).advance)

/-- MFMT (R256). -/
def execMfmt (k : Bool) (a : Reg) (s : State) : Out := s.matPush (.mfmt k a) k a 0#5

/-- MZERO (R257). -/
def execMzero (k : Bool) (x : Bool) (s : State) : Out := s.matPush (.mzero k x) k 0#5 0#5

/-- MMA (R258). -/
def execMma (k : Bool) (x : Bool) (a b : Reg) (s : State) : Out := s.matPush (.mma k x a b) k a b

/-- MMAS (R258). -/
def execMmas (k : Bool) (x : Bool) (a b : Reg) (s : State) : Out := s.matPush (.mmas k x a b) k a b

/-- MLDC (R260). -/
def execMldc (k : Bool) (x : Bool) (a b : Reg) (s : State) : Out := s.matPush (.mldc k x a b) k a b

/-- MSTC (R260). -/
def execMstc (k : Bool) (x : Bool) (a b : Reg) (s : State) : Out := s.matPush (.mstc k x a b) k a b

/-- MPROG (R261). -/
def execMprog (k : Bool) (f32 : Bool) (a : Reg) (s : State) : Out := s.matPush (.mprog k f32 a) k a 0#5

/-- MREC (R262). -/
def execMrec (k : Bool) (x : Bool) (a b : Reg) (s : State) : Out := s.matPush (.mrec k x a b) k a b

/-- MTLIST (R264). -/
def execMtlist (k : Bool) (x : Bool) (a : Reg) (s : State) : Out := s.matPush (.mtlist k x a) k a 0#5

/-- MPOP (R267): the token, or 0, lands at the park that ends the segment. DEDUCED: it dispatches no instruction, so it waits for no replay and
takes no recorded fault before it; log entry 116. -/
def execMpop (d : Reg) (s : State) : Out :=
  s.profile (s.kind == .far) (s.defer s.cur s.c d (.mpop s.pc)).done

end Sys2Proof.Machine
end

