-- ==== Sys2Proof/Machine/Array.lean ====
section
/-! DEFINITION. The silt arrays (13_array R270 to R291): rows and latches, row operations, macros, moves and dot mode, the slice's
command order, and the array instructions, majors 0x24 to 0x26. -/

namespace Sys2Proof.Machine

/-! ## Rows (R270) -/

/-- The physical address of the 64 bytes that hold a row of an array. -/
def rowAt (sl array row : Nat) : Nat :=
  siltBase sl + 0x10000 * (array / 4) + 16384 * (array % 4) + 64 * (row % 256)

/-- A row of an array, column 0 in bit 0. -/
def State.row (s : State) (sl array row : Nat) : BitVec 512 :=
  BitVec.ofNat 512 (natOfBytes (s.mem.readBytes (rowAt sl array row) 64))

/-- The physical tile that holds a row's bits as loads and stores see them (R113, R114): the row of a plane plot lies in one tile, since
its elements fill 64 × n aligned bytes. -/
def State.rowTile (s : State) (sl array row : Nat) : Nat :=
  let p := (s.slice sl).plot (array / 4)
  let r := row % 256
  let off := if p.plane then
      let n := 2 ^ p.wid.toNat
      (r / n * 2048 + array % 4 * 512) * n / 8
    else array % 4 * 16384 + r * 64
  (siltBase sl + 0x10000 * (array / 4) + off) / 4096

/-- A row written by a command: the marks of its tile's dependents come first (R301). -/
def State.setRow (s : State) (sl array row : Nat) (v : BitVec 512) : State :=
  let s1 := s.markWrite (s.rowTile sl array row * 4096) 4096
  { s1 with mem := s1.mem.writeBytes (rowAt sl array row) (bytesOfNat 64 v.toNat) }

/-- Columns of a row written: those of a mask. -/
def State.setCols (s : State) (sl array row : Nat) (mask v : BitVec 512) : State :=
  if mask = 0#512 then s else s.setRow sl array row ((s.row sl array row &&& ~~~ mask) ||| (v &&& mask))

/-- The latches of an array. -/
def State.latch (s : State) (sl array : Nat) : Latch := SMap.get (s.slice sl).latches array Latch.reset

/-- The state with an array's latches replaced. -/
def State.setLatch (s : State) (sl array : Nat) (l : Latch) : State :=
  s.modSlice sl fun x => { x with latches := SMap.put x.latches array l }

/-- The arrays that a context selects (R274). -/
def Ctx.arrays (x : Ctx) : List Nat := (List.range 96).filter fun y => x.sel.getLsbD (y / 4)

/-- The columns that predication leaves writable. -/
def Ctx.columns (x : Ctx) (l : Latch) : BitVec 512 := if x.pe then l.p else BitVec.allOnes 512

/-- A row of an array lies in a derived tile (R300). -/
def State.rowDerived (s : State) (sl array row : Nat) : Bool := s.isDerived (s.rowTile sl array row * 4096)

/-! ## Row operations (R278 to R280) -/

/-- The majority of three bits, column by column. -/
def maj (a b c : BitVec 512) : BitVec 512 := (a &&& b) ||| (a &&& c) ||| (b &&& c)

/-- What one row operation writes: a row, or a latch. -/
structure RowOp where
  /-- The destination row's new columns. -/
  d : Option (BitVec 512)
  c : Option (BitVec 512)
  p : Option (BitVec 512)
  deriving DecidableEq, Repr

/-- Src(m) of R280. -/
def latchSrc (m : LatchSrc) (a : BitVec 512) (p : BitVec 512) : BitVec 512 :=
  match m with
  | .row => a
  | .notRow => ~~~ a
  | .zero => 0#512
  | .one => BitVec.allOnes 512
  | .andRow => p &&& a

/-- The effect of an AROW command on the values it senses (R278). -/
def rowOp (i : Instr) (a b : BitVec 512) (l : Latch) : RowOp :=
  let d := fun (v : BitVec 512) => (⟨some v, none, none⟩ : RowOp)
  match i with
  | .aand _ _ _ => d (a &&& b)
  | .aor _ _ _ => d (a ||| b)
  | .axor _ _ _ => d (a ^^^ b)
  | .anor _ _ _ => d (~~~ (a ||| b))
  | .anand _ _ _ => d (~~~ (a &&& b))
  | .axnor _ _ _ => d (~~~ (a ^^^ b))
  | .anot _ _ => d (~~~ a)
  | .acopy _ _ => d a
  | .afadd _ _ _ => ⟨some (a ^^^ b ^^^ l.c), some (maj a b l.c), none⟩
  | .afsub _ _ _ => ⟨some (a ^^^ ~~~ b ^^^ l.c), some (maj a (~~~ b) l.c), none⟩
  | .aldp m _ => ⟨none, none, some (latchSrc m a l.p)⟩
  | .aldc m _ => ⟨none, some (latchSrc m a l.p), none⟩
  | .astp _ => d l.p
  | .astc _ => d l.c
  | .ashl _ _ => d (a <<< 1)
  | .ashr _ _ => d (a >>> 1)
  | _ => ⟨none, none, none⟩

/-- The rows that an AROW command names: D, A and B (R278). -/
def rowFields (i : Instr) : RowOff × RowOff × RowOff :=
  match i with
  | .aand d a b | .aor d a b | .axor d a b | .anor d a b | .anand d a b | .axnor d a b | .afadd d a b | .afsub d a b => (d, a, b)
  | .anot d a | .acopy d a | .ashl d a | .ashr d a => (d, a, 0#7)
  | .aldp _ a | .aldc _ a => (0#7, a, 0#7)
  | .astp d | .astc d => (d, 0#7, 0#7)
  | _ => (0#7, 0#7, 0#7)

/-- The row that a field names: (ARB + field) mod 256 (R53). -/
def rowOf (arb : BitVec 8) (f : RowOff) : Nat := (arb.toNat + f.toNat) % 256

/-- The row operation of a command on one array. -/
def State.rowApply (s : State) (sl array : Nat) (x : Ctx) (i : Instr) : State :=
  let f := rowFields i
  let l := s.latch sl array
  let r := rowOp i (s.row sl array (rowOf x.arb f.2.1)) (s.row sl array (rowOf x.arb f.2.2)) l
  let mask := x.columns l
  let s1 := match r.d with | some v => s.setCols sl array (rowOf x.arb f.1) mask v | none => s
  let s2 := match r.c with | some v => s1.setLatch sl array { l with c := (l.c &&& ~~~ mask) ||| (v &&& mask) } | none => s1
  match r.p with | some v => s2.setLatch sl array { l with p := v } | none => s2

/-- Some selected array's write of a row would reach a derived tile (R276). -/
def State.rowsDerived (s : State) (sl : Nat) (x : Ctx) (rows : List Nat) : Bool :=
  x.arrays.any fun y => x.columns (s.latch sl y) != 0#512 && rows.any fun r => s.rowDerived sl y r

/-- The outcome of an array command (R276): the state that its row operations leave, or the subcause of a check that failed. -/
inductive ArrayOut where
  | done (s : State)
  | fault (sub : Nat)

/-- ARGBAD and OVERLAP (R276). -/
def argBad : Nat := 0x10
/-- OVERLAP (R276). -/
def overlapBad : Nat := 0x11

/-- An AROW command (R279). -/
def State.arowRun (s : State) (sl : Nat) (x : Ctx) (i : Instr) : ArrayOut :=
  let writes : Bool := (rowOp i 0#512 0#512 Latch.reset).d.isSome
  if writes && s.rowsDerived sl x [rowOf x.arb (rowFields i).1] then .fault (subCode .derivedWrite)
  else .done (x.arrays.foldl (fun acc y => acc.rowApply sl y x i) s)

/-! ## Macros (R281 to R283) -/

/-- The macro operations. -/
inductive MacroOp where
  | add | sub | mul | mac | cmplt | max | neg | abs | adds | subs
  deriving DecidableEq, Repr

/-- The width of the result (R282). -/
def MacroOp.width (op : MacroOp) (w : Nat) : Nat :=
  match op with
  | .mul | .mac => 2 * w
  | .cmplt => 1
  | _ => w

/-- A sum or difference saturated to a width (R282). -/
def clampTo (w : Nat) (x : Int) : Int :=
  if x < - 2 ^ (w - 1) then - 2 ^ (w - 1) else if 2 ^ (w - 1) - 1 < x then 2 ^ (w - 1) - 1 else x

/-- The result in one column (R282); `t` is what the destination band holds. -/
def MacroOp.apply (op : MacroOp) (w x y t : Nat) : Nat :=
  let sx := sNat w x
  let sy := sNat w y
  match op with
  | .add => bitsOfInt w ((x : Int) + y)
  | .sub => bitsOfInt w ((x : Int) - y)
  | .mul => bitsOfInt (2 * w) (sx * sy)
  | .mac => bitsOfInt (2 * w) ((t : Int) + sx * sy)
  | .cmplt => if sx < sy then 1 else 0
  | .max => if sx < sy then y else x
  | .neg => bitsOfInt w (- sx)
  | .abs => if 0 ≤ sx then x else bitsOfInt w (- sx)
  | .adds => bitsOfInt w (clampTo w (sx + sy))
  | .subs => bitsOfInt w (clampTo w (sx - sy))

/-- The rows of a band (R281). -/
def bandRows (base width : Nat) : List Nat := (List.range width).map fun j => (base + j) % 256

/-- The band's value in a column: bit j in row j. -/
def bandCol (rows : List (BitVec 512)) (c : Nat) : Nat :=
  (rows.zipIdx).foldl (fun acc r => acc + (if r.1.getLsbD c then 2 ^ r.2 else 0)) 0

/-- The row j of per-column values. -/
def rowOfCols (vals : List Nat) (j : Nat) : BitVec 512 :=
  BitVec.ofNat 512 ((vals.zipIdx).foldl (fun acc v => acc + (if v.1.testBit j then 2 ^ v.2 else 0)) 0)

/-- Two bands share a row. -/
def bandsMeet (a b : List Nat) : Bool := a.any fun r => b.contains r

/-- R283: the destination's place against the source bands. -/
def MacroOp.placeOk (op : MacroOp) (w rd ra rb : Nat) : Bool :=
  let d := bandRows rd (op.width w)
  let a := bandRows ra w
  let b := bandRows rb w
  let two : Bool := match op with | .neg | .abs => false | _ => true
  match op with
  | .cmplt => true
  | .mul | .mac => ! bandsMeet d a && ! bandsMeet d b
  | _ => rd == ra || (two && rd == rb) || (! bandsMeet d a && (! two || ! bandsMeet d b))

/-- The macro on one array (R282): the band, then C cleared and P as it was. -/
def State.macroApply (s : State) (sl array : Nat) (x : Ctx) (op : MacroOp) (w rd ra rb : Nat) : State :=
  let l := s.latch sl array
  let mask := x.columns l
  let band := fun (base k : Nat) => (bandRows base k).map fun r => s.row sl array r
  let xs := band ra w
  let ys := band rb w
  let ts := band rd (op.width w)
  let vals := (List.range 512).map fun c => op.apply w (bandCol xs c) (bandCol ys c) (bandCol ts c)
  let s1 := ((bandRows rd (op.width w)).zipIdx).foldl (fun acc r => acc.setCols sl array r.1 mask (rowOfCols vals r.2)) s
  s1.setLatch sl array { l with c := 0#512 }

/-- The operation, width and registers' bytes of an AMACRO command. -/
def macroOf : Instr → Option (MacroOp × Nat)
  | .aadd w _ _ _ => some (.add, w.toNat)
  | .asub w _ _ _ => some (.sub, w.toNat)
  | .amul w _ _ _ => some (.mul, w.toNat)
  | .amac w _ _ _ => some (.mac, w.toNat)
  | .acmplt w _ _ _ => some (.cmplt, w.toNat)
  | .amax w _ _ _ => some (.max, w.toNat)
  | .aneg w _ _ => some (.neg, w.toNat)
  | .aabs w _ _ => some (.abs, w.toNat)
  | .aadds w _ _ _ => some (.adds, w.toNat)
  | .asubs w _ _ _ => some (.subs, w.toNat)
  | _ => none

/-- An AMACRO command (R282, R283); with SEL = 0 it does nothing (R274). -/
def State.amacroRun (s : State) (sl : Nat) (x : Ctx) (op : MacroOp) (w : Nat) (opa : Word) : ArrayOut :=
  let base := fun (k : Nat) => (x.arb.toNat + (opa.extractLsb' k 8).toNat) % 256
  let rd := base 16
  let ra := base 8
  let rb := base 0
  if x.sel = 0#24 then .done s
  else if ! op.placeOk w rd ra rb then .fault overlapBad
  else if s.rowsDerived sl x (bandRows rd (op.width w)) then .fault (subCode .derivedWrite)
  else .done (x.arrays.foldl (fun acc y => acc.macroApply sl y x op w rd ra rb) s)

/-! ## Moves and dot mode (R286, R287) -/

/-- A spec of AXIN and AXOUT in its parts (R286). -/
structure MoveSpec where
  mode : Nat
  wid  : Nat
  row  : Nat
  idx  : Nat
  deriving DecidableEq, Repr

/-- The parts of a spec (R286). -/
def moveSpec (w : Word) : MoveSpec :=
  ⟨(w.extractLsb' 30 2).toNat, (w.extractLsb' 24 6).toNat, (w.extractLsb' 16 8).toNat, (w.extractLsb' 0 7).toNat⟩

/-- The spec is accepted (R286). -/
def moveOk (w : Word) : Bool :=
  let m := moveSpec w
  w.extractLsb' 32 32 == 0#32 && w.extractLsb' 7 9 == 0#9 &&
    (if m.mode ≤ 1 then m.wid == 0 && m.row == 0 && decide (m.idx ≤ 95)
     else m.mode == 2 && decide (1 ≤ m.wid) && decide (m.wid ≤ 32) && decide (m.idx ≤ 23))

/-- The bytes of the operand. -/
def MoveSpec.bytes (m : MoveSpec) : Nat := if m.mode ≤ 1 then 16384 else 256 * m.wid

/-- The arrays and rows that a move reads or writes. -/
def MoveSpec.rows (m : MoveSpec) (arb : BitVec 8) : List (Nat × Nat) :=
  if m.mode ≤ 1 then (List.range 256).map fun r => (m.idx, r)
  else (List.range 4).flatMap fun y => (bandRows (arb.toNat + m.row) m.wid).map fun r => (4 * m.idx + y, r)

/-- The row operations of a move: its rows, those of one band row in the four arrays at once (R286, R292). -/
def MoveSpec.ops (m : MoveSpec) : Nat := if m.mode ≤ 1 then 256 else m.wid

/-- An element with some of its bits, those from one to another, taken from another value. -/
def bitsFrom (lo hi old new : Nat) : Nat :=
  (List.range (max hi (old.log2 + 1))).foldl (fun acc j => acc + (if (if lo ≤ j ∧ j < hi then new else old).testBit j then 2 ^ j else 0)) 0

/-- AXIN and AXOUT (R286, R277), their row operations from one to another alone (R290). DEDUCED: a row operation of AXOUT in band mode stores one
bit of each element; log entry 89. -/
def State.moveRun (s : State) (u sl : Nat) (x : Ctx) (load : Bool) (opa opb : Word) (lo hi : Nat) : ArrayOut :=
  if ! moveOk opb then .fault argBad
  else
    let m := moveSpec opb
    let off := opa.toNat
    match s.localFault u x.priv 64 [(off, m.bytes)] with
    | some e => .fault (subCode e.1)
    | none =>
      if load then
        if (m.rows x.arb).any fun r => s.rowDerived sl r.1 r.2 then .fault (subCode .derivedWrite)
        else if m.mode ≤ 1 then
          let s1 := ((List.range 256).filter fun k => decide (lo ≤ k) && decide (k < hi)).foldl (fun acc k =>
            acc.setRow sl m.idx k (BitVec.ofNat 512 (natOfBytes (acc.getLocal u (off + 64 * k) 64)))) s
          .done (s1.setLatch sl m.idx { (s1.latch sl m.idx) with int4 := m.mode == 1 })
        else
          let elems := natOfBytes (s.getLocal u off m.bytes)
          .done ((List.range 4).foldl (fun acc y =>
            let vals := (List.range 512).map fun c => packedElem elems m.wid (512 * y + c)
            (((bandRows (x.arb.toNat + m.row) m.wid).zipIdx).filter fun r => decide (lo ≤ r.2) && decide (r.2 < hi)).foldl
              (fun a r => a.setRow sl (4 * m.idx + y) r.1 (rowOfCols vals r.2)) acc) s)
      else if m.mode ≤ 1 then
        .done (((List.range 256).filter fun k => decide (lo ≤ k) && decide (k < hi)).foldl (fun acc k =>
          acc.setLocal u (off + 64 * k) (bytesOfNat 64 (acc.row sl m.idx k).toNat)) s)
      else
        let old := natOfBytes (s.getLocal u off m.bytes)
        let vals := (List.range 4).flatMap fun y =>
          let rows := (bandRows (x.arb.toNat + m.row) m.wid).map fun r => s.row sl (4 * m.idx + y) r
          (List.range 512).map fun c => bandCol rows c
        let elems := vals.zipIdx.map fun v => bitsFrom lo hi (packedElem old m.wid v.2) v.1
        .done (s.setLocal u off (bytesOfNat m.bytes (packElems m.wid elems)))

/-- One output of ADOT (R287): weights of column o against the row buffer. -/
def dotOut (int4 : Bool) (rows : List Nat) (x : BitVec 2048) (o : Nat) : Nat :=
  let w := if int4 then 4 else 8
  bitsOfInt 32 ((rows.zipIdx).foldl (fun acc r => acc + sNat w (packedElem r.1 w o) * sNat 8 (elem 8 x r.2)) 0)

/-- ADOT on one array (R287). -/
def State.dotApply (s : State) (sl array : Nat) : State :=
  let x := s.slice sl
  let int4 := (s.latch sl array).int4
  let rows := (List.range 256).map fun r => (s.row sl array r).toNat
  let outs := (List.range 128).map fun o => if ! int4 && decide (64 ≤ o) then 0 else dotOut int4 rows x.rowbuf o
  s.modSlice sl fun y =>
    { y with outs := (outs.zipIdx).foldl (fun acc v => SMap.put acc (128 * array + v.2) (BitVec.ofNat 32 v.1)) y.outs }

/-- AOUT (R287). -/
def State.aoutRun (s : State) (u c sl : Nat) (ve : Bool) (vd : VReg) (spec : Word) : ArrayOut :=
  let idx := (spec.extractLsb' 0 7).toNat
  if ! ve || spec.extractLsb' 8 56 != 0#56 || decide (95 < idx) then .fault argBad
  else
    let base := 128 * idx + (if spec.getLsbD 7 then 64 else 0)
    .done (s.setV u c vd (ofElems 32 ((List.range 64).map fun i => (SMap.get (s.slice sl).outs (base + i) 0#32).toNat)))

/-! ## A layout change (R272, R299) -/

/-- A registered rule binds a tile of a plot. -/
def State.plotBound (s : State) (sl m : Nat) : Bool :=
  s.rules.any fun r => (r.btiles ++ r.dtiles).any fun t =>
    decide ((siltBase sl + 0x10000 * m) / 4096 ≤ t.2) && decide (t.2 < (siltBase sl + 0x10000 * m) / 4096 + 16)

/-- PLCFG written (R272): no array bit changes. The write that changes PL or WID alone comes here. -/
def State.plcfgRun (s : State) (sl m : Nat) (w : Word) : State :=
  let wid := w.extractLsb' 4 3
  if 24 ≤ m ∨ 6 ≤ wid.toNat ∨ s.plotBound sl m then s
  else s.modSlice sl fun x => { x with plots := SMap.put x.plots m ⟨w.getLsbD 0, wid⟩ }

/-! ## Execution in the slice's order (R273, R275, R276) -/

/-- The context whose state an array command uses: the near unit's. -/
def sliceUnit (sl : Nat) : Nat := Config.sliceUnit0 + sl

/-- The row operations of a macro of width `w` (R282). -/
def MacroOp.ops (op : MacroOp) (w : Nat) : Nat :=
  match op with
  | .mul => w * (w + 2)
  | .mac => w * (w + 4)
  | .max | .abs => 2 * w + 2
  | .adds | .subs => 2 * w + 3
  | _ => w + 1

/-- The row operations of a command (R279, R282, R286): none for the commands that the spec gives none. -/
def ArrayCmd.ops (k : ArrayCmd) : Nat :=
  match macroOf k.instr with
  | some (op, w) => op.ops w
  | none =>
    match k.instr with
    | .asel _ | .asetrb _ | .achk _ | .adot | .abuf _ | .aout _ _ | .await | .wrsr _ _ => 0
    | .axin _ _ | .axout _ _ => (moveSpec k.opb).ops
    | _ => 1

/-- The row operations that a command makes on the selection as it stands (R274). -/
def State.opsOf (s : State) (sl : Nat) (k : ArrayCmd) : Nat :=
  match k.instr with
  | .axin _ _ | .axout _ _ => k.ops
  | _ => if (s.ctx (sliceUnit sl) k.ctx).sel = 0#24 then 0 else k.ops

/-- One array command carried out (R278 to R287), a move's row operations up to a bound. -/
def State.arrayRun (s : State) (sl : Nat) (k : ArrayCmd) (upTo : Nat) : ArrayOut :=
  let u := sliceUnit sl
  let c := k.ctx
  let x := s.ctx u c
  match macroOf k.instr with
  | some (op, w) => s.amacroRun sl x op w k.opa
  | none =>
    match k.instr with
    | .asel _ =>
      if k.opa.extractLsb' 25 39 ≠ 0#39 then .fault argBad
      else .done (s.modCtx u c fun y => { y with sel := k.opa.extractLsb' 0 24, pe := k.opa.getLsbD 24 })
    | .asetrb _ =>
      if k.opa.extractLsb' 8 56 ≠ 0#56 then .fault argBad
      else .done (s.modCtx u c fun y => { y with arb := k.opa.extractLsb' 0 8 })
    | .achk _ =>
      if k.opa.extractLsb' 1 63 ≠ 0#63 then .fault argBad
      else .done (s.modCtx u c fun y => { y with chk := k.opa.getLsbD 0 })
    | .axin _ _ => s.moveRun u sl x true k.opa k.opb k.done upTo
    | .axout _ _ => s.moveRun u sl x false k.opa k.opb k.done upTo
    | .adot => .done (x.arrays.foldl (fun acc y => acc.dotApply sl y) s)
    | .abuf va => if k.ve then .done (s.modSlice sl fun y => { y with rowbuf := s.v u c va }) else .fault argBad
    | .aout vd _ => s.aoutRun u c sl k.ve vd k.opb
    | .wrsr _ _ => .done (s.plcfgRun sl k.opb.toNat k.opa)
    | i => s.arowRun sl x i

/-! ## Errors of the periphery and of the rows (R290) -/

/-- The rows that a command senses (R278, R282, R286). -/
def State.sensedRows (s : State) (sl : Nat) (k : ArrayCmd) : List (Nat × Nat) :=
  let x := s.ctx (sliceUnit sl) k.ctx
  let each := fun (rows : List Nat) => x.arrays.flatMap fun y => rows.map fun r => (y, r)
  let base := fun (i : Nat) => (x.arb.toNat + (k.opa.extractLsb' i 8).toNat) % 256
  match macroOf k.instr with
  | some (.neg, w) | some (.abs, w) => each (bandRows (base 8) w)
  | some (op, w) => each (bandRows (base 8) w ++ bandRows (base 0) w ++ (match op with | .mac => bandRows (base 16) (2 * w) | _ => []))
  | none =>
    match k.instr with
    | .axout _ _ => (moveSpec k.opb).rows x.arb
    | .aand _ a b | .aor _ a b | .axor _ a b | .anor _ a b | .anand _ a b | .axnor _ a b | .afadd _ a b | .afsub _ a b =>
      each [rowOf x.arb a, rowOf x.arb b]
    | .anot _ a | .acopy _ a | .ashl _ a | .ashr _ a | .aldp _ a | .aldc _ a => each [rowOf x.arb a]
    | _ => []

/-- The row operation at which a command meets an error that neither its repetition nor a code mends (R290): the periphery's, or in checked
mode that of a row it senses. DESIGN CHOICE: which row operation of a macro or of a move senses a row is free; log entry 89. -/
def State.rowError (s : State) (sl : Nat) (k : ArrayCmd) : Option Nat :=
  if s.upsets = [] then none
  else
    let left := s.opsOf sl k - k.done
    let periphery := (s.upsets.filter fun e =>
      e.src == .array && e.at_ == sl && e.uc && decide (k.done ≤ e.op) && decide (e.op < s.opsOf sl k)).map Upset.op
    let rows := if (s.ctx (sliceUnit sl) k.ctx).chk && decide (0 < left)
        && (s.sensedRows sl k).any (fun r => s.badData (rowAt sl r.1 r.2) 64) then [k.done + Config.choose s.free % left] else []
    (periphery ++ rows).min?

/-- The errors that the first `n` row operations of a command meet, mended or not, logged by the near unit; in checked mode those too that the
code of a row that it senses corrects (R290, R412). DESIGN CHOICE: the address of the periphery is the slice's; log entry 89. -/
def State.rowLog (s : State) (sl : Nat) (k : ArrayCmd) (n : Nat) : State :=
  if s.upsets = [] then s
  else
    let s1 := s.upsets.foldl (fun acc e =>
      if e.src == .array && e.at_ == sl && decide (k.done ≤ e.op) && decide (e.op < n) then
        acc.logErr (sliceUnit sl) .array (BitVec.ofNat 52 (siltBase sl)) (! e.uc)
      else acc) s
    if (s.ctx (sliceUnit sl) k.ctx).chk && decide (n = s.opsOf sl k) then
      (s.sensedRows sl k).foldl (fun acc r => acc.logCorrected (rowAt sl r.1 r.2) 64) s1
    else s1

/-- A row of which nothing is known: a free value, log entry 89. -/
def freeRow (k : Nat) : BitVec 512 := BitVec.ofNat 512 (Config.choose k)

/-- The band that a macro writes. -/
def State.macroBand (s : State) (sl : Nat) (k : ArrayCmd) (op : MacroOp) (w : Nat) : List Nat :=
  bandRows (((s.ctx (sliceUnit sl) k.ctx).arb.toNat + (k.opa.extractLsb' 16 8).toNat) % 256) (op.width w)

/-- What is left to a macro that stops between two row operations: the rows of its band as the whole macro leaves them. -/
def State.halfOf (s whole : State) (sl : Nat) (k : ArrayCmd) (op : MacroOp) (w : Nat) : HalfMacro :=
  let x := s.ctx (sliceUnit sl) k.ctx
  ⟨k.ctx, k.seq, x.arrays.map fun y =>
    (y, x.columns (s.latch sl y), (s.latch sl y).p, (s.macroBand sl k op w).map fun r => (r, whole.row sl y r)), []⟩

/-- The rows that a macro senses or writes, as they stand. -/
def State.rowsSeen (s : State) (sl : Nat) (k : ArrayCmd) (op : MacroOp) (w : Nat) : List (Nat × Nat × BitVec 512) :=
  (s.sensedRows sl k ++ (s.ctx (sliceUnit sl) k.ctx).arrays.flatMap fun y => (s.macroBand sl k op w).map fun r => (y, r)).map fun r =>
    (r.1, r.2, s.row sl r.1 r.2)

/-- A macro stopped between two row operations (R290): what its earlier ones have left in the columns of its band and in the latches is
free. -/
def State.halfRun (s : State) (sl : Nat) (k : ArrayCmd) (op : MacroOp) (w : Nat) (h : HalfMacro) : State :=
  let s1 := h.bands.foldl (fun acc b =>
    let s2 := b.2.2.2.foldl (fun a r => (a.setCols sl b.1 r.1 b.2.1 (freeRow a.free)).useFree) acc
    (s2.setLatch sl b.1 { (s2.latch sl b.1) with c := freeRow s2.free, p := freeRow (s2.free + 1) }).useFree.useFree) s
  s1.modSlice sl fun x =>
    { x with halves := (x.halves.filter fun o => ! (o.ctx == h.ctx && o.seq == h.seq)) ++ [{ h with seen := s1.rowsSeen sl k op w }] }

/-- The latches of a macro that had stopped as they stood at its start. -/
def State.startLatches (s : State) (sl : Nat) (h : HalfMacro) : State :=
  h.bands.foldl (fun acc b => acc.setLatch sl b.1 { (acc.latch sl b.1) with p := b.2.2.1 }) s

/-- The rest of a macro that had stopped between two row operations (R290, R291). Where a row that it senses or writes has been changed since,
its later row operations sense the new contents: what the columns of its band then hold is free, since the spec does not say which row operation
senses which row. DESIGN CHOICE, log entry 89. -/
def State.halfEnd (s : State) (sl : Nat) (h : HalfMacro) : State :=
  let same := h.seen.all fun r => s.row sl r.1 r.2.1 == r.2.2
  let s1 := h.bands.foldl (fun acc b =>
    let s2 := b.2.2.2.foldl (fun a r =>
      if same then a.setCols sl b.1 r.1 b.2.1 r.2 else (a.setCols sl b.1 r.1 b.2.1 (freeRow a.free)).useFree) acc
    s2.setLatch sl b.1 { (s2.latch sl b.1) with c := 0#512, p := b.2.2.1 }) s
  s1.modSlice sl fun x => { x with halves := x.halves.filter fun o => ! (o.ctx == h.ctx && o.seq == h.seq) }

/-- The half macro of a command. -/
def State.halfFor (s : State) (sl : Nat) (k : ArrayCmd) : Option HalfMacro :=
  if k.done = 0 then none else (s.slice sl).halves.find? fun h => h.ctx == k.ctx && h.seq == k.seq

/-- A half macro with the rows of its bands as a state holds them. -/
def HalfMacro.over (h : HalfMacro) (whole : State) (sl : Nat) : HalfMacro :=
  { h with bands := h.bands.map fun b => (b.1, b.2.1, b.2.2.1, b.2.2.2.map fun r => (r.1, whole.row sl b.1 r.1)) }

/-- The first `n` row operations of a command, whose whole effect is given, have stood (R290). -/
def State.rowsStood (s whole : State) (sl : Nat) (k : ArrayCmd) (n : Nat) : State :=
  if n = k.done then s
  else
    match macroOf k.instr with
    | some (op, w) => s.halfRun sl k op w (match s.halfFor sl k with | some h => h.over whole sl | none => s.halfOf whole sl k op w)
    | none =>
      match s.arrayRun sl k n with
      | .done s1 => s1
      | .fault _ => s

/-- The whole of a command from the row operation at which an earlier dispatch stopped: its checks first (R276, R290). -/
def State.arrayWhole (s : State) (sl : Nat) (k : ArrayCmd) : ArrayOut :=
  match s.halfFor sl k with
  | none => s.arrayRun sl k k.ops
  | some h =>
    match (s.startLatches sl h).arrayRun sl k k.ops with
    | .done _ => .done (s.halfEnd sl h)
    | .fault sub => .fault sub

/-- A command at the sequencer (R276, R219, R290): discarded after a recorded fault, else carried out from the row operation at which an
earlier dispatch stopped. A layout change has no ring entry. -/
def State.arrayStep (s : State) (sl : Nat) (k : ArrayCmd) : State :=
  let u := sliceUnit sl
  let c := k.ctx
  if numbered k.instr && (s.ctx u c).discards k.seq then s.ringMark u c k.seq 3#4 (BitVec.ofNat 64 k.done)
  else
    match s.arrayWhole sl k with
    | .done s1 =>
      match s.rowError sl k with
      | some n =>
        (((s.rowsStood s1 sl k n).rowLog sl k (n + 1)).useFree).recordLate u c k.pc k.seq (commandTval 3 n (subCode .uncorr) k.seq)
          (BitVec.ofNat 64 n)
      | none => if numbered k.instr then (s1.rowLog sl k (s.opsOf sl k)).ringMark u c k.seq 0#4 0#64 else s1
    | .fault sub => s.recordLate u c k.pc k.seq (commandTval 3 k.done sub k.seq) (BitVec.ofNat 64 k.done)

/-- A vector instruction of the context stands before a command that moves a vector register (R287). DESIGN CHOICE, log entry 36. -/
def State.vectorWaits (s : State) (u : Nat) (k : ArrayCmd) : Bool :=
  arrayVector k.instr && (s.unit u).vq.any fun v => v.ctx == k.ctx && decide (v.po < k.since)

/-- A move waits for the context's earlier accesses (R277); one that is dispatched again after a stop does not wait for an access that waits for
it (R223, R291). -/
def State.moveWaits (s : State) (u : Nat) (k : ArrayCmd) : Bool :=
  (match k.instr with | .axin _ _ | .axout _ _ => true | _ => false)
    && (s.before u k.ctx k.po || s.vectorBefore u k.ctx k.since
      || s.flight.any fun r => r.who.unit == u && r.who.ctx == k.ctx && decide (r.po < k.since) && s.orderFree r)

/-- The first command of a FIFO that no stop has marked, with the arrays that the marked ones before it touch (R291). -/
def firstUnmarked (held : List Nat) : List (ArrayCmd × List Nat) → Option (ArrayCmd × Bool)
  | [] => none
  | k :: rest => if k.1.halted then firstUnmarked (held ++ k.2) rest else some (k.1, k.2.any fun y => held.contains y)

/-- The command that the sequencer executes next: the first accepted that no stop has marked, unless it touches an array of one that a stop
has (R273, R291). -/
def State.arrayHead (s : State) (sl : Nat) : Option ArrayCmd :=
  match firstUnmarked [] (s.touched sl) with
  | none => none
  | some (k, met) => if met || s.vectorWaits (sliceUnit sl) k || s.moveWaits (sliceUnit sl) k then none else some k

/-- ARRAY_EXECUTE (R273). -/
def execArrayExecute (sl : Nat) (s : State) : Out :=
  match s.arrayHead sl with
  | none => .next s
  | some k => .next ((s.modSlice sl fun x => { x with fifo := x.fifo.filter fun o => o != k }).arrayStep sl k)

/-- ARRAY_HELD_ACCESS (R275). -/
def execArrayHeldAccess (r : Req) (s : State) : Out := s.performEvent r

/-- The plots whose arrays stand in a list. -/
def plotsOf (l : List Nat) : BitVec 24 := BitVec.ofNat 24 ((List.range 24).foldl (fun acc m => acc + if l.contains (4 * m) then 2 ^ m else 0) 0)

/-- The row operations that the command at the sequencer has completed when a stop halts it (R291): how many is free. -/
def State.haltedAt (s : State) (sl : Nat) (k : ArrayCmd) : Nat :=
  let left := s.opsOf sl k - k.done
  match s.arrayWhole sl k, s.rowError sl k with
  | .done _, none => if 0 < left then k.done + Config.choose s.free % left else k.done
  | _, _ => k.done

/-- The commands of a launch that a stop at a slice marks (R291), with the arrays that each touches. -/
def State.toHalt (s : State) (sl lid : Nat) : List (ArrayCmd × List Nat) :=
  if s.stopReaches (sliceUnit sl) lid then (s.touched sl).filter fun k => k.1.lid == lid && ! k.1.halted && numbered k.1.instr else []

/-- A command marked at a stop: ST = 3 with its count of row operations, and DRPLY for its context (R266, R291). -/
def State.haltCommand (s : State) (sl : Nat) (k : ArrayCmd) (touched : List Nat) (n : Nat) : State :=
  let u := sliceUnit sl
  let s1 := (s.ringMark u k.ctx k.seq 3#4 (BitVec.ofNat 64 n)).modCtx u k.ctx fun x => x.markReplay k.seq
  s1.modSlice sl fun x =>
    { x with fifo := x.fifo.map fun o => if o = k then { k with halted := true, sel := plotsOf touched, done := n } else o }

/-- ARRAY_HALT (R291): the commands of a launch whose stop has reached the slice near unit are marked, the one at the sequencer between two of
its row operations; they keep their acceptance. -/
def execArrayHalt (sl : Nat) (lid : Nat) (s : State) : Out :=
  let head := s.arrayHead sl
  .next ((s.toHalt sl lid).foldl (fun acc k =>
    let n := if head = some k.1 then acc.haltedAt sl k.1 else k.1.done
    let s1 := match acc.arrayWhole sl k.1 with | .done whole => acc.rowsStood whole sl k.1 n | .fault _ => acc
    (s1.haltCommand sl k.1 k.2 n).useFree) s)

/-- A command accepted (R273): executed at once where it is first and the model performs at issue. -/
def State.accept (s : State) (sl : Nat) (k : ArrayCmd) : State :=
  let s1 := s.modSlice sl fun x => { x with fifo := x.fifo ++ [k] }
  if ! s.async && s1.arrayHead sl == some k then
    (s1.modSlice sl fun x => { x with fifo := x.fifo.filter fun o => o != k }).arrayStep sl k
  else s1

/-- The slice of the issuing near unit. -/
def State.ownSlice (s : State) : Nat := s.cur - Config.sliceUnit0

/-- An array instruction issued (R273): profile, the number and the ring entry, a place in the slice's FIFO. -/
def State.arrayPush (s : State) (instr : Instr) (opnds : State → Word × Word) : Out :=
  s.profile (s.kind == .slice) (s.copWord fun s1 => s1.pushTo .array fun s2 =>
    let u := s2.cur
    let c := s2.c
    let opa := (opnds s2).1
    let opb := (opnds s2).2
    let k : ArrayCmd := ⟨c, s2.po, s2.cx.cseq, s2.pc, instr, opa, opb, s2.cx.ve, s2.cx.lid, s2.po, false, 0#24, 0⟩
    (((s2.dispatch u c s2.pc 0#8 3#4 s2.ux.word opa opb).tick).drain u c |>.accept s2.ownSlice k).advance)

/-- The operands of a command that reads no register (R273). -/
def noOperand (_ : State) : Word × Word := (0#64, 0#64)

/-- OPA of a macro: the low bytes of its registers (R273). -/
def macroOpa (d a b : Reg) (s : State) : Word × Word :=
  (0#40 ++ (s.g d).extractLsb' 0 8 ++ (s.g a).extractLsb' 0 8 ++ (s.g b).extractLsb' 0 8, 0#64)

/-! ## The instructions (R278, R281, R284) -/

/-- AAND (R278). -/
def execAand (d a b : RowOff) (s : State) : Out := s.arrayPush (.aand d a b) noOperand

/-- AOR (R278). -/
def execAor (d a b : RowOff) (s : State) : Out := s.arrayPush (.aor d a b) noOperand

/-- AXOR (R278). -/
def execAxor (d a b : RowOff) (s : State) : Out := s.arrayPush (.axor d a b) noOperand

/-- ANOR (R278). -/
def execAnor (d a b : RowOff) (s : State) : Out := s.arrayPush (.anor d a b) noOperand

/-- ANAND (R278). -/
def execAnand (d a b : RowOff) (s : State) : Out := s.arrayPush (.anand d a b) noOperand

/-- AXNOR (R278). -/
def execAxnor (d a b : RowOff) (s : State) : Out := s.arrayPush (.axnor d a b) noOperand

/-- AFADD (R278). -/
def execAfadd (d a b : RowOff) (s : State) : Out := s.arrayPush (.afadd d a b) noOperand

/-- AFSUB (R278). -/
def execAfsub (d a b : RowOff) (s : State) : Out := s.arrayPush (.afsub d a b) noOperand

/-- ANOT (R278). -/
def execAnot (d a : RowOff) (s : State) : Out := s.arrayPush (.anot d a) noOperand

/-- ACOPY (R278). -/
def execAcopy (d a : RowOff) (s : State) : Out := s.arrayPush (.acopy d a) noOperand

/-- ASHL (R278). -/
def execAshl (d a : RowOff) (s : State) : Out := s.arrayPush (.ashl d a) noOperand

/-- ASHR (R278). -/
def execAshr (d a : RowOff) (s : State) : Out := s.arrayPush (.ashr d a) noOperand

/-- ALDP (R278, R280). -/
def execAldp (m : LatchSrc) (a : RowOff) (s : State) : Out := s.arrayPush (.aldp m a) noOperand

/-- ALDC (R278, R280). -/
def execAldc (m : LatchSrc) (a : RowOff) (s : State) : Out := s.arrayPush (.aldc m a) noOperand

/-- ASTP (R278). -/
def execAstp (d : RowOff) (s : State) : Out := s.arrayPush (.astp d) noOperand

/-- ASTC (R278). -/
def execAstc (d : RowOff) (s : State) : Out := s.arrayPush (.astc d) noOperand

/-- AADD (R282). -/
def execAadd (w : BitVec 6) (d a b : Reg) (s : State) : Out :=
  s.arrayPush (.aadd w d a b) (macroOpa d a b)

/-- ASUB (R282). -/
def execAsub (w : BitVec 6) (d a b : Reg) (s : State) : Out :=
  s.arrayPush (.asub w d a b) (macroOpa d a b)

/-- AMUL (R282). -/
def execAmul (w : BitVec 6) (d a b : Reg) (s : State) : Out :=
  s.arrayPush (.amul w d a b) (macroOpa d a b)

/-- AMAC (R282). -/
def execAmac (w : BitVec 6) (d a b : Reg) (s : State) : Out :=
  s.arrayPush (.amac w d a b) (macroOpa d a b)

/-- ACMPLT (R282). -/
def execAcmplt (w : BitVec 6) (d a b : Reg) (s : State) : Out :=
  s.arrayPush (.acmplt w d a b) (macroOpa d a b)

/-- AMAX (R282). -/
def execAmax (w : BitVec 6) (d a b : Reg) (s : State) : Out :=
  s.arrayPush (.amax w d a b) (macroOpa d a b)

/-- AADDS (R282). -/
def execAadds (w : BitVec 6) (d a b : Reg) (s : State) : Out :=
  s.arrayPush (.aadds w d a b) (macroOpa d a b)

/-- ASUBS (R282). -/
def execAsubs (w : BitVec 6) (d a b : Reg) (s : State) : Out :=
  s.arrayPush (.asubs w d a b) (macroOpa d a b)

/-- ANEG (R282); its b field is 0. -/
def execAneg (w : BitVec 6) (d a : Reg) (s : State) : Out :=
  s.arrayPush (.aneg w d a) (macroOpa d a 0#5)

/-- AABS (R282); its b field is 0. -/
def execAabs (w : BitVec 6) (d a : Reg) (s : State) : Out :=
  s.arrayPush (.aabs w d a) (macroOpa d a 0#5)

/-- ASEL (R285). -/
def execAsel (a : Reg) (s : State) : Out := s.arrayPush (.asel a) fun s1 => (s1.g a, 0#64)

/-- ASETRB (R285). -/
def execAsetrb (a : Reg) (s : State) : Out := s.arrayPush (.asetrb a) fun s1 => (s1.g a, 0#64)

/-- ACHK (R285). -/
def execAchk (a : Reg) (s : State) : Out := s.arrayPush (.achk a) fun s1 => (s1.g a, 0#64)

/-- AXIN (R286). -/
def execAxin (a b : Reg) (s : State) : Out := s.arrayPush (.axin a b) fun s1 => (s1.g a, s1.g b)

/-- AXOUT (R286). -/
def execAxout (a b : Reg) (s : State) : Out := s.arrayPush (.axout a b) fun s1 => (s1.g a, s1.g b)

/-- ADOT (R287). -/
def execAdot (s : State) : Out := s.arrayPush .adot noOperand

/-- ABUF (R287). -/
def execAbuf (va : VReg) (s : State) : Out := s.arrayPush (.abuf va) noOperand

/-- AOUT (R287). -/
def execAout (vd : VReg) (b : Reg) (s : State) : Out := s.arrayPush (.aout vd b) fun s1 => (0#64, s1.g b)

/-- AWAIT (R289): numbered like a command; its segment ends, and that park waits for the context's earlier commands. -/
def execAwait (s : State) : Out :=
  s.profile (s.kind == .slice) (s.copWord fun s1 =>
    let u := s1.cur
    let c := s1.c
    let s2 := s1.dispatch u c s1.pc 0#8 3#4 s1.ux.word 0#64 0#64
    ((s2.ringMark u c s1.cx.cseq 0#4 0#64).modC fun x => { x with awaiting := true, parking := true }).advance)

end Sys2Proof.Machine
end

