-- ==== Sys2Proof/Machine/Atomics.lean ====
section
/-! DEFINITION. Atomics and merge contributions, major 0x10 (07_ordering R130 to R138), and the events by which posted ones are
performed. -/

namespace Sys2Proof.Machine

/-- The deferred result of an atomic: pending where it has a destination. -/
def State.amoDefer (s : State) (d : Option Reg) (src : DefSrc) : State :=
  match d with
  | some r => s.defer s.cur s.c r src
  | none => s.tick

/-- A no-return atomic posts into the store queue (R135). -/
def State.amoQueued (s : State) (d : Option Reg) (act : Out) : Out := match d with | some _ => act | none => s.queued act

/-- An atomic on the unit's own local memory (R77, R130, R134). DESIGN CHOICE: an acquiring one that is out of range, or that faults at its
own unit, makes no acquire; one whose fault another home returns makes its acquire; log entry 102. -/
def State.ownAtomic (s : State) (d : Option Reg) (ea : Word) (off : Nat) (window : Bool) (op : AmoOp) (dbl : Bool)
    (v e : Word) (acq rel : Bool) : Out :=
  let u := s.cur
  let c := s.c
  let n := amoSize dbl
  let id := fun (t : State) => match d with | some _ => some t.po | none => none
  let req := fun (t : State) => t.ownReq ea off (.atomic op dbl v e (id t)) acq rel
  s.ownAccess ea off n window true none req (fun s2 => s2.amoQueued d ((s2.amoDefer d .pending).post (req s2)).done) fun s2 =>
    if s2.guardedByOther u none off n then s.trap .wsGuard ea
    else if s2.ownStale window then ((s2.amoDefer d .dropped).faultNow ea .staleGen).done
    else if s2.ownBad off n then ((s2.amoDefer d .dropped).faultNow ea .uncorr).done
    else if window && ! s2.localInRange u s2.cx.priv off n then
      ((s2.recordOor u c off n true).amoDefer d (.value 0#64)).done
    else
      let x := s2.atomicAt .atomic (s2.issuer u c) (! window) (localPa u off) op dbl (opNat dbl v) (opNat dbl e)
      let s3 := x.1.amoDefer d (.value (extendBytes true (bytesOfNat n x.2)))
      (if acq then s3.acquire u else s3).done

/-- An atomic at an effective address (R132, R134, R135). -/
def State.amoEa (s : State) (d : Option Reg) (ea : Word) (op : AmoOp) (dbl : Bool) (v e : Word) (acq rel : Bool) : Out :=
  match s.checkEa s.cur s.c ea (amoSize dbl) .atomic with
  | .error k => s.trap k ea
  | .ok (s1, .own off window) => s1.ownAtomic d ea off window op dbl v e acq rel
  | .ok (s1, .home pa _) =>
    if s1.place pa = .host then s.trap .access ea
    else
      let id := match d with | some _ => some s1.po | none => none
      let r : Req := ⟨s1.issuer s1.cur s1.c, s1.po, s1.pc, ea, pa, .atomic op dbl v e id, acq, rel, false⟩
      s1.amoQueued d ((s1.amoDefer d .pending).post r).done

/-- The acquire of an ordering field (R131). -/
def ordAcq : Ord4 → Bool
  | .aq | .aqrl => true
  | _ => false

/-- The release of an ordering field (R131). -/
def ordRel : Ord4 → Bool
  | .rl | .aqrl => true
  | _ => false

/-- A value-returning atomic (R132): address, operand and expected value are read at issue. -/
def State.amo (s : State) (op : AmoOp) (dbl : Bool) (ord : Ord4) (d a b : Reg) : Out :=
  s.amoEa (some d) (s.g a) op dbl (s.g b) (s.g d) (ordAcq ord) (ordRel ord)

/-- A no-return atomic (R132). -/
def State.amoNr (s : State) (op : AmoOp) (dbl rl : Bool) (a b : Reg) : Out :=
  s.amoEa none (s.g a) op dbl (s.g b) 0#64 false rl

/-- AMERGE (R136): the contribution's home is a word plot of a silt slice or a DRAM home of this device. -/
def State.amerge (s : State) (fp dbl : Bool) (k a b : Reg) : Out :=
  let ea := s.g a
  match s.checkEa s.cur s.c ea (amoSize dbl) .atomic with
  | .error e => s.trap e ea
  | .ok (_, .own _ _) => s.trap .access ea
  | .ok (s1, .home pa _) =>
    let ok : Bool :=
      match s1.place pa with
      | .dram _ _ => true
      | .silt sl off => ! ((s1.slice sl).plot (off / 0x10000)).plane
      | _ => false
    if ok then
      let r : Req :=
        ⟨s1.issuer s1.cur s1.c, s1.po, s1.pc, ea, pa, .merge fp dbl (s1.g b) ((s1.g k).toNat % 2 ^ 32), false, false, false⟩
      s1.queued ((s1.tick).post r).done
    else s.trap .access ea

/-- AMOADD (R132). -/
def execAmoadd (dbl : Bool) (ord : Ord4) (d a b : Reg) (s : State) : Out := s.amo .add dbl ord d a b

/-- AMOAND (R132). -/
def execAmoand (dbl : Bool) (ord : Ord4) (d a b : Reg) (s : State) : Out := s.amo .and dbl ord d a b

/-- AMOOR (R132). -/
def execAmoor (dbl : Bool) (ord : Ord4) (d a b : Reg) (s : State) : Out := s.amo .or dbl ord d a b

/-- AMOXOR (R132). -/
def execAmoxor (dbl : Bool) (ord : Ord4) (d a b : Reg) (s : State) : Out := s.amo .xor dbl ord d a b

/-- AMOMIN (R132). -/
def execAmomin (dbl : Bool) (ord : Ord4) (d a b : Reg) (s : State) : Out := s.amo .min dbl ord d a b

/-- AMOMAX (R132). -/
def execAmomax (dbl : Bool) (ord : Ord4) (d a b : Reg) (s : State) : Out := s.amo .max dbl ord d a b

/-- AMOMINU (R132). -/
def execAmominu (dbl : Bool) (ord : Ord4) (d a b : Reg) (s : State) : Out := s.amo .minu dbl ord d a b

/-- AMOMAXU (R132). -/
def execAmomaxu (dbl : Bool) (ord : Ord4) (d a b : Reg) (s : State) : Out := s.amo .maxu dbl ord d a b

/-- AMOSWAP (R132). -/
def execAmoswap (dbl : Bool) (ord : Ord4) (d a b : Reg) (s : State) : Out := s.amo .swap dbl ord d a b

/-- AMOCAS (R132). -/
def execAmocas (dbl : Bool) (ord : Ord4) (d a b : Reg) (s : State) : Out := s.amo .cas dbl ord d a b

/-- AMOFADD (R132, R133). -/
def execAmofadd (dbl : Bool) (ord : Ord4) (d a b : Reg) (s : State) : Out := s.amo .fadd dbl ord d a b

/-- AMOFMIN (R132, R133). -/
def execAmofmin (dbl : Bool) (ord : Ord4) (d a b : Reg) (s : State) : Out := s.amo .fmin dbl ord d a b

/-- AMOFMAX (R132, R133). -/
def execAmofmax (dbl : Bool) (ord : Ord4) (d a b : Reg) (s : State) : Out := s.amo .fmax dbl ord d a b

/-- AMOADD.NR (R132). -/
def execAmoaddNr (dbl rl : Bool) (a b : Reg) (s : State) : Out := s.amoNr .add dbl rl a b

/-- AMOAND.NR (R132). -/
def execAmoandNr (dbl rl : Bool) (a b : Reg) (s : State) : Out := s.amoNr .and dbl rl a b

/-- AMOOR.NR (R132). -/
def execAmoorNr (dbl rl : Bool) (a b : Reg) (s : State) : Out := s.amoNr .or dbl rl a b

/-- AMOXOR.NR (R132). -/
def execAmoxorNr (dbl rl : Bool) (a b : Reg) (s : State) : Out := s.amoNr .xor dbl rl a b

/-- AMOMIN.NR (R132). -/
def execAmominNr (dbl rl : Bool) (a b : Reg) (s : State) : Out := s.amoNr .min dbl rl a b

/-- AMOMAX.NR (R132). -/
def execAmomaxNr (dbl rl : Bool) (a b : Reg) (s : State) : Out := s.amoNr .max dbl rl a b

/-- AMOMINU.NR (R132). -/
def execAmominuNr (dbl rl : Bool) (a b : Reg) (s : State) : Out := s.amoNr .minu dbl rl a b

/-- AMOMAXU.NR (R132). -/
def execAmomaxuNr (dbl rl : Bool) (a b : Reg) (s : State) : Out := s.amoNr .maxu dbl rl a b

/-- AMOFADD.NR (R132, R133). -/
def execAmofaddNr (dbl rl : Bool) (a b : Reg) (s : State) : Out := s.amoNr .fadd dbl rl a b

/-- AMOFMIN.NR (R132, R133). -/
def execAmofminNr (dbl rl : Bool) (a b : Reg) (s : State) : Out := s.amoNr .fmin dbl rl a b

/-- AMOFMAX.NR (R132, R133). -/
def execAmofmaxNr (dbl rl : Bool) (a b : Reg) (s : State) : Out := s.amoNr .fmax dbl rl a b

/-- AMERGE.ADD (R136). -/
def execAmergeAdd (dbl : Bool) (k a b : Reg) (s : State) : Out := s.amerge false dbl k a b

/-- AMERGE.FADD (R136). -/
def execAmergeFadd (dbl : Bool) (k a b : Reg) (s : State) : Out := s.amerge true dbl k a b

/-! ## Events -/

/-- HOME_ATOMIC (R130, R132). -/
def execHomeAtomic (r : Req) (s : State) : Out := s.performEvent r

/-- MERGE_CONTRIBUTION (R137). -/
def execMergeContribution (r : Req) (s : State) : Out := s.performEvent r

/-- MERGE_RETRY (R138): a refused contribution is sent again, and its context released when the home accepts it; one that is refused again
changes nothing. -/
def execMergeRetry (r : Req) (s : State) : Out :=
  match r.act with
  | .merge _ _ _ _ =>
    if (s.ctx r.who.unit r.who.ctx).blocked.contains r && ! s.channelHeld r then
      let t := (s.modCtx r.who.unit r.who.ctx fun y => y.unblocked r).perform r
      .next (if (t.ctx r.who.unit r.who.ctx).blocked.contains r then s else t)
    else .next s
  | _ => .next s

end Sys2Proof.Machine
end

