-- ==== Sys2Proof/Machine/Branch.lean ====
section
/-! DEFINITION. SKIP, branches and jumps, majors 0x07 to 0x0A (05_integer R101 to R106). -/

namespace Sys2Proof.Machine

/-- SKIP (R102): the next one to eight words are passed over; the hint steers fetch only (R50). -/
def execSkip (_h : Hint) (c : SkipCond) (a b : Reg) (n : BitVec 3) (s : State) : Out :=
  s.branch (fun s1 => skipCond c (s1.g a) (s1.g b)) (s.pc + 4#64 + ((n.setWidth 64 + 1#64) <<< 2))

/-- BEQ (R101, R103). -/
def execBeq (_h : Hint) (a b : Reg) (off : BitVec 10) (s : State) : Out :=
  s.branch (fun s1 => s1.g a == s1.g b) (s.rel off)

/-- BNE (R101, R103). -/
def execBne (_h : Hint) (a b : Reg) (off : BitVec 10) (s : State) : Out :=
  s.branch (fun s1 => s1.g a != s1.g b) (s.rel off)

/-- BLT (R101, R103). -/
def execBlt (_h : Hint) (a b : Reg) (off : BitVec 10) (s : State) : Out :=
  s.branch (fun s1 => (s1.g a).slt (s1.g b)) (s.rel off)

/-- BGE (R101, R103). -/
def execBge (_h : Hint) (a b : Reg) (off : BitVec 10) (s : State) : Out :=
  s.branch (fun s1 => ! (s1.g a).slt (s1.g b)) (s.rel off)

/-- BLTU (R101, R103). -/
def execBltu (_h : Hint) (a b : Reg) (off : BitVec 10) (s : State) : Out :=
  s.branch (fun s1 => (s1.g a).ult (s1.g b)) (s.rel off)

/-- BGEU (R101, R103). -/
def execBgeu (_h : Hint) (a b : Reg) (off : BitVec 10) (s : State) : Out :=
  s.branch (fun s1 => ! (s1.g a).ult (s1.g b)) (s.rel off)

/-- BBS (R101, R103). -/
def execBbs (_h : Hint) (a b : Reg) (off : BitVec 10) (s : State) : Out :=
  s.branch (fun s1 => bitTest (s1.g a) (s1.g b)) (s.rel off)

/-- BBC (R101, R103). -/
def execBbc (_h : Hint) (a b : Reg) (off : BitVec 10) (s : State) : Out :=
  s.branch (fun s1 => ! bitTest (s1.g a) (s1.g b)) (s.rel off)

/-- BEQZ (R104). -/
def execBeqz (_h : Hint) (a : Reg) (off : BitVec 15) (s : State) : Out :=
  s.branch (fun s1 => s1.g a == 0#64) (s.rel off)

/-- BNEZ (R104). -/
def execBnez (_h : Hint) (a : Reg) (off : BitVec 15) (s : State) : Out :=
  s.branch (fun s1 => s1.g a != 0#64) (s.rel off)

/-- BLTZ (R104). -/
def execBltz (_h : Hint) (a : Reg) (off : BitVec 15) (s : State) : Out :=
  s.branch (fun s1 => (s1.g a).slt 0#64) (s.rel off)

/-- BGEZ (R104). -/
def execBgez (_h : Hint) (a : Reg) (off : BitVec 15) (s : State) : Out :=
  s.branch (fun s1 => ! (s1.g a).slt 0#64) (s.rel off)

/-- BGTZ (R104). -/
def execBgtz (_h : Hint) (a : Reg) (off : BitVec 15) (s : State) : Out :=
  s.branch (fun s1 => (0#64).slt (s1.g a)) (s.rel off)

/-- BLEZ (R104). -/
def execBlez (_h : Hint) (a : Reg) (off : BitVec 15) (s : State) : Out :=
  s.branch (fun s1 => ! (0#64).slt (s1.g a)) (s.rel off)

/-- J (R105). -/
def execJ (off : BitVec 25) (s : State) : Out := s.branch (fun _ => true) (s.rel off)

end Sys2Proof.Machine
end

