-- ==== Sys2Proof/Machine/Msg.lean ====
section
/-! DEFINITION. The message instructions, major 0x12 (08_messages R163 to R181), and the events of puts, gets, increments and messages. -/

namespace Sys2Proof.Machine

/-- The local offset that a spec holds (R165). -/
def specOff (w : Word) : Nat := (w.extractLsb' 0 20).toNat

/-- The length that a spec holds (R165). -/
def specLen (w : Word) : Nat := (w.extractLsb' 32 11).toNat

/-- A physical address lies in a local-memory window of this device or of a peer (R25, R28, R166); for a counter or a ring, of a far
core. -/
def State.inLocalWindow (s : State) (pa : Nat) (farOnly : Bool) : Bool :=
  match s.place pa with
  | .loc u _ => ! farOnly || kindOf u == .far
  | .peer _ q =>
    (decide (0x900000000000 ≤ q) && decide (q < 0x900010000000))
      || (! farOnly && decide (0x910000000000 ≤ q) && decide (q < 0x910004000000))
  | _ => false

/-- Check 2 of R166: the local range is in range and lies in no guarded region. -/
def State.localRangeOk (s : State) (off n : Nat) : Bool :=
  n == 0 || (s.localInRange s.cur s.cx.priv off n && ! s.guardedByOther s.cur none off n)

/-- Checks 3 and 4 of R166 on the remote address. -/
def State.checkRemote (s : State) (ra : Word) (n : Nat) (load farOnly : Bool) : Except Cause (State × Nat) :=
  if ra.extractLsb' 58 6 ≠ 0#6 ∨ ra.toNat < 0x100000 then .error .access
  else
    match s.translate s.cur s.c ra (if load then .load else .store) with
    | .error e => .error e
    | .ok (s1, pa, _) =>
      if s1.inLocalWindow pa farOnly && decide (ra.toNat % 16384 + max n 1 ≤ 16384) then .ok (s1, pa) else .error .access

/-- The checks of R166 in their order, then the access; a word that sends local bytes waits for what is yet to write them. `spec` is absent for
CINC. -/
def State.message (s : State) (spec : Option Word) (ra : Word) (load farOnly : Bool)
    (act : State → Nat → State) : Out :=
  let n := match spec with | some w => specLen w | none => 0
  let off := match spec with | some w => specOff w | none => 0
  if s.ux.maxmsg.toNat < n then s.trap .access (spec.getD 0#64)
  else if ! s.localRangeOk off n then s.trap .access (BitVec.ofNat 64 off)
  else
    match s.checkRemote ra n load farOnly with
    | .error e => s.trap e ra
    | .ok (s1, pa) =>
      if load then (act s1 pa).done else s1.queued (if s1.ownPending off n then .next s1.hold else (act s1 pa).done)

/-- A message access of the word being issued. -/
def State.msgReq (s : State) (ra : Word) (pa : Nat) (act : Action) (rel : Bool) : Req :=
  ⟨s.issuer s.cur s.c, s.po, s.pc, ra, pa, act, false, rel, false⟩

/-- The bytes that a spec names, read at issue (R167). -/
def State.specBytes (s : State) (spec : Word) : List Byte := s.ownBytes (specOff spec) (specLen spec)

/-- PUT (R166, R167). -/
def execPut (a b : Reg) (s : State) : Out :=
  let bs := s.specBytes (s.g a)
  s.message (some (s.g a)) (s.g b) false false fun s1 pa =>
    (s1.tick).post (s1.msgReq (s1.g b) pa (.put bs none) false)

/-- PUTC (R166 to R168). -/
def execPutc (d a b : Reg) (s : State) : Out :=
  let bs := s.specBytes (s.g a)
  s.message (some (s.g a)) (s.g b) false true fun s1 pa =>
    (s1.tick).post (s1.msgReq (s1.g b) pa (.put bs (some ((s1.g d).toNat % 256))) true)

/-- GET (R166, R167). -/
def execGet (d a b : Reg) (s : State) : Out :=
  let lo := specOff (s.g a)
  let n := specLen (s.g a)
  s.message (some (s.g a)) (s.g b) true false fun s1 pa =>
    (s1.defer s1.cur s1.c d .pending).post (s1.msgReq (s1.g b) pa (.get lo n s1.po) false)

/-- CINC (R166 to R168). -/
def execCinc (d a b : Reg) (s : State) : Out :=
  s.message none (s.g b) false true fun s1 pa =>
    (s1.tick).post (s1.msgReq (s1.g b) pa (.cinc ((s1.g d).toNat % 256) (s1.g a)) true)

/-- A far core alone executes the word (R56). -/
def State.farOnly (s : State) (act : Out) : Out := s.profile (s.kind == .far) act

/-- CGET (R169): an acquire before it is performed first (R142). -/
def execCget (d a : Reg) (s : State) : Out :=
  s.farOnly (if s.ownAcquires then .next s.hold else (s.deferG d (s.counter s.cur ((s.g a).toNat % 256))).done)

/-- A waiting word: its segment ends, and it acts at the park (R67). -/
def State.waitOn (s : State) (w : Wait) : Out := .next (s.modC fun x => { x with wait := some w, parking := true })

/-- WAITC (R170). -/
def execWaitc (a b : Reg) (s : State) : Out := s.farOnly (s.waitOn (.waitc (s.g a) (s.g b)))

/-- WTARM (R172). -/
def execWtarm (d a b : Reg) (s : State) : Out :=
  s.farOnly (
    let w := s.g d
    let off := s.g b
    let e := w.toNat % 64
    let cnt := w.extractLsb' 8 8
    if w.getLsbD 63 then (s.freeWte s.cur e).done
    else if (s.wte s.cur e).armed then s.trap .access w
    else if off.extractLsb' 0 6 ≠ 0#6 then s.trap .align off
    else if ! s.localRangeOk off.toNat 64 then s.trap .access off
    else s.reading off.toNat 64 (
      let s1 := s.setWte s.cur e ⟨true, cnt, s.g a, s.ownBytes off.toNat 64, s.c, false, s.cx.lid⟩
      (if reaches (s1.counter s1.cur cnt.toNat) (s.g a) then s1.fire s1.cur e else s1).done))

/-- The global index of a unit among its kind (R11, R414). -/
def unitIndex (u : Nat) : Nat := u % 512

/-- SEND (R166, R179). -/
def execSend (d a b : Reg) (s : State) : Out :=
  let bs := s.specBytes (s.g a)
  s.message (some (s.g a)) (s.g b) false true fun s1 pa =>
    let w := s1.g d
    let m : Message := ⟨false, s1.dev, unitIndex s1.cur, s1.kind, s1.c, 0, w.extractLsb' 32 32, bs⟩
    (s1.tick).post (s1.msgReq (s1.g b) pa (.send (w.toNat % 16) m) true)

/-- RECV (R180). -/
def execRecv (d a b : Reg) (s : State) : Out := s.farOnly (s.waitOn (.recv d (s.g a) (s.g b)))

/-! ## Events -/

/-- PUT_DELIVER (R167, R168). -/
def execPutDeliver (r : Req) (s : State) : Out := s.performEvent r

/-- GET_SERVE (R167). -/
def execGetServe (r : Req) (s : State) : Out := s.performEvent r

/-- COUNTER_INCREMENT (R171): the first posted increment of the counter by the amount is applied. -/
def execCounterIncrement (core : Nat) (cnt : BitVec 8) (amount : Word) (s : State) : Out :=
  match s.flight.find? fun r =>
      s.unitAt r.pa == some core && s.mayPerform r &&
        (match r.act with | .cinc n k => n == cnt.toNat && k == amount | _ => false) with
  | some r => s.performEvent r
  | none => .next s

/-- HAND_OFF_RETRY (R172): the held hand-offs that stand first for ring 0. -/
def execHandOffRetry (core : Nat) (s : State) : Out := .next (s.retryHeld core heldHandOff)

/-- MESSAGE_DEPOSIT (R176). -/
def execMessageDeposit (r : Req) (s : State) : Out := s.performEvent r

/-- MESSAGE_RETRY (R176): the held messages that stand first for their rings. -/
def execMessageRetry (core : Nat) (s : State) : Out := .next (s.retryHeld core fun h => ! heldHandOff h)

end Sys2Proof.Machine
end

