-- ==== Sys2Proof/Machine/Repeat.lean ====
section
/-! DEFINITION. Fetching through the overlays (03_encoding R47, 18_engines R361), the repetition buffer (10_vector R224 to R229), the
re-dispatch of discarded instructions (R223), and the vector unit's events. -/

namespace Sys2Proof.Machine

/-! ## Fetching -/

/-- The overlay entry that a fetch of a context at an address hits (R361). -/
def State.overlayOf (s : State) (u c : Nat) (pc : Word) : Option Overlay :=
  (s.unit u).overlays.toList.find? fun e =>
    e.valid && decide (e.va.toNat ≤ pc.toNat) && decide (pc.toNat < e.va.toNat + e.len)
      && e.asid == (s.ctx u c).asr.extractLsb' 32 12 && decide (0x100000 ≤ pc.toNat)

/-- The word that a context's code holds at an address (R47); `none` where no resident overlay holds it. -/
def State.fetchAt (s : State) (u c : Nat) (pc : Word) : Option Word32 :=
  match s.overlayOf u c pc with
  | none => none
  | some e => some (wordOfBytes ((s.unit u).code.readBytes (e.off + (pc.toNat - e.va.toNat)) 4))

/-- A helper's fetch outside every resident overlay (R59, R396): it parks, its results land, it stops as STOPH stops it with its PC at the
missing word, and the control context is to take CODEABSENT with the missing address. -/
def State.helperAbsent (s : State) (u c : Nat) (pc : Word) : State :=
  (s.modCtx u c fun x => { x with parking := true, why := .absent pc }).parkNow u c

/-- A word that is not resident (R47, R396): the control context traps CODEABSENT precisely, a helper stops. -/
def State.codeAbsent (s : State) (pc : Word) : State :=
  if s.c = 0 then s.trapAt .codeAbsent pc else s.helperAbsent s.cur s.c pc

/-! ## The body (R225, R226) -/

/-- A word that a body may hold: VINT, VFP, VMOV and VCVT but for VFDIV, VFSQRT and VEXT (R225). -/
def bodyWord : Instr → Bool
  | .vadd _ _ _ _ _ | .vsub _ _ _ _ _ | .vmul _ _ _ _ _ | .vmulh _ _ _ _ _ | .vmac _ _ _ _ _ | .vmin _ _ _ _ _ | .vmax _ _ _ _ _
  | .vminu _ _ _ _ _ | .vmaxu _ _ _ _ _ | .vand _ _ _ _ _ | .vor _ _ _ _ _ | .vxor _ _ _ _ _ | .vshl _ _ _ _ _ | .vshr _ _ _ _ _
  | .vsar _ _ _ _ _ | .vclmul _ _ _ _ _ | .vclmulh _ _ _ _ _ | .vpopc _ _ _ _
  | .vfadd _ _ _ _ _ _ | .vfsub _ _ _ _ _ _ | .vfmul _ _ _ _ _ _ | .vfma _ _ _ _ _ _ | .vfmin _ _ _ _ _ | .vfmax _ _ _ _ _
  | .vsel _ _ _ _ _ | .vbcast _ _ _ | .vins _ _ _ _ _ | .vperm _ _ _ _ | .vslide _ _ _ _
  | .vred _ _ _ _ | .vcvt _ _ _ _ _ _ | .vmxs _ _ _ | .vmxq _ _ _ _ | .vmxd _ _ _ _ | .vdot _ _ _ _ _ => true
  | _ => false

/-- A body word with `p` added to each field that names a vector register (R226). -/
def stagger (p : VReg) : Instr → Instr
  | .vadd w m d a b => .vadd w m (d + p) (a + p) (b + p)
  | .vsub w m d a b => .vsub w m (d + p) (a + p) (b + p)
  | .vmul w m d a b => .vmul w m (d + p) (a + p) (b + p)
  | .vmulh w m d a b => .vmulh w m (d + p) (a + p) (b + p)
  | .vmac w m d a b => .vmac w m (d + p) (a + p) (b + p)
  | .vmin w m d a b => .vmin w m (d + p) (a + p) (b + p)
  | .vmax w m d a b => .vmax w m (d + p) (a + p) (b + p)
  | .vminu w m d a b => .vminu w m (d + p) (a + p) (b + p)
  | .vmaxu w m d a b => .vmaxu w m (d + p) (a + p) (b + p)
  | .vand w m d a b => .vand w m (d + p) (a + p) (b + p)
  | .vor w m d a b => .vor w m (d + p) (a + p) (b + p)
  | .vxor w m d a b => .vxor w m (d + p) (a + p) (b + p)
  | .vshl w m d a b => .vshl w m (d + p) (a + p) (b + p)
  | .vshr w m d a b => .vshr w m (d + p) (a + p) (b + p)
  | .vsar w m d a b => .vsar w m (d + p) (a + p) (b + p)
  | .vclmul w m d a b => .vclmul w m (d + p) (a + p) (b + p)
  | .vclmulh w m d a b => .vclmulh w m (d + p) (a + p) (b + p)
  | .vpopc w m d a => .vpopc w m (d + p) (a + p)
  | .vfadd z rm m d a b => .vfadd z rm m (d + p) (a + p) (b + p)
  | .vfsub z rm m d a b => .vfsub z rm m (d + p) (a + p) (b + p)
  | .vfmul z rm m d a b => .vfmul z rm m (d + p) (a + p) (b + p)
  | .vfma z rm m d a b => .vfma z rm m (d + p) (a + p) (b + p)
  | .vfmin z m d a b => .vfmin z m (d + p) (a + p) (b + p)
  | .vfmax z m d a b => .vfmax z m (d + p) (a + p) (b + p)
  | .vsel w d a b m => .vsel w (d + p) (a + p) (b + p) m
  | .vbcast w d m => .vbcast w (d + p) m
  | .vins w d m hi lo => .vins w (d + p) m hi lo
  | .vperm w d a b => .vperm w (d + p) (a + p) (b + p)
  | .vslide w d a m => .vslide w (d + p) (a + p) m
  | .vred op w d a => .vred op w (d + p) (a + p)
  | .vcvt o m dst src d a => .vcvt o m dst src (d + p) (a + p)
  | .vmxs f d a => .vmxs f (d + p) (a + p)
  | .vmxq f d a b => .vmxq f (d + p) (a + p) (b + p)
  | .vmxd f d a b => .vmxd f (d + p) (a + p) (b + p)
  | .vdot fp m d a b => .vdot fp m (d + p) (a + p) (b + p)
  | i => i

/-- The rounding-mode field of a vector word, as its issue resolves it. -/
def wordMode : Instr → RM
  | .vfadd _ rm _ _ _ _ | .vfsub _ rm _ _ _ _ | .vfmul _ rm _ _ _ _ | .vfma _ rm _ _ _ _ | .vfdiv _ rm _ _ _ _ => rm
  | .vfsqrt _ rm _ _ _ => rm
  | .vred op _ _ _ => redMode op
  | .vcvt _ _ _ _ _ _ | .vmxs _ _ _ | .vmxq _ _ _ _ | .vmxd _ _ _ _ | .vdot _ _ _ _ _ => .dyn
  | _ => .rne

/-- What the check of a body word finds (R225). -/
inductive BodyCheck where
  | ok
  | absent (pc : Word)
  | illegal (w : Word32)

/-- The body words checked in body order (R225). -/
def State.checkBody (s : State) (u c : Nat) (pc : Word) : Nat → BodyCheck
  | 0 => .ok
  | n + 1 =>
    match s.fetchAt u c pc with
    | none => .absent pc
    | some w =>
      match decodeCop w with
      | some i => if ! fldS w && bodyWord i then s.checkBody u c (pc + 4#64) n else .illegal w
      | none => .illegal w

/-- The state with a repetition of a context in place of any that it had. -/
def State.putReplay (s : State) (u : Nat) (r : Replay) : State :=
  s.modUnit u fun x => { x with replay := (x.replay.filter fun o => o.ctx != r.ctx) ++ [r] }

/-- RPT (R224 to R226): the fields hold count − 1 and length − 1. DESIGN CHOICE: the word itself takes no sequence number, no ring entry and no
place in the queue, since it dispatches no instruction to the unit; log entry 104. -/
def execRpt (count : BitVec 8) (len : BitVec 4) (stride : BitVec 4) (s : State) : Out :=
  s.profile s.cx.ve (s.copWord fun s1 =>
    let u := s1.cur
    let c := s1.c
    let base := s1.pc + 4#64
    match s1.checkBody u c base (len.toNat + 1) with
    | .absent a => s1.codeAbsent a
    | .illegal w => s1.trapAt .illegal (w.setWidth 64)
    | .ok =>
      (if count = 0#8 then s1.dropReplay u c
       else s1.putReplay u ⟨c, base, len.toNat + 1, [], count.toNat + 1, stride.toNat, 1, 0⟩).advance)

/-! ## Passes (R226, R227) -/

/-- One staggered word of a pass dispatched. -/
def State.replayWord (s : State) (u : Nat) (r : Replay) (w : RWord) : State :=
  let i := stagger (BitVec.ofNat 4 (r.pass * r.stride)) w.instr
  let seq := (s.ctx u r.ctx).cseq
  let s1 := s.dispatch u r.ctx w.pc (BitVec.ofNat 8 r.pass) 1#4 (encode false i) w.opa w.opb
  let k : VCmd := ⟨r.ctx, s.po, seq, w.pc, i, w.opa, w.opb, w.rm, none, s.issuer u r.ctx⟩
  (s1.tick).modUnit u fun x => { x with vq := x.vq ++ [k] }

/-- The words of the current pass dispatched while the queue has room. -/
def State.replayPass (s : State) (u : Nat) (r : Replay) : Nat → State × Replay
  | 0 => (s, r)
  | fuel + 1 =>
    match r.body[r.word]? with
    | none => (s, { r with pass := r.pass + 1, word := 0 })
    | some w =>
      if 16 ≤ (s.unit u).vq.length then (s, r)
      else (s.replayWord u r w).replayPass u { r with word := r.word + 1 } fuel

/-- The repetition that the vector unit replays: one whose pass 0 has issued whole, while the queue has room. -/
def State.replayNext (s : State) (u : Nat) : Option Replay :=
  if 16 ≤ (s.unit u).vq.length then none else (s.unit u).replay.find? fun r => r.body.length == r.len

/-- REPLAY_PASS (R226): one pass, or as much of it as the queue holds; after the last pass the replay has finished. -/
def execReplayPass (u : Nat) (s : State) : Out :=
  match s.replayNext u with
  | none => .next s
  | some r =>
    let t := s.replayPass u r 17
    .next (if t.2.count ≤ t.2.pass then t.1.dropReplay u r.ctx else t.1.putReplay u t.2)

/-- VECTOR_EXECUTE (R216): the instruction at the head of the queue, once what it waits for is done. -/
def execVectorExecute (u : Nat) (s : State) : Out :=
  match (s.unit u).vq with
  | [] => .next s
  | k :: _ =>
    if s.vready u k then .next ((s.modUnit u fun x => { x with vq := x.vq.drop 1 }).vrun u k) else .next s

/-! ## Re-dispatch (R223) -/

/-- The entries from a number to the last dispatched whose ST is 2 or 3, in sequence order (R223). -/
def Ctx.redoEntries (x : Ctx) (seq : BitVec 16) : List DEntry :=
  x.dring.filter fun e =>
    decide ((e.seq - seq).toNat < (x.cseq - seq).toNat) && (e.st == 2#4 || e.st == 3#4)

/-- The scalar destination of a vector word (R217). -/
def scalarDest : Instr → Option Reg
  | .vcmp _ _ _ k _ _ => some (cmpDest k)
  | .vfcmp _ _ _ k _ _ => some (cmpDest k)
  | .vext _ m _ _ _ => some m
  | _ => none

/-- A matrix command asks for a token (R248). -/
def matAsks : Instr → Bool
  | .mfmt k _ | .mzero k _ | .mma k _ _ _ | .mmas k _ _ _ | .mldc k _ _ _ | .mstc k _ _ _ | .mprog k _ _ | .mrec k _ _ _
  | .mtlist k _ _ => k
  | _ => false

/-- An array command in the slice's order again: in place of the one that a stop has marked, whose acceptance it keeps, or accepted now (R291). -/
def State.acceptAgain (s : State) (sl : Nat) (old : BitVec 16) (k : ArrayCmd) : State :=
  let mine := fun (o : ArrayCmd) => o.ctx == k.ctx && o.lid == k.lid && o.seq == old && o.halted
  s.modSlice sl fun x =>
    { x with
      fifo := if x.fifo.any mine then x.fifo.map fun o => if mine o then { k with po := o.po } else o else x.fifo ++ [k]
      halves := x.halves.map fun h => if h.ctx = k.ctx ∧ h.seq = old then { h with seq := k.seq } else h }

/-- One entry dispatched again, with a new number (R223), an array command from the row operation at which it stopped (R290, R291); its old entry
keeps its ST. DESIGN CHOICE: a STOP that comes when a re-dispatch is half made leaves DRPLY as it stands, so that the next one dispatches again
what it finds with ST 2 or 3, the entries that this one has dispatched among them; log entry 105. DESIGN
CHOICE: a word that takes its mode from FRM, and ABUF and AOUT, take FRM and VE as they stand at the re-dispatch; log entry 90. -/
def State.redoEntry (s : State) (u c : Nat) (e : DEntry) : State :=
  match decodeCop e.word with
  | none => s
  | some i =>
    let seq := (s.ctx u c).cseq
    let who := s.issuer u c
    let s1 := s.dispatch u c e.pc e.pass e.unit e.word e.opa e.opb
    if e.unit = 1#4 then
      let dst := scalarDest i
      let k : VCmd := ⟨c, s.po, seq, e.pc, i, e.opa, e.opb, (s.ctx u c).mode (wordMode i), dst.map fun _ => s.po, who⟩
      let s2 := match dst with | some g => s1.defer u c g .pending | none => s1.tick
      s2.modUnit u fun x => { x with vq := x.vq ++ [k] }
    else if e.unit = 2#4 then
      let k : MatCmd := ⟨c, matAsks i, s.po, seq, e.pc, i, e.opa, e.opb, who⟩
      (s1.tick).modMat u fun x => { x with fifo := x.fifo ++ [k] }
    else
      (s1.tick).acceptAgain (u - Config.sliceUnit0) e.seq ⟨c, s.po, seq, e.pc, i, e.opa, e.opb, (s.ctx u c).ve, (s.ctx u c).lid, s.po, false, 0#24, e.fva.toNat⟩

/-- Entries dispatched again while their queues have a place; those that remain (R223). -/
def State.redoEntries (s : State) (u c : Nat) (l : List DEntry) : State × List DEntry :=
  match l with
  | [] => (s, [])
  | e :: rest => if s.redoFull u c e then (s, e :: rest) else (s.redoEntry u c e).redoEntries u c rest

/-! ## A halted replay (R228, R229) -/

/-- The register that a body word names for its mask (R214); g0 where it has none. -/
def bodyMask : Instr → Reg
  | .vadd _ m _ _ _ | .vsub _ m _ _ _ | .vmul _ m _ _ _ | .vmulh _ m _ _ _ | .vmac _ m _ _ _ | .vmin _ m _ _ _ | .vmax _ m _ _ _
  | .vminu _ m _ _ _ | .vmaxu _ m _ _ _ | .vand _ m _ _ _ | .vor _ m _ _ _ | .vxor _ m _ _ _ | .vshl _ m _ _ _ | .vshr _ m _ _ _
  | .vsar _ m _ _ _ | .vclmul _ m _ _ _ | .vclmulh _ m _ _ _ | .vpopc _ m _ _ => m
  | .vfadd _ _ m _ _ _ | .vfsub _ _ m _ _ _ | .vfmul _ _ m _ _ _ | .vfma _ _ m _ _ _ | .vfmin _ m _ _ _ | .vfmax _ m _ _ _ => m
  | .vcvt _ m _ _ _ _ | .vdot _ m _ _ _ => m
  | _ => 0#5

/-- The scalar operands that a body word read: those of its latest entry in the ring, else the register it names as it stands. -/
def State.bodyOperands (s : State) (u c : Nat) (pc : Word) (i : Instr) : Word × Word :=
  match (s.ctx u c).dring.reverse.find? fun e => e.pc == pc with
  | some e => (e.opa, e.opb)
  | none =>
    match i with
    | .vsel _ _ _ _ m | .vbcast _ _ m | .vins _ _ m _ _ | .vslide _ _ _ m => (s.reg u c m, 0#64)
    | _ => (if bodyMask i = 0#5 then 0#64 else s.reg u c (bodyMask i), 0#64)

/-- Body words read again from the code store; `none` where one is not there or is no body word. -/
def State.bodyAgain (s : State) (u c : Nat) (pc : Word) : Nat → Option (List RWord)
  | 0 => some []
  | n + 1 =>
    match s.fetchAt u c pc with
    | none => none
    | some w =>
      match decodeCop w with
      | none => none
      | some i =>
        let o := s.bodyOperands u c pc i
        (s.bodyAgain u c (pc + 4#64) n).map fun l => ⟨pc, i, o.1, o.2, (s.ctx u c).mode (wordMode i)⟩ :: l

/-- RV cleared (R229). -/
def State.clearRv (s : State) (u c : Nat) : State :=
  s.modCtx u c fun x => { x with replay := { x.replay with rv := false } }

/-- A context with RV = 1 resumes (R229): at the recorded PC the replay goes on from PASS and WORD; at any other PC it is lost.
DEDUCED, log entry 32. -/
def State.resumeReplay (s : State) (u c : Nat) : State :=
  let x := s.ctx u c
  let r := x.replay
  if ! r.rv then s
  else if x.pc ≠ r.pc then s.clearRv u c
  else
    let base := x.pc - BitVec.ofNat 64 (4 * r.dist.toNat)
    match s.fetchAt u c (base - 4#64) with
    | none => ({ (s.modUnit u fun y => { y with cur := c }) with cur := u }).codeAbsent (base - 4#64)
    | some w =>
      match decodeCop w with
      | some (.rpt count len stride) =>
        let n := len.toNat + 1
        match s.bodyAgain u c base (min n r.dist.toNat) with
        | some body =>
          ((s.putReplay u ⟨c, base, n, body, count.toNat + 1, stride.toNat, r.pass.toNat, r.word.toNat⟩).clearRv u c)
        | none => s.clearRv u c
      | _ => s.clearRv u c

/-- The context is to re-dispatch before its first word after ERET or START.RES: DRPLY.V, no handler running (R223). DEDUCED, log entry 32. -/
def State.redoDue (s : State) (u c : Nat) : Bool :=
  let x := s.ctx u c
  x.live && x.resuming && ! x.act && x.drply.getLsbD 63

/-- The context is to continue or lose a halted replay before its first word after ERET or START.RES (R229): within a handler, the replay that it
interrupts is kept. DEDUCED, log entry 32. -/
def State.resumeDue (s : State) (u c : Nat) : Bool :=
  let x := s.ctx u c
  x.live && x.resuming && x.replay.rv && (x.act || ! x.drply.getLsbD 63) && (! x.act || x.pc == x.replay.pc)

/-- What a stop has marked of a context is dispatched again although the context runs no more: its launch is cancelled (R424, R426). -/
def State.finishing (s : State) (u c : Nat) : Bool := (s.ctx u c).redo.isSome && s.cancelling (s.ctx u c).lid

/-- REDISPATCH (R223): the entries in order while their queues have room; once their results have landed, the interrupted replay, and
V is cleared. Of a cancelled launch the entries alone. DEDUCED, log entry 109. -/
def execRedispatch (u c : Nat) (s : State) : Out :=
  if s.finishing u c then
    let r := s.redoEntries u c ((s.ctx u c).redo.getD [])
    .next (r.1.modCtx u c fun y => { y with redo := if r.2 = [] then none else some r.2 })
  else if ! s.redoDue u c then .next s
  else
    let x := s.ctx u c
    let l := match x.redo with | some l => l | none => x.redoEntries (x.drply.extractLsb' 0 16)
    let r := s.redoEntries u c l
    if r.2 ≠ [] then .next (r.1.modCtx u c fun y => { y with redo := some r.2 })
    else
      let s1 := r.1.resolve u c
      if s1.outstanding u c false then .next (s1.modCtx u c fun y => { y with redo := some [] })
      else
        let s2 := (s1.land u c).modCtx u c fun y => { y with redo := none, drply := setBit y.drply 63 false }
        .next (s2.resumeReplay u c)

/-- REPLAY_RESUME (R229). -/
def execReplayResume (u c : Nat) (s : State) : Out := if s.resumeDue u c then .next (s.resumeReplay u c) else .next s

end Sys2Proof.Machine
end

