-- ==== Sys2Proof/Machine/Registers.lean ====
section
/-! DEFINITION. The system registers (04_contexts R88 to R90, 21_system R414): what each reads, what a write does under its Access column
(00_scope R7), RDSR and WRSR, and the events that are single register accesses. -/

namespace Sys2Proof.Machine

/-! ## Values -/

/-- The kind code of a unit (R414). -/
def kindCode : UnitKind → Nat
  | .far => 0
  | .slice => 1
  | .stack => 2

/-- CTXID (R88). -/
def State.ctxId (s : State) : Word :=
  BitVec.ofNat 64 (s.c % 16 + (match s.kind with | .far => 0 | _ => 256))

/-- UNITID (R414). -/
def State.unitId (s : State) : Word := BitVec.ofNat 64 (kindCode s.kind * 1024 + unitIndex s.cur)

/-- The enabled units among the first `n` of a kind. -/
def State.countOn (s : State) (n : Nat) (f : Nat → PartUnit) : Nat :=
  if s.whole then n else ((List.range n).filter fun k => s.on (f k)).length

/-- The size of the unit save area in units of 4 KiB (R413). -/
def saveUnits : UnitKind → Nat
  | .far => 48
  | .slice => 20
  | .stack => 4

/-- CAP (R413). -/
def State.capWord (s : State) : Word :=
  let links := (s.ports.filter fun p => decide (0 < p.2.lanes)).length
  BitVec.ofNat 64 (s.dev % 32 * 2 ^ 59 + s.countOn 8 .stackUnit * 2 ^ 55 + s.countOn 32 .matrix * 2 ^ 49 + s.pchCount * 2 ^ 39
    + s.countOn 512 .slice * 2 ^ 29 + s.countOn 512 .farCore * 2 ^ 19 + links * 2 ^ 14 + saveUnits s.kind)

/-- FCTL (R88). -/
def Ctx.fctl (x : Ctx) : Word := 0#56 ++ x.frm ++ x.fxs

/-- DRDAT (R222). -/
def Ctx.drdat (x : Ctx) : Word :=
  match x.ringEntry (x.drsel.extractLsb' 0 16) with
  | some e => e.dw (x.drsel.extractLsb' 16 3).toNat
  | none => 0#64

/-- ASTATE (R274). -/
def Ctx.astate (x : Ctx) : Word :=
  0#24 ++ x.arb ++ 0#5 ++ BitVec.ofBool x.chk ++ 0#1 ++ BitVec.ofBool x.pe ++ x.sel

/-- The home that TRSEL selects, where it exists and is enabled (R147). -/
def State.traceHome (s : State) : Option Nat :=
  let w := s.ux.trsel
  let i := (w.extractLsb' 0 10).toNat
  match (w.extractLsb' 12 2).toNat with
  | 0 => if i < 512 ∧ s.on (.slice i) then some i else none
  | 1 => if i < 512 ∧ s.pchOn i then some (512 + i) else none
  | 2 => if i < 512 ∧ s.on (.farCore i) then some (1024 + i) else none
  | _ => if s.unitOn (512 + i) then some (1536 + i) else none

/-- TRCTL of a home (R147): COUNT saturates. -/
def Trace.ctl (t : Trace) : Word :=
  BitVec.ofNat 64 (min t.count (2 ^ 32 - 1) * 2 ^ 32 + t.asid.toNat * 2 ^ 20 + b2n t.af * 4 + b2n t.wrap * 2 + b2n t.en)

/-- PLCFG of the selected plot (R272). -/
def State.plcfg (s : State) : Word :=
  let x := s.slice s.ownSlice
  let m := x.plsel.toNat
  if 24 ≤ m then 0#64
  else
    let p := x.plot m
    let busy := x.fifo.any fun k => ! numbered k.instr && k.opb.toNat == m
    BitVec.ofNat 64 (b2n busy * 128 + p.wid.toNat * 16 + b2n p.plane)

/-- RUN (R367): set by NRRUN (R384), cleared by the NRWAIT that takes the completion (R386). DEDUCED: it stands while the completion
waits; log entry 15. -/
def Near.run (x : Near) : Bool := x.stream.isSome

/-- NMCTL (R367). -/
def State.nmctl (s : State) : Word :=
  let p := pchOf s.cur
  let x := s.nearOf p
  BitVec.ofNat 64 (x.step % 4 * 2 ^ 54 + b2n x.nm * 2 ^ 53 + b2n x.run * 2 ^ 52 + (if x.nm then x.lid % 2 ^ 16 else 0) * 2 ^ 32 + p % 1024)

/-- A value on one kind of unit, zero on the others. -/
def State.onKind (s : State) (k : UnitKind) (w : Word) : Word := if s.kind == k then w else 0#64

/-- A register of M level: zero at U level (R7). -/
def State.mOnly (s : State) (w : Word) : Word := match s.cx.priv with | .u => 0#64 | _ => w

/-- What a system register reads (R88, R414); CYCLE is read apart, since it is a free value. DEDUCED, log entry 48. -/
def State.sysValue (s : State) (r : Nat) : Word :=
  let x := s.cx
  let y := s.ux
  match r with
  | 0x000 => s.ctxId
  | 0x001 => x.wp
  | 0x002 => x.frb
  | 0x003 => x.frs
  | 0x004 => x.bsp
  | 0x005 => x.ctlw
  | 0x006 => x.fctl
  | 0x007 => x.lmoor
  | 0x008 => x.nhpc
  | 0x009 => x.nhwp
  | 0x00A => x.cseq.setWidth 64
  | 0x00B => x.msp
  | 0x00C => x.srseed.setWidth 64
  | 0x040 => x.cur.info &&& 0xFF#64
  | 0x041 => x.cur.tval
  | 0x042 => x.cur.tpc
  | 0x043 => s.cbOf s.cur s.c
  | 0x044 => x.cur.info
  | 0x045 => x.twb
  | 0x046 => x.cur.fpc
  | 0x047 => x.asr
  | 0x048 => x.ptroot
  | 0x049 => x.drsel
  | 0x04A => x.drdat
  | 0x04B => x.drply
  | 0x04C => s.onKind .slice x.astate
  | 0x04D => x.ctab
  | 0x060 => y.tvec
  | 0x061 => y.fence.setWidth 64 <<< 12
  | 0x062 => y.maxmsg.setWidth 64
  | 0x063 => s.onKind .far (y.mrqb.setWidth 64 <<< 10)
  | 0x064 => y.hend.setWidth 64
  | 0x065 => y.hdead.setWidth 64
  | 0x066 => y.lapres
  | 0x067 => s.onKind .stack s.nmctl
  | 0x068 => s.onKind .slice ((s.slice s.ownSlice).plsel.setWidth 64)
  | 0x069 => s.onKind .slice s.plcfg
  | 0x06A => y.trsel
  | 0x06B => match s.traceHome with | some h => (s.home h).trace.ctl | none => 0#64
  | 0x06C => match s.traceHome with | some h => BitVec.ofNat 64 (s.home h).trace.base | none => 0#64
  | 0x06D => y.usave
  | 0x06E => s.capWord
  | 0x06F => s.unitId
  | 0x070 => y.errlog
  | 0x071 => s.mOnly y.mroot
  | 0x072 => s.mOnly y.mtvec
  | _ => 0#64

/-! ## Reads -/

/-- The registers whose read clears them (R7): HEND, HDEAD, ERRLOG. -/
def State.readClears (s : State) (r : Nat) : State :=
  match r with
  | 0x064 => s.modU fun y => { y with hend := 0#11 }
  | 0x065 => s.modU fun y => { y with hdead := 0#11 }
  | 0x070 => s.modU fun y => { y with errlog := 0#64 }
  | _ => s

/-- A read: the value, and what the read does. -/
def State.sysRead (s : State) (r : Nat) : State × Word :=
  if r = 0x00D then (s.useFree, Config.cycleRead s.free) else (s.readClears r, s.sysValue r)

/-- A vector instruction of the context has not completed: an access of CTLW, FCTL or SRSEED holds (R234). -/
def State.vectorBusy (s : State) (r : Nat) : Bool :=
  (r == 0x005 || r == 0x006 || r == 0x00C) && ((s.ux.vq.any fun k => k.ctx == s.c) || s.replaying s.cur s.c)

/-- An ASEL, ASETRB or ACHK of the context has not executed: a read of ASTATE holds (R274). -/
def State.astateBusy (s : State) (r : Nat) : Bool :=
  r == 0x04C && s.kind == .slice && (s.slice s.ownSlice).fifo.any fun k =>
    k.ctx == s.c && (match k.instr with | .asel _ | .asetrb _ | .achk _ => true | _ => false)

/-- RDSR (R89). -/
def execRdsr (d : Reg) (r : BitVec 12) (s : State) : Out :=
  if s.vectorBusy r.toNat || s.astateBusy r.toNat then .next s.hold
  else
    let x := s.sysRead r.toNat
    (x.1.setG d x.2).done

/-! ## Window registers (R90) -/

/-- The ring at a base with a capacity lies in local memory, and the capacity is in range (R90). -/
def State.ringOk (s : State) (frb : Word) (cap : Nat) : Bool :=
  frb.extractLsb' 0 6 == 0#6 && decide (4 ≤ cap) && decide (cap ≤ 64) && decide (frb.toNat + cap * 192 ≤ localSize s.kind)

/-- Step 2 of R90: every resident frame spilled from the ring as it stood, then the new ring with WP at its top slot. -/
def State.moveRing (s : State) (frb : Word) (cap : BitVec 8) : Seq :=
  match s.spillTo s.cur s.c 0 256 with
  | (s1, some e) => (s1, some e)
  | (s1, none) =>
    (s1.modC fun x => { x with frb := frb, cap := cap, wp := frb + BitVec.ofNat 64 ((cap.toNat - 1) * 192) }, none)

/-- A sequence after another. -/
def Seq.andThen (r : Seq) (f : State → Seq) : Seq :=
  match r with
  | (s1, some e) => (s1, some e)
  | (s1, none) => f s1

/-- The resident count that a write of FRS asks for, at most its capacity (R90). -/
def frsTarget (v : Word) : Nat := min (v.extractLsb' 8 8).toNat (v.extractLsb' 0 8).toNat

/-- A frame of the issuing context that a write of FRB or FRS may spill, or one of the `n` that it may fill, is held at its home. -/
def State.ringWaits (s : State) (n : Nat) : Bool :=
  s.spillWaits s.cur s.c 0 || s.framesWait s.cur s.c s.cx.bsp (24 * n) .load

/-- A write of FRS (R90): the check, SPILLED, the ring, the resident count. The state where it is valid; ACCESS where not. -/
def State.frsWrite (s : State) (v : Word) : Seq :=
  let cap := v.extractLsb' 0 8
  if ! s.ringOk s.cx.frb cap.toNat then (s, some (.access, v))
  else
    let s1 := s.modC fun x => { x with spilled := v.extractLsb' 32 32 }
    let r := if cap = s.cx.cap then (s1, none) else s1.moveRing s.cx.frb cap
    Seq.andThen r fun s2 =>
      let target := frsTarget v
      Seq.andThen (s2.spillTo s2.cur s2.c target 256) fun s3 => s3.fillTo s3.cur s3.c target 256

/-- A write of FRB (R90). -/
def State.frbWrite (s : State) (v : Word) : Seq :=
  if ! s.ringOk v s.cx.cap.toNat then (s, some (.access, v))
  else if v = s.cx.frb then (s, none)
  else s.moveRing v s.cx.cap

/-- A write of WP (R90). -/
def State.wpWrite (s : State) (v : Word) : Seq :=
  if s.cx.isSlot v then (s.modC fun x => { x with wp := v }, none) else (s, some (.access, v))

/-! ## Writes -/

/-- The level may write an SRW register (R7). -/
def levelWrites : Level → Bool
  | .u => false
  | _ => true

/-- PRIV after a write of a code by a level (R89): 0b10 and a raise leave it. -/
def privAfter (old : Level) (code : BitVec 2) : Level :=
  if code = 2#2 ∨ levelRank old < levelRank (levelOfCode code) then old else levelOfCode code

/-- FRM after a write (R89): 6 and 7 leave it. -/
def frmAfter (old v : BitVec 3) : BitVec 3 := if v.toNat ≤ 5 then v else old

/-- A write of CTLW by S or M (R75, R89). -/
def Ctx.putCtlw (x : Ctx) (v : Word) : Ctx :=
  { x with
    fxs := v.extractLsb' 8 5, frm := frmAfter x.frm (v.extractLsb' 5 3), ve := v.getLsbD 4
    priv := privAfter x.priv (v.extractLsb' 0 2) }

/-- A write of FCTL (R88, R89). -/
def Ctx.putFctl (x : Ctx) (v : Word) : Ctx :=
  { x with fxs := v.extractLsb' 0 5, frm := frmAfter x.frm (v.extractLsb' 5 3) }

/-- A write of SRSEED (R197). -/
def Ctx.putSeed (x : Ctx) (v : Word) : Ctx :=
  { x with srseed := if v.extractLsb' 0 32 = 0#32 then 1#32 else v.extractLsb' 0 32 }

/-- PPRIV after a write (R391). -/
def pprivAfter (old code : BitVec 2) (writer : Level) : BitVec 2 :=
  if code = 2#2 ∨ levelRank writer < levelRank (levelOfCode code) then old else code

/-- A write of TSTAT by S or M: ACT and PPRIV of the current entry (R391); none, no effect. -/
def Ctx.putTstat (x : Ctx) (v : Word) : Ctx :=
  match x.curEntry with
  | none => x
  | some i =>
    let e := x.faults.get i
    let p := pprivAfter (e.info.extractLsb' 58 2) (v.extractLsb' 58 2) x.priv
    let info := (setBit e.info 62 (v.getLsbD 62) &&& 0xF3FFFFFFFFFFFFFF#64) ||| (p.setWidth 64 <<< 58)
    { x with faults := x.faults.set i.val ⟨e.tpc, e.tval, e.fpc, info⟩ i.isLt }

/-- A write of DRPLY by S or M (R222, R223): V = 0 abandons the discarded instructions, the replay with them, and the array commands that
a stop had marked. DEDUCED, log entry 50. -/
def State.putDrply (s : State) (v : Word) : State :=
  let s1 := s.modC fun x =>
    { x with drply := v &&& 0x800000000000FFFF#64, redo := none, replay := { x.replay with rv := x.replay.rv && v.getLsbD 63 } }
  match s.kind with
  | .slice =>
    if v.getLsbD 63 then s1
    else s1.modSlice s1.ownSlice fun y => { y with fifo := y.fifo.filter fun k => ! (k.ctx == s.c && k.lid == s.cx.lid && k.halted) }
  | _ => s1

/-- A write of MSGCTL by S or M (R164). -/
def State.putMsgctl (s : State) (v : Word) : State :=
  let n := v.extractLsb' 0 11
  let s1 := if v.getLsbD 31 ∧ s.kind = .far then s.clearCounters s.cur else s
  if 64 ≤ n.toNat ∧ n.toNat ≤ 1024 ∧ n.toNat % 8 = 0 then s1.modU fun y => { y with maxmsg := n } else s1

/-- A write of TRCTL by S or M (R147): setting EN clears COUNT and starts at entry 0. DEDUCED, log entry 47. -/
def Trace.put (t : Trace) (v : Word) : Trace :=
  let t1 := { t with asid := v.extractLsb' 20 12, af := v.getLsbD 2, wrap := t.wrap && ! v.getLsbD 1, en := v.getLsbD 0 }
  if v.getLsbD 0 ∧ ! t.en then { t1 with count := 0 } else t1

/-- A write of TRCTL: at U level only the W1C bit acts (R7, R147). -/
def State.putTrctl (s : State) (v : Word) : State :=
  match s.traceHome with
  | none => s
  | some h =>
    s.modHome h fun y =>
      { y with trace := if levelWrites s.cx.priv then y.trace.put v else { y.trace with wrap := y.trace.wrap && ! v.getLsbD 1 } }

/-- A write of TRBASE by S or M (R147): ignored while EN = 1. -/
def State.putTrbase (s : State) (v : Word) : State :=
  match s.traceHome with
  | none => s
  | some h =>
    s.modHome h fun y =>
      if y.trace.en then y else { y with trace := { y.trace with base := (v &&& 0x000FFFFFFFFFF000#64).toNat } }

/-- A register of S level written (R88, R414); every other number has no effect here. -/
def State.putSrw (s : State) (r : Nat) (v : Word) : State :=
  match r with
  | 0x004 => s.modC fun x => { x with bsp := v }
  | 0x005 => s.modC fun x => x.putCtlw v
  | 0x007 => s.modC fun x => { x with lmoor := v &&& 0xE0000000000FFFFF#64 }
  | 0x008 => s.modC fun x => { x with nhpc := v }
  | 0x009 => s.modC fun x => { x with nhwp := v }
  | 0x00B => s.modC fun x => { x with msp := v }
  | 0x044 => (s.modC fun x => x.putTstat v).stopAfter s.cur s.c
  | 0x047 => s.modC fun x => { x with asr := v &&& 0x00000FFF0000FFFF#64 }
  | 0x048 => s.modC fun x => { x with ptroot := v &&& 0x000FFFFFFFFFC000#64 }
  | 0x049 => s.modC fun x => { x with drsel := v &&& 0x000000000007FFFF#64 }
  | 0x04B => s.putDrply v
  | 0x04D => s.modC fun x => { x with ctab := v }
  | 0x060 => s.modU fun y => { y with tvec := v }
  | 0x061 => s.modU fun y => { y with fence := v.extractLsb' 12 8 }
  | 0x062 => s.putMsgctl v
  | 0x063 => if s.kind = .far then s.modU fun y => { y with mrqb := v.extractLsb' 10 10 } else s
  | 0x068 => if s.kind = .slice then s.modSlice s.ownSlice fun y => { y with plsel := v.extractLsb' 0 5 } else s
  | 0x06A => s.modU fun y => { y with trsel := v &&& 0x00000000000033FF#64 }
  | 0x06C => s.putTrbase v
  | 0x06D => s.modU fun y => { y with usave := v }
  | _ => s

/-- A register of M level written (R7, R414). -/
def State.putMrw (s : State) (r : Nat) (v : Word) : State :=
  match s.cx.priv, r with
  | .m, 0x071 => s.modU fun y => { y with mroot := v &&& 0x000FFFFFFFFFC000#64 }
  | .m, 0x072 => s.modU fun y => { y with mtvec := v }
  | _, _ => s

/-- A register that every level writes: FCTL, SRSEED, the W1C bit of TRCTL. -/
def State.putAny (s : State) (r : Nat) (v : Word) : State :=
  match r with
  | 0x006 => s.modC fun x => x.putFctl v
  | 0x00C => s.modC fun x => x.putSeed v
  | 0x06B => s.putTrctl v
  | _ => s

/-- A write that needs no park and no FIFO, under the Access column (R7, R89). -/
def State.sysWrite (s : State) (r : Nat) (v : Word) : State :=
  let s1 := (s.putAny r v).putMrw r v
  if levelWrites s.cx.priv then s1.putSrw r v else s1

/-! ## PLCFG and NMCTL (R272, R368) -/

/-- The layout that a plot has once the changes accepted have been made (R272). -/
def State.plotToBe (s : State) (sl m : Nat) : Plot :=
  (s.slice sl).fifo.foldl (fun p k =>
    match k.instr with
    | .wrsr _ _ => if k.opb.toNat = m then ⟨k.opa.getLsbD 0, k.opa.extractLsb' 4 3⟩ else p
    | _ => p) ((s.slice sl).plot m)

/-- A write of PLCFG changes PL or WID of the selected plot (R272): one of WID 6 or 7, or of a plot that a rule binds, leaves the
register. -/
def State.plcfgChanges (s : State) (v : Word) : Bool :=
  let sl := s.ownSlice
  let m := (s.slice sl).plsel.toNat
  let wid := v.extractLsb' 4 3
  decide (m < 24) && decide (wid.toNat < 6) && ! s.plotBound sl m && s.plotToBe sl m != ⟨v.getLsbD 0, wid⟩

/-- A layout change enters the slice's order as an array command (R272). -/
def State.plcfgWrite (s : State) (a : Reg) (r : BitVec 12) (v : Word) : State :=
  let m := (s.slice s.ownSlice).plsel.toNat
  let k : ArrayCmd := ⟨s.c, s.po, s.cx.cseq, s.pc, .wrsr a r, v, BitVec.ofNat 64 m, true, s.cx.lid, s.po, false, 0#24, 0⟩
  (s.tick).accept s.ownSlice k

/-- No access is in progress at a channel (R369). -/
def State.channelQuiet (s : State) (p : Nat) : Bool :=
  ! s.flight.any fun r => match s.place r.pa with | .dram q _ => q == p | _ => false

/-- Near mode entered (R368, R369). -/
def State.enterNearNow (s : State) (p lid : Nat) : State :=
  s.modNear p fun x => { x with nm := true, lid := lid, entering := none }

/-- The commands of NMCTL (R368); COMMIT enters at once where the channel is quiet. -/
def State.nmctlWrite (s : State) (v : Word) : State :=
  let p := pchOf s.cur
  let x := s.nearOf p
  let c := s.c
  let step := fun (n : Nat) => s.modNear p fun y => { y with step := n }
  match (v.extractLsb' 60 4).toNat with
  | 1 => if x.nm then step 0 else s.modNear p fun y => { y with step := 1, owner := c }
  | 2 =>
    if x.step = 1 ∧ x.owner = c ∧ (v.extractLsb' 16 16).toNat = Nat.xor (p % 65536) 0xA5A5 then step 2 else step 0
  | 3 =>
    if x.step = 2 ∧ x.owner = c then
      (if s.channelQuiet p then (step 0).enterNearNow p s.cx.lid
       else (step 0).modNear p fun y => { y with entering := some s.cx.lid })
    else step 0
  | 4 => if x.nm ∧ ! x.run ∧ x.lid = s.cx.lid then (step 0).modNear p fun y => { y with nm := false } else step 0
  | _ => step 0

/-- A write of NMCTL: the word issues again until an entry under way has finished (R369). -/
def State.nmctlWord (s : State) (v : Word) : State :=
  let p := pchOf s.cur
  if (s.nearOf p).entering.isSome then s.hold
  else
    let s1 := s.nmctlWrite v
    if (s1.nearOf p).entering.isSome then s1.hold else s1.advance

/-! ## WRSR -/

/-- A write that parks first (R90): its operand is read after the park; at U level it parks and has no
effect. DEDUCED, log entry 34. It waits while a home holds a frame that it spills or fills. -/
def State.parkedWrite (s : State) (waits : State → Bool) (act : State → Seq) : Out :=
  .next (s.parkFirst fun s1 =>
    if ! levelWrites s1.cx.priv then s1.advance else if waits s1 then s1.waitFirst else seqThen (act s1) State.advance)

/-- A write of TWB (R414): a value out of place traps ACCESS. DEDUCED, log entry 46. -/
def State.twbWrite (s : State) (v : Word) : Out :=
  if ! levelWrites s.cx.priv then s.done
  else if v.extractLsb' 0 6 ≠ 0#6 ∨ localSize s.kind < v.toNat + 256 then s.trap .access v
  else (s.modC fun x => { x with twb := v }).done

/-- WRSR (R89, R90). -/
def execWrsr (a : Reg) (r : BitVec 12) (s : State) : Out :=
  let v := s.g a
  match r.toNat with
  | 0x001 => s.parkedWrite (fun _ => false) fun s1 => s1.wpWrite (s1.g a)
  | 0x002 => s.parkedWrite (fun s1 => s1.ringWaits 0) fun s1 => s1.frbWrite (s1.g a)
  | 0x003 => s.parkedWrite (fun s1 => s1.ringWaits (frsTarget (s1.g a))) fun s1 => s1.frsWrite (s1.g a)
  | 0x004 => s.parkedWrite (fun _ => false) fun s1 => (s1.putSrw 0x004 (s1.g a), none)
  | 0x045 => s.twbWrite v
  | 0x067 => if s.kind = .stack ∧ levelWrites s.cx.priv then .next (s.nmctlWord v) else s.done
  | 0x069 =>
    if s.kind = .slice ∧ levelWrites s.cx.priv ∧ s.plcfgChanges v then
      .next (s.pushTo .array fun s1 => (s1.plcfgWrite a r v).advance)
    else s.done
  | n => if s.vectorBusy n then .next s.hold else (s.sysWrite n v).done

/-! ## Single accesses as events -/

/-- A write of FRS or FRB as an event of the issuing context: its trap, or its state; at U level it has no effect (R7). -/
def State.ringEvent (s : State) (waits : Bool) (r : Seq) : Out :=
  .next (if ! levelWrites s.cx.priv || waits then s else seqThen r fun t => t)

/-- FRS_WRITE (R90). -/
def execFrsWrite (v : Word) (s : State) : Out := s.ringEvent (s.ringWaits (frsTarget v)) (s.frsWrite v)

/-- FRB_WRITE (R90). -/
def execFrbWrite (v : Word) (s : State) : Out := s.ringEvent (s.ringWaits 0) (s.frbWrite v)

/-- SRSEED_WRITE (R197). -/
def execSrseedWrite (v : Word) (s : State) : Out := .next (s.modC fun x => x.putSeed v)

/-- MSGCTL_CCLR (R164): a near unit ignores it, and U level has no effect (R7). -/
def execMsgctlCclr (s : State) : Out := .next (if s.kind = .far ∧ levelWrites s.cx.priv then s.clearCounters s.cur else s)

/-- PLCFG_WRITE (R272): the change takes its place in the slice's order. -/
def execPlcfgWrite (v : Word) (s : State) : Out :=
  if s.kind = .slice ∧ levelWrites s.cx.priv ∧ s.plcfgChanges v then .next (s.plcfgWrite 0#5 0x069#12 v) else .next s

/-- A command of NMCTL from the issuing context; other units ignore it, and U level has no effect (R7, R367, R368). -/
def State.nmctlEvent (s : State) (v : Word) : Out :=
  if s.kind = .stack ∧ levelWrites s.cx.priv then .next (s.nmctlWrite v) else .next s

/-- NMCTL_ARM (R368). -/
def execNmctlArm (s : State) : Out := s.nmctlEvent 0x1000000000000000#64

/-- NMCTL_KEY (R368). -/
def execNmctlKey (key : BitVec 16) (s : State) : Out := s.nmctlEvent (0x2#4 ++ 0#28 ++ key ++ 0#16)

/-- NMCTL_COMMIT (R368). -/
def execNmctlCommit (s : State) : Out := s.nmctlEvent 0x3000000000000000#64

/-- NMCTL_EXIT (R368). -/
def execNmctlExit (s : State) : Out := s.nmctlEvent 0x4000000000000000#64

/-- NMCTL_CANCEL (R368). -/
def execNmctlCancel (s : State) : Out := s.nmctlEvent 0#64

/-- ENTER_NEAR (R369): an entry under way finishes once the channel is quiet. -/
def execEnterNear (u : Nat) (s : State) : Out :=
  let p := pchOf u
  match (s.nearOf p).entering with
  | some lid => if s.channelQuiet p then .next (s.enterNearNow p lid) else .next s
  | none => .next s

/-- TRCTL_WRITE (R147). -/
def execTrctlWrite (v : Word) (s : State) : Out := .next (s.putTrctl v)

/-- HEND_READ (R326). -/
def execHendRead (d : Reg) (s : State) : Out := .next ((s.readClears 0x064).setG d (s.sysValue 0x064))

/-- HDEAD_READ (R414). -/
def execHdeadRead (d : Reg) (s : State) : Out := .next ((s.readClears 0x065).setG d (s.sysValue 0x065))

/-- ERRLOG_READ (R412). -/
def execErrlogRead (d : Reg) (s : State) : Out := .next ((s.readClears 0x070).setG d (s.sysValue 0x070))

end Sys2Proof.Machine
end

