-- ==== Sys2Proof/Machine/System.lean ====
section
/-! DEFINITION. The SYS instructions, major 0x3E (21_system R396 to R411): traps and their return, the halt, translations removed,
generations advanced, contexts and unit state saved and restored, and the requests that these send to units and homes. -/

namespace Sys2Proof.Machine

/-! ## Traps and returns (R398, R399, R400) -/

/-- TRAP (R398). -/
def execTrap (a : Reg) (s : State) : Out := s.trap .sysCall (s.g a)

/-- BKPT (R398). -/
def execBkpt (s : State) : Out := s.trap .bkpt 0#64

/-- A window pointer that ERET accepts: a slot of the ring, or the shadow window of a running notice handler (R86, R399). -/
def Ctx.eretWindow (x : Ctx) (w : Word) : Bool := x.isSlot w || (x.nact && w == x.nwin)

/-- ACT of the current entry cleared (R399). -/
def Ctx.clearAct (x : Ctx) : Ctx :=
  match x.curEntry with
  | none => x
  | some i =>
    let e := x.faults.get i
    { x with faults := x.faults.set i.val ⟨e.tpc, e.tval, e.fpc, setBit e.info 62 false⟩ i.isLt }

/-- RETURNING FROM AN EXCEPTION (R399): the level before the trap, ACT cleared, the saved window, the PC. -/
def State.returnTo (s : State) (u c : Nat) (pc w : Word) : State :=
  s.modCtx u c fun x => { x.clearAct with priv := levelOfCode (x.cur.info.extractLsb' 58 2), wp := w, pc := pc, resuming := true }

/-- The effect of ERET after its park (R399). -/
def State.eretFrom (s : State) : State :=
  let x := s.cx
  if ! x.act then s.trapAt .access 0#64
  else
    let t := s.loc64 s.cur (x.twb.toNat + 168)
    let w := s.loc64 s.cur (x.twb.toNat + 160)
    match checkTarget t with
    | some e => s.trapAt e t
    | none => if x.eretWindow w then (s.returnTo s.cur s.c t w).stopAfter s.cur s.c else s.trapAt .access w

/-- ERET (R399). -/
def execEret (s : State) : Out := s.privileged (.next (s.parkFirst State.eretFrom))

/-- HALTC (R400). -/
def execHaltc (s : State) : Out :=
  s.privileged (if s.c = 0 then s.waitOn .haltc else s.trap .access 0#64)

/-! ## Removing translations (R403) -/

/-- KIND of a TLBINV control word. -/
def tlbKind (ctl : Word) : Nat := (ctl.extractLsb' 0 2).toNat

/-- ASID of a TLBINV control word. -/
def tlbAsid (ctl : Word) : BitVec 12 := ctl.extractLsb' 32 12

/-- A TLB entry that a TLBINV removes (R403). -/
def TlbEntry.removed (e : TlbEntry) (va ctl : Word) : Bool :=
  let glob := e.pte.getLsbD 5
  let holds := decide (e.va ≤ va.toNat) && decide (va.toNat < e.va + e.size)
  match tlbKind ctl with
  | 0 => true
  | 1 => ! glob && e.asid == tlbAsid ctl
  | 2 => holds && (glob || e.asid == tlbAsid ctl)
  | _ => holds

/-- The request at a unit (R403): its TLB, and the read cache of a far core that loses an entry. -/
def State.tlbInvalidateUnit (s : State) (u : Nat) (va ctl : Word) : State :=
  let hit := (s.unit u).tlb.any fun e => e.removed va ctl
  let s1 := s.modUnit u fun x => { x with tlb := x.tlb.filter fun e => ! e.removed va ctl }
  if hit then s1.acquire u else s1

/-- The request at the last-level TLB of a die (R403). -/
def State.tlbInvalidateDie (s : State) (d : Nat) (va ctl : Word) : State :=
  let x := SMap.get s.dies d ⟨[]⟩
  { s with dies := SMap.put s.dies d ⟨x.tlb.filter fun e => ! e.removed va ctl⟩ }

/-- The broadcast of a TLBINV (R403). -/
def State.tlbInvalidate (s : State) (va ctl : Word) : State :=
  let s1 := s.units.foldl (fun acc u => acc.tlbInvalidateUnit u.1 va ctl) s
  s1.dies.foldl (fun acc d => acc.tlbInvalidateDie d.1 va ctl) s1

/-- An access in flight that a removed translation may have formed: the word waits for it (R403). -/
def tlbHolds (ctl : Word) (r : Req) : Bool := reqTagged r && (tlbKind ctl != 1 || r.who.asid == tlbAsid ctl)

/-- An access that a removed translation may have formed is refused or held (R138, R176). -/
def State.tlbRefused (s : State) (ctl : Word) : Bool := s.units.any fun u => u.2.ctxs.any fun x => x.2.blocked.any (tlbHolds ctl)

/-- An access that a removed translation may have formed is not performed: posted, refused or held (R403). -/
def State.tlbPending (s : State) (ctl : Word) : Bool := s.flight.any (tlbHolds ctl) || s.tlbRefused ctl

/-- The effect of TLBINV after its park (R403): a release, the broadcast, and the accesses in flight awaited. -/
def State.tlbinvFrom (s : State) (va ctl : Word) : State :=
  if ctl.extractLsb' 44 20 ≠ 0#20 ∨ ctl.extractLsb' 2 30 ≠ 0#30 then s.trapAt .access ctl
  else if 2 ≤ tlbKind ctl ∧ va.extractLsb' 58 6 ≠ 0#6 then s.trapAt .access va
  else if ! s.allPerformed s.cur s.c then s.waitFirst
  else
    let s1 := s.tlbInvalidate va ctl
    if s1.tlbPending ctl then s1.waitFor (s1.tlbRefused ctl) else s1.advance

/-- TLBINV (R403). -/
def execTlbinv (a b : Reg) (s : State) : Out := s.privileged (.next (s.parkFirst fun s1 => s1.tlbinvFrom (s1.g a) (s1.g b)))

/-- TLB_INVALIDATE_REQUEST (R403): the broadcast at one unit and at the last-level TLB of its die. -/
def execTlbInvalidateRequest (u : Nat) (va ctl : Word) (s : State) : Out :=
  .next ((s.tlbInvalidateUnit u va ctl).tlbInvalidateDie (dieOf u) va ctl)

/-! ## Generations (R404, R405) -/

/-- A generation older than another (R119). -/
def olderGen (gen cur : BitVec 16) : Bool :=
  let d := (cur - gen).toNat
  decide (1 ≤ d) && decide (d ≤ 32767)

/-- An issuer's tags are of an address space and older than a generation. -/
def issuerOlder (w : Issuer) (asid : BitVec 12) (gen : BitVec 16) : Bool := w.asid == asid && olderGen w.gen gen

/-- A context issues: it stands within a segment, or the word at its PC has begun and holds the unit (R68). -/
def State.issuing (s : State) (u c : Nat) : Bool :=
  let x := s.ctx u c
  x.live && (s.unit u).cur == c && ! x.parking && ! x.asleep && ! x.held && ! x.firmware && (x.seg != 0 || x.holding)

/-- Some access, engine command or stream of a unit carries an older generation (R405). -/
def State.olderWork (s : State) (u : Nat) (asid : BitVec 12) (gen : BitVec 16) : Bool :=
  let x := s.unit u
  (s.flight.any fun r => r.who.unit == u && issuerOlder r.who asid gen)
    || (x.ctxs.any fun c => c.2.blocked.any fun r => issuerOlder r.who asid gen)
    || (x.vq.any fun k => issuerOlder k.who asid gen) || (x.matrix.fifo.any fun k => issuerOlder k.who asid gen)
    || (x.engine.infifo.any fun k => issuerOlder k.who asid gen)
    || (match x.engine.begun with | some k => issuerOlder k.1.who asid gen | none => false)
    || (match kindOf u with
        | .stack => (match (s.nearOf (pchOf u)).stream with | some t => issuerOlder t.who asid gen | none => false)
        | _ => false)

/-- A unit's part in an advance (R405): its contexts that do not issue adopt the generation; once every context has and nothing older is
outstanding, its older overlays of the address space are invalid and it acknowledges. -/
def State.advanceAt (s : State) (u id : Nat) : State :=
  match s.advances.find? fun a => a.id == id with
  | none => s
  | some a =>
    let idle := a.due.filter fun k => k.1 == u && ! s.issuing u k.2
    let s1 := idle.foldl (fun acc k => acc.newestGen u k.2 a.asid) s
    let due := a.due.filter fun k => ! idle.contains k
    if due.any (fun k => k.1 == u) || s1.olderWork u a.asid a.gen then
      { s1 with advances := s1.advances.map fun b => if b.id = id then { b with due := due } else b }
    else
      let s2 := s1.modUnit u fun x =>
        { x with overlays := x.overlays.map fun e => if e.valid && e.asid == a.asid && olderGen e.gen a.gen then Overlay.none else e }
      let owing := a.owing.filter fun v => v != u
      if owing = [] then
        { (s2.answer a.unit a.ctx id (.value (a.gen.setWidth 64))) with advances := s2.advances.filter fun b => b.id != id }
      else { s2 with advances := s2.advances.map fun b => if b.id = id then { b with due := due, owing := owing } else b }

/-- The live contexts of an address space. -/
def State.contextsOf (s : State) (asid : BitVec 12) : List (Nat × Nat) :=
  s.units.flatMap fun u => (u.2.ctxs.filter fun x => x.2.live && x.2.asr.extractLsb' 32 12 == asid).map fun x => (u.1, x.1)

/-- GENADV after its park (R405): the hub's generation, the broadcast, and the result once every unit has acknowledged.
DEDUCED, log entry 22. -/
def State.genadvFrom (s : State) (d : Reg) (w : Word) : State :=
  if w.extractLsb' 12 52 ≠ 0#52 then s.trapAt .access w
  else
    let asid := w.extractLsb' 0 12
    let cur := SMap.get s.gens asid.toNat 0#16 + 1#16
    let id := s.po
    let us := s.units.map Prod.fst
    let a : GenAdvance := ⟨asid, cur, s.contextsOf asid, us, s.cur, s.c, id⟩
    let s1 := s.defer s.cur s.c d .pending
    let s2 := { s1 with gens := SMap.put s1.gens asid.toNat cur, advances := s1.advances ++ [a] }
    (us.foldl (fun acc u => acc.advanceAt u id) s2).advance

/-- GENADV (R405). -/
def execGenadv (d a : Reg) (s : State) : Out := s.privileged (.next (s.parkFirst fun s1 => s1.genadvFrom d (s1.g a)))

/-- A floor at every home (R405). -/
def State.setFloor (s : State) (asid : Nat) (v : BitVec 16) : State :=
  { s with
    floors := SMap.put s.floors asid v
    homes := s.homes.map fun h => (h.1, { h.2 with floors := SMap.erase h.2.floors asid }) }

/-- The effect of GENADV.FLOOR after its park (R405). -/
def State.floorFrom (s : State) (a b : Word) : State :=
  let asid := (a.extractLsb' 0 12).toNat
  let v := b.extractLsb' 0 16
  if olderGen (SMap.get s.gens asid 0#16) v then s.trapAt .access b else (s.setFloor asid v).advance

/-- GENADV.FLOOR (R405). -/
def execGenadvFloor (a b : Reg) (s : State) : Out := s.privileged (.next (s.parkFirst fun s1 => s1.floorFrom (s1.g a) (s1.g b)))

/-- GEN_ADVANCE_REQUEST (R405): a unit's part in every advance of the address space to the generation that it has not acknowledged. -/
def execGenAdvanceRequest (u : Nat) (asid : BitVec 12) (gen : BitVec 16) (s : State) : Out :=
  .next ((s.advances.filter fun a => a.asid == asid && a.gen == gen && a.owing.contains u).foldl (fun acc a => acc.advanceAt u a.id) s)

/-- GENERATION_FLOOR_REQUEST (R119, R405): a floor reaches one home. -/
def execGenerationFloorRequest (home : Nat) (asid : BitVec 12) (floor : BitVec 16) (s : State) : Out :=
  .next (s.modHome home fun y => { y with floors := SMap.put y.floors asid.toNat floor })

/-! ## Context slots (R410) -/

/-- The block at a CB pointer lies in local memory, by the VE bit that it holds (R74, R410). -/
def State.blockFits (s : State) (u : Nat) (cb : Word) : Bool :=
  cb.extractLsb' 0 9 == 0#9 && decide (cb.toNat + 0x200 ≤ localSize (kindOf u))
    && decide (s.sealOff u cb ≤ localSize (kindOf u))

/-- CBSWAP (R410). DESIGN CHOICE: a notice raised for the body that was stopped at the slot is not the new block's; log entry 106. -/
def execCbswap (n : BitVec 4) (a : Reg) (s : State) : Out :=
  s.profile (s.hasHelper n) (s.privileged (
    let w := s.g a
    if (s.ctx s.cur n.toNat).live || ! s.blockFits s.cur w then s.trap .access w
    else (((s.modU fun x => { x with cb := x.cb.setIfInBounds n.toNat w }).modCtx s.cur n.toNat fun x => { x with npend := false })).done))

/-- The seal record of a slot written again over what the block and the record hold (R409, R410). -/
def State.reseal (s : State) (u n : Nat) : State :=
  let cb := s.cbOf u n
  let so := s.sealOff u cb
  s.writeSeal u cb true false (s.loc64 u (so + 8)) (s.loc64 u (so + 16)) (s.loc64 u (so + 24))

/-- CBSWAP.SEAL (R410). -/
def execCbswapSeal (n : BitVec 4) (s : State) : Out :=
  s.profile (s.hasHelper n) (s.privileged (.next (s.parkFirst fun s1 =>
    if (s1.ctx s1.cur n.toNat).live then s1.trapAt .access (n.setWidth 64)
    else if ! s1.allPerformed s1.cur s1.c then s1.waitFirst
    else (s1.reseal s1.cur n.toNat).advance)))

/-! ## Unit state (R411) -/

/-- The bytes of a unit's save area. -/
def saveBytes (u : Nat) : Nat := saveUnits (kindOf u) * 4096

/-- The body bytes of a save area. -/
def saveBody (u : Nat) : Nat := saveBytes u - 64

/-- The slice of a slice near unit. -/
def sliceOf (u : Nat) : Nat := u - Config.sliceUnit0

/-- The arrays that the marked commands of a slice touch, whose latches a save keeps (R291). -/
def State.markedArrays (s : State) (sl : Nat) : List Nat :=
  ((s.touched sl).filter fun e => e.1.halted).flatMap Prod.snd

/-- The contexts of a launch that a stop has stopped on a unit (R411). -/
def State.stoppedOf (s : State) (u lid : Nat) : SMap Ctx :=
  (s.unit u).ctxs.filter fun c => c.2.lid == lid && (! c.2.live || c.2.held)

/-- The unit state of a launch (R411): of the contexts, of those that are stopped. -/
def State.unitState (s : State) (u lid : Nat) : UnitSave :=
  let x := s.unit u
  let y := s.slice (sliceOf u)
  let onSlice : Bool := kindOf u == .slice
  let mine := s.stoppedOf u lid
  let marked := s.markedArrays (sliceOf u)
  { lid := lid
    counters := x.counters
    wtes := x.wtes
    held := x.heldMsgs
    matrix := x.matrix
    engine := x.engine
    rings := mine.map fun c => (c.1, c.2.dring)
    arrays := mine.map fun c => (c.1, (c.2.arb, c.2.chk, c.2.pe, c.2.sel))
    latches := if onSlice then y.latches.filter fun l => marked.contains l.1 else []
    rowbuf := if onSlice then y.rowbuf else 0#2048
    outs := if onSlice then y.outs else []
    halves := if onSlice then y.halves else []
    near := match kindOf u with | .stack => s.nearOf (pchOf u) | _ => Near.reset }

/-- The header of a save area and its body: the body's first doubleword numbers the record (R411; log entry 14). -/
def saveArea (u lid k : Nat) : List Byte :=
  let body := bytesOfNat (saveBody u) k
  let head := bytesOfNat 8 (2 ^ 63 + lid % 2 ^ 16 * 2 ^ 32 + saveBody u) ++ List.replicate 48 0#8
  bytesOf 8 (crc64 (head ++ body)) ++ head ++ body

/-- Near mode with its stream suspended at its row boundary (R380). -/
def Near.suspended (x : Near) : Near :=
  match x.stream with
  | some t => { x with stream := some { t with susp := true } }
  | none => x

/-- The unit state of a launch written to USAVE; its engine commands and held messages leave the unit with it, its matrix
commands stand for re-dispatch, and its stream suspends (R266, R365, R380, R411).
DEDUCED, log entry 21. -/
def State.saveUnit (s0 : State) (u lid : Nat) : State :=
  let s := s0.matStop u lid
  let k := s.saves.length
  let s1 := { s with saves := s.saves ++ [s.unitState u lid] }
  let s2 := s1.setPhysBytes (s.unit u).usave.toNat (saveArea u lid k)
  let s3 := s2.modUnit u fun x => { x with engine := Engine.reset, heldMsgs := [] }
  match kindOf u with
  | .stack => s3.modNear (pchOf u) fun y => if y.lid = lid then y.suspended else y
  | _ => s3

/-- What a save area holds, where its header passes the checks of R411. -/
def State.checkArea (s : State) (u pa : Nat) : Option UnitSave :=
  let d1 := s.phys64 (pa + 8)
  let len := (d1.extractLsb' 0 32).toNat
  let lid := (d1.extractLsb' 32 16).toNat
  let ok := d1.getLsbD 63 && ! s.badData pa (64 + len) && decide (len ≤ saveBody u) && s.phys64 pa == crc64 (s.physBytes (pa + 8) (56 + len))
    && (match s.launch lid with | some l => l.stopped && l.away.contains u | none => false)
  if ok then s.saves[(s.phys64 (pa + 64)).toNat]? else none

/-- An engine that goes on with what a save holds, before what has been pushed since: where the save holds a command in progress, one that has
begun since waits behind it at its next chunk (R365). -/
def Engine.resumed (saved now : Engine) : Engine :=
  let later := match saved.begun, now.begun with | some _, some k => [{ k.1 with chunks := k.2 }] | _, _ => []
  ⟨saved.infifo ++ later ++ now.infifo, saved.begun.or now.begun, saved.out ++ now.out, false⟩

/-- A matrix core with the format context and the slots of a save (R244, R411): its FIFOs and the command under way are the core's. -/
def Matrix.resumed (saved now : Matrix) : Matrix :=
  { now with fmt := saved.fmt, acc0 := saved.acc0, acc1 := saved.acc1, prog := saved.prog, pf32 := saved.pf32, az := saved.az }

/-- Near mode with the row program, the accumulators and the stream of a save; the mode and its owner stay as they are (R380, R381). A program
whose launch has ended since is not put back in force (R370). -/
def Near.resumed (saved now : Near) (lid : Nat) (ended : Nat → Bool) : Near :=
  let y : Near :=
    if saved.prog.isSome && ended saved.plid then { now with accs := saved.accs }
    else { now with prog := saved.prog, plid := saved.plid, accs := saved.accs }
  if now.nm ∧ now.lid = lid then { y with stream := saved.stream.map fun t => { t with susp := false }, done := saved.done } else y

/-- The unit state put back (R411): engine and stream go on (R365, R380); what the body does not list stays. -/
def State.restoreUnit (s : State) (u : Nat) (x : UnitSave) : State :=
  let s1 := s.modUnit u fun y =>
    { y with
      counters := x.counters, wtes := x.wtes, heldMsgs := x.held ++ y.heldMsgs
      matrix := x.matrix.resumed y.matrix
      engine := x.engine.resumed y.engine }
  let s2 := x.rings.foldl (fun acc r => acc.modCtx u r.1 fun c => { c with dring := r.2 }) s1
  let s3 := x.arrays.foldl (fun acc r => acc.modCtx u r.1 fun c =>
    { c with arb := r.2.1, chk := r.2.2.1, pe := r.2.2.2.1, sel := r.2.2.2.2 }) s2
  match kindOf u with
  | .slice => s3.modSlice (sliceOf u) fun y =>
      { y with
        latches := x.latches.foldl (fun acc l => SMap.put acc l.1 l.2) y.latches
        rowbuf := x.rowbuf, outs := x.outs, halves := x.halves }
  | .stack => s3.modNear (pchOf u) fun y => x.near.resumed y x.lid fun lid => (s.launch lid).isNone
  | .far => s3

/-- A unit has reported its restore of a launch (R411). -/
def State.reportRestored (s : State) (u lid : Nat) : State :=
  s.modLaunch lid fun l => { l with away := l.away.filter fun v => v != u }

/-- CBSWAP.UNIT at a unit from an area (R411): the restored state, or `none` where the area fails its check. -/
def State.unitFrom (s : State) (u pa : Nat) : Option State :=
  (s.checkArea u pa).map fun x => (s.restoreUnit u x).reportRestored u x.lid

/-- CBSWAP.UNIT (R411): a failed check fails the launch. DEDUCED, log entry 20. -/
def execCbswapUnit (a : Reg) (s : State) : Out :=
  s.privileged (.next (s.parkFirst fun s1 =>
    match s1.unitFrom s1.cur (s1.g a).toNat with
    | some s2 => s2.advance
    | none => (s1.endLaunchBut (some s1.cur) s1.cx.lid 2 Cause.restoreBad.code 0#64).trapAt .restoreBad 0#64))

/-! ## STOPC (R408) -/

/-- LID of a stop word. -/
def stopLid (w : Word) : Nat := (w.extractLsb' 32 16).toNat

/-- A stop word that names a helper the unit lacks, or holds a reserved bit (R408). -/
def badStop (k : UnitKind) (w : Word) : Bool :=
  w.extractLsb' 48 16 != 0#16 || w.extractLsb' 19 13 != 0#13 || w.extractLsb' 11 5 != 0#5 || w.getLsbD 0
    || (match k with | .far => false | _ => w.extractLsb' 4 7 != 0#7)

/-- The live helpers that a stop word names (R408). -/
def State.stopSet (s : State) (u : Nat) (w : Word) : List Nat :=
  ((List.range 11).drop 1).filter fun n => w.getLsbD n && (s.ctx u n).live

/-- One helper stopped (R84, R408): its results land, its frames are spilled where SPILL asks for it, its block is written and sealed. A
spill fault leaves it live. DEDUCED, log entry 18. -/
def State.stopOne (s : State) (u n : Nat) (spill : Bool) : Seq :=
  let s1 := ((((s.cancelPops u n).cancelBlocked u n).haltReplay u n).land u n).modCtx u n fun x =>
    { x with wait := none, asleep := false, woken := false, parking := true }
  Seq.andThen (if spill then s1.spillTo u n 0 256 else (s1, none)) fun s2 => (s2.saveCtx u n false, none)

/-- Helpers stopped in increasing order. -/
def State.stopEach (s : State) (u : Nat) (spill : Bool) : List Nat → Seq
  | [] => (s, none)
  | n :: rest => Seq.andThen (s.stopOne u n spill) fun s1 => s1.stopEach u spill rest

/-- A unit reports its STOP done to the hub (R407, R408): its engine and its stream have suspended by then, and its matrix commands stand for
re-dispatch (R266, R365, R380). -/
def State.ackStop (s : State) (u lid : Nat) : State :=
  let s1 := (s.matStop u lid).modUnit u fun x => { x with engine := { x.engine with susp := x.engine.susp || x.engine.owes } }
  let s2 :=
    match kindOf u with
    | .stack => s1.modNear (pchOf u) fun y => if y.lid = lid then y.suspended else y
    | _ => s1
  s2.modLaunch lid fun l => { l with owing := l.owing.filter fun v => v != u }

/-- The unit state written and the stop acknowledged, as a stop word asks (R408). -/
def State.stopRest (s : State) (u : Nat) (w : Word) : State :=
  let s1 := if w.getLsbD 17 then s.saveUnit u (stopLid w) else s
  if w.getLsbD 18 then s1.ackStop u (stopLid w) else s1

/-- The effect of STOPC after its park (R408). -/
def State.stopcFrom (s : State) (w : Word) : State :=
  let u := s.cur
  if badStop s.kind w then s.trapAt .access w
  else
    let all := s.stopSet u w
    let others := all.filter fun n => n != s.c
    let s0 := others.foldl (fun acc n => acc.toStop u n) s
    let spills := w.getLsbD 16
    if others.any (fun n => s0.stopping u n || (spills && s0.spillWaits u n 0)) then s0.waitFirst
    else if all.contains s.c && (s0.copQueued u s.c || (spills && s0.spillWaits u s.c 0)) then (s0.haltReplay u s.c).waitFirst
    else
      seqThen (s0.stopEach u spills others) fun s1 =>
        if all.contains s.c then
          seqThen ((s1.stopRest u w).advance.stopOne u s.c spills) fun s2 => s2.rotate u s.c
        else (s1.stopRest u w).advance

/-- STOPC (R408). -/
def execStopc (a : Reg) (s : State) : Out := s.privileged (.next (s.parkFirst fun s1 => s1.stopcFrom (s1.g a)))

end Sys2Proof.Machine
end

