-- ==== Sys2Proof/Machine/Derive.lean ====
section
/-! DEFINITION. The DRV instructions, major 0x27 (14_derive R293 to R309): rules registered and removed, tile status, refresh, and the
events of marks and recomputes. -/

namespace Sys2Proof.Machine

/-! ## Rule descriptors (R294, R295) -/

/-- The codes that a descriptor accepts (R294). -/
def ruleFmt (code : BitVec 4) : Option Fmt :=
  match code.toNat with
  | 2 | 3 | 5 | 6 | 7 | 8 | 9 | 10 | 11 | 12 | 13 | 14 => Fmt.ofCode code
  | _ => none

/-- An integer format of R209 and R238. -/
def fmtInteger : Fmt → Bool
  | .s64 | .u64 | .s32 | .u32 | .s8 | .s16 | .s4 => true
  | _ => false

/-- The formats that a kind accepts (R295). -/
def kindAccepts (k : DKind) (bfmt dfmt : Fmt) : Bool :=
  match k with
  | .transpose => dfmt == bfmt
  | .cast => dfmt != bfmt
  | .rowsum | .colsum => if fmtInteger bfmt then dfmt == .s16 || dfmt == .s32 else dfmt == .fp32

/-- The kind of a code (R294). -/
def kindOfCode (x : BitVec 2) : DKind :=
  match x.toNat with
  | 0 => .transpose
  | 1 => .cast
  | 2 => .rowsum
  | _ => .colsum

/-- The code of a kind (R308). -/
def kindNumber : DKind → Nat
  | .transpose => 0
  | .cast => 1
  | .rowsum => 2
  | .colsum => 3

/-- The rounding mode of a CAST (R195, R294). -/
def castMode (x : BitVec 4) : RM :=
  match x.toNat with
  | 1 => .rtz
  | 2 => .rdn
  | 3 => .rup
  | 4 => .rna
  | _ => .rne

/-- The bytes of one row (R295). -/
def tensorRow (cols w : Nat) : Nat := (cols * w + 7) / 8

/-- The rule that a descriptor describes, its tiles not yet bound; `none` where check 2 of R306 fails. -/
def ruleOf (asid : BitVec 12) (d : List Byte) : Option Rule :=
  let w := fun (i : Nat) => descWord d i
  let w0 := w 0
  let kind := kindOfCode (w0.extractLsb' 0 2)
  match ruleFmt (w0.extractLsb' 8 4), ruleFmt (w0.extractLsb' 12 4) with
  | some bf, some df =>
    let r : Rule :=
      { asid := asid, kind := kind, rm := castMode (w0.extractLsb' 16 4), bfmt := bf, dfmt := df
        bva := (w 1).toNat
        bpitch := ((w 2).extractLsb' 32 32).toNat
        rows := ((w 2).extractLsb' 16 16).toNat
        cols := ((w 2).extractLsb' 0 16).toNat
        dva := (w 3).toNat
        dpitch := ((w 4).extractLsb' 0 32).toNat
        btiles := []
        dtiles := []
        watched := true }
    let reserved := w0.extractLsb' 20 44 == 0#44 && w0.extractLsb' 2 6 == 0#6 && (w 4).extractLsb' 32 32 == 0#32
      && w 5 == 0#64 && w 6 == 0#64 && w 7 == 0#64
    let mode := if kind = .cast then decide ((w0.extractLsb' 16 4).toNat ≤ 4) else w0.extractLsb' 16 4 == 0#4
    let shape := decide (0 < r.rows) && decide (0 < r.cols) && decide (r.bva % 4096 = 0) && decide (r.dva % 4096 = 0)
      && decide (tensorRow r.cols (fmtWidth bf) ≤ r.bpitch) && decide (tensorRow r.dshape.2 (fmtWidth df) ≤ r.dpitch)
    if reserved && mode && shape && kindAccepts kind bf df then some r else none
  | _, _ => none

/-! ## Regions, chains, limits (R297, R298) -/

/-- The tiles that hold some bit of a tensor, in increasing order of rows (R297). -/
def regionTiles (va pitch rows cols w : Nat) : List Nat :=
  ((List.range rows).flatMap fun i =>
    let lo := elemBit va pitch w i 0
    let hi := lo + cols * w - 1
    (List.range (hi / 32768 - lo / 32768 + 1)).map fun k => lo / 32768 + k).eraseDups

/-- The base region of a rule (R297). -/
def Rule.baseTiles (r : Rule) : List Nat := regionTiles r.bva r.bpitch r.rows r.cols (fmtWidth r.bfmt)

/-- The derived region of a rule (R297). -/
def Rule.derivedTiles (r : Rule) : List Nat := regionTiles r.dva r.dpitch r.dshape.1 r.dshape.2 (fmtWidth r.dfmt)

/-- The virtual address of a tile. -/
def tileVa (t : Nat) : Word := BitVec.ofNat 64 (t * 4096)

/-- Tiles bound to the physical tiles of their translations (R299), or the first that fails check 3 of R306. DEDUCED: a tile of the local
window, which has no translation, fails that check with ACCESS in its turn; log entry 117. -/
def State.bindTiles (s : State) (u c : Nat) (need : Need) : List Nat → Except (Cause × Word) (State × List (Nat × Nat))
  | [] => .ok (s, [])
  | t :: rest =>
    let va := tileVa t
    if 2 ^ 58 ≤ t * 4096 ∨ t < 256 then .error (.access, va)
    else
      match s.translate u c va need with
      | .error e => .error (e, va)
      | .ok (s1, pa, _) => (s1.bindTiles u c need rest).map fun r => (r.1, (t, pa / 4096) :: r.2)

/-- A physical tile lies in a plane plot of a width (R293). -/
def State.planeTile (s : State) (w ptile : Nat) : Bool :=
  match s.place (ptile * 4096) with
  | .silt sl off => ((s.slice sl).plot (off / 0x10000)).plane && decide (2 ^ ((s.slice sl).plot (off / 0x10000)).wid.toNat = w)
  | _ => false

/-- Two rules are joined by an edge: the derived region of the first shares a tile with the base region of the second (R298). -/
def Rule.feeds (a b : Rule) : Bool := a.dtiles.any fun d => b.btiles.any fun e => e.2 == d.2

/-- A rule reaches another along the edges of a list of rules (R298). -/
def ruleReaches (rules : List Rule) (a b : Rule) : Nat → Bool
  | 0 => false
  | fuel + 1 => a.feeds b || rules.any fun r => a.feeds r && ruleReaches rules r b fuel

/-- The depth of the tensor that a rule derives (R298). -/
def depthIn (rules : List Rule) (r : Rule) : Nat → Nat
  | 0 => 1
  | fuel + 1 => 1 + (rules.foldl (fun acc q => if q.feeds r then max acc (depthIn rules q fuel) else acc) 0)

/-- The slice of a physical tile. -/
def tileSlice (ptile : Nat) : Nat := ptile / 512 % 512

/-- The entries of the derivation table at a slice (R297). -/
def sliceEntries (rules : List Rule) (sl : Nat) : Nat :=
  (rules.filter fun r => (r.btiles ++ r.dtiles).any fun t => tileSlice t.2 == sl).length

/-- Dependent tiles of a physical base tile over a list of rules (R297). -/
def dependentCount (rules : List Rule) (ptile : Nat) : Nat :=
  (rules.map fun r =>
    ((r.btiles.filter fun b => b.2 == ptile).map fun b => (r.dtiles.filter fun d => r.depends d.1 b.1).length).foldl (· + ·) 0).foldl (· + ·) 0

/-- Checks 4 to 8 of R306 on a bound rule: the first that fails. -/
def State.ruleCheck (s : State) (r : Rule) : Option (Cause × Word) :=
  let all := s.rules ++ [r]
  let fuel := all.length + 1
  match r.btiles.find? fun t => ! s.planeTile (fmtWidth r.bfmt) t.2 with
  | some t => some (.access, tileVa t.1)
  | none =>
  match r.dtiles.zipIdx.find? fun t => ! s.planeTile (fmtWidth r.dfmt) t.1.2 || decide (4096 ≤ t.2) with
  | some t => some (.access, tileVa t.1.1)
  | none =>
  match r.dtiles.find? fun t => s.isDerived (t.2 * 4096) with
  | some t => some (.access, tileVa t.1)
  | none =>
  if ruleReaches all r r fuel then some (.deriveCycle, BitVec.ofNat 64 r.dva)
  else if all.any fun q => decide (4 < depthIn all q fuel) then some (.deriveDepth, BitVec.ofNat 64 r.dva)
  else
  match r.btiles.find? fun t => decide (8 < dependentCount all t.2) with
  | some t => some (.access, tileVa t.1)
  | none => ((r.btiles ++ r.dtiles).find? fun t => decide (64 < sliceEntries all (tileSlice t.2))).map fun t => (.access, tileVa t.1)

/-- A rule registered: every derived tile is stale (R306), and so are the tiles of the rules whose base it is (R301). -/
def State.register (s : State) (r : Rule) : State :=
  r.dtiles.foldl (fun acc t => acc.markFrom 4 t.2)
    { s with rules := s.rules ++ [r], stale := (s.stale ++ r.dtiles.map Prod.snd).eraseDups }

/-- The tiles of both regions bound (R299, check 3 of R306). -/
def State.bindRule (s : State) (u c : Nat) (r : Rule) : Except (Cause × Word) (State × Rule) :=
  match s.bindTiles u c .load r.baseTiles with
  | .error e => .error e
  | .ok (s1, bt) => (s1.bindTiles u c .store r.derivedTiles).map fun x => (x.1, { r with btiles := bt, dtiles := x.2 })

/-- The effect of DREG after its park (R306). -/
def State.dregFrom (s : State) (w : Word) : State :=
  if w.extractLsb' 0 6 ≠ 0#6 ∨ ! s.localRangeOk w.toNat 64 then s.trapAt .access w
  else if s.ownPending w.toNat 64 then s.holdFirst
  else
    match ruleOf (s.cx.asr.extractLsb' 32 12) (s.ownBytes w.toNat 64) with
    | none => s.trapAt .access w
    | some r =>
      match s.bindRule s.cur s.c r with
      | .error e => s.trapAt e.1 e.2
      | .ok (s1, r1) =>
        match s1.ruleCheck r1 with
        | some e => s1.trapAt e.1 e.2
        | none => (s1.register r1).advance

/-- DREG (R306). -/
def execDreg (a : Reg) (s : State) : Out := .next (s.parkFirst fun s1 => s1.dregFrom (s1.g a))

/-! ## Removal, status, refresh (R307 to R309) -/

/-- A rule removed; with F = 1 its stale tiles are recomputed first (R307). -/
def State.unregister (s : State) (r : Rule) (flush : Bool) : State :=
  let s1 := if flush then r.dtiles.foldl (fun acc t => acc.freshenTile 5 t.2) s else s
  { s1 with
    rules := s1.rules.filter fun q => q != r
    stale := s1.stale.filter fun t => ! r.dtiles.any fun d => d.2 == t }

/-- DUNREG waits: a recompute of a tile of the rule is in progress, or, with F = 1, a stale tile cannot be recomputed yet (R275, R307). -/
def State.unregWaits (s : State) (r : Rule) (flush : Bool) : Bool :=
  r.dtiles.any fun t => s.inProgress t.2 || (flush && s.isStale t.2 && s.tileArrays 5 t.2)

/-- The effect of DUNREG after its park (R307): the watches go first, so that no base write marks the rule's tiles while it waits. -/
def State.dunregFrom (s : State) (flush : Bool) (w : Word) : State :=
  match s.rules.find? fun r => r.asid == s.cx.asr.extractLsb' 32 12 && r.dva == w.toNat with
  | none => s.trapAt .access w
  | some r =>
    let r1 : Rule := { r with watched := false }
    let s1 := { s with rules := s.rules.map fun q => if q = r then r1 else q }
    if s1.unregWaits r1 flush then s1.holdFirst else (s1.unregister r1 flush).advance

/-- DUNREG (R307). -/
def execDunreg (f : Bool) (a : Reg) (s : State) : Out := .next (s.parkFirst fun s1 => s1.dunregFrom f (s1.g a))

/-- The status of a physical tile for an address space (R308). -/
def State.tileStatus (s : State) (asid : BitVec 12) (ptile : Nat) : Word :=
  let d := s.deriver ptile
  let isBase := s.rules.any fun r => r.btiles.any fun b => b.2 == ptile
  let v := s.rules.any fun r => r.asid == asid && (r.btiles ++ r.dtiles).any fun t => t.2 == ptile
  let depth := match d with | some r => depthIn s.rules r (s.rules.length + 1) | none => 0
  let kind := match d with | some r => kindNumber r.kind | none => 0
  BitVec.ofNat 64 (b2n v * 2 ^ 63 + b2n d.isSome * 2 ^ 62 + b2n isBase * 2 ^ 61 + b2n (s.isStale ptile) * 2 ^ 60
    + b2n (s.inProgress ptile) * 2 ^ 59 + depth % 8 * 2 ^ 56 + dependentCount s.rules ptile % 16 * 2 ^ 52 + kind * 2 ^ 50)

/-- DSTAT (R308). -/
def execDstat (d a : Reg) (s : State) : Out :=
  match s.checkEa s.cur s.c (s.g a) 1 .load with
  | .error e => s.trap e (s.g a)
  | .ok (s1, .own _ _) => (s1.deferG d 0#64).done
  | .ok (s1, .home pa _) =>
    match s1.place pa with
    | .silt _ _ => (s1.deferG d (s1.tileStatus (s1.cx.asr.extractLsb' 32 12) (pa / 4096))).done
    | _ => (s1.deferG d 0#64).done

/-- The tiles of a DFRESH checked as loads, in increasing order (R309): the first that fails. -/
def State.checkTiles (s : State) (u c lo : Nat) : Nat → Except (Cause × Word) State
  | 0 => .ok s
  | n + 1 =>
    match s.checkEa u c (tileVa lo) 1 .load with
    | .error e => .error (e, tileVa lo)
    | .ok (s1, _) => s1.checkTiles u c (lo + 1) n

/-- DFRESH (R309): its tiles are refreshed at its park. -/
def execDfresh (a b : Reg) (s : State) : Out :=
  let lo := s.g a
  let len := s.g b
  if len = 0#64 then s.done
  else if 2 ^ 24 < len.toNat then s.trap .access len
  else
    match s.checkTiles s.cur s.c (lo.toNat / 4096) ((lo.toNat + len.toNat - 1) / 4096 - lo.toNat / 4096 + 1) with
    | .error e => s.trap e.1 e.2
    | .ok s1 => s1.waitOn (.dfresh lo len)

/-! ## Events -/

/-- STALE_MARK (R301): a mark reaches the slice of a derived tile, which marks the tile's own dependents before it acknowledges. -/
def execStaleMark (tile : Nat) (s : State) : Out :=
  if s.isDerived (tile * 4096) then
    .next ((s.markTile tile).markFrom 4 tile)
  else .next s

/-- BASE_WRITE_RELEASE (R301): a write to a base tile is performed, its marks standing. -/
def execBaseWriteRelease (r : Req) (s : State) : Out := s.performEvent r

end Sys2Proof.Machine
end

