-- ==== Sys2Proof/Machine/Tasking.lean ====
section
/-! DEFINITION. The TASK instructions, major 0x28 (16_tasks R312 to R341), and the events of queues, beacons, votes and laps. -/

namespace Sys2Proof.Machine

/-! ## Enqueueing (R312, R335) -/

/-- One end of an anchor as a load: its physical address, or none in the local window (checks 1, 4 and 5 of R107). -/
def State.anchorEnd (s : State) (va : Word) : Except (Cause × Word) (State × Option Nat) :=
  if va.extractLsb' 58 6 ≠ 0#6 then .error (.access, va)
  else if va.toNat < 0x100000 then .ok (s, none)
  else
    match s.translate s.cur s.c va .load with
    | .error e => .error (e, va)
    | .ok (s1, pa, _) => .ok (s1, some pa)

/-- The anchor's physical address, where the anchor is valid (R312): a DRAM granule or one slice. -/
def State.anchorHome (s : State) (base len : Nat) (first last : Option Nat) : Option Nat :=
  match first, last with
  | some pa, some pb =>
    match s.place pa, s.place pb with
    | .dram p _, .dram q _ => if p = q ∧ base % 4096 + len ≤ 4096 then some pa else none
    | .silt a _, .silt b _ => if a = b then some pa else none
    | _, _ => none
  | _, _ => none

/-- Checks 1 to 4 of R335: the descriptor, and the physical address of its anchor. -/
def State.enqueueCheck (s : State) (w : Word) : Except (Cause × Word) (State × List Byte × Nat) :=
  if w.extractLsb' 0 6 ≠ 0#6 ∨ ! s.localRangeOk w.toNat 64 then .error (.access, w)
  else
    let d := s.ownBytes w.toNat 64
    let base := descWord d 2
    if ! descOk d then .error (.access, w)
    else
      match s.anchorEnd base with
      | .error e => .error e
      | .ok (s1, pa) =>
        match s1.anchorEnd (base + BitVec.ofNat 64 (anchorLen d - 1)) with
        | .error e => .error e
        | .ok (s2, last) =>
          match s2.anchorHome base.toNat (anchorLen d) pa last with
          | some a => .ok (s2, d, a)
          | none => .error (.access, base)

/-- The queue that Win[b] names (R335). -/
def queueOf (w : Word) : Nat := (w.extractLsb' 0 3).toNat

/-- TKENQ (R335): the task is sent at the park that ends its segment. -/
def execTkenq (a b : Reg) (s : State) : Out :=
  let w := s.g a
  s.reading w.toNat 64 (
    match s.enqueueCheck w with
    | .error e => s.trap e.1 e.2
    | .ok (s1, d, pa) =>
      if s.cx.tkhome.getLsbD 63 && s.cx.tkhome.getLsbD 62 then s.trap .access 0#64
      else s1.waitOn (.tkenq (descWord d 2) pa (queueOf (s.g b)) d))

/-- TKENQN (R335). -/
def execTkenqn (d a b : Reg) (s : State) : Out :=
  s.reading (s.g a).toNat 64 (
    match s.enqueueCheck (s.g a) with
    | .error e => s.trap e.1 e.2
    | .ok (s1, desc, pa) =>
      let act : Action := .enqueue (queueOf (s.g b)) desc s.cx.lid (some s1.po)
      let r : Req := ⟨s1.issuer s1.cur s1.c, s1.po, s1.pc, descWord desc 2, pa, act, false, true, false⟩
      ((s1.defer s1.cur s1.c d .pending).post r).done)

/-! ## Pops and steals (R333, R336) -/

/-- A bind word that R336 refuses. DEDUCED, log entry 25. -/
def State.badBind (s : State) (w : Word) : Bool :=
  let n := bindHelper w
  w.extractLsb' 36 28 != 0#28 || w.extractLsb' 20 12 != 0#12 || n == 0 || decide (helperCount s.kind < n)
    || (s.ctx s.cur n).live || w.extractLsb' 0 6 != 0#6 || ! s.localRangeOk (bindOff w) 64

/-- A pop or a steal sent to its home, its status deferred until the home has decided (R336). -/
def State.sendDeferred (s : State) (d : Reg) (p : Posted) : Out := ((s.defer s.cur s.c d .pending).sendOut p).done

/-- TKPOP (R318, R336). -/
def execTkpop (d b : Reg) (s : State) : Out :=
  s.profile (s.kind != .far) (s.privileged (
    let w := s.g b
    if s.badBind w then s.trap .access w
    else if s.async then s.sendDeferred d (.pop s.cur s.c w s.po)
    else
      let r := s.popAt s.cur (homeOfNear s.cur) s.cx.lid w
      (r.1.deferG d r.2).done))

/-- TKSTEAL (R319, R320, R336). -/
def execTksteal (d a b : Reg) (s : State) : Out :=
  s.farOnly (s.privileged (
    let w := s.g b
    let sel := s.g a
    if s.badBind w then s.trap .access w
    else if ! s.selOk sel true then s.trap .access sel
    else if s.async then s.sendDeferred d (.steal s.cur s.c sel w s.po)
    else
      let r := s.steal s.cur s.cx.lid (s.cx.asr.extractLsb' 32 12) sel w
      (r.1.deferG d r.2).done))

/-- TKDONE (R337). -/
def execTkdone (s : State) : Out :=
  .next (s.parkFirst fun s1 => if s1.cx.tkhome.getLsbD 63 then s1.finishTask else s1.trapAt .access 0#64)

/-! ## Where the runtime keeps its own (DESIGN CHOICE; log entry 9) -/

/-- The trap window of a context. -/
def runtimeTwb (k : UnitKind) (c : Nat) : Word :=
  BitVec.ofNat 64 (match k with | .far => 0x76000 + 256 * c | _ => 0x7C00 + 256 * c)

/-- The bind offset of a helper (R346). -/
def runtimeBind (k : UnitKind) (n : Nat) : Nat := match k with | .far => 0x77000 + 64 * n | _ => 0x7B00 + 64 * n

/-- The ring table of a far core. -/
def runtimeRings : Nat := 0x78000

/-- CFG of ring 0: 64 slots of 128 bytes (R174). -/
def runtimeRing0 : Word := BitVec.ofNat 64 (2 ^ 63 + 6 * 2 ^ 32 + 7 * 2 ^ 24 + 0x7A000)

/-! ## Joining the voters (R331, R346, R422) -/

/-- The ASR of a launch (R404). -/
def Launch.asr (l : Launch) : Word := 0#20 ++ l.asid ++ 0#16 ++ l.gen

/-- The control context of a voter for a launch (R422, R346): the front end writes its ASR, PTROOT and CTAB; a context that does not run
yet begins the runtime's loop with a cold read cache, as the start of a launch acquires (R421). DEDUCED, log entry 53. DESIGN CHOICE, log entry
66; SRSEED of the context is 0, log entry 110. -/
def State.startVoter (s : State) (l : Launch) (u : Nat) : State :=
  let k := kindOf u
  let x := s.ctx u 0
  let own := fun (y : Ctx) => { y with asr := l.asr, ptroot := l.ptroot, ctab := l.ctab, lid := l.lid }
  if x.live && ! x.held && ! (s.unit u).halted then s.modCtx u 0 own
  else
    let y := own { Ctx.reset k 0 with live := true, firmware := true, priv := .s, pc := runtimePc, twb := runtimeTwb k 0 }
    let area := BitVec.ofNat 64 (4096 * (Config.choose s.free % ((s.dramSize - saveBytes u) / 4096 + 1)))
    let s1 := (s.useFree).modUnit u fun z =>
      { z with
        ctxs := SMap.put (match k with
          | .far => z.ctxs.map fun e => (e.1, { Ctx.reset k e.1 with cseq := e.2.cseq })
          | _ => z.ctxs) 0 y
        tvec := if z.tvec = 0#64 then runtimePc else z.tvec
        usave := if z.usave = 0#64 then area else z.usave
        halted := false, absent := [], stopPend := [], rqPend := [], lapDone := none, cur := 0
        engine := { z.engine with susp := false }, cache := [] }
    if k = .far ∧ (s1.unit u).mrqb = 0#10 then
      (s1.modUnit u fun z => { z with mrqb := BitVec.ofNat 10 (runtimeRings / 1024) }).setLocal u runtimeRings
        (bytesOf 8 runtimeRing0 ++ List.replicate 40 0#8)
    else s1

/-- A near unit joins the voters of a launch with the first queue bound to it: its core runtime enters the launch (R331, R346). -/
def State.joinVoters (s : State) (h lid : Nat) : State :=
  match s.launch lid with
  | some l => if s.bound h lid && ! (s.ctx (nearUnit h) 0).live then s.startVoter l (nearUnit h) else s
  | none => s

/-! ## Snapshots and configuration (R315, R338, R339) -/

/-- The snapshot of a queue for a level and an address space (R338). -/
def Queue.depthWord (x : Queue) (lv : Level) (asid : BitVec 12) : Word :=
  let v : Bool := x.en && (match lv with | .u => x.asid == asid | _ => true)
  if v then
    BitVec.ofNat 64 (2 ^ 63 + b2n x.fo * 2 ^ 62 + b2n x.beacon * 2 ^ 61 + x.t % 256 * 2 ^ 48 + x.started.length % 64 * 2 ^ 42
      + x.resident.length % 512 * 2 ^ 33 + x.spilled % 2 ^ 17 * 2 ^ 16)
  else 0#64

/-- TKDEPTH (R338). -/
def execTkdepth (d a : Reg) (s : State) : Out :=
  let sel := s.g a
  if ! s.selOk sel false then s.trap .access sel
  else
    let q := s.queue (selHome sel).1 (selHome sel).2
    (s.deferG d (q.depthWord s.cx.priv (s.cx.asr.extractLsb' 32 12))).done

/-- The spill ring lies wholly in backed DRAM (R315). -/
def State.ringInDram (s : State) (pa n : Nat) : Bool := decide (pa + 64 * 2 ^ n ≤ s.dramSize)

/-- The block is BAD (R339). -/
def State.badQueue (s : State) (w0 w1 w2 w3 : Word) : Bool :=
  let n := (w1.extractLsb' 0 4).toNat
  w0.extractLsb' 8 24 != 0#24 || w0.extractLsb' 60 2 == 3#2 || w1.extractLsb' 52 12 != 0#12 || w1.extractLsb' 4 8 != 0#8
    || w2 != 0#64 || w3 != 0#64 || ! (n == 0 || decide (8 ≤ n))
    || (n != 0 && ! s.ringInDram ((w1.extractLsb' 12 40).toNat * 4096) n)

/-- A queue with the configuration of a block (R315, R345). -/
def Queue.configure (x : Queue) (w0 w1 : Word) : Queue :=
  let en := w0.getLsbD 63
  { x with
    en := en, fo := w0.getLsbD 62, frc := w0.extractLsb' 60 2, lid := (w0.extractLsb' 44 16).toNat, asid := w0.extractLsb' 32 12
    t := (w0.extractLsb' 0 8).toNat, pa := (w1.extractLsb' 12 40).toNat * 4096, log2n := (w1.extractLsb' 0 4).toNat
    next := if en ∧ ! x.en then 0#32 else x.next }

/-- The block changes what only an empty queue may change (R339). -/
def Queue.changes (x y : Queue) : Bool :=
  x.en != y.en || x.lid != y.lid || x.asid != y.asid || x.pa != y.pa || x.log2n != y.log2n

/-- The queue holds a task. -/
def Queue.holds (x : Queue) : Bool := x.resident != [] || x.spilled != 0 || x.started != []

/-- A near unit leaves the voters with its last queue: its vote is discarded (R331), one on its way too. -/
def State.leaveVoters (s : State) (h lid : Nat) : State :=
  if s.bound h lid then s
  else
    { s.modLaunch lid fun l => { l with votes := l.votes.filter fun v => v.1 != nearUnit h } with
      posted := s.posted.filter fun p => match p with | .vote l u _ => ! (l == lid && u == nearUnit h) | _ => true }

/-- TKQCFG at the home (R339): the state and the status; a queue bound at a retired unit fails its launch (R434). DEDUCED, log entry 23. -/
def State.configureAt (s : State) (h q : Nat) (w0 w1 w2 w3 : Word) : State × Nat :=
  let x := s.queue h q
  let y := x.configure w0 w1
  if s.badQueue w0 w1 w2 w3 then (s, 2)
  else if x.changes y && x.holds then (s, 1)
  else
    let s1 := if x.beacon ∧ x.lid ≠ y.lid then s.beaconSend h (x.beaconOf h q) true else s
    ((((s1.putQueue h q y).leaveVoters h x.lid).joinVoters h y.lid).failRetired, 0)

/-- TKQCFG (R339). -/
def execTkqcfg (d a b : Reg) (s : State) : Out :=
  s.privileged (
    let sel := s.g a
    let w := s.g b
    if ! s.selOk sel false then s.trap .access sel
    else if w.extractLsb' 0 5 ≠ 0#5 ∨ ! s.localRangeOk w.toNat 32 then s.trap .access w
    else
      s.reading w.toNat 32 (
        let dw := fun (i : Nat) => (s.ownWords w.toNat 4).getD i 0#64
        let r := s.configureAt (selHome sel).1 (selHome sel).2 (dw 0) (dw 1) (dw 2) (dw 3)
        (r.1.deferG d (BitVec.ofNat 64 r.2)).done))

/-! ## Laps (R331, R332, R340, R341) -/

/-- The issuing context votes for its launch. -/
def State.votes (s : State) : Bool := s.c == 0 && s.isVoter s.cur s.cx.lid

/-- LAPV (R340). -/
def execLapv (op : LapOp) (e : Bool) (a : Reg) (s : State) : Out :=
  if s.votes then
    (if s.async then s.sendOut (.vote s.cx.lid s.cur ⟨op, e, s.g a⟩) else s.castVote s.cx.lid s.cur ⟨op, e, s.g a⟩).done
  else s.trap .access 0#64

/-- LAPW (R341): a closure that has ended the launch still answers its voter. -/
def execLapw (d : Reg) (s : State) : Out :=
  if s.votes || (s.c == 0 && s.ux.lapDone.isSome && (s.launch s.cx.lid).isNone) then s.waitOn (.lapw d) else s.trap .access 0#64

/-- The status of a closure (R341). -/
def lapStatus (ends err : Bool) (lap : Nat) : Word :=
  BitVec.ofNat 64 (2 ^ 63 + b2n ends * 2 ^ 61 + b2n err * 2 ^ 60 + lap % 2 ^ 32)

/-- What the voters on the other devices of a launch come to, as one vote: it comes over the links (R429), a free value; log entry 59. -/
def State.remoteVotes (s : State) (l : Launch) : List Vote :=
  if l.lcores ≤ 512 then []
  else
    let op := match Config.choose s.free % 5 with | 0 => LapOp.and | 1 => .or | 2 => .min | 3 => .max | _ => .sum
    [⟨op, Config.choose (s.free + 1) % 2 == 1, BitVec.ofNat 64 (Config.choose (s.free + 2))⟩]

/-- The closure of a lap (R139, R331, R332, R429): merge tables drained, the value at every voter, and the launch ended where every vote
carries E. -/
def State.closeLap (s : State) (l : Launch) : State :=
  let vs := s.voters l
  let votes := (vs.filterMap fun u => (l.votes.find? fun v => v.1 == u).map Prod.snd) ++ s.remoteVotes l
  let r := voteResult votes
  let ends := votes.all fun v => v.e
  let s1 := { s with free := s.free + 3 }.drainMerges l.lid
  let s2 := vs.foldl (fun acc u => acc.modUnit u fun x => { x with lapres := r.1, lapDone := some (lapStatus ends r.2 l.lap) }) s1
  let s3 := s2.modLaunch l.lid fun k => { k with votes := [], lap := k.lap + 1 }
  if ends then s3.endLaunch l.lid 1 0 r.1 else s3

/-! ## Events -/

/-- TASK_ACCEPT (R313). -/
def execTaskAccept (r : Req) (s : State) : Out := s.performEvent r

/-- BEACON_RESEND (R320): the standing beacons of a home. -/
def execBeaconResend (home : Nat) (s : State) : Out :=
  .next ((List.range 8).foldl (fun acc q =>
    if (acc.queue home q).beacon then acc.beaconSend home ((acc.queue home q).beaconOf home q) false else acc) s)

/-- ENQUEUE_RETRY (R327): a sleeping TKENQ that its home now accepts passes its word. -/
def execEnqueueRetry (u c : Nat) (s : State) : Out :=
  let x := s.ctx u c
  match x.wait with
  | some (.tkenq ea pa q desc) =>
    if x.asleep then
      match s.waitDone u c (.tkenq ea pa q desc) with
      | some s1 => .next (s1.passWait u c)
      | none => .next s
    else .next s
  | _ => .next s

/-- SPILL_REFILL (R313). -/
def execSpillRefill (home q : Nat) (s : State) : Out := .next (s.refill home q)

/-- POP_DECIDE (R318, R336): a pop on its way reaches the home of its near unit; its status answers the deferred result. -/
def execPopDecide (u c : Nat) (bind : Word) (id : Nat) (s : State) : Out :=
  match s.takeSent (.pop u c bind id) with
  | none => .next s
  | some s1 =>
    let r := s1.popAt u (homeOfNear u) (s1.ctx u c).lid bind
    .next (r.1.answer u c id (.value r.2))

/-- STEAL_DECIDE (R319, R320, R336): a steal on its way is decided; its status answers the deferred result. -/
def execStealDecide (u c : Nat) (sel bind : Word) (id : Nat) (s : State) : Out :=
  match s.takeSent (.steal u c sel bind id) with
  | none => .next s
  | some s1 =>
    let x := s1.ctx u c
    let r := s1.steal u x.lid (x.asr.extractLsb' 32 12) sel bind
    .next (r.1.answer u c id (.value r.2))

/-- TASK_COMPLETE (R325): a completion on its way is performed at its home. -/
def execTaskComplete (home q : Nat) (ticket : Word32) (s : State) : Out :=
  match s.takeSent (.complete home q ticket) with
  | none => .next s
  | some s1 => .next (s1.completeAt home q ticket)

/-- PRIORITY_AGING (R329): a task has been resident and eligible for 1 ms. DESIGN CHOICE, log entry 10. -/
def execPriorityAging (home q : Nat) (ticket : Word32) (s : State) : Out := .next (s.ageTask home q ticket)

/-- LAP_VOTE_ARRIVE (R331, R340): the voter's oldest vote on its way reaches the relay. -/
def execLapVoteArrive (lid u : Nat) (op : LapOp) (e : Bool) (v : Word) (s : State) : Out :=
  let p : Posted := .vote lid u ⟨op, e, v⟩
  match (if (s.votesSent lid u).head? = some p then s.takeSent p else none) with
  | none => .next s
  | some s1 => .next (if s1.isVoter u lid then s1.castVote lid u ⟨op, e, v⟩ else s1)

/-- LAP_CLOSE (R331, R332). -/
def execLapClose (lid : Nat) (s : State) : Out :=
  match s.launch lid with
  | some l => if s.lapReady l then .next (s.closeLap l) else .next s
  | none => .next s

/-- BEACON_ARRIVAL (R320). -/
def execBeaconArrival (dir : Nat) (b : Beacon) (retract : Bool) (s : State) : Out := .next (s.beaconArrive dir b retract)

end Sys2Proof.Machine
end

