-- ==== Sys2Proof/Machine/Engines.lean ====
section
/-! DEFINITION. The ENG instructions, major 0x29 (18_engines R347 to R366): pushes, pins, tokens, and the engine's own steps: a command
begins, does its chunks one at a time, and ends with its token. -/

namespace Sys2Proof.Machine

/-! ## Commands and tokens (R350, R352) -/

/-- A token (R350). -/
def engToken (k : EngCmd) (tag : Nat) (err mis : Bool) (sub chunks : Nat) : Word :=
  BitVec.ofNat 64 (2 ^ 63 + b2n err * 2 ^ 62 + b2n mis * 2 ^ 61 + k.op % 16 * 2 ^ 52 + k.ctx % 16 * 2 ^ 48 + tag % 2 ^ 16 * 2 ^ 32
    + sub % 256 * 2 ^ 24 + chunks % 2 ^ 24)

/-- Doubleword `i` of a command's block. -/
def EngCmd.dw (k : EngCmd) (i : Nat) : Word := k.block.getD i 0#64

/-- TAG of a command (R350, R352, R363): an overlay word holds none. -/
def EngCmd.tag (k : EngCmd) : Nat :=
  if k.op = 5 then 0 else if k.op = 8 then ((k.dw 3).extractLsb' 48 16).toNat else (k.opb.extractLsb' 48 16).toNat

/-- LEN of a control word (R352). -/
def EngCmd.len (k : EngCmd) : Nat := (k.opb.extractLsb' 0 32).toNat

/-- The address `n` bytes above another, modulo 2^64. -/
def above (va : Word) (n : Nat) : Word := va + BitVec.ofNat 64 n

/-- A signed 32-bit step as an address difference. -/
def step32 (w : BitVec 32) (n : Nat) : Word := w.signExtend 64 * BitVec.ofNat 64 n

/-! ## Chunks (R354) -/

/-- The 4 KiB blocks that `n` bytes from an address on meet. -/
def blocksOf (va : Word) (n : Nat) : Nat := if n = 0 then 0 else (va.toNat % 4096 + n + 4095) / 4096

/-- Offset and length, in a range, of its part in the `j`th block. -/
def blockPart (va : Word) (n j : Nat) : Nat × Nat :=
  let a := va.toNat % 4096
  let lo := if j = 0 then 0 else j * 4096 - a
  (lo, min n ((j + 1) * 4096 - a) - lo)

/-- An ECPY whose destination lies above its source and overlaps it (R358). -/
def EngCmd.descends (k : EngCmd) : Bool :=
  decide (k.opa.toNat < k.opd.toNat) && decide (k.opd.toNat < k.opa.toNat + k.len)

/-- Overlay word fields (R361): length and code-store offset in bytes, entry. -/
def overlayLen (w : Word) : Nat := (w.extractLsb' 32 16).toNat * 64
/-- The code-store offset of an overlay word in bytes. -/
def overlayOff (w : Word) : Nat := (w.extractLsb' 16 16).toNat * 64
/-- The entry of an overlay word. -/
def overlayEntry (w : Word) : Nat := (w.extractLsb' 0 4).toNat

/-- The bytes of a unit's code store (R14, R18). -/
def codeBytes : UnitKind → Nat
  | .far => 0x10000
  | _ => 0x4000

/-- The destination and source of row `r` of an ECPY2 (R359). -/
def EngCmd.rowAt (k : EngCmd) (r : Nat) : Word × Word :=
  (k.dw 1 + step32 ((k.dw 3).extractLsb' 0 32) r, k.dw 0 + step32 ((k.dw 3).extractLsb' 32 32) r)

/-- ROWS of an ECPY2. -/
def EngCmd.rows (k : EngCmd) : Nat := ((k.dw 2).extractLsb' 32 32).toNat

/-- ROWBYTES of an ECPY2, and ESIZE where the block's third doubleword gives sizes. -/
def EngCmd.rowLen (k : EngCmd) : Nat := ((k.dw 2).extractLsb' 0 32).toNat

/-- COUNT and ESIZE of an EGATH or ESCAT (R360). -/
def EngCmd.count (k : EngCmd) : Nat := ((k.dw 3).extractLsb' 32 32).toNat
/-- ESIZE (R360). -/
def EngCmd.esize (k : EngCmd) : Nat := ((k.dw 3).extractLsb' 0 32).toNat

/-- The row and block of chunk `c` of an ECPY2, from row `r` on; `none` past the last. -/
def EngCmd.rowChunk (k : EngCmd) (r c : Nat) : Nat → Option (Nat × Nat)
  | 0 => none
  | fuel + 1 =>
    let n := blocksOf (k.rowAt r).1 k.rowLen
    if c < n then some (r, c) else k.rowChunk (r + 1) (c - n) fuel

/-- A piece of work: destination, source, bytes. -/
structure Piece where
  dst : Word
  src : Word
  len : Nat
  deriving DecidableEq, Repr

/-- The piece of chunk `c` of a copy or fill of one range, in the order in which chunks are done (R354, R358). -/
def rangePiece (dst src : Word) (n : Nat) (down : Bool) (c : Nat) : Piece :=
  let p := blockPart dst n (if down then blocksOf dst n - 1 - c else c)
  ⟨above dst p.1, above src p.1, p.2⟩

/-- The first address and the bytes of a command's destination range, where it has one. -/
def EngCmd.range (k : EngCmd) : Word × Nat :=
  if k.op = 5 then (BitVec.ofNat 64 (overlayOff k.opb), overlayLen k.opb) else (k.opd, k.len)

/-- A command has no chunk `c` (R354). -/
def EngCmd.ended (k : EngCmd) (c : Nat) : Bool :=
  match k.op with
  | 0 | 4 | 5 => decide (blocksOf k.range.1 k.range.2 ≤ c)
  | 1 => (k.rowChunk 0 c k.rows).isNone
  | 2 | 3 => decide (k.count ≤ c)
  | _ => decide ((k.dw 2).toNat / 4096 ≤ c)

/-- The bytes of a pattern from an address on (R358). -/
def patternBytes (pat : Word) (va : Word) (n : Nat) : List Byte :=
  (List.range n).map fun i => pat.extractLsb' (8 * ((va.toNat + i) % 8)) 8

/-- Bytes of several ranges read in turn for a command (R353). -/
def State.engReadParts (s : State) (need : Need) (w : Issuer) : List (Word × Nat) → Except Cause (State × List Byte)
  | [] => .ok (s, [])
  | p :: rest =>
    match s.readVaFor need w p.1 p.2 1 with
    | .error e => .error e
    | .ok (s1, bs) => (s1.engReadParts need w rest).map fun r => (r.1, bs ++ r.2)

/-- Bytes read for a command, split at 4 KiB blocks (R353). DEDUCED, log entry 78. -/
def State.engRead (s : State) (need : Need) (w : Issuer) (va : Word) (n : Nat) : Except Cause (State × List Byte) :=
  s.engReadParts need w (chunksFrom va 4096 n (n / 4096 + 2))

/-- Bytes written over several ranges in turn for a command (R353). -/
def State.engWriteParts (s : State) (w : Issuer) (bs : List Byte) : List (Word × Nat) → Except Cause State
  | [] => .ok s
  | p :: rest =>
    match s.writeVa w p.1 (bs.take p.2) 1 with
    | .error e => .error e
    | .ok s1 => s1.engWriteParts w (bs.drop p.2) rest

/-- Bytes written for a command, split at 4 KiB blocks (R353). -/
def State.engWrite (s : State) (w : Issuer) (va : Word) (bs : List Byte) : Except Cause State :=
  s.engWriteParts w bs (chunksFrom va 4096 bs.length (bs.length / 4096 + 2))

/-- One piece copied, all of it read before any of it is written (R354, R358). -/
def State.copyWhole (s : State) (w : Issuer) (p : Piece) : Except Cause State :=
  match s.engRead .load w p.src p.len with
  | .error e => .error e
  | .ok (s1, bs) => s1.engWrite w p.dst bs

/-- The physical address that an issuer's access to a virtual address reaches, if any. -/
def State.paFor (s : State) (need : Need) (w : Issuer) (va : Word) : Option Nat :=
  match s.withIssuer w fun s0 =>
      match s0.checkEa w.unit w.ctx va 1 need with
      | .error e => .error e
      | .ok (s1, .own off _) => .ok (s1, localPa w.unit off)
      | .ok (s1, .home pa _) => .ok (s1, pa) with
  | .ok r => some r.2
  | .error _ => none

/-- The physical ranges of `n` bytes from a virtual address on. -/
def State.spansFor (s : State) (need : Need) (w : Issuer) (va : Word) (n : Nat) : List (Nat × Nat) :=
  (chunksFrom va 4096 n (n / 4096 + 2)).filterMap fun p => (s.paFor need w p.1).map fun pa => (pa, p.2)

/-- Source and destination of a piece alias one physical range and do not overlap as addresses (R358). -/
def State.aliases (s : State) (w : Issuer) (p : Piece) : Bool :=
  ! meets p.src.toNat p.len p.dst.toNat p.len &&
    (s.spansFor .load w p.src p.len).any fun a => (s.spansFor .store w p.dst p.len).any fun b => meets a.1 a.2 b.1 b.2

/-- Small pieces copied in turn. -/
def State.copySmall (s : State) (w : Issuer) (p : Piece) : List (Word × Nat) → Except Cause State
  | [] => .ok s
  | d :: rest =>
    match s.copyWhole w ⟨d.1, p.src + (d.1 - p.dst), d.2⟩ with
    | .error e => .error e
    | .ok s1 => s1.copySmall w p rest

/-- One piece copied (R358): a chunk that faults writes nothing (R354); ranges that alias are copied in increasing order of address. DESIGN
CHOICE: a doubleword of the destination at a time; log entry 27. -/
def State.copyPiece (s : State) (w : Issuer) (p : Piece) : Except Cause State :=
  match s.copyWhole w p with
  | .error e => .error e
  | .ok s1 => if s.aliases w p then s.copySmall w p (chunksFrom p.dst 8 p.len (p.len / 8 + 2)) else .ok s1

/-- What the next chunk of a command does: the state, and the command with the indices it has read. -/
inductive Chunk where
  | done (s : State) (k : EngCmd)
  | fault (e : Cause)
  /-- EBULK compare found a granule that differs (R363). -/
  | differs (s : State)

/-- The answer of a chunk from what its accesses did. -/
def chunkOf (k : EngCmd) (r : Except Cause State) : Chunk := match r with | .ok s => .done s k | .error e => .fault e

/-- The place of index `i` among the indices of its 64-byte line that the engine has read, and how many that line gives from there on
(R360). -/
def EngCmd.lineAt (k : EngCmd) (i : Nat) : Nat × Nat :=
  let first := (k.dw 0).toNat / 8 % 8
  let at_ := (first + i) % 8
  (if i < 8 - first then i else at_, min (8 - at_) (k.count - i))

/-- The indices of the line that holds index `i`, read where `i` is the first of them (R360). -/
def State.indexLine (s : State) (k : EngCmd) (i : Nat) : Except Cause (State × EngCmd) :=
  if (k.lineAt i).1 ≠ 0 then .ok (s, k)
  else
    let n := (k.lineAt i).2
    (s.engRead .load k.who (above (k.dw 0) (8 * i)) (8 * n)).map fun r =>
      (r.1, { k with block := k.block.take 4 ++ (List.range n).map fun j => wordOf ((r.2.drop (8 * j)).take 8) })

/-- The piece of element `i` of an EGATH or ESCAT, its index read (R360). -/
def State.elementPiece (s : State) (k : EngCmd) (i : Nat) : Except Cause (State × EngCmd × Piece) :=
  (s.indexLine k i).map fun r =>
    let x := r.2.dw (4 + (k.lineAt i).1)
    let n := BitVec.ofNat 64 k.esize
    let at_ := BitVec.ofNat 64 i * n
    (r.1, r.2, if k.op = 2 then ⟨k.dw 2 + at_, k.dw 1 + x * n, k.esize⟩ else ⟨k.dw 2 + x * n, k.dw 1 + at_, k.esize⟩)

/-- Chunk `c` of a command that has one (R354, R358 to R361, R363); `u` is the pushing unit. -/
def State.chunk (s : State) (u : Nat) (k : EngCmd) (c : Nat) : Chunk :=
  match k.op with
  | 0 => chunkOf k (s.copyPiece k.who (rangePiece k.opd k.opa k.len k.descends c))
  | 1 =>
    let rj := (k.rowChunk 0 c k.rows).getD (0, 0)
    let a := k.rowAt rj.1
    let p := blockPart a.1 k.rowLen rj.2
    chunkOf k (s.copyPiece k.who ⟨above a.1 p.1, above a.2 p.1, p.2⟩)
  | 2 | 3 =>
    match s.elementPiece k c with
    | .error e => .fault e
    | .ok (s1, k1, p) => chunkOf k1 (s1.copyPiece k.who p)
  | 4 =>
    let p := rangePiece k.opd k.opd k.len false c
    chunkOf k (s.engWrite k.who p.dst (patternBytes k.opa p.dst p.len))
  | 5 =>
    -- the destination is the code store
    let p := rangePiece k.range.1 k.opa k.range.2 false c
    match s.engRead .exec k.who p.src p.len with
    | .error e => .fault e
    | .ok (s1, bs) => .done (s1.modUnit u fun x => { x with code := x.code.writeBytes p.dst.toNat bs }) k
  | _ =>
    let src := above (k.dw 0) (4096 * c)
    let dst := above (k.dw 1) (4096 * c)
    match ((k.dw 3).extractLsb' 0 2).toNat with
    | 0 => chunkOf k (s.copyPiece k.who ⟨dst, src, 4096⟩)
    | 1 => chunkOf k (s.engWrite k.who dst (patternBytes (k.dw 0) dst 4096))
    | _ =>
      match s.engRead .load k.who src 4096 with
      | .error e => .fault e
      | .ok (s1, a) =>
        match s1.engRead .load k.who dst 4096 with
        | .error e => .fault e
        | .ok (s2, b) => if a = b then .done s2 k else .differs s2

/-- The ranges that chunk `c` of a command reads and writes. -/
def State.chunkSpans (s : State) (k : EngCmd) (c : Nat) : List (Need × Word × Nat) :=
  let copy := fun (p : Piece) => [(Need.load, p.src, p.len), (Need.store, p.dst, p.len)]
  match k.op with
  | 0 => copy (rangePiece k.opd k.opa k.len k.descends c)
  | 1 =>
    let rj := (k.rowChunk 0 c k.rows).getD (0, 0)
    let a := k.rowAt rj.1
    let p := blockPart a.1 k.rowLen rj.2
    copy ⟨above a.1 p.1, above a.2 p.1, p.2⟩
  | 2 | 3 =>
    (.load, above (k.dw 0) (8 * c), 8) :: (match s.elementPiece k c with | .ok (_, _, p) => copy p | .error _ => [])
  | 4 => let p := rangePiece k.opd k.opd k.len false c; [(.store, p.dst, p.len)]
  | 5 => let p := rangePiece k.range.1 k.opa k.range.2 false c; [(.exec, p.src, p.len)]
  | _ =>
    let src : Need × Word × Nat := (.load, above (k.dw 0) (4096 * c), 4096)
    let dst := above (k.dw 1) (4096 * c)
    match ((k.dw 3).extractLsb' 0 2).toNat with
    | 0 => [src, (.store, dst, 4096)]
    | 1 => [(.store, dst, 4096)]
    | _ => [src, (.load, dst, 4096)]

/-- Chunk `c` of a command is held at a home: by array commands, a row stream, or a link that retrains (R275, R377, R427). -/
def State.chunkWaits (s : State) (k : EngCmd) (c : Nat) : Bool :=
  ! k.ended c && (s.chunkSpans k c).any fun a =>
    (chunksFrom a.2.1 4096 a.2.2 (a.2.2 / 4096 + 2)).any fun p => s.vaWaits a.1 k.who p.1 p.2

/-! ## Beginning (R347, R352, R355, R361, R363) -/

/-- The stack that homes a granule; `none` where no stack does (R363). -/
def State.granuleStack (s : State) (w : Issuer) (need : Need) (va : Word) : Except Cause (State × Option Nat) :=
  s.withIssuer w fun s0 =>
    match s0.checkEa w.unit w.ctx va 1 need with
    | .error e => .error e
    | .ok (s1, .own _ _) => .ok (s1, none)
    | .ok (s1, .home pa _) => .ok (s1, match s1.place pa with | .dram p _ => some (p / 64) | _ => none)

/-- Granules of a range all homed in one stack (R363): the state, and whether they are. -/
def State.granulesIn (s : State) (w : Issuer) (need : Need) (va : Word) (stack : Option Nat) : Nat → Except Cause (State × Bool)
  | 0 => .ok (s, true)
  | n + 1 =>
    match s.granuleStack w need va with
    | .error e => .error e
    | .ok (s1, g) =>
      if g.isSome && g == stack then s1.granulesIn w need (above va 4096) stack n
      else (s1.granulesIn w need (above va 4096) stack n).map fun r => (r.1, false)

/-- The translation of an EBULK's granules before it is handed on (R363): the state, or the SUB of its token. DEDUCED, log entry 26. -/
def State.bulkCheck (s : State) (k : EngCmd) : Except Nat State :=
  let n := (k.dw 2).toNat / 4096
  let op := ((k.dw 3).extractLsb' 0 2).toNat
  let need := if op = 2 then Need.load else Need.store
  if n = 0 then .ok s
  else
    match s.granuleStack k.who need (k.dw 1) with
    | .error e => .error (subCode e)
    | .ok (s1, stack) =>
      match s1.granulesIn k.who need (k.dw 1) stack n with
      | .error e => .error (subCode e)
      | .ok (s2, a) =>
        match (if op = 1 then .ok (s2, true) else s2.granulesIn k.who .load (k.dw 0) stack n) with
        | .error e => .error (subCode e)
        | .ok (s3, b) => if a && b then .ok s3 else .error 0x13

/-- A field check that a command begins with: the SUB of its error token, if any (R352, R360, R361, R363). -/
def EngCmd.badFields (k : EngCmd) (kind : UnitKind) : Option Nat :=
  let ctlBad := k.opb.extractLsb' 32 16 != 0#16
  match k.op with
  | 0 | 4 => if ctlBad then some 0x10 else none
  | 1 => if ctlBad || k.len != 0 then some 0x10 else none
  | 2 | 3 =>
    if ctlBad || k.len != 0 || (k.dw 0).extractLsb' 0 3 != 0#3 || k.esize == 0 || decide (4096 < k.esize) then some 0x10 else none
  | 5 =>
    let w := k.opb
    let n := overlayLen w
    if w.extractLsb' 48 16 != 0#16 || w.extractLsb' 4 12 != 0#12 || n == 0 || decide (codeBytes kind < overlayOff w + n) then some 0x10
    else if k.opa.extractLsb' 0 6 != 0#6 then some 0x01
    else none
  | _ =>
    let op := (k.dw 3).extractLsb' 0 2
    if k.opb != 0#64 || (k.dw 3).extractLsb' 2 46 != 0#46 || op == 3#2 || (k.dw 2).extractLsb' 0 12 != 0#12
        || decide (2 ^ 36 < (k.dw 2).toNat) || (k.dw 1).extractLsb' 0 12 != 0#12
        || (op != 1#2 && (k.dw 0).extractLsb' 0 12 != 0#12) then some 0x10
    else none

/-- An entry that an EOVL names or overlaps (R361). -/
def Overlay.hit (e : Overlay) (i : Nat) (w : Word) : Bool :=
  i == overlayEntry w || (e.valid && decide (e.off < overlayOff w + overlayLen w) && decide (overlayOff w < e.off + e.len))

/-- The entries that an EOVL would invalidate include a pinned one (R361). -/
def UnitState.overlayPinned (x : UnitState) (w : Word) : Bool :=
  x.overlays.toList.zipIdx.any fun e => e.1.hit e.2 w && e.1.valid && e.1.pinned

/-- The named and overlapped entries invalid (R361). -/
def State.dropOverlays (s : State) (u : Nat) (w : Word) : State :=
  s.modUnit u fun x => { x with overlays := Vector.ofFn fun i => if (x.overlays.get i).hit i.val w then Overlay.none else x.overlays.get i }

/-- The token written, the engine free, the notice raised where N asks for it (R347, R349). -/
def State.engToken (s : State) (u : Nat) (k : EngCmd) (err mis : Bool) (sub chunks : Nat) : State :=
  let t := Machine.engToken k k.tag err mis sub chunks
  let s1 := s.modUnit u fun x => { x with engine := { x.engine with begun := none, out := if s.cancelling (s.ctx u k.ctx).lid then x.engine.out else x.engine.out ++ [t] } }
  if k.n then s1.modCtx u k.ctx fun x => { x with npend := true } else s1

/-- The entry of an EOVL becomes valid once every byte has arrived (R361). -/
def State.overlayArrived (s : State) (u : Nat) (k : EngCmd) : State :=
  let w := k.opb
  s.modUnit u fun x =>
    { x with overlays := x.overlays.setIfInBounds (overlayEntry w) ⟨true, k.opa, overlayLen w, overlayOff w, k.who.asid, k.who.gen, false⟩ }

/-- A command has done its last chunk. -/
def State.engFinish (s : State) (u : Nat) (k : EngCmd) (chunks : Nat) : State :=
  (if k.op = 5 then s.overlayArrived u k else s).engToken u k false false 0 chunks

/-- A command leaves the FIFO and begins, or ends at once in an error token (R347, R352). -/
def State.engBegin (s : State) (u : Nat) (k : EngCmd) : State :=
  let s1 := s.modUnit u fun x => { x with engine := { x.engine with infifo := x.engine.infifo.drop 1 } }
  match k.badFields (kindOf u) with
  | some sub => s1.engToken u k true false sub 0
  | none =>
    let start := fun (t : State) => t.modUnit u fun x => { x with engine := { x.engine with begun := some (k, k.chunks) } }
    if k.op = 5 then
      (if (s1.unit u).overlayPinned k.opb then s1.engToken u k true false 0x12 0 else start (s1.dropOverlays u k.opb))
    else if k.op = 8 then
      (match s1.bulkCheck k with
       | .error sub => s1.engToken u k true false sub 0
       | .ok s2 => start s2)
    else start s1

/-- A unit's engine does no chunk: it is suspended, or a stop has reached its unit (R365). -/
def State.engStill (s : State) (u : Nat) : Bool := (s.unit u).engine.susp || s.launches.any fun l => s.stopReaches u l.lid

/-- The command at the head can begin (R347, R355): the engine goes on, none is in progress, its token has a place, its pusher's earlier
accesses stand performed. -/
def State.engMayBegin (s : State) (u : Nat) : Option EngCmd :=
  let e := (s.unit u).engine
  if s.engStill u || e.begun.isSome then none
  else
    match e.infifo with
    | [] => none
    | k :: _ =>
      if s.before u k.ctx k.po || (decide (16 ≤ e.out.length) && ! s.cancelling (s.ctx u k.ctx).lid) then none else some k

/-- ENGINE_COMMAND_BEGIN (R347). -/
def execEngineCommandBegin (u : Nat) (s : State) : Out :=
  match s.engMayBegin u with
  | some k => .next (s.engBegin u k)
  | none => .next s

/-- The next chunk of the command in progress; the token after the last, or at a fault (R354, R363). -/
def State.engChunk (s : State) (u : Nat) (k : EngCmd) (c : Nat) : State :=
  if k.ended c then s.engFinish u k c
  else
    match s.chunk u k c with
    | .fault e => s.engToken u k true false (subCode e) c
    | .differs s1 => s1.engToken u k false true 0 c
    | .done s1 k1 =>
      if k.ended (c + 1) then s1.engFinish u k (c + 1)
      else s1.modUnit u fun x => { x with engine := { x.engine with begun := some (k1, c + 1) } }

/-- ENGINE_COMMAND_COMPLETE (R354): one chunk of the command in progress, and its token once it ends. -/
def execEngineCommandComplete (u : Nat) (s : State) : Out :=
  match (s.unit u).engine.begun with
  | some (k, c) => if k.op = 8 || s.engStill u || s.chunkWaits k c then .next s else .next (s.engChunk u k c)
  | none => .next s

/-- BULK_COMMAND (R363): one granule in a bulk engine, and the token once the command ends. -/
def execBulkCommand (u : Nat) (s : State) : Out :=
  match (s.unit u).engine.begun with
  | some (k, c) => if k.op = 8 && ! s.engStill u && ! s.chunkWaits k c then .next (s.engChunk u k c) else .next s
  | none => .next s

/-- ENGINE_SUSPEND (R365): where a stop has reached the unit, its engine suspends between two chunks. -/
def execEngineSuspend (u : Nat) (s : State) : Out :=
  .next (if s.launches.any fun l => s.stopReaches u l.lid then s.modUnit u fun x => { x with engine := { x.engine with susp := true } } else s)

/-! ## The instructions (R348, R351, R352) -/

/-- A command pushed, its operands read at issue. -/
def State.engPush (s : State) (op : Nat) (n : Bool) (opd opa opb : Word) (block : List Word) : Out :=
  .next (s.pushTo .engine fun s1 =>
    let k : EngCmd := ⟨op, n, s1.c, s1.po, s1.pc, opa, opb, opd, block, s1.issuer s1.cur s1.c, 0⟩
    ((s1.tick).modU fun x => { x with engine := { x.engine with infifo := x.engine.infifo ++ [k] } }).advance)

/-- A push with a block of 32 bytes (R352). -/
def State.engBlock (s : State) (op : Nat) (n : Bool) (a b : Reg) : Out :=
  let w := s.g a
  if w.extractLsb' 0 5 ≠ 0#5 ∨ ! s.localRangeOk w.toNat 32 then s.trap .access w
  else s.reading w.toNat 32 (s.engPush op n 0#64 w (s.g b) (s.ownWords w.toNat 4))

/-- ECPY (R358). -/
def execEcpy (n : Bool) (d a b : Reg) (s : State) : Out := s.engPush 0 n (s.g d) (s.g a) (s.g b) []

/-- ECPY2 (R359). -/
def execEcpy2 (n : Bool) (a b : Reg) (s : State) : Out := s.engBlock 1 n a b

/-- EGATH (R360). -/
def execEgath (n : Bool) (a b : Reg) (s : State) : Out := s.engBlock 2 n a b

/-- ESCAT (R360). -/
def execEscat (n : Bool) (a b : Reg) (s : State) : Out := s.engBlock 3 n a b

/-- EFILL (R358). -/
def execEfill (n : Bool) (d a b : Reg) (s : State) : Out := s.engPush 4 n (s.g d) (s.g a) (s.g b) []

/-- EOVL (R361). -/
def execEovl (n : Bool) (a b : Reg) (s : State) : Out := s.engPush 5 n 0#64 (s.g a) (s.g b) []

/-- EBULK (R363). -/
def execEbulk (n : Bool) (a b : Reg) (s : State) : Out := s.engBlock 8 n a b

/-- The bytes that may be pinned (R362). -/
def pinLimit : UnitKind → Nat
  | .far => 48 * 1024
  | _ => 12 * 1024

/-- The status of an EPIN, and the table with its pins (R362). -/
def UnitState.pin (x : UnitState) (kind : UnitKind) (asid : BitVec 12) (mask : Word) : UnitState × Nat :=
  let named := fun (i : Nat) => mask.getLsbD i
  let es := x.overlays.toList.zipIdx
  if es.any fun e => named e.2 && ! (e.1.valid && e.1.asid == asid) then (x, 2)
  else
    let bytes := ((es.filter fun e => e.1.valid && (e.1.pinned || named e.2)).map fun e => e.1.len).foldl (· + ·) 0
    if pinLimit kind < bytes then (x, 1)
    else
      ({ x with overlays := Vector.ofFn fun i =>
          if named i.val then { x.overlays.get i with pinned := true } else x.overlays.get i }, 0)

/-- EPIN (R362). -/
def execEpin (d a : Reg) (s : State) : Out :=
  let mask := (s.g a).extractLsb' 0 16
  let r := s.ux.pin s.kind (s.cx.asr.extractLsb' 32 12) (mask.setWidth 64)
  ((s.setUnit s.cur r.1).deferG d (BitVec.ofNat 64 r.2)).done

/-- The table with pins of an address space removed (R362). -/
def UnitState.unpin (x : UnitState) (asid : BitVec 12) (mask : Word) : UnitState :=
  { x with overlays := Vector.ofFn fun i =>
      let e := x.overlays.get i
      if i.val < 16 ∧ mask.getLsbD i.val ∧ e.valid ∧ e.asid = asid then { e with pinned := false } else e }

/-- EUNPIN (R362). -/
def execEunpin (a : Reg) (s : State) : Out := (s.modU fun x => x.unpin (s.cx.asr.extractLsb' 32 12) (s.g a)).done

/-- EPOP (R356): the token, or 0, lands at the park that ends the segment. -/
def execEpop (d : Reg) (s : State) : Out := (s.defer s.cur s.c d (.epop s.pc)).done

/-- The snapshot of an engine (R357). -/
def Engine.stat (e : Engine) : Word :=
  let busy := match e.begun with | some _ => 1 | none => 0
  let op := match e.begun with | some k => k.1.op | none => 0
  let chunks := match e.begun with | some k => k.2 | none => 0
  BitVec.ofNat 64 (busy * 2 ^ 63 + b2n e.susp * 2 ^ 62 + op % 16 * 2 ^ 52 + (e.infifo.length + e.out.length + busy) % 64 * 2 ^ 46
    + e.infifo.length % 32 * 2 ^ 41 + e.out.length % 32 * 2 ^ 36 + chunks % 2 ^ 24)

/-- ESTAT (R357). -/
def execEstat (d : Reg) (s : State) : Out := (s.deferG d s.ux.engine.stat).done

end Sys2Proof.Machine
end

