-- ==== Sys2Proof/Machine/Recompute.lean ====
section
/-! DEFINITION. The recompute of a stale derived tile as the slice's recompute context makes it (14_derive R302 to R304): the read that asks
for it, its beginning, and its end with the reads that it has held. -/

namespace Sys2Proof.Machine

/-- A tile meets one of the ranges of physical addresses. -/
def spansMeet (l : List (Nat × Nat)) (tile : Nat) : Bool := l.any fun a => decide (a.1 / 4096 ≤ tile) && decide (tile ≤ (a.1 + a.2 - 1) / 4096)

/-- The ranges that the copy engine of a unit reads, and where asked writes, for its next chunk. -/
def State.engineSpans (s : State) (u : Nat) (writes : Bool) : List (Nat × Nat) :=
  match (s.unit u).engine.begun with
  | none => []
  | some (k, c) =>
    if k.ended c then []
    else
      (s.chunkSpans k c).flatMap fun a =>
        match a.1 with
        | .store => if writes then s.spansFor a.1 k.who a.2.1 a.2.2 else []
        | _ => s.spansFor a.1 k.who a.2.1 a.2.2

/-- The ranges that the tile-list walker of a core reads for its next grant. -/
def State.walkSpans (s : State) (u : Nat) : List (Nat × Nat) :=
  match (s.mat u).fifo with
  | [] => []
  | k :: _ =>
    match k.instr with
    | .mtlist _ _ _ =>
      let w := ((s.mat u).walk).getD (walkOf (s.listBlock u (matOff k.opa)))
      let f := matShape (s.mat u).fmt
      s.spansFor .load k.who (w.entryVa w.next) 16
        ++ (match s.currentEntry k.who w with
            | (_, none, _, e1) => if e1.toNat < 0x100000 then [] else s.spansFor .load k.who e1 (f.m * rowBytes f.fmtA f.k)
            | _ => [])
    | _ => []

/-- The ranges that the memory instructions in the vector queue of a unit read. -/
def State.vectorSpans (s : State) (u : Nat) : List (Nat × Nat) :=
  ((s.unit u).vq.filter fun k => vectorMemory k.instr).flatMap fun k =>
    let m := s.vaddrs u k
    match m.1 with
    | .load => m.2.2.flatMap fun a => s.spansFor .load k.who a.2 m.2.1
    | _ => []

/-- A DFRESH asleep asks for a tile (R309). -/
def State.freshAsked (s : State) (tile : Nat) : Bool :=
  s.units.any fun u => u.2.ctxs.any fun x =>
    match x.2.wait with
    | some (.dfresh lo len) =>
      let a := lo.toNat / 4096
      (s.rangeTiles u.1 x.1 a ((lo.toNat + len.toNat - 1) / 4096 - a + 1)).any fun t => t.2 == tile
    | _ => false

/-- A read asks for a stale tile (R302, R304, R309): an access in flight, a base read of a recompute in progress, an element of a vector load,
an engine's chunk, an operand of the tile-list walker, or a DFRESH. -/
def State.tileAsked (s : State) (tile : Nat) : Bool :=
  (s.flight.any fun r => reqTile r tile) || (s.recomputes.any fun x => (s.basesOf x.tile).contains tile) || s.freshAsked tile
    || s.units.any fun u => spansMeet (s.vectorSpans u.1 ++ s.engineSpans u.1 false ++ s.walkSpans u.1) tile

/-- The depth of the tensor of a derived tile (R298). -/
def State.tileDepth (s : State) (tile : Nat) : Nat :=
  match s.deriver tile with | some r => depthIn s.rules r (s.rules.length + 1) | none => 0

/-- The recompute that the context of a slice carries out: those of greater depth wait behind it (R304). -/
def State.recomputing (s : State) (sl : Nat) : Option Recompute := s.recomputes.find? fun x => tileSlice x.tile == sl

/-- A recompute may begin (R302, R304): a read asks for the stale tile, and the slice's context is free or recomputes a tile of greater depth.
Which of several requests has arrived first the network decides; so does the order in which recomputes begin. -/
def State.recomputeMayBegin (s : State) (tile : Nat) : Bool :=
  s.isStale tile && ! s.inProgress tile && ! s.tileBad 5 tile && s.tileAsked tile &&
    (match s.recomputing (tileSlice tile) with
     | none => true
     | some x => decide (s.tileDepth tile < s.tileDepth x.tile))

/-- The recompute of a slice may end (R275, R302, R304): its base tiles are fresh, and no array command accepted before stands on its
arrays. -/
def State.recomputeMayEnd (s : State) (tile : Nat) : Bool :=
  (match s.recomputing (tileSlice tile) with | some x => x.tile == tile | none => false)
    && ! ((s.basesOf tile).any s.isStale) && ! s.tileArrays 5 tile

/-- The end of a recompute (R302, R303): the tile written, its mark cleared, the reads that it has held and that have arrived performed; where
a mark has come since it began, only those that arrived before the mark, and the tile is marked again. -/
def State.endRecompute (s : State) (r : Rule) (d : Nat × Nat) (x : Recompute) : State :=
  let served := if x.again then x.ahead else s.arrived x.tile
  let s0 := { s with recomputes := s.recomputes.filter fun o => o.tile != x.tile, free := s.free + s.flight.length }
  let s1 := (s.flight.filter fun q => reqTile q x.tile && served.contains q.po).foldl
    (fun acc q => if acc.mayPerform q then acc.performNow q else acc) (s0.recomputeTile x.read r d)
  if x.again then s1.markTile d.2 else s1

/-- RECOMPUTE (R302 to R304): the recompute of a stale tile begins, or ends; an error in a base read ends it with the tile still stale
(log 28). -/
def execRecompute (tile : Nat) (s : State) : Out :=
  match s.recomputes.find? fun x => x.tile == tile with
  | none =>
    if s.recomputeMayBegin tile then .next { s with recomputes := ⟨tile, [], false, []⟩ :: s.recomputes } else .next s
  | some x =>
    if s.tileBad 5 tile then .next { s with recomputes := s.recomputes.filter fun o => o.tile != tile }
    else
      match s.deriver tile with
      | none => .next s
      | some r =>
        match r.dtiles.find? fun d => d.2 == tile with
        | none => .next s
        | some d => if s.recomputeMayEnd tile then .next (s.endRecompute r d x) else .next s

/-- DFRESH_REQUEST (R309): the request of a sleeping DFRESH for one tile, a held read of it: the recompute that it asks for. -/
def execDfreshRequest (u c tile : Nat) (s : State) : Out :=
  match (s.ctx u c).wait with
  | some (.dfresh _ _) => execRecompute tile s
  | _ => .next s

end Sys2Proof.Machine
end

