-- ==== Sys2Proof/Machine/Streams.lean ====
section
/-! DEFINITION. The NEAR instructions, major 0x2A (19_near R370 to R386): row programs, streams, and the slots and windows of a channel in
near mode. -/

namespace Sys2Proof.Machine

/-! ## Row programs (R370 to R372) -/

/-- KIND of a step word. -/
def stepKind (w : Word) : Nat := (w.extractLsb' 28 4).toNat
/-- DST of a step word. -/
def stepDst (w : Word) : Nat := (w.extractLsb' 26 2).toNat
/-- X of a step word. -/
def stepX (w : Word) : Nat := (w.extractLsb' 23 3).toNat
/-- Y of a step word. -/
def stepY (w : Word) : Nat := (w.extractLsb' 20 3).toNat

/-- The fields of a step word that its kind does not use are zero, and its kind is one of R371. -/
def stepOk (w : Word) : Bool :=
  w.extractLsb' 0 20 == 0#20 &&
    match stepKind w with
    | 0 => w == 0#64
    | 1 => stepY w == 0
    | 2 | 3 | 4 | 5 | 6 | 7 => true
    | 8 => stepX w == 0 && stepY w == 0
    | _ => false

/-- A list of step words is valid (R371): nothing after an END, a STORE only as the last step. -/
def stepsOk : List Word → Bool
  | [] => true
  | w :: rest =>
    stepOk w &&
      (if stepKind w = 0 then rest.all fun o => o == 0#64
       else if stepKind w = 8 then (match rest with | [] => true | o :: _ => o == 0#64) && stepsOk rest
       else stepsOk rest)

/-- The steps before the END (R375). -/
def liveSteps (l : List Word) : List Word := l.takeWhile fun w => stepKind w != 0

/-- The sixteen step words of a block (R370). -/
def blockSteps (b : List Word) : List Word :=
  (List.range 16).map fun q => ((b.getD (8 + q / 2) 0#64).extractLsb' (32 * (q % 2)) 32).setWidth 64

/-- A program block is valid (R370, R371). -/
def programOk (b : List Word) : Bool :=
  let w0 := b.getD 0 0#64
  w0.extractLsb' 2 62 == 0#62 && decide ((w0.extractLsb' 0 2).toNat ≤ 1) && ((b.drop 2).take 6).all (fun w => w == 0#64)
    && stepsOk (blockSteps b)

/-- The value of a step at a lane (R372): `ty` 0 INT32, 1 FP32. -/
def stepValue (ty kind : Nat) (x y a : Word32) : Word32 :=
  let fp := fun (n : Nat) => BitVec.ofNat 32 n
  if ty = 0 then
    match kind with
    | 1 => x
    | 2 => x + y
    | 3 => x - y
    | 4 => x * y
    | 5 => x * y + a
    | 6 => if x.toInt ≤ y.toInt then y else x
    | _ => if x.toInt ≤ y.toInt then x else y
  else
    match kind with
    | 1 => x
    | 2 => fp (fpOp bFP32 .add .rne 0#32 x.toNat y.toNat).1
    | 3 => fp (fpOp bFP32 .sub .rne 0#32 x.toNat y.toNat).1
    | 4 => fp (fpOp bFP32 .mul .rne 0#32 x.toNat y.toNat).1
    | 5 => fp (fpFma bFP32 .fma .rne 0#32 x.toNat y.toNat a.toNat).1
    | 6 => fp (fMinMaxA bFP32 true x.toNat y.toNat)
    | _ => fp (fMinMaxA bFP32 false x.toNat y.toNat)

/-- The operand of a code at a lane (R371): accumulators, RX, RY, K0, K1. -/
def stepOperand (acc : List Word32) (rx ry k0 k1 : Word32) (code : Nat) : Word32 :=
  match code with
  | 4 => rx
  | 5 => ry
  | 6 => k0
  | 7 => k1
  | n => acc.getD n 0#32

/-- The accumulators of a lane after the steps of a slot; a STORE changes none (R372, R375). -/
def laneRun (ty : Nat) (k0 k1 rx ry : Word32) (steps : List Word) (acc : List Word32) : List Word32 :=
  steps.foldl (fun a w =>
    if stepKind w = 8 then a
    else
      let op := stepOperand a rx ry k0 k1
      a.set (stepDst w) (stepValue ty (stepKind w) (op (stepX w)) (op (stepY w)) (a.getD (stepDst w) 0#32))) acc

/-- A step reads an operand code. -/
def stepReads (code : Nat) (w : Word) : Bool :=
  match stepKind w with
  | 1 => stepX w == code
  | 2 | 3 | 4 | 5 | 6 | 7 => stepX w == code || stepY w == code
  | _ => false

/-- The steps of the loaded program. -/
def Near.steps (x : Near) : List Word := match x.prog with | some p => liveSteps p.2.2.2 | none => []

/-- The program reads the X stream, reads the Y stream, writes the D stream (R374). -/
def Near.uses (x : Near) : Bool × Bool × Bool :=
  (x.steps.any (stepReads 4), x.steps.any (stepReads 5), x.steps.any fun w => stepKind w == 8)

/-! ## NRPROG, NRRUN (R383, R384) -/

/-- A word of the stack near profile (R382). -/
def State.stackOnly (s : State) (act : Out) : Out := s.profile (s.kind == .stack) act

/-- NRPROG (R383). -/
def execNrprog (a : Reg) (s : State) : Out :=
  s.stackOnly (
    let w := s.g a
    let p := pchOf s.cur
    if w.extractLsb' 0 6 ≠ 0#6 ∨ ! s.localRangeOk w.toNat 128 then s.trap .access w
    else if (s.nearOf p).run then s.trap .access 0#64
    else s.reading w.toNat 128 (
      let b := s.ownWords w.toNat 16
      if ! programOk b then s.trap .access w
      else
        let w1 := b.getD 1 0#64
        let prog := (((b.getD 0 0#64).extractLsb' 0 2).toNat, w1.extractLsb' 0 32, w1.extractLsb' 32 32, blockSteps b)
        (s.modNear p fun x => { x with prog := some prog, plid := s.cx.lid }).done))

/-- COUNT of a stream block (R373). -/
def blockCount (b : List Word) : Nat := ((b.getD 4 0#64).extractLsb' 32 32).toNat
/-- START of a stream block. -/
def blockStart (b : List Word) : Nat := ((b.getD 4 0#64).extractLsb' 0 32).toNat
/-- TAG of a stream block. -/
def blockTag (b : List Word) : Nat := ((b.getD 5 0#64).extractLsb' 48 16).toNat
/-- OMASK of a stream block. -/
def blockMask (b : List Word) : BitVec 4 := (b.getD 5 0#64).extractLsb' 32 4
/-- OOFF of a stream block. -/
def blockOut (b : List Word) : Nat := ((b.getD 5 0#64).extractLsb' 0 20).toNat

/-- A multiple of 4,096. -/
def aligned12 (w : Word) : Bool := w.extractLsb' 0 12 == 0#12

/-- Check 4 of R384 on a stream block. -/
def State.streamOk (s : State) (x : Near) (b : List Word) : Bool :=
  let w5 := b.getD 5 0#64
  let use := x.uses
  w5.extractLsb' 36 12 == 0#12 && w5.extractLsb' 21 11 == 0#11 && b.getD 6 0#64 == 0#64 && b.getD 7 0#64 == 0#64
    && (! use.1 || aligned12 (b.getD 0 0#64)) && (! use.2.1 || aligned12 (b.getD 1 0#64)) && (! use.2.2 || aligned12 (b.getD 2 0#64))
    && aligned12 (b.getD 3 0#64) && decide (1 ≤ blockCount b) && decide (blockCount b ≤ 2 ^ 20) && decide (blockStart b < blockCount b)
    && (blockMask b == 0#4 || (blockOut b % 64 == 0 && s.localRangeOk (blockOut b) 4096))

/-- NRRUN (R373, R384). -/
def execNrrun (a : Reg) (s : State) : Out :=
  s.stackOnly (
    let w := s.g a
    let p := pchOf s.cur
    let x := s.nearOf p
    if w.extractLsb' 0 6 ≠ 0#6 ∨ ! s.localRangeOk w.toNat 64 then s.trap .access w
    else if ! x.nm || x.lid ≠ s.cx.lid then s.trap .access 0#64
    else if x.run || x.done.isSome || x.prog.isNone then s.trap .access 0#64
    else s.reading w.toNat 64 (
      let b := s.ownWords w.toNat 8
      if ! s.streamOk x b then s.trap .access w
      else
        let t : Stream := ⟨w.toNat, s.po, b, blockStart b, false, s.issuer s.cur s.c⟩
        let accs := if (b.getD 5 0#64).getLsbD 20 then [] else x.accs
        ((s.tick).modNear p fun y => { y with stream := some t, accs := accs, due := true }).done))

/-- The accesses that the near-mode queue of a channel holds, oldest first (R377). -/
def State.queuedAt (s : State) (p : Nat) : List Req :=
  (s.flight.filter fun r => s.channelHeld r && (match s.place r.pa with | .dram q _ => q == p | _ => false))

/-- An address lies in a channel. -/
def State.inChannel (s : State) (p pa : Nat) : Bool := match s.place pa with | .dram q _ => q == p | _ => false

/-- Some of the ranges lie in a channel. -/
def State.spansIn (s : State) (p : Nat) (l : List (Nat × Nat)) : Bool := l.any fun a => s.inChannel p a.1

/-- The held accesses of a channel that stand in no list of posted ones (R377): of each unit, its engine's next chunk, its tile-list walker's next
reads and the vector instruction at the head of its queue; a pending contribution; a refill. DEDUCED, log entry 113. -/
def State.heldBeside (s : State) (p : Nat) : Nat :=
  if ! s.streaming p then 0
  else
    let units := (s.units.map fun u =>
      b2n (! s.engStill u.1 && s.spansIn p (s.engineSpans u.1 true)) + b2n (s.spansIn p (s.walkSpans u.1))
        + (match u.2.vq with
           | k :: _ =>
             let m := s.vaddrs u.1 k
             b2n (vectorMemory k.instr && s.spansIn p (m.2.2.flatMap fun a => s.spansFor m.1 k.who a.2 m.2.1))
           | [] => 0)).foldl (· + ·) 0
    let h := s.home (512 + p)
    let merges := (h.merges.filter fun e => e.pending != []).length
    let refills := ((s.homes.flatMap fun h => h.2.queues.filter fun q =>
      q.2.spilled != 0 && decide (q.2.resident.length < 256) && s.inChannel p (q.2.pa + 64 * (q.2.spillHead % q.2.spillCap))).length)
    units + merges + refills

/-- The snapshot of R385. -/
def State.nearStat (s : State) (p : Nat) : Word :=
  let x := s.nearOf p
  let susp := match x.stream with | some t => t.susp | none => false
  let next := match x.stream with | some t => t.next | none => 0
  BitVec.ofNat 64 (b2n x.nm * 2 ^ 63 + b2n x.run * 2 ^ 62 + b2n susp * 2 ^ 61 + b2n x.done.isSome * 2 ^ 60 + b2n x.prog.isSome * 2 ^ 59
    + min ((s.queuedAt p).length + s.heldBeside p) 32 * 2 ^ 48 + x.lid % 2 ^ 16 * 2 ^ 32 + next % 2 ^ 32)

/-- NRSTAT (R385). -/
def execNrstat (d : Reg) (s : State) : Out := s.stackOnly (s.deferG d (s.nearStat (pchOf s.cur))).done

/-- NRWAIT (R386): the completion, or 0, lands at the park that ends the segment. -/
def execNrwait (d : Reg) (s : State) : Out :=
  s.stackOnly (
    let x := s.nearOf (pchOf s.cur)
    if x.nm ∧ x.lid ≠ s.cx.lid then s.trap .access 0#64 else (s.defer s.cur s.c d (.nrwait s.pc)).done)

/-! ## Slots (R374, R375) -/

/-- Row(B, i) (R374). -/
def rowVa (base gstr : Word) (i : Nat) : Word := base + BitVec.ofNat 64 (i % 4 * 1024) + BitVec.ofNat 64 (i / 4) * gstr

/-- The checks of one row (R374): its physical address, or the SUB of the halt. -/
def State.rowCheck (s : State) (w : Issuer) (p : Nat) (va : Word) (store : Bool) : Except Nat (State × Nat) :=
  match s.withIssuer w fun s0 =>
      match s0.checkEa w.unit w.ctx va 1 (if store then .store else .load) with
      | .error e => .error e
      | .ok (s1, .own _ _) => .ok (s1, none)
      | .ok (s1, .home pa _) => .ok (s1, some pa) with
  | .error e => .error (subCode e)
  | .ok (_, none) => .error 0x14
  | .ok (s1, some pa) =>
    match s1.place pa with
    | .dram q _ =>
      if q ≠ p then .error 0x14
      else if s1.isStaleGen (512 + p) w then .error 0x04
      else if ! store && s1.badData pa 1024 then .error 0x05
      else .ok (s1, pa)
    | _ => .error 0x14

/-- The check of a row that the program may not use. -/
def State.rowCheckIf (s : State) (used : Bool) (w : Issuer) (p : Nat) (va : Word) (store : Bool) : Except Nat (State × Nat) :=
  if used then s.rowCheck w p va store else .ok (s, 0)

/-- The rows of a slot checked, X then Y then D (R374). -/
def State.slotRows (s : State) (x : Near) (t : Stream) (p : Nat) : Except Nat (State × Nat × Nat × Nat) :=
  let b := fun (i : Nat) => rowVa (t.block.getD i 0#64) (t.block.getD 3 0#64) t.next
  let use := x.uses
  match s.rowCheckIf use.1 t.who p (b 0) false with
  | .error e => .error e
  | .ok (s1, xa) =>
    match s1.rowCheckIf use.2.1 t.who p (b 1) false with
    | .error e => .error e
    | .ok (s2, ya) => (s2.rowCheckIf use.2.2 t.who p (b 2) true).map fun r => (r.1, xa, ya, r.2)

/-- A row of 256 lanes at a physical address. -/
def State.readRow (s : State) (pa : Nat) : List Word32 :=
  (List.range 256).map fun l => BitVec.ofNat 32 (natOfBytes (s.physBytes (pa + 4 * l) 4))

/-- The bytes of a row of lanes. -/
def rowOfLanes (l : List Word32) : List Byte := l.flatMap fun w => bytesOfNat 4 w.toNat

/-- Accumulator `k` of a lane. -/
def Near.acc (x : Near) (k l : Nat) : Word32 := SMap.get x.accs (k * 256 + l) 0#32

/-- An accumulator as lanes. -/
def Near.accRow (x : Near) (k : Nat) : List Word32 := (List.range 256).map fun l => x.acc k l

/-- Near mode with the accumulators after a slot. -/
def Near.slotAccs (x : Near) (rx ry : List Word32) : Near :=
  match x.prog with
  | none => x
  | some (ty, k0, k1, _) =>
    let lanes := (List.range 256).map fun l =>
      laneRun ty k0 k1 (rx.getD l 0#32) (ry.getD l 0#32) x.steps ((List.range 4).map fun k => x.acc k l)
    { x with accs := (List.range 4).flatMap fun k => (List.range 256).map fun l => (k * 256 + l, (lanes.getD l []).getD k 0#32) }

/-- A completion (R386). -/
def streamDone (err : Bool) (sub tag rows : Nat) : Word :=
  BitVec.ofNat 64 (2 ^ 63 + b2n err * 2 ^ 62 + sub % 256 * 2 ^ 48 + tag % 2 ^ 16 * 2 ^ 32 + rows % 2 ^ 32)

/-- Doubleword 4 written to the block, and the completion posted (R375). -/
def State.streamEnds (s : State) (p : Nat) (t : Stream) (err : Bool) (sub rows : Nat) : State :=
  let u := Config.stackUnit0 + p
  let w4 := BitVec.ofNat 64 (blockCount t.block * 2 ^ 32 + rows)
  (s.setLoc64 u (t.off + 32) w4).modNear p fun y =>
    { y with done := some (streamDone err sub (blockTag t.block) rows), due := false, stream := some { t with next := rows } }

/-- The accumulators of OMASK written out (R373, R375). -/
def State.writeOut (s : State) (p : Nat) (t : Stream) : State :=
  let x := s.nearOf p
  (List.range 4).foldl (fun acc k =>
    if (blockMask t.block).getLsbD k then
      acc.setLocal (Config.stackUnit0 + p) (blockOut t.block + 1024 * k) (rowOfLanes (x.accRow k))
    else acc) s

/-- The D row of a slot written where the program stores (R375). -/
def State.storeRow (s : State) (x : Near) (t : Stream) (pa : Nat) : State :=
  match x.steps.find? fun w => stepKind w == 8 with
  | some w => s.writeHome .engine t.who true pa (rowOfLanes (x.accRow (stepDst w)))
  | none => s

/-- One slot (R375): its rows checked, read, the program run, its row written; after the last row doubleword 4, the
write-out and the completion. -/
def State.slot (s : State) (p : Nat) (t : Stream) : State :=
  let x := s.nearOf p
  match s.slotRows x t p with
  | .error sub => s.streamEnds p t true sub t.next
  | .ok (s1, xa, ya, da) =>
    let rx := if x.uses.1 then s1.readRow xa else []
    let ry := if x.uses.2.1 then s1.readRow ya else []
    let y := x.slotAccs rx ry
    let t' := { t with next := t.next + 1 }
    let s2 := (s1.storeRow y t da).modNear p fun _ => { y with stream := some t', due := true }
    if blockCount t.block ≤ t.next + 1 then (s2.streamEnds p t' false 0 (t.next + 1)).writeOut p t' else s2

/-- The stream of a channel that may run its next slot (R376, R377): once a stop has reached the unit no further slot begins (R380). -/
def State.slotReady (s : State) (p : Nat) : Option Stream :=
  let x := s.nearOf p
  match x.stream with
  | some t =>
    if t.susp || s.stopReaches (Config.stackUnit0 + p) x.lid || x.done.isSome || (x.due && s.queuedAt p != []) || s.before (Config.stackUnit0 + p) t.who.ctx t.po then none else some t
  | none => none

/-- ROW_SLOT (R375). -/
def execRowSlot (p : Nat) (s : State) : Out :=
  match s.slotReady p with
  | some t => .next (s.slot p t)
  | none => .next s

/-- Held accesses served in their order (R377). -/
def State.serveHeld (s : State) (l : List Req) : State :=
  l.foldl (fun acc r => if acc.flight.contains r && acc.orderFree r then acc.performNow r else acc) s

/-- The first access of a channel's stream waits for earlier accesses of its context (R376, R384). -/
def State.streamHeld (s : State) (p : Nat) : Bool :=
  match (s.nearOf p).stream with
  | some t => ! t.susp && s.before (Config.stackUnit0 + p) t.who.ctx t.po
  | none => false

/-- ARBITRATION_WINDOW (R377): up to sixteen held accesses at a row boundary; while the stream's next access waits for earlier ones, the stream
stands at the boundary and another window follows (R384). -/
def execArbitrationWindow (p : Nat) (s : State) : Out :=
  if (s.nearOf p).due then
    let s1 := s.serveHeld ((s.queuedAt p).take 16)
    .next (s1.modNear p fun x => { x with due := s1.streamHeld p })
  else .next s

/-- STREAM_SUSPEND (R380): a stop of the channel's launch has reached the unit; the stream stands between two slots, the window after the
last one held. -/
def execStreamSuspend (p : Nat) (s : State) : Out :=
  .next (if s.stopReaches (Config.stackUnit0 + p) (s.nearOf p).lid then s.modNear p Near.suspended else s)

end Sys2Proof.Machine
end

