-- ==== Sys2Proof/Machine/Runtime.lean ====
section
/-! DEFINITION. The core runtime where rules fix what it does: the grant loop (17_program_tasks R346), hand-offs and near-mode grants
(15_program_derive R310, 19_near R388), the trap services and repairs (21_system R398, R437, 22_program_blocksparse R415), stops and
restores (21_system R407, R411). No rule gives the runtime's words; each move here is what the rules say they amount to, and where the
runtime keeps its own data is the model's choice (log entry 9). -/

namespace Sys2Proof.Machine

/-! ## Helpers -/

/-- The lowest-numbered helper of a unit that is not live (R310, R346). -/
def State.freeHelper (s : State) (u : Nat) : Option Nat :=
  ((List.range (helperCount (kindOf u))).map fun i => i + 1).find? fun n => ! (s.ctx u n).live

/-- The launch whose helper waits in a slot that is not live: its block is to be resumed once its launch is or its code is there (R396, R410). -/
def State.waitingHelper (s : State) (u n : Nat) : Option Nat :=
  if (s.ctx u n).live then none
  else if (s.unit u).absent.any fun a => a.1 == n then some (s.ctx u n).lid
  else (s.launches.find? fun l => l.saved.contains (u, n)).map Launch.lid

/-- A helper's block with its seal and its frame ring copied to DRAM, where the runtime chooses (R77, R330). -/
def State.copyOut (s : State) (u n lid : Nat) (frb : Word) (span : Nat) : State :=
  let cb := s.cbOf u n
  let at_ := 64 * Config.choose s.free
  let len := s.sealOff u cb + 64 - cb.toNat
  let bytes := s.getLocal u cb.toNat len ++ s.getLocal u frb.toNat span
  ((s.setPhysBytes at_ bytes).useFree).modUnit u fun y => { y with swapped := y.swapped ++ [⟨n, lid, at_, frb.toNat, span⟩] }

/-- The slot of a helper that waits freed before another START (R77): its block and ring wait in DRAM. DEDUCED, log entry 91. -/
def State.makeRoom (s : State) (u n : Nat) : State :=
  match s.waitingHelper u n with
  | none => s
  | some lid =>
    let x := s.loadCtx u (s.cbOf u n) (s.ctx u n)
    let s1 := (s.copyOut u n lid x.frb x.span).modUnit u fun y => { y with absent := y.absent.filter fun a => a.1 != n }
    { s1 with launches := s1.launches.map fun l => { l with saved := l.saved.filter fun k => k != (u, n) } }

/-- A helper's block and its seal written before a START (R74, R83): the launch's address space, the trap window, and stacks that the
spec leaves to the runtime; the context's sequence numbers go on (R221). DEDUCED, log entry 75. DESIGN CHOICE: SRSEED is 0; log entry 110. -/
def State.prepare (s0 : State) (u n : Nat) (l : Launch) : State :=
  let s := s0.makeRoom u n
  let k := kindOf u
  let x : Ctx :=
    { Ctx.reset k n with
      cseq := (s.ctx u n).cseq, asr := l.asr, ptroot := l.ptroot, twb := runtimeTwb k n
      bsp := BitVec.ofNat 64 (64 * Config.choose s.free), msp := BitVec.ofNat 64 (64 * Config.choose (s.free + 1)) }
  let cb := s.cbOf u n
  let s1 := (s.setLocal u cb.toNat x.blockBytes).writeSeal u cb true false l.asr l.ptroot x.twb
  { s1 with free := s.free + 2 }

/-- START of a body on a helper by the runtime (R323): g22 the offset of the copy, g24 on the arguments; it follows an acquire of what its
record, its grant or its hand-off releases (R146, R421). -/
def State.startBody (s : State) (u n lid : Nat) (pc : Word) (off : Nat) (args : List Word) : State :=
  let s0 : State := { s.acquire u with cur := u }
  let s1 := (s0.startHelper n pc (BitVec.ofNat 64 off) args).modCtx u n fun x => { x with lid := lid }
  { s1 with cur := s.cur }

/-- arg0 to arg2 of a descriptor. -/
def descArgs (d : List Byte) : List Word := [descWord d 5, descWord d 6, descWord d 7]

/-- A helper resumed from its block by START.RES (R83, R410); a block that fails its check fails the launch. -/
def State.resumeHelper (s : State) (u n lid : Nat) : State :=
  let cb := s.cbOf u n
  if s.sealOk u cb then s.setCtx u n { s.loadCtx u cb (s.ctx u n) with lid := lid }
  else (s.markDefunct u cb).failLaunch lid Cause.restoreBad.code

/-! ## Granted tasks (R323, R388) -/

/-- A granted task completed at once without a start, with a task error (R388). -/
def State.refuseTask (s : State) (u n lid : Nat) : State :=
  let a := (s.cbOf u n).toNat + 0x78
  let w := s.loc64 u a
  let s1 := s.completeAt (selHome w).1 (selHome w).2 (w.extractLsb' 16 32)
  (s1.setLoc64 u a (setBit w 63 false)).modLaunch lid fun l => { l with running := l.running - 1, taskErrors := l.taskErrors + 1 }

/-- NMCTL written with ARM, KEY and COMMIT by N0 (R368, R388); `none` while accesses in progress hold the entry (R369). -/
def State.enterFor (s : State) (p lid : Nat) : Option State :=
  let x := s.nearOf p
  if x.nm ∧ x.lid = lid then some s
  else
    let s1 := s.modNear p fun y => { y with step := 0, owner := if x.nm then y.owner else 0 }
    if x.nm then some s1 else if s.channelQuiet p then some (s1.enterNearNow p lid) else none

/-- A granted body started, near mode first where the task asks for it (R323, R388). -/
def State.startGranted (s : State) (u n lid off : Nat) : Option State :=
  let d := s.getLocal u off 64
  let far := match kindOf u with | .far => true | _ => false
  let go := fun (t : State) => t.startBody u n lid (descWord d (if far then 1 else 0)) off (descArgs d)
  if kindOf u = .stack ∧ (descWord d 7).getLsbD 63 then
    match s.enterFor (pchOf u) lid with
    | none => none
    | some s1 =>
      let x := s1.nearOf (pchOf u)
      if x.nm ∧ x.lid = lid then some (go s1) else some (s1.refuseTask u n lid)
  else some (go s)

/-- WAITING as a status without a ticket (R398). -/
def statusWaiting : Word := 0x0200000000000000#64

/-- A granted task waits for its start on a helper: its block holds the task and no PC yet (R322, R388). -/
def State.granted (s : State) (u n : Nat) : Bool :=
  let cb := (s.cbOf u n).toNat
  ! (s.ctx u n).live && (s.loc64 u (cb + 0x78)).getLsbD 63 && s.loc64 u cb == 0#64

/-- One grant for a launch on the lowest free helper (R346, R398): the state and the status of R333; `none` while near mode must wait. -/
def State.grantOne (s : State) (u : Nat) (l : Launch) (sel : Word) : Option (State × Word) :=
  match s.freeHelper u with
  | none => some (s, statusWaiting)
  | some n =>
    let off := runtimeBind (kindOf u) n
    let bind := BitVec.ofNat 64 (n * 2 ^ 32 + off)
    let s1 := s.prepare u n l
    let r := match kindOf u with
      | .far => s1.steal u l.lid l.asid sel bind
      | _ => s1.popAt u (homeOfNear u) l.lid bind
    if r.2.extractLsb' 56 8 = 0#8 then (r.1.startGranted u n l.lid off).map fun t => (t, r.2) else some r

/-- NEAR_MODE_TASK_GRANT (R388): the helper of a bind word holds a granted task that has not started; nothing happens while the entry
must wait. -/
def execNearModeTaskGrant (p : Nat) (bind : Word) (s : State) : Out :=
  let u := Config.stackUnit0 + p
  let n := bindHelper bind
  if ! s.granted u n then .next s
  else
    match s.startGranted u n (s.ctx u 0).lid (bindOff bind) with
    | some t => .next t
    | none => .next s

/-! ## Hand-offs (R310) -/

/-- The message at the head of ring 0 of a core: a hand-off's descriptor, or none where it is a SEND (R175, R179). -/
def State.handOffAt (s : State) (u : Nat) : Option (Option (List Byte)) :=
  let o := s.ringBlock u 0
  let f := ringCfg (s.loc64 u o)
  let head := s.loc64 u (o + 8)
  if head = s.loc64 u (o + 16) ∨ ! s.ringValid u (s.loc64 u o) then none
  else
    let a := f.2.2 + 2 ^ f.2.1 * (head.toNat % 2 ^ f.1)
    some (if (s.loc64 u a).extractLsb' 16 2 = 1#2 then some (s.getLocal u (a + 16) 64) else none)

/-- The head slot of ring 0 freed (R175). -/
def State.freeHead (s : State) (u : Nat) : State :=
  let o := s.ringBlock u 0
  s.setLoc64 u (o + 8) (s.loc64 u (o + 8) + 1#64)

/-- The message at the head of ring 0 received: a hand-off starts its task, in the launch of the context that armed the entry, on a free
helper, its descriptor copied to the bind offset and its slot freed (R310). DESIGN CHOICE: a SEND to ring 0 is received and dropped; log entry
92. -/
def State.startHandOff (s : State) (u : Nat) : Option State :=
  match s.handOffAt u with
  | none => none
  | some none => some (s.freeHead u)
  | some (some d) =>
    let lid := (s.unit u).fires.headD 0
    let s0 := (s.freeHead u).modUnit u fun x => { x with fires := x.fires.drop 1 }
    match s.launch lid with
    | none => some s0
    | some l =>
      match s.freeHelper u with
      | none => none
      | some n =>
        let off := runtimeBind (kindOf u) n
        let pc := descWord d 1
        let s1 := (s0.prepare u n l).setLocal u off d
        match checkTarget pc with
        | some e => some (s1.failLaunch lid e.code)
        | none => some ((s1.writeTaskInfo u n d true false false 0#32 0).startBody u n lid pc off (descArgs d))

/-- HAND_OFF_TASK_START (R310). -/
def execHandOffTaskStart (u : Nat) (s : State) : Out :=
  match s.startHandOff u with
  | some t => .next t
  | none => .next s

/-! ## Overlays (R396) -/

/-- An overlay word of R361 for entry `e` of 16 regions of `n` bytes. -/
def runtimeOverlayWord (n e : Nat) : Word := BitVec.ofNat 64 (n / 64 * 2 ^ 32 + e * n / 64 * 2 ^ 16 + e)

/-- The block of code that holds an address loaded as EOVL loads it (R361, R396); which entry is given up is the runtime's choice. -/
def State.loadOverlay (s : State) (u : Nat) (w : Issuer) (pc : Word) : Option State :=
  let n := min 16384 (codeBytes (kindOf u) / 16)
  let va := BitVec.ofNat 64 (pc.toNat / n * n)
  let x := s.unit u
  let order := ((List.range 16).filter fun e => match x.overlays[e]? with | some o => ! o.valid | none => false)
    ++ (List.range 16).map fun i => (Config.choose s.free + i) % 16
  match order.find? (fun e => ! x.overlayPinned (runtimeOverlayWord n e)), s.engRead .exec w va n with
  | some e, .ok (s1, bs) =>
    some (((s1.dropOverlays u (runtimeOverlayWord n e)).useFree).modUnit u fun y =>
      { y with
        code := y.code.writeBytes (e * n) bs
        overlays := y.overlays.setIfInBounds e ⟨true, va, n, e * n, w.asid, w.gen, false⟩ })
  | _, _ => none

/-- The issuer of the runtime's own accesses for a context: its tags, at S level. -/
def State.runtimeIssuer (s : State) (u c : Nat) : Issuer := { s.issuer u c with level := .s }

/-- A helper's missing code loaded and the helper resumed (R396). -/
def State.serveHelperAbsent (s : State) (u n : Nat) (pc : Word) : State :=
  let lid := (s.ctx u n).lid
  match s.loadOverlay u (s.runtimeIssuer u n) pc with
  | some s1 => s1.resumeHelper u n lid
  | none => s.failLaunch lid Cause.codeAbsent.code

/-! ## Overflow buffers (R178) -/

/-- Overflow slots moved to a ring while it has room, in the order of R178; `none` where none moves. The flag: none remains. -/
def State.drainRing (s : State) (u ring : Nat) (moved : Bool) : Nat → Option (State × Bool)
  | 0 => if moved then some (s, false) else none
  | fuel + 1 =>
    let o := s.ringBlock u ring
    let f := ringCfg (s.loc64 u o)
    let head := s.loc64 u (o + 8)
    let tail := s.loc64 u (o + 16)
    let ohead := s.loc64 u (o + 32)
    let slot := 2 ^ f.2.1
    let cnt := 2 ^ f.1
    if ohead = s.loc64 u (o + 40) then some (s, true)
    else if cnt ≤ (tail - head).toNat then (if moved then some (s, false) else none)
    else
      match s.readVa (s.runtimeIssuer u 0) (s.loc64 u (o + 24) + BitVec.ofNat 64 (slot * (ohead.toNat % cnt))) slot 1 with
      | .error _ => if moved then some (s, false) else none
      | .ok (s1, bs) =>
        let s2 := s1.setLocal u (f.2.2 + slot * (tail.toNat % cnt)) bs
        (((s2.setLoc64 u (o + 16) (tail + 1#64)).latchTails u).setLoc64 u (o + 32) (ohead + 1#64)).drainRing u ring true fuel

/-! ## Stops and restores (R407, R408, R411) -/

/-- No DRAM backs a unit's save area: in early service (R430). -/
def State.areaUnbacked (s : State) (u : Nat) : Bool := decide (s.dramSize < (s.unit u).usave.toNat + saveBytes u)

/-- The unit's part in a stop, as STOPC with UNIT and ACK does it (R408); `none` while a helper's results are not all there. A helper whose code
is absent waits with those that the stop saves (R396). DESIGN CHOICE: where no DRAM backs the save area, the device keeps the unit state itself;
log entry 111. -/
def State.serveStop (s : State) (u lid : Nat) : Option State :=
  let mine := ((List.range 11).drop 1).filter fun n => (s.ctx u n).live && (s.ctx u n).lid == lid
  let s0 := mine.foldl (fun acc n => acc.toStop u n) s
  if mine.any fun n => s0.stopping u n then none
  else
    let gone := ((s.unit u).absent.map Prod.fst).filter fun n => (s.ctx u n).lid == lid
    let kept := if s.areaUnbacked u then [(u, s.saves.length)] else []
    let s1 := (s0.stopEach u false mine).1.modLaunch lid fun l =>
      { l with saved := l.saved ++ (mine ++ gone).map fun n => (u, n), kept := l.kept ++ kept }
    let s2 := (s1.saveUnit u lid).ackStop u lid
    some (s2.modUnit u fun x =>
      { x with stopPend := x.stopPend.filter fun k => k != lid, absent := x.absent.filter fun a => ! gone.contains a.1 })

/-- A launch holds its far cores: it runs, it is being stopped, or its restore has begun (R422). -/
def Launch.holdsCores (l : Launch) : Bool :=
  ! l.stopped || l.owing != [] || l.cores.any fun c => ! l.away.contains c

/-- No other launch holds a core of a list. -/
def State.coresFree (s : State) (lid : Nat) (cores : List Nat) : Bool :=
  ! s.launches.any fun l => l.lid != lid && l.holdsCores && l.cores.any fun c => cores.contains c

/-- CBSWAP.UNIT of a launch at a unit (R411): from its save area, or from what the device has kept (log entry 111). -/
def State.restoreFor (s : State) (u : Nat) (l : Launch) : Option State :=
  match l.kept.find? fun k => k.1 == u with
  | some k =>
    (s.saves[k.2]?).map fun x =>
      ((s.restoreUnit u x).reportRestored u l.lid).modLaunch l.lid fun o => { o with kept := o.kept.filter fun p => p.1 != u }
  | none => s.unitFrom u (s.unit u).usave.toNat

/-- What a stop has marked of a context whose launch is cancelled goes to its re-dispatch (R223, R424); the context does not run. -/
def State.finishCtx (s : State) (u c : Nat) : State :=
  s.modCtx u c fun x =>
    { x with redo := if x.drply.getLsbD 63 && ! x.act then some (x.redoEntries (x.drply.extractLsb' 0 16)) else none }

/-- A helper of a cancelled launch back from its block for its re-dispatch alone (R223, R424). -/
def State.finishHelper (s : State) (u n lid : Nat) : State :=
  let cb := s.cbOf u n
  if s.sealOk u cb then (s.setCtx u n { s.loadCtx u cb (s.ctx u n) with lid := lid, live := false }).finishCtx u n else s

/-- A unit's part in a restore (R411, R422): CBSWAP.UNIT from its save area, then START.RES of each helper that the stop saved; of a cancelled
launch, the work alone that the stop has marked or suspended. DEDUCED, log entry 109. -/
def State.serveRestore (s : State) (u : Nat) : Option State :=
  match s.launches.find? fun l => l.stopped && l.owing == [] && l.away.contains u && s.coresFree l.lid l.cores with
  | none => none
  | some l =>
    match s.restoreFor u l with
    | none => some (s.failLaunch l.lid Cause.restoreBad.code)
    | some s1 =>
      let mine := l.saved.filter fun k => k.1 == u
      let s2 := s1.modLaunch l.lid fun k => { k with saved := k.saved.filter fun o => o.1 != u }
      let s3 := s2.modCtx u 0 fun x => { x with asr := l.asr, ptroot := l.ptroot, ctab := l.ctab, lid := l.lid }
      if l.cancel then some (mine.foldl (fun acc k => acc.finishHelper u k.2 l.lid) (s3.finishCtx u 0))
      else some (mine.foldl (fun acc k => acc.resumeHelper u k.2 l.lid) s3)

/-! ## The grant loop (R346) -/

/-- The vote of the loop: `lapv.or.e` with value 0. -/
def loopVote : Vote := ⟨.or, true, 0#64⟩

/-- The launches that a unit votes in and that run. -/
def State.served (s : State) (u : Nat) : List Launch := s.launches.filter fun l => ! l.stopped && s.isVoter u l.lid

/-- A voter takes a closure's result, an acquire (R341), or casts the vote that it owes (R346). -/
def State.loopVotes (s : State) (u : Nat) : Option State :=
  if (s.unit u).lapDone.isSome then some ((s.modUnit u fun x => { x with lapDone := none }).acquire u)
  else
    match (s.served u).find? fun l => ! l.votes.any fun v => v.1 == u with
    | some l => some (s.castVote l.lid u loopVote)
    | none => none

/-- A read of HEND by the runtime (R326, R346). -/
def State.readHend (s : State) (u : Nat) : State := s.modUnit u fun x => { x with hend := 0#11 }

/-- A helper of a launch that sleeps and can be stopped as STOPH stops it (R330). -/
def State.sleeper (s : State) (u lid : Nat) : Option Nat :=
  ((List.range 11).drop 1).find? fun n =>
    let x := s.ctx u n
    x.live && ! x.held && x.lid == lid && (x.asleep || x.parking) && ! s.ready u n && ! (s.toStop u n).stopping u n

/-- A sleeping helper swapped out (R330): stopped, its block with its seal and its frame ring copied to DRAM, where the runtime chooses, and
its slot freed. -/
def State.swapOut (s : State) (u n : Nat) : State :=
  let x := s.ctx u n
  ((s.toStop u n).stopHelper u n false).copyOut u n x.lid x.frb x.span

/-- A helper that has been swapped out brought back once its slot is free, no stop holding its launch (R330): block and ring copied back, then
START.RES. -/
def State.swapIn (s : State) (u : Nat) : Option State :=
  match (s.unit u).swapped.find? fun w =>
      ! (s.ctx u w.slot).live && (s.waitingHelper u w.slot).isNone && ! s.stoppedLaunch w.lid with
  | none => none
  | some w =>
    let s0 := s.modUnit u fun x => { x with swapped := x.swapped.filter fun o => o != w }
    match s.launch w.lid with
    | none => some s0
    | some _ =>
      let cb := (s.cbOf u w.slot).toNat
      let bytes := s.physBytes w.at_ (0x1240 + w.span)
      let len := if (wordOf ((bytes.drop 0x28).take 8)).getLsbD 4 then 0x1240 else 0x240
      let s1 := (s0.setLocal u cb (bytes.take len)).setLocal u w.frb ((bytes.drop len).take w.span)
      some (s1.resumeHelper u w.slot w.lid)

/-- A grant of the loop where a home has work (R346): with no free helper, the loop reads what HEND shows, then swaps a sleeping helper out
(R330). DEDUCED, log entry 93. -/
def State.loopGrant (s : State) (u : Nat) : Option State :=
  (s.served u).findSome? fun l =>
    if s.workFor u l.lid then
      if (s.freeHelper u).isNone then
        (if (s.unit u).hend ≠ 0#11 then some (s.readHend u) else (s.sleeper u l.lid).map fun n => s.swapOut u n)
      else
        match s.grantOne u l (1#64 <<< 63) with
        | some (t, st) => if st.extractLsb' 56 8 = 0#8 ∨ st.extractLsb' 56 8 = 4#8 then some (t.readHend u) else none
        | none => none
    else none

/-- The overflow that a control context's RQOVF stands for, drained (R177, R178). -/
def State.loopDrain (s : State) (u : Nat) : Option State :=
  (s.unit u).rqPend.findSome? fun ring =>
    (s.drainRing u ring false 4096).map fun r =>
      if r.2 then r.1.modUnit u fun x => { x with rqPend := x.rqPend.filter fun k => k != ring } else r.1

/-- A helper's missing code served by the control context in its loop (R396). -/
def State.loopAbsent (s : State) (u : Nat) : Option State :=
  match (s.unit u).absent with
  | [] => none
  | (n, pc) :: rest => some ((s.modUnit u fun x => { x with absent := rest }).serveHelperAbsent u n pc)

/-- The detector of the launches that a unit votes in rearmed: its control context has gone on (R183). -/
def State.rearm (s : State) (u : Nat) : State :=
  (s.served u).foldl (fun acc l => acc.modLaunch l.lid fun k => { k with stalled := false }) s

/-- The first of several moves that can be made. -/
def firstMove (s : State) (u : Nat) : List (State → Nat → Option State) → Option State
  | [] => none
  | f :: rest => match f s u with | some t => some t | none => firstMove s u rest

/-- The next move of a control context that runs the loop: an overflow (R177), a stop, a helper's missing code, a restore, its votes, its grants, a helper that it
has swapped out. -/
def State.loopMove (s : State) (u : Nat) : Option State :=
  let move :=
    match s.loopDrain u, (s.unit u).stopPend with
    | some t, _ => some t
    | none, lid :: _ => s.serveStop u lid
    | none, [] => firstMove s u [State.loopAbsent, State.serveRestore, State.loopVotes, State.loopGrant, State.swapIn]
  move.map fun t => t.rearm u

/-- A control context goes to the loop of R346. DEDUCED, log entry 51. -/
def State.toLoop (s : State) (u : Nat) : State :=
  s.modCtx u 0 fun x =>
    { x.clearAct with
      live := true, firmware := true, priv := .s, seg := 0, parking := false, why := .segment, parked := false, stuck := false, holding := false
      wait := none, asleep := false, woken := false, latch := none, resuming := false, defs := [] }

/-! ## Traps that the runtime serves (R437) -/

/-- The handler's ERET to a PC (R399); a STOP that has waited for it comes before the next word (R407). -/
def State.runtimeReturn (s : State) (u c : Nat) (pc : Word) : State :=
  (s.returnTo u c pc (s.loc64 u ((s.ctx u c).twb.toNat + 160))).stopAfter u c

/-- A register of the trapped window, found through the window pointer that trap entry saved (R393). -/
def State.trappedReg (s : State) (u c n : Nat) : Word :=
  let x := s.ctx u c
  let wp := s.loc64 u (x.twb.toNat + 160)
  s.mem.read64 (localPa u (({ x.clearAct with wp := wp }).regOff n).toNat)

/-- A trap that the runtime does not repair fails the launch (R437). -/
def State.failTrap (s : State) (u c : Nat) : State :=
  let x := s.ctx u c
  (if c = 0 then s.toLoop u else s.stopHelper u c false).failLaunch x.lid (x.cur.info.extractLsb' 0 8).toNat

/-- The page of 16 KiB that holds an address. -/
def pageVa (va : Word) : Word := va &&& ~~~ 0x3FFF#64

/-- What a repair of a page does for a fault in it (R415). -/
inductive Repair where
  /-- The runtime returns to the faulting word. -/
  | mended (s : State)
  /-- The fence of the repair waits for the context's accesses. -/
  | waits
  /-- The trap is none of the deferred pages'. -/
  | other

/-- What the fault of a page that a repair has mapped already met is there no more: its leaf stands, and where the fault was a tile-list entry's,
the entry can be read (R253, R415). -/
def State.mendedNow (s : State) (u c : Nat) (va : Word) (entry : Bool) : Bool :=
  if entry then
    (match s.readVa { s.issuer u c with level := levelOfCode ((s.ctx u c).cur.info.extractLsb' 58 2) } va 8 1 with
     | .ok _ => true
     | .error _ => false)
  else match s.walkFrom va.toNat (ptePa (s.ctx u c).ptroot) 0 4 with | .ok _ => true | .error _ => false

/-- A deferred page repaired: V set by AMOOR at the leaf's home, `fence full, device`, the record dropped (R415); a page that a repair has
mapped already needs none. DEDUCED, log entry 73. -/
def State.repairPage (s : State) (u c : Nat) (l : Launch) (va : Word) (entry : Bool) : Repair :=
  match l.deferred.find? fun p => p.1 == pageVa va with
  | some p =>
    let e := s.phys64 p.2
    let drop := fun (t : State) =>
      t.modLaunch l.lid fun k => { k with deferred := k.deferred.filter fun o => o != p, repaired := k.repaired ++ [p.1] }
    if e.getLsbD 0 then .mended (drop s)
    else if ! s.allPerformed u c then .waits
    else .mended (drop ((s.writeHome .atomic (s.runtimeIssuer u c) true p.2 (bytesOf 8 (e ||| 1#64))).acquire u))
  | none =>
    if l.repaired.contains (pageVa va) && s.mendedNow u c va entry then .mended s else .other

/-- A PAGE or COPROC trap on a deferred page repaired, any other failing the launch (R415, R437): the address that it met, and whether a
tile-list entry lies there. -/
def State.serveFault (s : State) (u c : Nat) (va : Option (Word × Bool)) : Option State :=
  let x := s.ctx u c
  match s.launch x.lid, va with
  | some l, some a =>
    match s.repairPage u c l a.1 a.2 with
    | .mended s1 => some (s1.runtimeReturn u c x.cur.tpc)
    | .waits => none
    | .other => some (s.failTrap u c)
  | _, _ => some (s.failTrap u c)

/-- FVA of the dispatch-ring entry that a COPROC with SUB 0x02 or 0x11 names, and whether SUB is 0x11 (R415). -/
def Ctx.coprocPage (x : Ctx) : Option (Word × Bool) :=
  let sub := x.cur.tval.extractLsb' 20 8
  if sub = 0x02#8 ∨ sub = 0x11#8 then
    (x.dring.find? fun e => e.seq == x.cur.tval.extractLsb' 0 16).map fun e => (e.fva, sub == 0x11#8)
  else none

/-- Results of a service in g1, and in g2 where it has one, of the trapped window; the context goes on past the TRAP (R398). -/
def State.serviceDone (s : State) (u c : Nat) (g1 : Word) (g2 : Option Word) : State :=
  let s1 := (s.runtimeReturn u c ((s.ctx u c).cur.tpc + 4#64)).setReg u c 1#5 g1
  match g2 with
  | some w => s1.setReg u c 2#5 w
  | none => s1

/-- A voter's control context begins a control body (R398). -/
def State.startControl (s : State) (l : Launch) (pc arg : Word) (u : Nat) : State :=
  let s1 := s.modCtx u 0 fun x =>
    { x.clearAct with
      live := true, firmware := false, held := false, priv := .u, pc := pc, wp := x.frb + BitVec.ofNat 64 ((x.cap.toNat - 1) * 192)
      res := 1#8, spilled := 0#32, nact := false, seg := 0, parking := false, why := .segment, parked := false, stuck := false
      wait := none, asleep := false, woken := false, latch := none, holding := false, resuming := false, defs := [], lid := l.lid
      asr := l.asr, ptroot := l.ptroot, ctab := l.ctab }
  let near := match kindOf u with | .far => 0#64 | _ => 1#64
  ((s1.setReg u 0 24#5 arg).setReg u 0 25#5 (BitVec.ofNat 64 l.lcores)).setReg u 0 26#5 near

/-- Service 0x0001: the grant policy (R398). DEDUCED, log entry 52. -/
def State.servePolicy (s : State) (u c : Nat) : State :=
  let g := fun (n : Nat) => s.trappedReg u c n
  match s.launch (s.ctx u c).lid with
  | none => s.serviceDone u c 1#64 (some 0#64)
  | some l =>
    if g 0 = 0#64 then
      let s1 := (s.serviceDone u c 0#64 (some 0#64)).modLaunch l.lid fun k => { k with control := false }
      ((s1.voters l).filter fun v => ! (s1.ctx v 0).firmware).foldl (fun acc v => acc.toLoop v) s1
    else if g 0 = 1#64 ∧ checkTarget (g 1) = none then
      let s1 := (s.serviceDone u c 0#64 (some 0#64)).modLaunch l.lid fun k => { k with control := true }
      (s1.voters l).foldl (fun acc v => acc.startControl l (g 1) (g 2) v) s1
    else s.serviceDone u c 1#64 (some 0#64)

/-- Service 0x0002: a page deferred (R415); `none` while its TLBINV waits for accesses (R403). -/
def State.serveDefer (s : State) (u c : Nat) : Option State :=
  let x := s.ctx u c
  let va := s.trappedReg u c 0
  match s.launch x.lid with
  | none => some (s.serviceDone u c 1#64 none)
  | some l =>
    match (if va = pageVa va ∧ va.extractLsb' 58 6 = 0#6 ∧ l.deferred.length < 16 then s.walkFrom va.toNat (ptePa x.ptroot) 0 4
           else .error .page) with
    | .ok (_, at_, 3, p) =>
      let ctl := BitVec.ofNat 64 (l.asid.toNat * 2 ^ 32 + 2)
      if p.getLsbD 8 then some (s.serviceDone u c 1#64 none)
      else if ! s.allPerformed u c || s.tlbPending ctl then none
      else
        let s1 := (s.writeHome .store (s.runtimeIssuer u c) true at_ (bytesOf 8 (p &&& ~~~ 1#64))).tlbInvalidate va ctl
        some ((s1.modLaunch l.lid fun k =>
          { k with deferred := k.deferred ++ [(va, at_)], repaired := k.repaired.filter fun o => o != va }).serviceDone u c 0#64 none)
    | _ => some (s.serviceDone u c 1#64 none)

/-- Service 0x0003: one grant for a voter that runs a control body (R398): with no free helper it asks no home. DEDUCED, log entry 74. -/
def State.serveGrant (s : State) (u c : Nat) : Option State :=
  let x := s.ctx u c
  let sel := s.trappedReg u c 0
  match (if c = 0 ∧ s.isVoter u x.lid then s.launch x.lid else none) with
  | none => some (s.serviceDone u c (BitVec.allOnes 64) none)
  | some l =>
    if ! l.control then some (s.serviceDone u c (BitVec.allOnes 64) none)
    else if (s.freeHelper u).isNone then some (s.serviceDone u c statusWaiting none)
    else if kindOf u = .far ∧ ! s.selOk sel true then some (s.takeTrap u c runtimePc sel runtimePc false 0 .access)
    else (s.grantOne u l sel).map fun r => r.1.serviceDone u c r.2 none

/-- A SYSCALL served (R398, R415). -/
def State.serveSyscall (s : State) (u c : Nat) : Option State :=
  match ((s.ctx u c).cur.tval.extractLsb' 0 16).toNat with
  | 1 => some (s.servePolicy u c)
  | 2 => s.serveDefer u c
  | 3 => s.serveGrant u c
  | _ => some (s.serviceDone u c (BitVec.allOnes 64) none)

/-- CODEABSENT served (R396): the missing code of the control context, or of the helper that INFO.HLP names. -/
def State.serveAbsent (s : State) (u c : Nat) : State :=
  let x := s.ctx u c
  let n := (x.cur.info.extractLsb' 8 4).toNat
  if n = 0 then
    (match s.loadOverlay u (s.runtimeIssuer u c) x.cur.tval with
     | some s1 => s1.runtimeReturn u c x.cur.tpc
     | none => s.failTrap u c)
  else (s.runtimeReturn u c x.cur.tpc).serveHelperAbsent u n x.cur.tval

/-- RQOVF served (R177, R178): the handler returns once nothing remains. -/
def State.serveOverflow (s : State) (u c : Nat) : Option State :=
  let x := s.ctx u c
  (s.drainRing u x.cur.tval.toNat false 4096).map fun r => if r.2 then r.1.runtimeReturn u c x.cur.tpc else r.1

/-- STOP served (R407): the stop, later the restore, and the return once the launch has been resumed. -/
def State.serveStopTrap (s : State) (u c : Nat) : Option State :=
  let x := s.ctx u c
  match s.launch x.cur.tval.toNat with
  | none => some (s.toLoop u)
  | some l =>
    if ! l.stopped then some (s.runtimeReturn u c x.cur.tpc)
    else if l.owing.contains u then s.serveStop u l.lid
    else s.serveRestore u

/-- The word at a trap's TPC: from the code store, or from its home where no overlay holds it any more. DEDUCED, log entry 72. -/
noncomputable def State.trappedWord (s : State) (u c : Nat) : Option Instr :=
  let pc := (s.ctx u c).cur.tpc
  match s.fetchAt u c pc with
  | some w => (decode w).map Prod.snd
  | none =>
    match s.engRead .exec (s.runtimeIssuer u c) pc 4 with
    | .ok r => (decode (wordOfBytes r.2)).map Prod.snd
    | .error _ => none

/-- DERIVECYCLE, DERIVEDEPTH and ACCESS (R311, R398): a DREG at U level goes on with its cause and TVAL; the return of a control body
from its first frame leads back to the loop; any other fails the launch, a fault of an earlier word that the word's park has taken among
them. -/
noncomputable def State.serveAccess (s : State) (u c : Nat) : State :=
  let x := s.ctx u c
  let lv := levelOfCode (x.cur.info.extractLsb' 58 2)
  match (if x.cur.info.getLsbD 60 then none else s.trappedWord u c) with
  | some (.dreg _) =>
    if lv = .u then
      ((s.runtimeReturn u c (x.cur.tpc + 4#64)).setReg u c 1#5 ((x.cur.info.extractLsb' 0 8).setWidth 64)).setReg u c 2#5 x.cur.tval
    else s.failTrap u c
  | some .ret =>
    if c = 0 ∧ lv = .u ∧ x.res = 1#8 ∧ x.spilled = 0#32 ∧ s.isVoter u x.lid then (s.toLoop u).castVote x.lid u loopVote
    else s.failTrap u c
  | _ => s.failTrap u c

/-- The service of the trap whose handler a context has entered (R437); `none` while it must wait. -/
noncomputable def State.serveTrap (s : State) (u c : Nat) : Option State :=
  let x := s.ctx u c
  match (x.cur.info.extractLsb' 0 8).toNat with
  | 0x13 => s.serveSyscall u c
  | 0x08 => some (s.serveAbsent u c)
  | 0x05 => s.serveFault u c (some (x.cur.tval, false))
  | 0x09 => s.serveFault u c x.coprocPage
  | 0x0E => s.serveOverflow u c
  | 0x10 => s.serveStopTrap u c
  | 0x06 | 0x0A | 0x0B => some (s.serveAccess u c)
  | _ => some (s.failTrap u c)

/-- The runtime's next move for a context: a trap that it serves, or the loop of a control context; `none` where it has none. -/
noncomputable def State.runtimeMove (s : State) (u c : Nat) : Option State :=
  let x := s.ctx u c
  if s.runtimeReady u c then s.serveTrap u c
  else if c = 0 ∧ x.live ∧ x.firmware ∧ ! (s.unit u).halted then s.loopMove u
  else none

end Sys2Proof.Machine
end

