-- ==== Sys2Proof/Machine/Launch.lean ====
section
/-! DEFINITION. Launches as the hub handles them: parks and stops as events (04_contexts R64, 21_system R407, R411), quiescence (08_messages
R183, 23_device R425), records, queues, the front end and completions (23_device R419 to R426), and the mirror record of a peer (R429). -/

namespace Sys2Proof.Machine

/-! ## Parks (R64, R67, R396) -/

/-- A park of a context is due and can be made: no other context of the unit stands within a segment. -/
def State.parkable (s : State) (u c : Nat) : Bool :=
  let x := s.ctx u c
  let k := (s.unit u).cur
  s.ready u c && (x.parking || x.asleep) && (x.asleep || k == c || ! s.issuing u k)

/-- PARK (R67): the park that is due, or the wake of a sleeping context. -/
def execPark (u c : Nat) (s : State) : Out := .next (if s.parkable u c then s.parkNow u c else s)

/-- IMPLICIT_PARK (R64): the park after the 256th word of a segment. -/
def execImplicitPark (u c : Nat) (s : State) : Out :=
  .next (if s.parkable u c && decide (256 ≤ (s.ctx u c).seg) then s.parkNow u c else s)

/-- HELPER_CODE_ABSENT (R396): a helper is to fetch a word that is not resident. -/
def execHelperCodeAbsent (u c : Nat) (s : State) : Out :=
  let x := s.ctx u c
  if c ≠ 0 ∧ s.ready u c ∧ ! x.parking ∧ ! x.asleep ∧ s.fetchAt u c x.pc = none then .next (s.helperAbsent u c x.pc) else .next s

/-! ## Stops and resumes (R407, R411) -/

/-- STOP_ARRIVAL (R407). -/
def execStopArrival (u lid : Nat) (s : State) : Out := .next (s.stopArrive u lid)

/-- A unit reset by the management firmware (R394, R407). -/
def State.resetUnit (s : State) (u : Nat) : State := s.setUnit u (UnitState.reset u)

/-- UNIT_WATCHDOG (R407, R423, R433): a unit has not acknowledged a STOP and is reset, or a unit or engine of the launch makes no progress; the
launch fails. DEDUCED, log entry 112. -/
def execUnitWatchdog (u lid : Nat) (s : State) : Out :=
  match s.launch lid with
  | some l =>
    if l.owing.contains u then .next ((s.failLaunch lid 0x20).resetUnit u)
    else if (s.launchesOf u).contains lid then .next (s.failLaunch lid Cause.uncorr.code)
    else .next s
  | none => .next s

/-- The live contexts of a launch, in increasing order of unit and context (R184). DESIGN CHOICE: far cores come first, then slice near
units, then stack near units; log entry 94. -/
def State.launchCtxs (s : State) (lid : Nat) : List (Nat × Nat) :=
  s.units.flatMap fun u => (u.2.ctxs.filter fun x => x.2.live && x.2.lid == lid).map fun x => (u.1, x.1)

/-- A launch resumed (R411): its contexts issue, its engines and streams go on (R365, R380). -/
def State.resumeLaunch (s : State) (lid : Nat) : State :=
  let s1 := s.modLaunch lid fun l => { l with stopped := false, saved := [] }
  let s2 := (s1.launchCtxs lid).foldl (fun acc k =>
    (acc.modCtx k.1 k.2 fun x => { x with held := false }).modUnit k.1 fun x => { x with engine := { x.engine with susp := false } }) s1
  { s2 with near := s2.near.map fun n =>
      (n.1, if n.2.lid = lid then { n.2 with stream := n.2.stream.map fun t => { t with susp := false } } else n.2) }

/-- LAUNCH_RESUME (R411): every unit has reported its restore. -/
def execLaunchResume (lid : Nat) (s : State) : Out :=
  match s.launch lid with
  | some l => if l.stopped && ! l.cancel && l.owing == [] && l.away == [] then .next (s.resumeLaunch lid) else .next s
  | none => .next s

/-! ## The hub's own accesses -/

/-- The host or the hub as an issuer: no tags. -/
def hostIssuer : Issuer := ⟨4096, 0, 0#12, 0#16, .s⟩

/-- A virtual address of a launch translated for the hub (R401, R422, R425): its physical address, or the cause; a leaf of the control type
stands in no table but MROOT's. -/
def State.hubPage (s : State) (ptroot : Word) (va : Word) (store : Bool) : Except Cause (State × Nat) :=
  if va.extractLsb' 58 6 ≠ 0#6 then .error .access
  else
    match s.walkFrom va.toNat (ptePa ptroot) 0 4 with
    | .error e => .error e
    | .ok (s0, at_, level, p) =>
      let pa := ptePa p + va.toNat % leafSize level (p.getLsbD 8)
      let perm := if store then p.getLsbD 2 else p.getLsbD 1
      if ! perm || ! s.backed pa || s.place pa == .control || p.extractLsb' 10 2 == 2#2 then .error .access
      else
        match s.place pa with
        | .peer d _ => if s.routed d then .ok (s0, pa) else .error .uncorr
        | _ =>
          let p' := p ||| 0x40#64 ||| (if store then 0x80#64 else 0#64)
          .ok (if p' = p then s0 else s0.setEntry at_ p', pa)

/-- Bytes written by the hub in a launch's address space, in pieces that lie in one page. DESIGN CHOICE: a fault ends the write; log entry
97. -/
def State.hubWrite (s : State) (ptroot : Word) : List (Word × List Byte) → State
  | [] => s
  | (va, bs) :: rest =>
    match s.hubPage ptroot va true with
    | .error _ => s
    | .ok (s1, pa) =>
      match s1.homeFault hostIssuer false true none pa bs.length with
      | some _ => s
      | none => ((s1.markWrite pa bs.length).setPhysBytes pa bs).hubWrite ptroot rest

/-- Bytes cut into pieces of 16 bytes from an address on. -/
def pieces16 (va : Word) (bs : List Byte) : Nat → List (Word × List Byte)
  | 0 => []
  | n + 1 => if bs = [] then [] else (va, bs.take 16) :: pieces16 (va + 16#64) (bs.drop 16) n

/-! ## Quiescence (R183, R184, R425) -/

/-- How a context sleeps (R184): WHY, OBJ, and the address of the word; `none` where it does not. DEDUCED, log entry 69. -/
def Ctx.sleepWhy (x : Ctx) : Option (Nat × Nat × Word) :=
  if x.firmware then some (7, 0, x.pc)
  else if x.asleep then
    match x.wait with
    | some (.waitc k _) => some (0, k.toNat % 256, x.pc)
    | some (.recv _ _ ring) => some (1, ring.toNat % 16, x.pc)
    | some (.fifo .engine) => some (4, 0, x.pc)
    | some (.fifo .matrix) => some (5, 0, x.pc)
    | some (.fifo .array) => none
    | some (.tkenq _ _ _ _) => some (6, 0, x.pc)
    | some (.lapw _) => some (7, 0, x.pc)
    | some .haltc => some (8, 0, x.pc)
    | some (.dfresh _ _) => some (12, 0, x.pc)
    | none => none
  else if x.parking || x.stuck then
    match x.blocked with
    | r :: _ => some ((match r.act with | .merge _ _ _ _ => 2 | _ => 3), 0, r.fpc)
    | [] =>
      x.defs.findSome? fun e =>
        match e.src with
        | .epop f => some (9, 0, f)
        | .mpop f => some (10, 0, f)
        | .nrwait f => some (11, 0, f)
        | _ => none
  else none

/-- How a context sleeps, its re-dispatch that waits for a place as a stalled push (R223), a hand-off that its core holds as the control
context's held message (R172). DEDUCED, log entry 69. -/
def State.sleepWhy (s : State) (u c : Nat) : Option (Nat × Nat × Word) :=
  let x := s.ctx u c
  let why :=
    match x.redo with
    | some (e :: _) => if s.redoFull u c e then some (5, 0, x.pc) else x.sleepWhy
    | _ => x.sleepWhy
  if c = 0 ∧ (s.unit u).heldMsgs.any heldHandOff then why.map fun w => (3, 0, w.2.2) else why

/-- A message or a hand-off of a launch that a core holds would be deposited now (R172, R176). -/
def State.heldMoves (s : State) (core lid : Nat) : Bool :=
  let l := (s.unit core).heldMsgs
  l.any fun h =>
    (match h with
     | .msg r => (s.ctx r.who.unit r.who.ctx).lid == lid
     | .handOff e => (s.wte core e).lid == lid)
      && ! ringHeld (l.takeWhile fun o => o != h) (heldRing h) && (s.offer core h).isSome

/-- A refused contribution of a context would be accepted now (R138). -/
def State.mergeMoves (s : State) (x : Ctx) : Bool :=
  x.blocked.any fun r =>
    match r.act, execMergeRetry r s with
    | .merge _ _ _ _, Host.Outcome.next t => ! (t.ctx r.who.unit r.who.ctx).blocked.contains r
    | _, _ => false

/-- Work of a launch that can still move (R183). -/
def State.launchMoves (s : State) (lid : Nat) : Bool :=
  let mine := fun (u c : Nat) => (s.ctx u c).lid == lid
  (s.flight.any fun r => mine r.who.unit r.who.ctx) || (s.posted.any fun p => s.sentFor lid p)
    || (s.units.any fun u => s.heldMoves u.1 lid || u.2.ctxs.any fun x => x.2.lid == lid && s.mergeMoves x.2)
    || (s.units.any fun u =>
        (u.2.vq.any fun k => mine u.1 k.ctx) || (u.2.replay.any fun k => mine u.1 k.ctx && k.body.length == k.len)
          || (match s.matCan u.1 with | some k => mine u.1 k.ctx | none => false)
          || (match s.engMayBegin u.1 with | some k => mine u.1 k.ctx | none => false)
          || (match u.2.engine.begun with | some k => mine u.1 k.1.ctx && ! u.2.engine.susp | none => false))
    || (s.slices.any fun x => match s.arrayHead x.1 with | some k => mine (Config.sliceUnit0 + x.1) k.ctx | none => false)
    || (s.near.any fun n => n.2.lid == lid && (match n.2.stream with | some t => ! t.susp && n.2.done.isNone | none => false))

/-- A launch is quiescent (R183). -/
def State.quiescent (s : State) (l : Launch) : Bool :=
  let cs := s.launchCtxs l.lid
  cs != [] && ! s.launchMoves l.lid && cs.all fun k =>
    let x := s.ctx k.1 k.2
    (s.sleepWhy k.1 k.2).isSome
      && (if x.firmware then (s.loopMove k.1).isNone && (kindOf k.1 != .far || (s.startHandOff k.1).isNone) else ! s.ready k.1 k.2)

/-- One entry of a stall report (R184). -/
def stallEntry (u c why obj : Nat) (pc : Word) : List Byte :=
  let k := match kindOf u with | .far => (0, u) | .slice => (1, u - Config.sliceUnit0) | .stack => (2, u - Config.stackUnit0)
  bytesOfNat 8 (obj % 256 * 2 ^ 28 + why * 2 ^ 24 + c % 16 * 2 ^ 20 + k.1 * 2 ^ 18 + k.2 % 1024) ++ bytesOf 8 pc

/-- A stall report (R184). -/
def State.stallReport (s : State) (cs : List (Nat × Nat)) : List Byte :=
  bytesOfNat 8 cs.length ++ List.replicate 56 0#8 ++ cs.flatMap fun k =>
    match s.sleepWhy k.1 k.2 with
    | some (why, obj, pc) => stallEntry k.1 k.2 why obj pc
    | none => []

/-- QUIESCENCE_DETECT (R183, R425): the report in the stall buffer, cut to its length, and a stall completion; once until a context
wakes. -/
def execQuiescenceDetect (lid : Nat) (s : State) : Out :=
  match s.launch lid with
  | none => .next s
  | some l =>
    if l.stopped || l.stalled || ! s.quiescent l then .next s
    else
      let cs := s.launchCtxs lid
      let bs := (s.stallReport cs).take l.stalllen
      let s1 := if l.stallva = 0#64 then s else s.hubWrite l.ptroot (pieces16 l.stallva bs bs.length)
      let s2 := s1.modLaunch lid fun k => { k with stalled := true }
      .next (s2.postCompletion l.queue ⟨l.tag, 3, 0, lid, l.lap - 1, BitVec.ofNat 64 cs.length, l.taskErrors⟩)

/-! ## Records (R420, R421) -/

/-- Doubleword `i` of a record. -/
def LRecord.dw (r : LRecord) (i : Nat) : Word := r.words.getD i 0#64

/-- LCORES of a record. -/
def LRecord.lcores (r : LRecord) : Nat := ((r.dw 1).extractLsb' 32 32).toNat

/-- The effective priority of a record (R422). -/
def LRecord.prio (r : LRecord) : Nat := min 3 (((r.dw 1).extractLsb' 8 2).toNat + r.age)

/-- The doublewords of a record's 128 bytes. -/
def recordWords (bytes : List Byte) : List Word := (List.range 16).map fun i => wordOf ((bytes.drop (8 * i)).take 8)

/-- A launch number that an accepted record or an incomplete launch holds (R420). -/
def State.lidHeld (s : State) (n : Nat) : Bool :=
  (s.launches.any fun l => l.lid == n) || s.lqs.any fun q => q.2.records.any fun r => r.lid == n

/-- The lowest nonzero launch number that is free (R420). -/
def State.freeLid (s : State) : Nat := ((List.range 65535).find? fun i => ! s.lidHeld (i + 1)).getD 0 + 1

/-- The devices that a launch can span: this one and those that the route table names (R420, R428). DEDUCED, log entry 57. -/
def State.deviceCount (s : State) : Nat := 1 + s.routes.length

/-- A record that R421 completes DROPPED. -/
def State.badRecord (s : State) (r : LRecord) : Bool :=
  let w1 := r.dw 1
  let lid := (w1.extractLsb' 16 16).toNat
  (r.dw 0).extractLsb' 0 6 != 0#6 || w1.extractLsb' 10 6 != 0#6 || w1.extractLsb' 6 2 != 0#2 || (r.dw 8).extractLsb' 32 32 != 0#32
    || ((List.range 7).any fun i => r.dw (9 + i) != 0#64) || r.lcores == 0 || decide (512 * s.deviceCount < r.lcores)
    || (lid != 0 && s.lidHeld lid)

/-- The device takes records: early or full service (R430). -/
def State.serving (s : State) : Bool := s.stage == 3#4 || s.stage == 4#4

/-- A write to the aperture discarded (R421). -/
def State.dropRecord (s : State) : State := { s with dropcnt := s.dropcnt + 1#32 }

/-- LAUNCH_RECORD_POST (R420, R421): `off` is the offset in BAR0. DEDUCED, log entry 67. -/
def State.postRecord (s : State) (off : Nat) (bytes : List Byte) : State :=
  let words := recordWords bytes
  let q := ((words.getD 1 0#64).extractLsb' 0 6).toNat
  let x := s.lq q
  if ! s.serving || bytes.length != 128 || off % 128 != 0 || decide (off < 0x1000) || decide (0x1FFF < off) || ! x.enabled
      || decide (16 ≤ x.records.length) then s.dropRecord
  else
    let r : LRecord := ⟨0, words, 0, s.po⟩
    if s.badRecord r then s.postCompletion q ⟨r.dw 6, 4, 0, 0, 0, 0#64, 0⟩
    else
      let want := ((r.dw 1).extractLsb' 16 16).toNat
      let lid := if want = 0 then s.freeLid else want
      s.tick.setLq q { x with records := x.records ++ [{ r with lid := lid }] }

/-- LAUNCH_RECORD_POST (R421): the ports share one order, port 0 first. -/
def execLaunchRecordPost (_port : Bool) (off : Nat) (bytes : List Byte) (s : State) : Out := .next (s.postRecord off bytes)

/-! ## The front end (R422) -/

/-- The better of two heads: higher effective priority, then the earlier arrival (R422). -/
def betterHead (a b : Nat × LRecord) : Nat × LRecord :=
  if a.2.prio < b.2.prio ∨ (a.2.prio = b.2.prio ∧ b.2.stamp < a.2.stamp) then b else a

/-- The head that the front end chooses, with its queue; a queue that holds a completion starts none (R422, R423). -/
def State.headRecord (s : State) : Option (Nat × LRecord) :=
  s.lqs.foldl (fun acc q =>
    if q.2.enabled && q.2.held == [] then
      match q.2.records, acc with
      | r :: _, none => some (q.1, r)
      | r :: _, some a => some (betterHead a (q.1, r))
      | [], _ => acc
    else acc) none

/-- The first `n` far cores of a core table in this device's memory, as a read of its home finds them (R302, R419). DEDUCED, log entry 58. -/
def State.coreTable (s : State) (pa n : Nat) : List Nat :=
  let t := s.freshen pa (2 * n)
  (List.range n).map fun k => natOfBytes (t.physBytes (pa + 2 * k) 2)

/-- CTABPA of a queue. -/
def LQueue.ctabPa (x : LQueue) : Nat := ((x.dw 2).extractLsb' 0 52).toNat

/-- A record's core table on this device (R422). -/
def State.recordCores (s : State) (q : Nat) (r : LRecord) : List Nat := s.coreTable (s.lq q).ctabPa (min r.lcores 512)

/-- The read of a record's core table meets an error that no code corrects (R422). -/
def State.tableBad (s : State) (q : Nat) (r : LRecord) : Bool := s.readBad (s.lq q).ctabPa (2 * min r.lcores 512)

/-- The launch of a record (R419, R420). DEDUCED, log entry 56. -/
def State.launchOf (s : State) (q : Nat) (r : LRecord) (cores : List Nat) : Launch :=
  let x := s.lq q
  { lid := r.lid, asid := (x.dw 0).extractLsb' 32 12, gen := (x.dw 0).extractLsb' 0 16
    ptroot := x.dw 1 &&& 0x000FFFFFFFFFC000#64, ctab := x.dw 3, prio := r.prio, tag := r.dw 6, queue := q
    cores := cores, lcores := r.lcores, lap := 1, votes := [], running := 0, stopped := false, owing := [], away := [], taskErrors := 0
    deferred := [], repaired := [], saved := [], kept := [], cancel := false, control := false
    stallva := r.dw 7, stalllen := ((r.dw 8).extractLsb' 0 32).toNat, stalled := false }

/-- The head record of a queue taken. -/
def State.takeRecord (s : State) (q : Nat) : State := s.setLq q { s.lq q with records := (s.lq q).records.drop 1 }

/-- A chosen record completed without a start (R422). -/
def State.refuseRecord (s : State) (q : Nat) (r : LRecord) (kind cause : Nat) : State :=
  (s.takeRecord q).postCompletion q ⟨r.dw 6, kind, cause, if kind = 4 then 0 else r.lid, 0, 0#64, 0⟩

/-- The root's far body started on helper 1 of logical core 0 (R323, R422). DEDUCED, log entry 68. -/
def State.startRoot (s : State) (l : Launch) (r : LRecord) (desc : List Byte) : State :=
  match l.cores with
  | [] => s
  | u :: _ =>
    let off := runtimeBind .far 1
    let pc := descWord desc 1
    let s1 := (((s.prepare u 1 l).setLocal u off desc).writeTaskInfo u 1 desc true false false 0#32 0).modLaunch l.lid fun k =>
      { k with running := k.running + 1 }
    match checkTarget pc with
    | some e => s1.failLaunch l.lid e.code
    | none => s1.startBody u 1 l.lid pc off (descArgs desc ++ [BitVec.ofNat 64 r.lcores, r.dw 2, r.dw 3, r.dw 4, r.dw 5])

/-- The mirror records of a launch that spans devices, one for each further device coordinate, under the launch's number (R429). -/
def LRecord.mirrors (r : LRecord) : List (Nat × List Word) :=
  let w := r.dw 1 &&& ~~~ 0xFFFF0000#64 ||| BitVec.ofNat 64 (r.lid % 2 ^ 16 * 2 ^ 16)
  (List.range ((r.lcores + 511) / 512 - 1)).map fun d => (d + 1, r.words.set 1 w)

/-- A launch begins (R422): the mirror records sent (R429), its voters, then its root. -/
def State.beginLaunch (s : State) (q : Nat) (r : LRecord) (cores : List Nat) (desc : List Byte) : State :=
  let l := s.launchOf q r cores
  let s0 : State := { s.takeRecord q with mirrors := s.mirrors ++ r.mirrors }
  let s1 : State := { s0 with launches := s0.launches ++ [l] }
  ((s1.voters l).foldl (fun acc u => acc.startVoter l u) s1).startRoot l r desc

/-- Running launches of lower effective priority that hold a core of a list stopped (R407, R422). -/
def State.preempt (s : State) (prio : Nat) (cores : List Nat) : State :=
  (s.launches.filter fun l => ! l.stopped && decide (l.prio < prio) && l.cores.any fun c => cores.contains c).foldl
    (fun acc l => acc.sendStop l.lid) s

/-- A stopped launch is to be resumed on a core of a list before a record of that priority (R422). -/
def State.resumesFirst (s : State) (prio : Nat) (cores : List Nat) : Bool :=
  s.launches.any fun l => l.stopped && decide (prio ≤ l.prio) && l.cores.any fun c => cores.contains c

/-- The root descriptor's bytes, or the cause (R422). -/
def State.rootDesc (s : State) (q : Nat) (r : LRecord) : Except Cause (State × List Byte) :=
  match s.hubPage ((s.lq q).dw 1 &&& 0x000FFFFFFFFFC000#64) (r.dw 0) false with
  | .error e => .error e
  | .ok (s1, pa) => if s1.readBad pa 64 then .error .uncorr else .ok (s1.readHome pa 64)

/-- The chosen record checked, and its launch started, or the launches that hold its cores stopped (R422, R434). -/
def State.startRecord (s : State) (q : Nat) (r : LRecord) : State :=
  let cores := s.recordCores q r
  if s.tableBad q r then s.refuseRecord q r 2 Cause.uncorr.code
  else if cores.any fun c => ! (decide (c < 512) && s.on (.farCore c)) then s.refuseRecord q r 4 0
  else if s.namesRetired (s.launchOf q r cores) then s.refuseRecord q r 2 Cause.uncorr.code
  else
    match s.rootDesc q r with
    | .error e => s.refuseRecord q r 2 e.code
    | .ok (s1, desc) =>
      if s.coresFree 0 cores && ! s.resumesFirst r.prio cores then s1.beginLaunch q r cores desc else s.preempt r.prio cores

/-- LAUNCH_START (R422). -/
def execLaunchStart (s : State) : Out :=
  match (if s.serving then s.headRecord else none) with
  | some (q, r) => .next (s.startRecord q r)
  | none => .next s

/-- LAUNCH_RECORD_AGING (R422): a record has waited 1 ms more; launches of lower priority that the chosen head waits for are stopped. -/
def execLaunchRecordAging (q idx : Nat) (s : State) : Out :=
  let x := s.lq q
  let s1 := s.setLq q { x with records := x.records.zipIdx.map fun r => if r.2 = idx then { r.1 with age := r.1.age + 1 } else r.1 }
  match (if s1.serving then s1.headRecord else none) with
  | some (k, r) => .next (if s1.coresFree 0 (s1.recordCores k r) then s1 else s1.preempt r.prio (s1.recordCores k r))
  | none => .next s1

/-! ## Completions, queue blocks, cancels (R419, R423, R424, R426) -/

/-- A cancelled launch of a queue whose units have all acknowledged and taken back their state, and whose accesses and commands have all been
performed; its merge tables can drain (R139, R160, R424, R426). -/
def State.cancelDone (s : State) (q : Nat) : Option Launch :=
  s.launches.find? fun l => l.queue == q && l.cancel && l.stopped && l.owing == [] && l.away == []
    && ! (s.flight.any fun r => (s.ctx r.who.unit r.who.ctx).lid == l.lid) && ! s.launchWork l.lid

/-- COMPLETION_WRITE (R423, R424): a held completion once the ring has room, or that of a cancelled launch, whose merge tables are drained as
at a lap's end (R139, R160). -/
def execCompletionWrite (q : Nat) (s : State) : Out :=
  if (s.lq q).held ≠ [] then .next (s.releaseHeld q)
  else
    match s.cancelDone q with
    | some l => .next ((s.drainMerges l.lid).endLaunch l.lid 5 0 0#64)
    | none => .next s

/-- CRHEAD_WRITE (R419). -/
def execCrheadWrite (q : Nat) (v : Word32) (s : State) : Out :=
  .next (s.setLq q { s.lq q with cfg := (s.lq q).cfg.setIfInBounds 6 (v.setWidth 64) })

/-- The fields of a doubleword of the LQCFG block; the reserved ones read as zero (R419). -/
def lqMask (dw : Nat) : Word :=
  match dw with
  | 0 => 0x80000FFF0000FFFF#64
  | 1 => 0x000FFFFFFFFFC000#64
  | 2 => 0x000FFFFFFFFFFFFF#64
  | 3 => BitVec.allOnes 64
  | 4 => 0xFFFFFFFFFFFFF000#64
  | 5 => 0x00000000000011FF#64
  | 6 => 0x00000000FFFFFFFF#64
  | _ => 0#64

/-- A queue holds a record or a running launch (R419). DEDUCED: a launch that a stop holds counts as running; log entry 98. -/
def State.lqBusy (s : State) (q : Nat) : Bool := (s.lq q).records != [] || s.launches.any fun l => l.queue == q

/-- A doubleword of a queue's block written by the host (R419): CRHEAD always, CRTAIL never, the rest while the queue is idle. -/
def State.lqWrite (s : State) (q dw : Nat) (v : Word) : State :=
  if dw = 7 ∨ (dw ≠ 6 ∧ s.lqBusy q) then s
  else s.setLq q { s.lq q with cfg := (s.lq q).cfg.setIfInBounds dw (v &&& lqMask dw) }

/-- LQCFG_WRITE (R419). -/
def execLqcfgWrite (q dw : Nat) (v : Word) (s : State) : Out := .next (s.lqWrite q dw v)

/-- A launch cancelled by the host (R426). -/
def State.cancelLaunch (s : State) (lid : Nat) : State :=
  match s.launch lid with
  | none => s
  | some l => (if l.stopped then s else s.sendStop lid).modLaunch lid fun k => { k with cancel := true }

/-- LSTOP_WRITE (R426). -/
def execLstopWrite (lid : BitVec 16) (s : State) : Out := .next (s.cancelLaunch lid.toNat)

/-! ## Launches of another device (R429) -/

/-- MIRROR_RECORD (R429): a launch record of the first device starts the launch's voters here. The coordinate of this device stands in
the launch's device table, whose form the spec leaves to the runtime: a free value of at least 1. DESIGN CHOICE, log entry 59. -/
def execMirrorRecord (bytes : List Byte) (lid : Nat) (s : State) : Out :=
  let r : LRecord := ⟨lid, recordWords bytes, 0, s.po⟩
  let q := ((r.dw 1).extractLsb' 0 6).toNat
  let d := Config.choose s.free % 32 + 1
  let cores := s.coreTable (s.lq q).ctabPa (min (r.lcores - 512 * d) 512)
  let s1 := s.useFree
  if lid = 0 ∨ s.lidHeld lid ∨ ! s.serving ∨ (cores.any fun c => ! (decide (c < 512) && s.on (.farCore c))) then .next s1
  else
    let l := s.launchOf q r cores
    let s2 : State := { s1 with launches := s1.launches ++ [l] }
    .next ((s2.voters l).foldl (fun acc u => acc.startVoter l u) s2).failRetired

end Sys2Proof.Machine
end

