-- ==== Sys2Proof/Machine/Device.lean ====
section
/-! DEFINITION. The device as the host and its peers see it (23_device R417, R418, R427 to R435): BAR accesses, the control registers, the
attestation mailbox, peer links, bring-up, power, scrubbing and the disabling of units; and the timeout of a host-window read (06_memory
R128). -/

namespace Sys2Proof.Machine

/-! ## Control registers (R418) -/

/-- PWRLIM written (R418): a value outside 400 to 2,000 changes nothing. -/
def State.pwrlimWrite (s : State) (v : Word) : State :=
  let n := v.extractLsb' 0 11
  if 400 ≤ n.toNat ∧ n.toNat ≤ 2000 then { s with pwrlim := n } else s

/-- PWRLIM_WRITE (R418). -/
def execPwrlimWrite (v : Word) (s : State) : Out := .next (s.pwrlimWrite v)

/-- HERR written: a 1 clears its bit (R418). -/
def State.herrClear (s : State) (v : Word) : State := { s with herr := s.herr &&& ~~~ (v.extractLsb' 0 2) }

/-- HERR_CLEAR (R418). -/
def execHerrClear (v : Word) (s : State) : Out := .next (s.herrClear v)

/-- DROPCNT_WRITE (R418). -/
def execDropcntWrite (v : Word32) (s : State) : Out := .next { s with dropcnt := v }

/-- A bit of HERR set. -/
def State.setHerr (s : State) (b : BitVec 2) : State := { s with herr := s.herr ||| b }

/-- DEVSTAT (R418). -/
def State.devstat (s : State) : Word := s.stage ++ 0#28 ++ s.pwr ++ 0#15 ++ BitVec.ofBool s.capped

/-- CAP as the host reads it: R413 without the size of a unit's save area, which belongs to no one unit here (R418, R432).
DEDUCED, log entry 71. -/
def State.hostCap (s : State) : Word := s.capWord &&& ~~~ 0xFF#64

/-- The doubleword of BAR0 at an offset as a read returns it (R418). -/
def State.bar0Word (s : State) (off : Nat) : Word :=
  if off = 0 then s.devstat
  else if off = 8 then s.hostCap
  else if off = 0x10 then s.pwrlim.setWidth 64
  else if off = 0x20 then s.dropcnt.setWidth 64
  else if off = 0x28 then s.herr.setWidth 64
  else if 0x10000 ≤ off ∧ off < 0x11000 then (s.lq (off % 0x10000 / 64)).dw (off % 64 / 8)
  else if 0x20000 ≤ off ∧ off < 0x21000 then s.attbox.read64 (off % 0x10000)
  else 0#64

/-- Bytes of BAR0. -/
def State.bar0Read (s : State) (off n : Nat) : List Byte :=
  (List.range n).map fun i => BitVec.ofNat 8 ((s.bar0Word ((off + i) / 8 * 8)).toNat / 256 ^ ((off + i) % 8))

/-! ## Attestation (R432) -/

/-- The word at 0x040 of the mailbox. -/
def State.attWord (s : State) : Nat := natOfBytes (s.attbox.readBytes 0x40 4)

/-- A quote requested (R432): a request while one is under way is ignored. -/
def State.attRequest (s : State) (nonce : List Byte) : State :=
  if s.attWord = 1 then s else { s with attbox := (s.attbox.writeBytes 0 (nonce.take 64)).writeBytes 0x40 [1#8, 0#8, 0#8, 0#8] }

/-- ATTESTATION_REQUEST (R432). -/
def execAttestationRequest (nonce : List Byte) (s : State) : Out := .next (s.attRequest nonce)

/-- The bytes of the mailbox from 0x080 to 0x2FF when a quote is complete (R432). -/
def State.quoteBody (s : State) : List Byte :=
  (s.images.toList.flatMap fun m => bytesOfNat 64 m.digest.toNat) ++ s.attbox.readBytes 0 64 ++ bytesOf 8 s.devstat ++ List.replicate 184 0#8
    ++ bytesOf 8 s.hostCap ++ (s.images.toList.flatMap fun m => bytesOf 2 (m.version.setWidth 64)) ++ bytesOf 2 (s.fusedFloor.setWidth 64)
    ++ List.replicate 44 0#8

/-- The signature of a quote over the nonce and the body (R432): 132 bytes of the identity key's, with the randomness that it has drawn. -/
def State.quoteSignature (s : State) (rand : List Byte) : List Byte :=
  (List.range 132).map (Config.signature (natOfBytes rand) (s.attbox.readBytes 0 64 ++ s.quoteBody))

/-- QUOTE_COMPLETE (R432): the event brings the randomness of the signature alone. DESIGN CHOICE, log entry 107. -/
def execQuoteComplete (quote : List Byte) (s : State) : Out :=
  if s.attWord = 1 then
    .next { s with
      attbox := (s.attbox.writeBytes 0x80 (s.quoteBody ++ s.quoteSignature quote ++ List.replicate 124 0#8)).writeBytes 0x40
        [2#8, 0#8, 0#8, 0#8] }
  else .next s

/-! ## Host accesses (R417, R418) -/

/-- The host gives BAR2 a size, from 1 GiB to that of the enabled DRAM (R417); any other size changes nothing. -/
def State.resizeBar2 (s : State) (n : Nat) : State :=
  if 0x40000000 ≤ n ∧ n ≤ s.dramSize then { s with bar2 := n } else s

/-- The device physical address of an offset in BAR2 or BAR4 (R417); before early service BAR0 alone is seen (R430). -/
def State.barAddress (s : State) (bar off : Nat) : Option Nat :=
  if ! s.serving then none
  else if bar = 2 then (if off < min s.bar2 s.dramSize then some off else none)
  else if bar = 4 then
    (if off < 0x40000000 then some (0x800000000000 + off)
     else if off < 0x50000000 then some (0x900000000000 + off % 0x10000000)
     else if off < 0x54000000 then some (0x910000000000 + off % 0x4000000)
     else none)
  else none

/-- A piece of a host access is held at its home: by array commands accepted before it, by a row stream (R275, R377). -/
def State.hostHeld (s : State) (pa : Option Nat) (n : Nat) : Bool :=
  match pa with
  | none => false
  | some a => s.accessWaits a n s.po

/-- A piece of a host read (R418): its bytes, or all ones with a bit of HERR; data under an error that no code corrects are free values (R129).
DEDUCED, log entry 70. -/
def State.hostReadPiece (s : State) (pa : Option Nat) (n : Nat) : State × List Byte :=
  match pa with
  | none => (s.setHerr 1#2, List.replicate n 0xFF#8)
  | some a =>
    match s.homeFault hostIssuer false false none a n with
    | none => s.readHome a n
    | some .uncorr => ({ s with free := s.free + n }, (List.range n).map fun i => Config.deviceByte (s.free + i))
    | some .wsGuard => (s.setHerr 2#2, List.replicate n 0xFF#8)
    | some _ => (s.setHerr 1#2, List.replicate n 0xFF#8)

/-- A piece of a host write (R418): performed, refused or discarded. -/
def State.hostWritePiece (s : State) (pa : Option Nat) (bs : List Byte) : State :=
  match pa with
  | none => s.setHerr 1#2
  | some a =>
    match s.homeFault hostIssuer false true none a bs.length with
    | none => (s.markWrite a bs.length).setPhysBytes a bs
    | some .access => s.setHerr 1#2
    | some _ => s.setHerr 2#2

/-- A host read in pieces that lie in one granule. -/
def State.hostRead (s : State) (bar off n : Nat) : Nat → State × List Byte
  | 0 => (s, [])
  | fuel + 1 =>
    if n = 0 then (s, [])
    else
      let k := min n (4096 - off % 4096)
      let r := s.hostReadPiece (s.barAddress bar off) k
      let t := r.1.hostRead bar (off + k) (n - k) fuel
      (t.1, r.2 ++ t.2)

/-- Some piece of a host access is held at its home. -/
def State.hostWaits (s : State) (bar off n : Nat) : Nat → Bool
  | 0 => false
  | fuel + 1 =>
    if n = 0 then false
    else
      let k := min n (4096 - off % 4096)
      s.hostHeld (s.barAddress bar off) k || s.hostWaits bar (off + k) (n - k) fuel

/-- A host write in pieces that lie in one granule. -/
def State.hostWrite (s : State) (bar off : Nat) (bs : List Byte) : Nat → State
  | 0 => s
  | fuel + 1 =>
    if bs = [] then s
    else
      let k := min bs.length (4096 - off % 4096)
      (s.hostWritePiece (s.barAddress bar off) (bs.take k)).hostWrite bar (off + k) (bs.drop k) fuel

/-- Doublewords of the LQCFG window written in turn; a part of one keeps the rest as it stands. -/
def State.lqBytes (s : State) (off : Nat) (bs : List Byte) : Nat → State
  | 0 => s
  | fuel + 1 =>
    if bs = [] then s
    else
      let at_ := off % 0x10000
      let k := min bs.length (8 - off % 8)
      let old := bytesOf 8 ((s.lq (at_ / 64)).dw (at_ % 64 / 8))
      let new := old.take (off % 8) ++ bs.take k ++ old.drop (off % 8 + k)
      (s.lqWrite (at_ / 64) (at_ % 64 / 8) (wordOf new)).lqBytes (off + k) (bs.drop k) fuel

/-- A write to BAR0 (R418). -/
def State.bar0Write (s : State) (off : Nat) (bs : List Byte) : State :=
  if off = 0x10 then s.pwrlimWrite (wordOf bs)
  else if off = 0x18 then s.cancelLaunch (natOfBytes (bs.take 2))
  else if off = 0x20 then { s with dropcnt := BitVec.ofNat 32 (natOfBytes (bs.take 4)) }
  else if off = 0x28 then s.herrClear (wordOf bs)
  else if 0x1000 ≤ off ∧ off < 0x2000 then s.postRecord off bs
  else if 0x10000 ≤ off ∧ off < 0x11000 then s.lqBytes off bs bs.length
  else if off = 0x20040 ∧ natOfBytes (bs.take 4) = 1 then s.attRequest (s.attbox.readBytes 0 64)
  else if 0x20000 ≤ off ∧ off < 0x21000 then { s with attbox := s.attbox.writeBytes (off % 0x10000) bs }
  else s

/-- HOST_ACCESS (R417, R418): the access at its homes. While one of them holds it back, nothing of it happens. -/
def execHostAccess (_port : Bool) (bar off : Nat) (op : HostOp) (s : State) : Out :=
  match op with
  | .read n =>
    if bar = 0 then .next { s with hostReply := s.bar0Read off n }
    else if s.hostWaits bar off n n then .next s
    else
      let r := s.hostRead bar off n n
      .next { r.1 with hostReply := r.2 }
  | .write bs =>
    if bar = 0 then .next (s.bar0Write off bs)
    else if s.hostWaits bar off bs.length bs.length then .next s
    else .next (s.hostWrite bar off bs bs.length)

/-- HOST_READ_TIMEOUT (R128): a read of the host window in flight returns UNCORR. -/
def execHostReadTimeout (r : Req) (s : State) : Out :=
  let s1 : State := { s with flight := s.flight.filter fun o => o != r }
  if s.flight.contains r && s.place r.pa == .host then
    match r.act with
    | .load _ _ id | .get _ _ id => .next (s1.returnFault r (some id) .uncorr)
    | _ => .next s
  else .next s

/-! ## Peer links (R427, R428) -/

/-- A port. -/
def State.port (s : State) (n : Nat) : Port := SMap.get s.ports n Port.reset

/-- The state with a port changed. -/
def State.modPort (s : State) (n : Nat) (f : Port → Port) : State := { s with ports := SMap.put s.ports n (f (s.port n)) }

/-- A peer's access performed at its home here. Its issuer is no unit of this device: what returns to it leaves over the link. -/
def State.performPeer (s : State) (r : Req) : State :=
  let t := s.perform { r with who := { r.who with unit := 4096 + r.who.unit } }
  { t with units := t.units.filter fun u => decide (u.1 < 4096) }

/-- An access that arrives over a link: its address is an offset of this device's window, which R28 maps to a physical address; an unbacked
offset is none that a sender's check lets through (R27). -/
def State.performAtOffset (s : State) (r : Req) : State :=
  match peerPa r.pa with
  | some p => s.performPeer { r with pa := p }
  | none => s

/-- A port carries traffic: it has trained and does not retrain (R427). -/
def Port.carries (x : Port) : Bool := decide (0 < x.lanes) && ! x.retraining

/-- An access that arrives over a link is held at its home here (R275, R377). -/
def State.arrivalWaits (s : State) (r : Req) : Bool :=
  match peerPa r.pa with
  | some p => s.accessWaits p (reqSize r) s.po
  | none => false

/-- FLIT_RECEIVE (R28, R427): a flit that passes its CRC is delivered, in order, once its accesses' homes take them; one that fails is
counted, and the sender replays it; a port that retrains or is disabled carries none. What a flit carries for another device goes on along
the route table and does nothing here (R428). DESIGN CHOICE, log entry 60. -/
def execFlitReceive (port : Nat) (good : Bool) (reqs : List Req) (s : State) : Out :=
  if ! (s.port port).carries then .next s
  else if good then .next (if reqs.any s.arrivalWaits then s else reqs.foldl (fun acc r => acc.performAtOffset r) s)
  else .next (s.modPort port fun x => { x with fails := x.fails + 1 })

/-- LINK_RETRAIN (R427): 64 failures of a port that carries traffic. -/
def execLinkRetrain (port : Nat) (s : State) : Out :=
  if 64 ≤ (s.port port).fails then .next (s.modPort port fun x => { x with retraining := true, fails := 0 }) else .next s

/-- LINK_RETRAINING_END (R427): 4, 2 or 1 lanes; any other count is a port that could not train. -/
def execLinkRetrainingEnd (port lanes : Nat) (s : State) : Out :=
  if (s.port port).retraining then
    .next (s.modPort port fun x => { x with retraining := false, lanes := if lanes = 4 ∨ lanes = 2 ∨ lanes = 1 then lanes else 0 })
  else .next s

/-! ## Bring-up (R430, R431, R434) -/

/-- The blocks of the live contexts laid into local memory: after a reset they stand there alone (R197). -/
def State.storeBlocks (s : State) : State :=
  s.units.foldl (fun acc u => u.2.ctxs.foldl (fun a x =>
    if x.2.live then a.setLocal u.1 (a.cbOf u.1 x.1).toNat x.2.blockBytes else a) acc) s

/-- The memory that a reset leaves: all of it, but DRAM where the map changes (R197, R434). -/
def State.keptMem (s : State) : Memory :=
  if s.retired.all fun x => match x with | .pseudoChannel _ | .stackUnit _ => s.disabled.contains x | _ => true then s.storeBlocks.mem
  else s.storeBlocks.mem.filter fun k => decide (0x800000000000 ≤ k.1)

/-- DEVICE_RESET (R430): secure boot begins, with the map as the signed records leave it (R434). Memory, in which the context blocks lie with
their SRSEED (R197), the images and fuses (R431), the host's memory and the errors that the environment has brought stay.
DESIGN CHOICE: STAGE stands at 1 when the event is over, not at the 0 of its Reset column, since the security processor runs at once; log entry
54. -/
def execDeviceReset (s : State) : Out :=
  .next { State.reset with
    mem := s.keptMem
    stage := 1#4, images := s.images, keyDigest := s.keyDigest, fusedFloor := s.fusedFloor, disabled := s.disabled ++ s.retired.filter fun x => ! s.disabled.contains x
    hostMem := s.hostMem, msi := s.msi, crPorts := s.crPorts, hostReply := s.hostReply, upsets := s.upsets, bar2 := s.bar2
    sched := s.sched, free := s.free, po := s.po }

/-- The lanes at which a port trains: what is attached to it comes from outside (free values, log entry 9). -/
def State.trainedLanes (s : State) (port : Nat) : Nat :=
  let n := [0, 8, 4, 2, 1].getD (Config.choose (s.free + port) % 5) 0
  if s.disabled.contains (.lane port) then min n 4 else n

/-- What the management processors load and train in stage 2 (R428, R430): links, device number and routes.
DESIGN CHOICE, log entry 65. -/
def State.management (s : State) : State :=
  let dev := Config.choose (s.free + 16) % 32
  { s with
    dev := dev
    ports := (List.range 16).map fun k => (k, ⟨s.trainedLanes k, 0, false⟩)
    routes := ((List.range 32).filter fun n => n != dev && Config.choose (s.free + 17 + n) % 17 != 16).map fun n =>
      (n, Config.choose (s.free + 17 + n) % 17)
    free := s.free + 49 }

/-- The security processor accepts a signed item (R431): its signature verifies and its security version is not below the floor. -/
def State.accepts (s : State) (k : Nat) : Bool :=
  match s.images[k]? with
  | some m => Config.verify s.keyDigest m.digest m.signature && decide (s.fusedFloor.toNat ≤ m.version.toNat)
  | none => false

/-- The signed items that a stage loads are accepted (R430, R431): the four firmware images in stage 1, the unit maps in stage 2. -/
def State.stageAccepted (s : State) : Bool :=
  if s.stage = 1#4 then (List.range 4).all s.accepts else if s.stage = 2#4 then s.accepts 4 else true

/-- BOOT_STAGE_ADVANCE (R430, R431): a stage whose images are accepted passes to the next; a rejected image, or another failure of any
stage (the event's false), stops bring-up. -/
def execBootStageAdvance (verified : Bool) (s : State) : Out :=
  if ! verified || ! s.stageAccepted then .next { s with stage := 0xF#4 }
  else if ! (s.stage == 0#4 || s.stage == 1#4 || s.stage == 2#4) then .next s
  else if s.stage = 2#4 then .next { s.management with stage := 3#4 }
  else .next { s with stage := s.stage + 1#4 }

/-- FULL_SERVICE_TRANSITION (R430): every running launch is stopped; once all have acknowledged, the remaining units are enabled. -/
def execFullServiceTransition (s : State) : Out :=
  if s.stage ≠ 3#4 then .next s
  else if s.launches.all fun l => l.stopped && l.owing == [] then .next { s with stage := 4#4 }
  else .next ((s.launches.filter fun l => ! l.stopped).foldl (fun acc l => acc.sendStop l.lid) s)

/-! ## Reliability and power (R412, R433 to R435) -/

/-- POWER_CONTROL (R435): the average of the last 1 ms; clocks are lowered above the limit, and raised again when power allows.
DESIGN CHOICE, log entry 64. -/
def execPowerControl (watts : BitVec 16) (s : State) : Out :=
  let high := decide (s.pwrlim.toNat < watts.toNat)
  .next { s with
    pwr := watts, capped := high || (s.capped && Config.choose s.free % 2 == 1), free := s.free + 1 }

/-- The errors of the hardware without those of a memory word that a scrub has corrected. -/
def State.scrubbed (s : State) (src : ErrSrc) (addr : BitVec 52) : State :=
  { s with upsets := s.upsets.filter fun e => ! (e.src == src && srcMemory src && e.at_ / 8 == addr.toNat / 8 && ! e.uc) }

/-- SCRUB (R412, R433): an error that a scrub finds is logged, and corrected where its code can; one that it cannot correct fails the
launches of its unit. DESIGN CHOICE, log entry 38. DEDUCED, log entry 62. -/
def execScrub (u : Nat) (src : ErrSrc) (addr : BitVec 52) (corrected : Bool) (s : State) : Out :=
  let s0 := if corrected then s.scrubbed src addr else s
  let s1 := s0.logErr u src addr corrected
  .next (if corrected then s1 else s1.failUnit u Cause.uncorr.code)

/-- UNIT_DISABLE (R434): a signed record removes the unit at the next reset; until then the launches that name it fail.
DEDUCED, log entry 63. -/
def execUnitDisable (x : PartUnit) (s : State) : Out :=
  let s1 : State := { s with retired := if s.retired.contains x then s.retired else s.retired ++ [x] }
  .next s1.failRetired

end Sys2Proof.Machine
end

