-- ==== Sys2Proof/Machine/Fp.lean ====
section
/-! DEFINITION. Scalar floating-point instructions and conversions, majors 0x13 to 0x15 (09_formats R201 to R212). -/

namespace Sys2Proof.Machine

/-- A result of a format in a register: FP32 zero-extended (R201). -/
def fpWord (x : Nat) : Word := BitVec.ofNat 64 x

/-- An immediate result with its flags (R212). -/
def State.fpDone (s : State) (d : Reg) (r : Nat × Flags) : Out := ((s.setG d (fpWord r.1)).raise r.2).done

/-- A rounded binary operation of the immediate class (R203). -/
def State.fpBin (s : State) (op : FOp) (dbl : Bool) (rm : RM) (d a b : Reg) : Out :=
  let m := s.cx.mode rm
  let r := fpOp (fmtOf dbl) op m (s.draw m) (opNat dbl (s.g a)) (opNat dbl (s.g b))
  (s.stepLfsr m).fpDone d r

/-- FADD (R203). -/
def execFadd (dbl : Bool) (rm : RM) (d a b : Reg) (s : State) : Out := s.fpBin .add dbl rm d a b

/-- FSUB (R203). -/
def execFsub (dbl : Bool) (rm : RM) (d a b : Reg) (s : State) : Out := s.fpBin .sub dbl rm d a b

/-- FMUL (R203). -/
def execFmul (dbl : Bool) (rm : RM) (d a b : Reg) (s : State) : Out := s.fpBin .mul dbl rm d a b

/-- FDIV (R203): deferred, its flags with it (R212). -/
def execFdiv (dbl : Bool) (rm : RM) (d a b : Reg) (s : State) : Out :=
  let m := s.cx.mode rm
  let r := fpOp (fmtOf dbl) .div m (s.draw m) (opNat dbl (s.g a)) (opNat dbl (s.g b))
  ((s.stepLfsr m).deferF d (fpWord r.1) r.2).done

/-- FSQRT (R203): deferred, its flags with it (R212). -/
def execFsqrt (dbl : Bool) (rm : RM) (d a : Reg) (s : State) : Out :=
  let m := s.cx.mode rm
  let r := fpSqrt (fmtOf dbl) m (s.draw m) (opNat dbl (s.g a))
  ((s.stepLfsr m).deferF d (fpWord r.1) r.2).done

/-- FMIN (R204). -/
def execFmin (dbl : Bool) (d a b : Reg) (s : State) : Out :=
  s.fpDone d (fpMinMax (fmtOf dbl) false (opNat dbl (s.g a)) (opNat dbl (s.g b)))

/-- FMAX (R204). -/
def execFmax (dbl : Bool) (d a b : Reg) (s : State) : Out :=
  s.fpDone d (fpMinMax (fmtOf dbl) true (opNat dbl (s.g a)) (opNat dbl (s.g b)))

/-- FSGN (R205). -/
def execFsgn (dbl : Bool) (d a b : Reg) (s : State) : Out :=
  s.fpDone d (fpSgn (fmtOf dbl) .sgn (opNat dbl (s.g a)) (opNat dbl (s.g b)), fNone)

/-- FSGNN (R205). -/
def execFsgnn (dbl : Bool) (d a b : Reg) (s : State) : Out :=
  s.fpDone d (fpSgn (fmtOf dbl) .sgnn (opNat dbl (s.g a)) (opNat dbl (s.g b)), fNone)

/-- FSGNX (R205). -/
def execFsgnx (dbl : Bool) (d a b : Reg) (s : State) : Out :=
  s.fpDone d (fpSgn (fmtOf dbl) .sgnx (opNat dbl (s.g a)) (opNat dbl (s.g b)), fNone)

/-- A comparison's result with its flags (R206). -/
def State.fpCompare (s : State) (op : FCmpOp) (dbl : Bool) (d a b : Reg) : Out :=
  let r := fpCmp (fmtOf dbl) op (opNat dbl (s.g a)) (opNat dbl (s.g b))
  s.fpDone d (b2n r.1, r.2)

/-- FEQ (R206). -/
def execFeq (dbl : Bool) (d a b : Reg) (s : State) : Out := s.fpCompare .eq dbl d a b

/-- FLT (R206). -/
def execFlt (dbl : Bool) (d a b : Reg) (s : State) : Out := s.fpCompare .lt dbl d a b

/-- FLE (R206). -/
def execFle (dbl : Bool) (d a b : Reg) (s : State) : Out := s.fpCompare .le dbl d a b

/-- FCLASS (R207). -/
def execFclass (dbl : Bool) (d a : Reg) (s : State) : Out :=
  s.fpDone d (2 ^ fpClass (fmtOf dbl) (opNat dbl (s.g a)), fNone)

/-- A fused operation: the old value of gd is its third operand (R208). -/
def State.fpFused (s : State) (op : FmaOp) (dbl : Bool) (rm : RM) (d a b : Reg) : Out :=
  let m := s.cx.mode rm
  let r := fpFma (fmtOf dbl) op m (s.draw m) (opNat dbl (s.g a)) (opNat dbl (s.g b)) (opNat dbl (s.g d))
  (s.stepLfsr m).fpDone d r

/-- FMA (R208). -/
def execFma (dbl : Bool) (rm : RM) (d a b : Reg) (s : State) : Out := s.fpFused .fma dbl rm d a b

/-- FMS (R208). -/
def execFms (dbl : Bool) (rm : RM) (d a b : Reg) (s : State) : Out := s.fpFused .fms dbl rm d a b

/-- FNMA (R208). -/
def execFnma (dbl : Bool) (rm : RM) (d a b : Reg) (s : State) : Out := s.fpFused .fnma dbl rm d a b

/-- A destination's bits in a register: a 32-bit integer sign-extended, anything narrower than 64 bits zero-extended (R210). -/
def cvtWord (dst : Fmt) (x : Nat) : Word :=
  match dst with
  | .s32 | .u32 => ext32 (BitVec.ofNat 32 x)
  | _ => BitVec.ofNat 64 x

/-- CVT (R210). -/
def execCvt (ovf : Bool) (rm : RM) (dst src : Fmt) (d a : Reg) (s : State) : Out :=
  let m := s.cx.mode rm
  let r := convert ovf dst src m (s.draw m) (s.g a).toNat
  (((s.stepLfsr m).setG d (cvtWord dst r.1)).raise r.2).done

end Sys2Proof.Machine
end

