-- ==== Sys2Proof/Machine/Integer.lean ====
section
/-! DEFINITION. The integer instructions, majors 0x01 to 0x06 (05_integer R91 to R100): one definition per instruction over the shapes of
Operands.lean. -/

namespace Sys2Proof.Machine

/-- ADD (R96). -/
def execAdd (d a b : Reg) (s : State) : Out := s.bin d a b (fun u v => u + v)

/-- ADDW (R92, R96). -/
def execAddw (d a b : Reg) (s : State) : Out := s.binW d a b (fun u v => u + v)

/-- SUB (R96). -/
def execSub (d a b : Reg) (s : State) : Out := s.bin d a b (fun u v => u - v)

/-- SUBW (R92, R96). -/
def execSubw (d a b : Reg) (s : State) : Out := s.binW d a b (fun u v => u - v)

/-- MUL (R96). -/
def execMul (d a b : Reg) (s : State) : Out := s.bin d a b (fun u v => u * v)

/-- MULW (R92, R96). -/
def execMulw (d a b : Reg) (s : State) : Out := s.binW d a b (fun u v => u * v)

/-- MULH (R96). -/
def execMulh (d a b : Reg) (s : State) : Out := s.bin d a b mulHi

/-- MULHU (R96). -/
def execMulhu (d a b : Reg) (s : State) : Out := s.bin d a b mulHiU

/-- DIV (R96). -/
def execDiv (d a b : Reg) (s : State) : Out := s.bin d a b divS

/-- DIVW (R92, R96). -/
def execDivw (d a b : Reg) (s : State) : Out := s.binW d a b divS

/-- DIVU (R96). -/
def execDivu (d a b : Reg) (s : State) : Out := s.bin d a b divU

/-- DIVUW (R92, R96). -/
def execDivuw (d a b : Reg) (s : State) : Out := s.binW d a b divU

/-- REM (R96). -/
def execRem (d a b : Reg) (s : State) : Out := s.bin d a b remS

/-- REMW (R92, R96). -/
def execRemw (d a b : Reg) (s : State) : Out := s.binW d a b remS

/-- REMU (R96). -/
def execRemu (d a b : Reg) (s : State) : Out := s.bin d a b remU

/-- REMUW (R92, R96). -/
def execRemuw (d a b : Reg) (s : State) : Out := s.binW d a b remU

/-- AND (R96). -/
def execAnd (d a b : Reg) (s : State) : Out := s.bin d a b (fun u v => u &&& v)

/-- OR (R96). -/
def execOr (d a b : Reg) (s : State) : Out := s.bin d a b (fun u v => u ||| v)

/-- XOR (R96). -/
def execXor (d a b : Reg) (s : State) : Out := s.bin d a b (fun u v => u ^^^ v)

/-- ANDN (R96). -/
def execAndn (d a b : Reg) (s : State) : Out := s.bin d a b (fun u v => u &&& ~~~ v)

/-- SHL (R96). -/
def execShl (d a b : Reg) (s : State) : Out := s.bin d a b (fun u v => u <<< amount v)

/-- SHLW (R92, R96). -/
def execShlw (d a b : Reg) (s : State) : Out := s.binW d a b (fun u v => u <<< amount v)

/-- SHR (R96). -/
def execShr (d a b : Reg) (s : State) : Out := s.bin d a b (fun u v => u >>> amount v)

/-- SHRW (R92, R96). -/
def execShrw (d a b : Reg) (s : State) : Out := s.binW d a b (fun u v => u >>> amount v)

/-- SAR (R96). -/
def execSar (d a b : Reg) (s : State) : Out := s.bin d a b (fun u v => u.sshiftRight (amount v))

/-- SARW (R92, R96). -/
def execSarw (d a b : Reg) (s : State) : Out := s.binW d a b (fun u v => u.sshiftRight (amount v))

/-- ROTL (R96). -/
def execRotl (d a b : Reg) (s : State) : Out := s.bin d a b (fun u v => rotL u (amount v))

/-- ROTLW (R92, R96). -/
def execRotlw (d a b : Reg) (s : State) : Out := s.binW d a b (fun u v => rotL u (amount v))

/-- MIN (R96). -/
def execMin (d a b : Reg) (s : State) : Out := s.bin d a b (fun u v => if u.sle v then u else v)

/-- MAX (R96). -/
def execMax (d a b : Reg) (s : State) : Out := s.bin d a b (fun u v => if v.sle u then u else v)

/-- MINU (R96). -/
def execMinu (d a b : Reg) (s : State) : Out := s.bin d a b (fun u v => if u.ule v then u else v)

/-- MAXU (R96). -/
def execMaxu (d a b : Reg) (s : State) : Out := s.bin d a b (fun u v => if v.ule u then u else v)

/-- SEQ (R96). -/
def execSeq (d a b : Reg) (s : State) : Out := s.bin d a b (fun u v => flagWord (u == v))

/-- SLT (R96). -/
def execSlt (d a b : Reg) (s : State) : Out := s.bin d a b (fun u v => flagWord (u.slt v))

/-- SLTU (R96). -/
def execSltu (d a b : Reg) (s : State) : Out := s.bin d a b (fun u v => flagWord (u.ult v))

/-- CLZ (R96). -/
def execClz (d a : Reg) (s : State) : Out := s.un d a clzOf

/-- CLZW (R92, R96). -/
def execClzw (d a : Reg) (s : State) : Out := s.unW d a clzOf

/-- CTZ (R96). -/
def execCtz (d a : Reg) (s : State) : Out := s.un d a ctzOf

/-- CTZW (R92, R96). -/
def execCtzw (d a : Reg) (s : State) : Out := s.unW d a ctzOf

/-- POPC (R96). -/
def execPopc (d a : Reg) (s : State) : Out := s.un d a popOf

/-- POPCW (R92, R96). -/
def execPopcw (d a : Reg) (s : State) : Out := s.unW d a popOf

/-- BREV (R96). -/
def execBrev (d a : Reg) (s : State) : Out := s.un d a BitVec.reverse

/-- BREVW (R92, R96). -/
def execBrevw (d a : Reg) (s : State) : Out := s.unW d a BitVec.reverse

/-- BSWAP (R96). -/
def execBswap (d a : Reg) (s : State) : Out := s.un d a bswapOf

/-- BSWAPW (R92, R96). -/
def execBswapw (d a : Reg) (s : State) : Out := s.unW d a bswapOf

/-- SEXTB (R96). -/
def execSextb (d a : Reg) (s : State) : Out := s.un d a (fun u => (u.setWidth 8).signExtend 64)

/-- SEXTH (R96). -/
def execSexth (d a : Reg) (s : State) : Out := s.un d a (fun u => (u.setWidth 16).signExtend 64)

/-- CLMUL (R96). -/
def execClmul (d a b : Reg) (s : State) : Out := s.bin d a b (fun u v => clmOf u v 0)

/-- CLMULH (R96). -/
def execClmulh (d a b : Reg) (s : State) : Out := s.bin d a b (fun u v => clmOf u v 64)

/-- CLMULR (R96). -/
def execClmulr (d a b : Reg) (s : State) : Out := s.bin d a b (fun u v => clmOf u v 63)

/-- ADDI (R97). -/
def execAddi (d a : Reg) (imm : BitVec 12) (s : State) : Out := s.un d a (fun u => u + simm imm)

/-- SLTI (R97). -/
def execSlti (d a : Reg) (imm : BitVec 12) (s : State) : Out := s.un d a (fun u => flagWord (u.slt (simm imm)))

/-- SLTIU (R97). -/
def execSltiu (d a : Reg) (imm : BitVec 12) (s : State) : Out := s.un d a (fun u => flagWord (u.ult (simm imm)))

/-- ANDI (R97). -/
def execAndi (d a : Reg) (imm : BitVec 12) (s : State) : Out := s.un d a (fun u => u &&& simm imm)

/-- ORI (R97). -/
def execOri (d a : Reg) (imm : BitVec 12) (s : State) : Out := s.un d a (fun u => u ||| simm imm)

/-- XORI (R97). -/
def execXori (d a : Reg) (imm : BitVec 12) (s : State) : Out := s.un d a (fun u => u ^^^ simm imm)

/-- ADDIW (R97). -/
def execAddiw (d a : Reg) (imm : BitVec 12) (s : State) : Out := s.un d a (fun u => ext32 (lo32 u + lo32 (simm imm)))

/-- SHLI (R98). -/
def execShli (d a : Reg) (count : BitVec 6) (s : State) : Out := s.un d a (fun u => u <<< count.toNat)

/-- SHRI (R98). -/
def execShri (d a : Reg) (count : BitVec 6) (s : State) : Out := s.un d a (fun u => u >>> count.toNat)

/-- SARI (R98). -/
def execSari (d a : Reg) (count : BitVec 6) (s : State) : Out := s.un d a (fun u => u.sshiftRight count.toNat)

/-- ROTLI (R98). -/
def execRotli (d a : Reg) (count : BitVec 6) (s : State) : Out := s.un d a (fun u => rotL u count.toNat)

/-- SHLIW (R98). -/
def execShliw (d a : Reg) (count : BitVec 5) (s : State) : Out := s.unW d a (fun u => u <<< count.toNat)

/-- SHRIW (R98). -/
def execShriw (d a : Reg) (count : BitVec 5) (s : State) : Out := s.unW d a (fun u => u >>> count.toNat)

/-- SARIW (R98). -/
def execSariw (d a : Reg) (count : BitVec 5) (s : State) : Out := s.unW d a (fun u => u.sshiftRight count.toNat)

/-- LDHI (R99). -/
def execLdhi (d : Reg) (imm : BitVec 20) (s : State) : Out := (s.setG d (uimm imm)).done

/-- ADDPC (R99). -/
def execAddpc (d : Reg) (imm : BitVec 20) (s : State) : Out := (s.setG d (s.pc + uimm imm)).done

/-- SEL (R100): the destination is written only when the condition holds. -/
def execSel (c : SelCond) (d a b : Reg) (s : State) : Out :=
  if selCond c (s.g a) then (s.setG d (s.g b)).done else s.done

end Sys2Proof.Machine
end

