-- ==== Sys2Proof/Machine/Dispatch.lean ====
section
/-! DEFINITION. One arm per constructor of `Instr`: the direct call of its meaning, or a rejection by name. -/

namespace Sys2Proof.Machine

def exec (i : Instr) (s : State) : Host.Outcome State Fault Refusal :=
  match i with
  | .add d a b => Sys2Proof.Machine.execAdd d a b s
  | .addw d a b => Sys2Proof.Machine.execAddw d a b s
  | .sub d a b => Sys2Proof.Machine.execSub d a b s
  | .subw d a b => Sys2Proof.Machine.execSubw d a b s
  | .mul d a b => Sys2Proof.Machine.execMul d a b s
  | .mulw d a b => Sys2Proof.Machine.execMulw d a b s
  | .mulh d a b => Sys2Proof.Machine.execMulh d a b s
  | .mulhu d a b => Sys2Proof.Machine.execMulhu d a b s
  | .div d a b => Sys2Proof.Machine.execDiv d a b s
  | .divw d a b => Sys2Proof.Machine.execDivw d a b s
  | .divu d a b => Sys2Proof.Machine.execDivu d a b s
  | .divuw d a b => Sys2Proof.Machine.execDivuw d a b s
  | .rem d a b => Sys2Proof.Machine.execRem d a b s
  | .remw d a b => Sys2Proof.Machine.execRemw d a b s
  | .remu d a b => Sys2Proof.Machine.execRemu d a b s
  | .remuw d a b => Sys2Proof.Machine.execRemuw d a b s
  | .and d a b => Sys2Proof.Machine.execAnd d a b s
  | .or d a b => Sys2Proof.Machine.execOr d a b s
  | .xor d a b => Sys2Proof.Machine.execXor d a b s
  | .andn d a b => Sys2Proof.Machine.execAndn d a b s
  | .shl d a b => Sys2Proof.Machine.execShl d a b s
  | .shlw d a b => Sys2Proof.Machine.execShlw d a b s
  | .shr d a b => Sys2Proof.Machine.execShr d a b s
  | .shrw d a b => Sys2Proof.Machine.execShrw d a b s
  | .sar d a b => Sys2Proof.Machine.execSar d a b s
  | .sarw d a b => Sys2Proof.Machine.execSarw d a b s
  | .rotl d a b => Sys2Proof.Machine.execRotl d a b s
  | .rotlw d a b => Sys2Proof.Machine.execRotlw d a b s
  | .min d a b => Sys2Proof.Machine.execMin d a b s
  | .max d a b => Sys2Proof.Machine.execMax d a b s
  | .minu d a b => Sys2Proof.Machine.execMinu d a b s
  | .maxu d a b => Sys2Proof.Machine.execMaxu d a b s
  | .seq d a b => Sys2Proof.Machine.execSeq d a b s
  | .slt d a b => Sys2Proof.Machine.execSlt d a b s
  | .sltu d a b => Sys2Proof.Machine.execSltu d a b s
  | .clz d a => Sys2Proof.Machine.execClz d a s
  | .clzw d a => Sys2Proof.Machine.execClzw d a s
  | .ctz d a => Sys2Proof.Machine.execCtz d a s
  | .ctzw d a => Sys2Proof.Machine.execCtzw d a s
  | .popc d a => Sys2Proof.Machine.execPopc d a s
  | .popcw d a => Sys2Proof.Machine.execPopcw d a s
  | .brev d a => Sys2Proof.Machine.execBrev d a s
  | .brevw d a => Sys2Proof.Machine.execBrevw d a s
  | .bswap d a => Sys2Proof.Machine.execBswap d a s
  | .bswapw d a => Sys2Proof.Machine.execBswapw d a s
  | .sextb d a => Sys2Proof.Machine.execSextb d a s
  | .sexth d a => Sys2Proof.Machine.execSexth d a s
  | .clmul d a b => Sys2Proof.Machine.execClmul d a b s
  | .clmulh d a b => Sys2Proof.Machine.execClmulh d a b s
  | .clmulr d a b => Sys2Proof.Machine.execClmulr d a b s
  | .addi d a imm => Sys2Proof.Machine.execAddi d a imm s
  | .slti d a imm => Sys2Proof.Machine.execSlti d a imm s
  | .sltiu d a imm => Sys2Proof.Machine.execSltiu d a imm s
  | .andi d a imm => Sys2Proof.Machine.execAndi d a imm s
  | .ori d a imm => Sys2Proof.Machine.execOri d a imm s
  | .xori d a imm => Sys2Proof.Machine.execXori d a imm s
  | .addiw d a imm => Sys2Proof.Machine.execAddiw d a imm s
  | .shli d a count => Sys2Proof.Machine.execShli d a count s
  | .shri d a count => Sys2Proof.Machine.execShri d a count s
  | .sari d a count => Sys2Proof.Machine.execSari d a count s
  | .rotli d a count => Sys2Proof.Machine.execRotli d a count s
  | .shliw d a count => Sys2Proof.Machine.execShliw d a count s
  | .shriw d a count => Sys2Proof.Machine.execShriw d a count s
  | .sariw d a count => Sys2Proof.Machine.execSariw d a count s
  | .ldhi d imm => Sys2Proof.Machine.execLdhi d imm s
  | .addpc d imm => Sys2Proof.Machine.execAddpc d imm s
  | .sel c d a b => Sys2Proof.Machine.execSel c d a b s
  | .skip h c a b n => Sys2Proof.Machine.execSkip h c a b n s
  | .beq h a b off => Sys2Proof.Machine.execBeq h a b off s
  | .bne h a b off => Sys2Proof.Machine.execBne h a b off s
  | .blt h a b off => Sys2Proof.Machine.execBlt h a b off s
  | .bge h a b off => Sys2Proof.Machine.execBge h a b off s
  | .bltu h a b off => Sys2Proof.Machine.execBltu h a b off s
  | .bgeu h a b off => Sys2Proof.Machine.execBgeu h a b off s
  | .bbs h a b off => Sys2Proof.Machine.execBbs h a b off s
  | .bbc h a b off => Sys2Proof.Machine.execBbc h a b off s
  | .beqz h a off => Sys2Proof.Machine.execBeqz h a off s
  | .bnez h a off => Sys2Proof.Machine.execBnez h a off s
  | .bltz h a off => Sys2Proof.Machine.execBltz h a off s
  | .bgez h a off => Sys2Proof.Machine.execBgez h a off s
  | .bgtz h a off => Sys2Proof.Machine.execBgtz h a off s
  | .blez h a off => Sys2Proof.Machine.execBlez h a off s
  | .j off => Sys2Proof.Machine.execJ off s
  | .call off => Sys2Proof.Machine.execCall off s
  | .callr a imm => Sys2Proof.Machine.execCallr a imm s
  | .jr a imm => Sys2Proof.Machine.execJr a imm s
  | .ret => Sys2Proof.Machine.execRet s
  | .start n d a => Sys2Proof.Machine.execStart n d a s
  | .startRes n => Sys2Proof.Machine.execStartRes n s
  | .stoph n => Sys2Proof.Machine.execStoph n s
  | .yield => Sys2Proof.Machine.execYield s
  | .nret => Sys2Proof.Machine.execNret s
  | .setnh d a => Sys2Proof.Machine.execSetnh d a s
  | .rdsr d r => Sys2Proof.Machine.execRdsr d r s
  | .wrsr a r => Sys2Proof.Machine.execWrsr a r s
  | .ldb d a imm => Sys2Proof.Machine.execLdb d a imm s
  | .ldh d a imm => Sys2Proof.Machine.execLdh d a imm s
  | .ldw d a imm => Sys2Proof.Machine.execLdw d a imm s
  | .ldd d a imm => Sys2Proof.Machine.execLdd d a imm s
  | .ldbu d a imm => Sys2Proof.Machine.execLdbu d a imm s
  | .ldhu d a imm => Sys2Proof.Machine.execLdhu d a imm s
  | .ldwu d a imm => Sys2Proof.Machine.execLdwu d a imm s
  | .pref a imm => Sys2Proof.Machine.execPref a imm s
  | .stb d a imm => Sys2Proof.Machine.execStb d a imm s
  | .sth d a imm => Sys2Proof.Machine.execSth d a imm s
  | .stw d a imm => Sys2Proof.Machine.execStw d a imm s
  | .std d a imm => Sys2Proof.Machine.execStd d a imm s
  | .ldxB d a b => Sys2Proof.Machine.execLdxB d a b s
  | .ldxH d a b => Sys2Proof.Machine.execLdxH d a b s
  | .ldxW d a b => Sys2Proof.Machine.execLdxW d a b s
  | .ldxD d a b => Sys2Proof.Machine.execLdxD d a b s
  | .ldxBu d a b => Sys2Proof.Machine.execLdxBu d a b s
  | .ldxHu d a b => Sys2Proof.Machine.execLdxHu d a b s
  | .ldxWu d a b => Sys2Proof.Machine.execLdxWu d a b s
  | .stxB d a b => Sys2Proof.Machine.execStxB d a b s
  | .stxH d a b => Sys2Proof.Machine.execStxH d a b s
  | .stxW d a b => Sys2Proof.Machine.execStxW d a b s
  | .stxD d a b => Sys2Proof.Machine.execStxD d a b s
  | .rcinv => Sys2Proof.Machine.execRcinv s
  | .rcinvRange a b => Sys2Proof.Machine.execRcinvRange a b s
  | .amoadd dbl ord d a b => Sys2Proof.Machine.execAmoadd dbl ord d a b s
  | .amoand dbl ord d a b => Sys2Proof.Machine.execAmoand dbl ord d a b s
  | .amoor dbl ord d a b => Sys2Proof.Machine.execAmoor dbl ord d a b s
  | .amoxor dbl ord d a b => Sys2Proof.Machine.execAmoxor dbl ord d a b s
  | .amomin dbl ord d a b => Sys2Proof.Machine.execAmomin dbl ord d a b s
  | .amomax dbl ord d a b => Sys2Proof.Machine.execAmomax dbl ord d a b s
  | .amominu dbl ord d a b => Sys2Proof.Machine.execAmominu dbl ord d a b s
  | .amomaxu dbl ord d a b => Sys2Proof.Machine.execAmomaxu dbl ord d a b s
  | .amoswap dbl ord d a b => Sys2Proof.Machine.execAmoswap dbl ord d a b s
  | .amocas dbl ord d a b => Sys2Proof.Machine.execAmocas dbl ord d a b s
  | .amofadd dbl ord d a b => Sys2Proof.Machine.execAmofadd dbl ord d a b s
  | .amofmin dbl ord d a b => Sys2Proof.Machine.execAmofmin dbl ord d a b s
  | .amofmax dbl ord d a b => Sys2Proof.Machine.execAmofmax dbl ord d a b s
  | .amoaddNr dbl rl a b => Sys2Proof.Machine.execAmoaddNr dbl rl a b s
  | .amoandNr dbl rl a b => Sys2Proof.Machine.execAmoandNr dbl rl a b s
  | .amoorNr dbl rl a b => Sys2Proof.Machine.execAmoorNr dbl rl a b s
  | .amoxorNr dbl rl a b => Sys2Proof.Machine.execAmoxorNr dbl rl a b s
  | .amominNr dbl rl a b => Sys2Proof.Machine.execAmominNr dbl rl a b s
  | .amomaxNr dbl rl a b => Sys2Proof.Machine.execAmomaxNr dbl rl a b s
  | .amominuNr dbl rl a b => Sys2Proof.Machine.execAmominuNr dbl rl a b s
  | .amomaxuNr dbl rl a b => Sys2Proof.Machine.execAmomaxuNr dbl rl a b s
  | .amofaddNr dbl rl a b => Sys2Proof.Machine.execAmofaddNr dbl rl a b s
  | .amofminNr dbl rl a b => Sys2Proof.Machine.execAmofminNr dbl rl a b s
  | .amofmaxNr dbl rl a b => Sys2Proof.Machine.execAmofmaxNr dbl rl a b s
  | .amergeAdd dbl k a b => Sys2Proof.Machine.execAmergeAdd dbl k a b s
  | .amergeFadd dbl k a b => Sys2Proof.Machine.execAmergeFadd dbl k a b s
  | .lda z d a => Sys2Proof.Machine.execLda z d a s
  | .stl z d a => Sys2Proof.Machine.execStl z d a s
  | .fenceAcq c => Sys2Proof.Machine.execFenceAcq c s
  | .fenceRel c => Sys2Proof.Machine.execFenceRel c s
  | .fenceFull c => Sys2Proof.Machine.execFenceFull c s
  | .put a b => Sys2Proof.Machine.execPut a b s
  | .putc d a b => Sys2Proof.Machine.execPutc d a b s
  | .get d a b => Sys2Proof.Machine.execGet d a b s
  | .cinc d a b => Sys2Proof.Machine.execCinc d a b s
  | .cget d a => Sys2Proof.Machine.execCget d a s
  | .waitc a b => Sys2Proof.Machine.execWaitc a b s
  | .wtarm d a b => Sys2Proof.Machine.execWtarm d a b s
  | .send d a b => Sys2Proof.Machine.execSend d a b s
  | .recv d a b => Sys2Proof.Machine.execRecv d a b s
  | .fadd dbl rm d a b => Sys2Proof.Machine.execFadd dbl rm d a b s
  | .fsub dbl rm d a b => Sys2Proof.Machine.execFsub dbl rm d a b s
  | .fmul dbl rm d a b => Sys2Proof.Machine.execFmul dbl rm d a b s
  | .fdiv dbl rm d a b => Sys2Proof.Machine.execFdiv dbl rm d a b s
  | .fsqrt dbl rm d a => Sys2Proof.Machine.execFsqrt dbl rm d a s
  | .fmin dbl d a b => Sys2Proof.Machine.execFmin dbl d a b s
  | .fmax dbl d a b => Sys2Proof.Machine.execFmax dbl d a b s
  | .fsgn dbl d a b => Sys2Proof.Machine.execFsgn dbl d a b s
  | .fsgnn dbl d a b => Sys2Proof.Machine.execFsgnn dbl d a b s
  | .fsgnx dbl d a b => Sys2Proof.Machine.execFsgnx dbl d a b s
  | .feq dbl d a b => Sys2Proof.Machine.execFeq dbl d a b s
  | .flt dbl d a b => Sys2Proof.Machine.execFlt dbl d a b s
  | .fle dbl d a b => Sys2Proof.Machine.execFle dbl d a b s
  | .fclass dbl d a => Sys2Proof.Machine.execFclass dbl d a s
  | .fma dbl rm d a b => Sys2Proof.Machine.execFma dbl rm d a b s
  | .fms dbl rm d a b => Sys2Proof.Machine.execFms dbl rm d a b s
  | .fnma dbl rm d a b => Sys2Proof.Machine.execFnma dbl rm d a b s
  | .cvt ovf rm dst src d a => Sys2Proof.Machine.execCvt ovf rm dst src d a s
  | .vld w vd m => Sys2Proof.Machine.execVld w vd m s
  | .vst w vd m => Sys2Proof.Machine.execVst w vd m s
  | .vlds w vd m => Sys2Proof.Machine.execVlds w vd m s
  | .vsts w vd m => Sys2Proof.Machine.execVsts w vd m s
  | .vldx w vd vb m => Sys2Proof.Machine.execVldx w vd vb m s
  | .vstx w vd vb m => Sys2Proof.Machine.execVstx w vd vb m s
  | .vldbc w vd m => Sys2Proof.Machine.execVldbc w vd m s
  | .vstm w vd m => Sys2Proof.Machine.execVstm w vd m s
  | .vadd w m vd va vb => Sys2Proof.Machine.execVadd w m vd va vb s
  | .vsub w m vd va vb => Sys2Proof.Machine.execVsub w m vd va vb s
  | .vmul w m vd va vb => Sys2Proof.Machine.execVmul w m vd va vb s
  | .vmulh w m vd va vb => Sys2Proof.Machine.execVmulh w m vd va vb s
  | .vmac w m vd va vb => Sys2Proof.Machine.execVmac w m vd va vb s
  | .vmin w m vd va vb => Sys2Proof.Machine.execVmin w m vd va vb s
  | .vmax w m vd va vb => Sys2Proof.Machine.execVmax w m vd va vb s
  | .vminu w m vd va vb => Sys2Proof.Machine.execVminu w m vd va vb s
  | .vmaxu w m vd va vb => Sys2Proof.Machine.execVmaxu w m vd va vb s
  | .vand w m vd va vb => Sys2Proof.Machine.execVand w m vd va vb s
  | .vor w m vd va vb => Sys2Proof.Machine.execVor w m vd va vb s
  | .vxor w m vd va vb => Sys2Proof.Machine.execVxor w m vd va vb s
  | .vshl w m vd va vb => Sys2Proof.Machine.execVshl w m vd va vb s
  | .vshr w m vd va vb => Sys2Proof.Machine.execVshr w m vd va vb s
  | .vsar w m vd va vb => Sys2Proof.Machine.execVsar w m vd va vb s
  | .vclmul w m vd va vb => Sys2Proof.Machine.execVclmul w m vd va vb s
  | .vclmulh w m vd va vb => Sys2Proof.Machine.execVclmulh w m vd va vb s
  | .vpopc w m vd va => Sys2Proof.Machine.execVpopc w m vd va s
  | .vfadd dbl rm m vd va vb => Sys2Proof.Machine.execVfadd dbl rm m vd va vb s
  | .vfsub dbl rm m vd va vb => Sys2Proof.Machine.execVfsub dbl rm m vd va vb s
  | .vfmul dbl rm m vd va vb => Sys2Proof.Machine.execVfmul dbl rm m vd va vb s
  | .vfma dbl rm m vd va vb => Sys2Proof.Machine.execVfma dbl rm m vd va vb s
  | .vfmin dbl m vd va vb => Sys2Proof.Machine.execVfmin dbl m vd va vb s
  | .vfmax dbl m vd va vb => Sys2Proof.Machine.execVfmax dbl m vd va vb s
  | .vfdiv dbl rm m vd va vb => Sys2Proof.Machine.execVfdiv dbl rm m vd va vb s
  | .vfsqrt dbl rm m vd va => Sys2Proof.Machine.execVfsqrt dbl rm m vd va s
  | .vcmp c w m k va vb => Sys2Proof.Machine.execVcmp c w m k va vb s
  | .vfcmp c dbl m k va vb => Sys2Proof.Machine.execVfcmp c dbl m k va vb s
  | .vsel w vd va vb m => Sys2Proof.Machine.execVsel w vd va vb m s
  | .vbcast w vd m => Sys2Proof.Machine.execVbcast w vd m s
  | .vext w m va hi lo => Sys2Proof.Machine.execVext w m va hi lo s
  | .vins w vd m hi lo => Sys2Proof.Machine.execVins w vd m hi lo s
  | .vperm w vd va vb => Sys2Proof.Machine.execVperm w vd va vb s
  | .vslide w vd va m => Sys2Proof.Machine.execVslide w vd va m s
  | .vred op w vd va => Sys2Proof.Machine.execVred op w vd va s
  | .vcvt ovf m dst src vd va => Sys2Proof.Machine.execVcvt ovf m dst src vd va s
  | .vmxs f vd va => Sys2Proof.Machine.execVmxs f vd va s
  | .vmxq f vd va vb => Sys2Proof.Machine.execVmxq f vd va vb s
  | .vmxd f vd va vb => Sys2Proof.Machine.execVmxd f vd va vb s
  | .vdot fp m vd va vb => Sys2Proof.Machine.execVdot fp m vd va vb s
  | .rpt count len stride => Sys2Proof.Machine.execRpt count len stride s
  | .mfmt k a => Sys2Proof.Machine.execMfmt k a s
  | .mzero k x => Sys2Proof.Machine.execMzero k x s
  | .mma k x a b => Sys2Proof.Machine.execMma k x a b s
  | .mmas k x a b => Sys2Proof.Machine.execMmas k x a b s
  | .mldc k x a b => Sys2Proof.Machine.execMldc k x a b s
  | .mstc k x a b => Sys2Proof.Machine.execMstc k x a b s
  | .mprog k f32 a => Sys2Proof.Machine.execMprog k f32 a s
  | .mrec k x a b => Sys2Proof.Machine.execMrec k x a b s
  | .mtlist k x a => Sys2Proof.Machine.execMtlist k x a s
  | .mpop d => Sys2Proof.Machine.execMpop d s
  | .aand d a b => Sys2Proof.Machine.execAand d a b s
  | .aor d a b => Sys2Proof.Machine.execAor d a b s
  | .axor d a b => Sys2Proof.Machine.execAxor d a b s
  | .anor d a b => Sys2Proof.Machine.execAnor d a b s
  | .anand d a b => Sys2Proof.Machine.execAnand d a b s
  | .axnor d a b => Sys2Proof.Machine.execAxnor d a b s
  | .anot d a => Sys2Proof.Machine.execAnot d a s
  | .acopy d a => Sys2Proof.Machine.execAcopy d a s
  | .afadd d a b => Sys2Proof.Machine.execAfadd d a b s
  | .afsub d a b => Sys2Proof.Machine.execAfsub d a b s
  | .aldp m a => Sys2Proof.Machine.execAldp m a s
  | .aldc m a => Sys2Proof.Machine.execAldc m a s
  | .astp d => Sys2Proof.Machine.execAstp d s
  | .astc d => Sys2Proof.Machine.execAstc d s
  | .ashl d a => Sys2Proof.Machine.execAshl d a s
  | .ashr d a => Sys2Proof.Machine.execAshr d a s
  | .aadd w d a b => Sys2Proof.Machine.execAadd w d a b s
  | .asub w d a b => Sys2Proof.Machine.execAsub w d a b s
  | .amul w d a b => Sys2Proof.Machine.execAmul w d a b s
  | .amac w d a b => Sys2Proof.Machine.execAmac w d a b s
  | .acmplt w d a b => Sys2Proof.Machine.execAcmplt w d a b s
  | .amax w d a b => Sys2Proof.Machine.execAmax w d a b s
  | .aneg w d a => Sys2Proof.Machine.execAneg w d a s
  | .aabs w d a => Sys2Proof.Machine.execAabs w d a s
  | .aadds w d a b => Sys2Proof.Machine.execAadds w d a b s
  | .asubs w d a b => Sys2Proof.Machine.execAsubs w d a b s
  | .asel a => Sys2Proof.Machine.execAsel a s
  | .asetrb a => Sys2Proof.Machine.execAsetrb a s
  | .axin a b => Sys2Proof.Machine.execAxin a b s
  | .axout a b => Sys2Proof.Machine.execAxout a b s
  | .adot => Sys2Proof.Machine.execAdot s
  | .abuf va => Sys2Proof.Machine.execAbuf va s
  | .aout vd b => Sys2Proof.Machine.execAout vd b s
  | .achk a => Sys2Proof.Machine.execAchk a s
  | .await => Sys2Proof.Machine.execAwait s
  | .dreg a => Sys2Proof.Machine.execDreg a s
  | .dunreg f a => Sys2Proof.Machine.execDunreg f a s
  | .dstat d a => Sys2Proof.Machine.execDstat d a s
  | .dfresh a b => Sys2Proof.Machine.execDfresh a b s
  | .tkenq a b => Sys2Proof.Machine.execTkenq a b s
  | .tkenqn d a b => Sys2Proof.Machine.execTkenqn d a b s
  | .tkpop d b => Sys2Proof.Machine.execTkpop d b s
  | .tksteal d a b => Sys2Proof.Machine.execTksteal d a b s
  | .tkdone => Sys2Proof.Machine.execTkdone s
  | .tkdepth d a => Sys2Proof.Machine.execTkdepth d a s
  | .tkqcfg d a b => Sys2Proof.Machine.execTkqcfg d a b s
  | .lapv op e a => Sys2Proof.Machine.execLapv op e a s
  | .lapw d => Sys2Proof.Machine.execLapw d s
  | .ecpy n d a b => Sys2Proof.Machine.execEcpy n d a b s
  | .ecpy2 n a b => Sys2Proof.Machine.execEcpy2 n a b s
  | .egath n a b => Sys2Proof.Machine.execEgath n a b s
  | .escat n a b => Sys2Proof.Machine.execEscat n a b s
  | .efill n d a b => Sys2Proof.Machine.execEfill n d a b s
  | .eovl n a b => Sys2Proof.Machine.execEovl n a b s
  | .epin d a => Sys2Proof.Machine.execEpin d a s
  | .eunpin a => Sys2Proof.Machine.execEunpin a s
  | .ebulk n a b => Sys2Proof.Machine.execEbulk n a b s
  | .epop d => Sys2Proof.Machine.execEpop d s
  | .estat d => Sys2Proof.Machine.execEstat d s
  | .nrprog a => Sys2Proof.Machine.execNrprog a s
  | .nrrun a => Sys2Proof.Machine.execNrrun a s
  | .nrstat d => Sys2Proof.Machine.execNrstat d s
  | .nrwait d => Sys2Proof.Machine.execNrwait d s
  | .trap a => Sys2Proof.Machine.execTrap a s
  | .eret => Sys2Proof.Machine.execEret s
  | .tlbinv a b => Sys2Proof.Machine.execTlbinv a b s
  | .genadv d a => Sys2Proof.Machine.execGenadv d a s
  | .genadvFloor a b => Sys2Proof.Machine.execGenadvFloor a b s
  | .cbswap n a => Sys2Proof.Machine.execCbswap n a s
  | .cbswapSeal n => Sys2Proof.Machine.execCbswapSeal n s
  | .cbswapUnit a => Sys2Proof.Machine.execCbswapUnit a s
  | .stopc a => Sys2Proof.Machine.execStopc a s
  | .bkpt => Sys2Proof.Machine.execBkpt s
  | .haltc => Sys2Proof.Machine.execHaltc s
  | .frsWrite v => Sys2Proof.Machine.execFrsWrite v s
  | .frbWrite v => Sys2Proof.Machine.execFrbWrite v s
  | .srseedWrite v => Sys2Proof.Machine.execSrseedWrite v s
  | .msgctlCclr => Sys2Proof.Machine.execMsgctlCclr s
  | .plcfgWrite v => Sys2Proof.Machine.execPlcfgWrite v s
  | .nmctlArm => Sys2Proof.Machine.execNmctlArm s
  | .nmctlKey key => Sys2Proof.Machine.execNmctlKey key s
  | .nmctlCommit => Sys2Proof.Machine.execNmctlCommit s
  | .nmctlExit => Sys2Proof.Machine.execNmctlExit s
  | .nmctlCancel => Sys2Proof.Machine.execNmctlCancel s
  | .enterNear u => Sys2Proof.Machine.execEnterNear u s
  | .trctlWrite v => Sys2Proof.Machine.execTrctlWrite v s
  | .hendRead d => Sys2Proof.Machine.execHendRead d s
  | .hdeadRead d => Sys2Proof.Machine.execHdeadRead d s
  | .errlogRead d => Sys2Proof.Machine.execErrlogRead d s
  | .park u c => Sys2Proof.Machine.execPark u c s
  | .implicitPark u c => Sys2Proof.Machine.execImplicitPark u c s
  | .helperCodeAbsent u c => Sys2Proof.Machine.execHelperCodeAbsent u c s
  | .redispatch u c => Sys2Proof.Machine.execRedispatch u c s
  | .replayPass u => Sys2Proof.Machine.execReplayPass u s
  | .replayResume u c => Sys2Proof.Machine.execReplayResume u c s
  | .vectorExecute u => Sys2Proof.Machine.execVectorExecute u s
  | .matrixGrant k => Sys2Proof.Machine.execMatrixGrant k s
  | .matrixStopBoundary u lid => Sys2Proof.Machine.execMatrixStopBoundary u lid s
  | .arrayExecute sl => Sys2Proof.Machine.execArrayExecute sl s
  | .arrayHeldAccess r => Sys2Proof.Machine.execArrayHeldAccess r s
  | .arrayHalt sl lid => Sys2Proof.Machine.execArrayHalt sl lid s
  | .homeLoad r => Sys2Proof.Machine.execHomeLoad r s
  | .homeStore r => Sys2Proof.Machine.execHomeStore r s
  | .homeAtomic r => Sys2Proof.Machine.execHomeAtomic r s
  | .readCacheFill u asid va pa => Sys2Proof.Machine.execReadCacheFill u asid va pa s
  | .pageWalk u c va store => Sys2Proof.Machine.execPageWalk u c va store s
  | .tlbInvalidateRequest u va ctl => Sys2Proof.Machine.execTlbInvalidateRequest u va ctl s
  | .genAdvanceRequest u asid gen => Sys2Proof.Machine.execGenAdvanceRequest u asid gen s
  | .mergeContribution r => Sys2Proof.Machine.execMergeContribution r s
  | .mergeRetry r => Sys2Proof.Machine.execMergeRetry r s
  | .putDeliver r => Sys2Proof.Machine.execPutDeliver r s
  | .getServe r => Sys2Proof.Machine.execGetServe r s
  | .counterIncrement core cnt amount => Sys2Proof.Machine.execCounterIncrement core cnt amount s
  | .handOffRetry core => Sys2Proof.Machine.execHandOffRetry core s
  | .messageDeposit r => Sys2Proof.Machine.execMessageDeposit r s
  | .messageRetry core => Sys2Proof.Machine.execMessageRetry core s
  | .quiescenceDetect lid => Sys2Proof.Machine.execQuiescenceDetect lid s
  | .taskAccept r => Sys2Proof.Machine.execTaskAccept r s
  | .beaconResend home => Sys2Proof.Machine.execBeaconResend home s
  | .enqueueRetry u c => Sys2Proof.Machine.execEnqueueRetry u c s
  | .spillRefill home q => Sys2Proof.Machine.execSpillRefill home q s
  | .popDecide u c bind id => Sys2Proof.Machine.execPopDecide u c bind id s
  | .stealDecide u c sel bind id => Sys2Proof.Machine.execStealDecide u c sel bind id s
  | .taskComplete home q ticket => Sys2Proof.Machine.execTaskComplete home q ticket s
  | .priorityAging home q ticket => Sys2Proof.Machine.execPriorityAging home q ticket s
  | .lapVoteArrive lid u op e v => Sys2Proof.Machine.execLapVoteArrive lid u op e v s
  | .lapClose lid => Sys2Proof.Machine.execLapClose lid s
  | .engineCommandBegin u => Sys2Proof.Machine.execEngineCommandBegin u s
  | .engineCommandComplete u => Sys2Proof.Machine.execEngineCommandComplete u s
  | .bulkCommand u => Sys2Proof.Machine.execBulkCommand u s
  | .engineSuspend u => Sys2Proof.Machine.execEngineSuspend u s
  | .staleMark tile => Sys2Proof.Machine.execStaleMark tile s
  | .baseWriteRelease r => Sys2Proof.Machine.execBaseWriteRelease r s
  | .recompute tile => Sys2Proof.Machine.execRecompute tile s
  | .dfreshRequest u c tile => Sys2Proof.Machine.execDfreshRequest u c tile s
  | .rowSlot p => Sys2Proof.Machine.execRowSlot p s
  | .arbitrationWindow p => Sys2Proof.Machine.execArbitrationWindow p s
  | .streamSuspend p => Sys2Proof.Machine.execStreamSuspend p s
  | .stopArrival u lid => Sys2Proof.Machine.execStopArrival u lid s
  | .unitWatchdog u lid => Sys2Proof.Machine.execUnitWatchdog u lid s
  | .launchResume lid => Sys2Proof.Machine.execLaunchResume lid s
  | .handOffTaskStart u => Sys2Proof.Machine.execHandOffTaskStart u s
  | .nearModeTaskGrant p bind => Sys2Proof.Machine.execNearModeTaskGrant p bind s
  | .launchRecordPost port off bytes => Sys2Proof.Machine.execLaunchRecordPost port off bytes s
  | .launchStart => Sys2Proof.Machine.execLaunchStart s
  | .launchRecordAging q idx => Sys2Proof.Machine.execLaunchRecordAging q idx s
  | .completionWrite q => Sys2Proof.Machine.execCompletionWrite q s
  | .crheadWrite q v => Sys2Proof.Machine.execCrheadWrite q v s
  | .lqcfgWrite q dw v => Sys2Proof.Machine.execLqcfgWrite q dw v s
  | .lstopWrite lid => Sys2Proof.Machine.execLstopWrite lid s
  | .pwrlimWrite v => Sys2Proof.Machine.execPwrlimWrite v s
  | .herrClear v => Sys2Proof.Machine.execHerrClear v s
  | .dropcntWrite v => Sys2Proof.Machine.execDropcntWrite v s
  | .hostAccess port bar off op => Sys2Proof.Machine.execHostAccess port bar off op s
  | .hostReadTimeout r => Sys2Proof.Machine.execHostReadTimeout r s
  | .attestationRequest nonce => Sys2Proof.Machine.execAttestationRequest nonce s
  | .quoteComplete quote => Sys2Proof.Machine.execQuoteComplete quote s
  | .flitReceive port good reqs => Sys2Proof.Machine.execFlitReceive port good reqs s
  | .linkRetrain port => Sys2Proof.Machine.execLinkRetrain port s
  | .mirrorRecord bytes lid => Sys2Proof.Machine.execMirrorRecord bytes lid s
  | .deviceReset => Sys2Proof.Machine.execDeviceReset s
  | .bootStageAdvance verified => Sys2Proof.Machine.execBootStageAdvance verified s
  | .fullServiceTransition => Sys2Proof.Machine.execFullServiceTransition s
  | .powerControl watts => Sys2Proof.Machine.execPowerControl watts s
  | .scrub u src addr corrected => Sys2Proof.Machine.execScrub u src addr corrected s
  | .unitDisable x => Sys2Proof.Machine.execUnitDisable x s
  | .beaconArrival dir b retract => Sys2Proof.Machine.execBeaconArrival dir b retract s
  | .generationFloorRequest home asid floor => Sys2Proof.Machine.execGenerationFloorRequest home asid floor s
  | .linkRetrainingEnd port lanes => Sys2Proof.Machine.execLinkRetrainingEnd port lanes s

end Sys2Proof.Machine
end

