-- ==== Sys2Proof/Machine/Fetch.lean ====
section
/-! DEFINITION. The issue of a context's next word: who may issue (04_contexts R63, R68), the fetch and the checks before a word's own
(03_encoding R59, R47), and the count of a segment (R64). -/

namespace Sys2Proof.Machine

/-- A context is to issue a word now: it is ready and at no park; it is the one its unit issues from, or the next where that one is not
ready (R68). -/
def State.issueReady (s : State) (u c : Nat) : Bool :=
  let x := s.ctx u c
  let k := (s.unit u).cur
  s.ready u c && ! x.parking && ! x.asleep && s.unitOn u && (c == k || (! s.ready u k && c == s.nextCtx u k))

/-- The unit and context whose word is issued, and how its accesses are performed. -/
def State.focus (s : State) (u c : Nat) (async : Bool) : State :=
  { (s.modUnit u fun x => { x with cur := c }) with cur := u, async := async }

/-- What the fetch of a word gives: the word, or a state in which it was not issued. -/
inductive Fetched where
  | done (s : State)
  | word (s : State) (w : Word32)

/-- The fills of R70 before a first issue, then the fetch of check 1 (R59). -/
def issueFetch (s : State) : Fetched :=
  if s.fillWaits s.cur s.c 2 then .done s else
  match s.fillResident s.cur s.c 2 with
  | (s1, some e) => .done (s1.trapAt e.1 e.2)
  | (s1, none) =>
    match s1.fetchAt s1.cur s1.c s1.pc with
    | some w => .word s1 w
    | none => .done (s1.codeAbsent s1.pc)

/-- The word enters issue (R59, R64): it counts toward the segment, unless it has parked first already and issues again; its marker or
the 256th place makes a park due; it rearms the detector of its launch (R183). -/
def State.loadWord (s : State) (w : Word32) (mark : Bool) : State :=
  ((s.modU fun x => { x with word := w }).modC fun x =>
    { x with
      seg := if x.parked then x.seg else x.seg + 1
      holding := false
      resuming := false
      parking := mark || decide (255 ≤ x.seg) }).modLaunch s.cx.lid fun l => { l with stalled := false }

/-- A word's profile executes it by its major (R55, R75). -/
def State.majorRuns (s : State) (w : Word32) : Bool :=
  let m := (fldMajor w).toNat
  if 0x18 ≤ m ∧ m ≤ 0x1E then s.cx.ve
  else if m = 0x20 then s.kind == .far
  else if 0x24 ≤ m ∧ m ≤ 0x26 then s.kind == .slice
  else if m = 0x2A then s.kind == .stack
  else true

/-- Check 3 or check 4 of R59 stops a word: its profile or its level (R55 to R57). -/
def State.barred (s : State) (w : Word32) (i : Instr) : Bool :=
  let user : Bool := s.cx.priv == .u
  ! s.majorRuns w ||
    match i with
    | .cget _ _ | .waitc _ _ | .wtarm _ _ _ | .recv _ _ _ => s.kind != .far
    | .start n _ _ | .startRes n | .stoph n | .cbswap n _ | .cbswapSeal n => ! s.hasHelper n || user
    | .tkpop _ _ => s.kind == .far || user
    | .tksteal _ _ _ => s.kind != .far || user
    | .tkqcfg _ _ _ | .eret | .haltc | .tlbinv _ _ | .genadv _ _ | .genadvFloor _ _ | .cbswapUnit _ | .stopc _ => user
    | _ => false

/-- The check of a word's results (R412), of one that its profile and its level let execute (R59): a mismatch is logged with the word's
address, and a second one traps UNCORR precisely at the word, with TVAL 0 and none of its effect. -/
def State.checked (s : State) (barred : Bool) (act : State → Out) : Out :=
  match (if barred then none else s.upsetAt .scalar s.cur) with
  | none => act s
  | some uc =>
    let s1 := s.logErr s.cur .scalar (s.pc.setWidth 52) (! uc)
    if uc then s1.trap .uncorr 0#64 else act s1

/-- The event by which a posted access is performed (`noncomputable` as in Decode.lean). -/
noncomputable def eventOf (r : Req) : Instr :=
  match r.act with
  | .load _ _ _ => .homeLoad r
  | .store _ _ | .cinc _ _ | .spill _ => .homeStore r
  | .atomic _ _ _ _ _ => .homeAtomic r
  | .merge _ _ _ _ => .mergeContribution r
  | .put _ _ => .putDeliver r
  | .get _ _ _ => .getServe r
  | .send _ _ => .messageDeposit r
  | .enqueue _ _ _ _ => .taskAccept r

/-- The event by which something sent arrives. -/
noncomputable def arrivalOf : Posted → Instr
  | .complete h q ticket => .taskComplete h q ticket
  | .vote lid u v => .lapVoteArrive lid u v.op v.e v.v
  | .pop u c bind id => .popDecide u c bind id
  | .steal u c sel bind id => .stealDecide u c sel bind id

/-- The units that have been touched. -/
def State.known (s : State) : List Nat := s.units.map Prod.fst

/-- What a stop asks of the units that have not acknowledged it (R266, R291, R365, R380). -/
noncomputable def State.stopEvents (s : State) : List Instr :=
  (s.launches.filter fun l => l.stopped).flatMap fun l => l.owing.flatMap fun u =>
    [.engineSuspend u, .matrixStopBoundary u l.lid]
      ++ (match kindOf u with
          | .far => []
          | .slice => [.arrayHalt (u - Config.sliceUnit0) l.lid]
          | .stack => [.streamSuspend (u - Config.stackUnit0)])

/-- What a unit's queues may do. -/
noncomputable def unitEvents (u : Nat) : List Instr :=
  [.vectorExecute u, .replayPass u, .engineCommandBegin u, .engineCommandComplete u, .bulkCommand u]
    ++ (match kindOf u with
        | .far => [.matrixGrant (u / 16), .messageRetry u, .handOffRetry u]
        | .slice => [.arrayExecute (u - Config.sliceUnit0)]
        | .stack => [.enterNear u, .arbitrationWindow (u - Config.stackUnit0), .rowSlot (u - Config.stackUnit0)])

/-- What a context may do without issuing: a contribution or an enqueue retried, a re-dispatch that has waited. -/
noncomputable def ctxEvents (u c : Nat) (x : Ctx) : List Instr :=
  (x.blocked.filterMap fun r => match r.act with | .merge _ _ _ _ => some (.mergeRetry r) | _ => none)
    ++ (match x.wait with | some (.tkenq _ _ _ _) => [.enqueueRetry u c] | _ => [])
    ++ (if x.redo.isSome then [.redispatch u c] else [])

/-- The events that the device itself may make next, in the order in which an empty schedule tries them. -/
noncomputable def State.candidates (s : State) : List Instr :=
  s.flight.map eventOf
    ++ s.stopEvents
    ++ s.known.flatMap unitEvents
    ++ (s.units.flatMap fun u => u.2.ctxs.flatMap fun x => ctxEvents u.1 x.1 x.2)
    ++ (s.homes.flatMap fun h => (h.2.queues.filter fun q => q.2.spilled != 0).map fun q => .spillRefill h.1 q.1)
    ++ (s.advances.flatMap fun a => a.owing.map fun u => .genAdvanceRequest u a.asid a.gen)
    ++ (s.launches.flatMap fun l => [.lapClose l.lid, .launchResume l.lid])
    ++ (s.lqs.map fun q => .completionWrite q.1)
    ++ [.launchStart]
    ++ ((s.known.filter fun u => decide (u < 512) && (s.ctx u 0).firmware).map fun u => .handOffTaskStart u)
    ++ s.posted.map arrivalOf
    ++ (s.stale ++ s.recomputes.map fun x => x.tile).map (fun t => .recompute t)
    ++ (s.units.flatMap fun u => u.2.ctxs.map fun x => .park u.1 x.1)

/-- The unit and context that issue next: those of the current unit, else of the first unit with one (R68). -/
def State.nextIssue (s : State) : Option (Nat × Nat) :=
  (s.cur :: s.known).findSome? fun u =>
    let k := (s.unit u).cur
    let c := if s.ready u k then k else s.nextCtx u k
    if s.issueReady u c then some (u, c) else none

end Sys2Proof.Machine
end

