-- ==== Sys2Proof/Machine/Schedule.lean ====
section
/-! DEFINITION. What a step does: the issue of a word, and the choice of the next move where the schedule names none (log entry 2).
`noncomputable` as in Decode.lean; the kernel evaluates it. -/

namespace Sys2Proof.Machine

/-- A step that issues a context's next word (R47, R59, R68); a re-dispatch or a halted replay of the context comes first (R223, R229). -/
noncomputable def stepIssue (s : State) (u c : Nat) (async : Bool) : Out :=
  if ! s.issueReady u c then .fault .notEnabled
  else
    let s1 := s.focus u c async
    if s1.redoDue u c then exec (.redispatch u c) s1
    else if s1.resumeDue u c then exec (.replayResume u c) s1
    else
      match issueFetch s1 with
      | .done s2 => .next s2
      | .word s2 w =>
        match decode w with
        | none => (s2.loadWord w false).trapWord .illegal
        | some (mark, i) =>
          let s3 := s2.loadWord w mark
          s3.checked (s3.barred w i) (exec i)

/-- An event changes the state; a contribution that is refused again changes nothing that matters (R138). -/
def moves (s : State) (i : Instr) : Bool :=
  match exec i s with
  | .next t =>
    match i with
    | .mergeRetry r => ! (t.ctx r.who.unit r.who.ctx).blocked.contains r
    | _ => t != s
  | _ => false

/-- The runtime's next move (log entry 9). -/
noncomputable def State.runtimeNext (s : State) : Option State :=
  s.units.findSome? fun u => u.2.ctxs.findSome? fun x => s.runtimeMove u.1 x.1

/-- The schedule's next choice made. -/
noncomputable def stepChoice (s : State) (ch : Choice) : Out :=
  match ch with
  | .issue u c async => stepIssue s u c async
  | .event i => if i.isEvent then exec i s else .fault .notEnabled
  | .runtime u c =>
    match s.runtimeMove u c with
    | some t => .next t
    | none => .fault .notEnabled
  | .upset es => .next { s with upsets := es }
  | .bar2 n => .next (s.resizeBar2 n)

/-- The move where the schedule names none: the first event of the device that changes something, else the runtime's move, else the next
word, else a launch found quiescent; else the machine idles (R68). -/
noncomputable def stepDefault (s : State) : Out :=
  match s.candidates.find? (moves s) with
  | some i => exec i s
  | none =>
    match s.runtimeNext with
    | some t => .next t
    | none =>
      match s.nextIssue with
      | some (u, c) => stepIssue s u c false
      | none =>
        match (s.launches.map fun l => Instr.quiescenceDetect l.lid).find? (moves s) with
        | some i => exec i s
        | none => .next s

/-- The parts of the device at which a unit stands (R2). -/
def unitParts (u : Nat) : List PartUnit :=
  match kindOf u with
  | .far => [.farCore u]
  | .slice => [.slice (u - Config.sliceUnit0)]
  | .stack => [.pseudoChannel (u - Config.stackUnit0), .stackUnit ((u - Config.stackUnit0) / 64)]

/-- The context at which an instruction is placed: live, at no park, no handler's re-dispatch or replay before the word. -/
def Ctx.placed (x : Ctx) (pc : Word) : Ctx :=
  { x with
    live := true, pc := pc, parking := false, why := .segment, parked := false, stuck := false, holding := false, resuming := false, stopDue := false, wait := none, asleep := false, held := false, firmware := false
    awaiting := false, redo := none, blocked := [], spilled := 0#32, drply := 0#64, late := []
    replay := { x.replay with rv := false } }

/-- The PC at which an instruction is placed. -/
def Ctx.placePc (x : Ctx) : Word :=
  if x.pc.toNat < 0x100000 ∨ x.pc.extractLsb' 58 6 ≠ 0#6 then 0x4000000000#64 else x.pc &&& ~~~ 3#64

/-- The unit at which an instruction is placed: its word at the start of the code store, in overlay 0. -/
def UnitState.placed (y : UnitState) (c nbits w : Nat) (pc : Word) (asr : Word) : UnitState :=
  { y with
    halted := false, replay := y.replay.filter fun r => r.ctx != c
    code := y.code.writeBytes 0 (bytesOfWord (BitVec.ofNat 32 (w % 2 ^ nbits)))
    overlays := y.overlays.set 0 ⟨true, pc, 64, 0, asr.extractLsb' 32 12, asr.extractLsb' 0 16, false⟩ }

/-- An instruction of `nbits` bits `w` placed where the next step fetches it (log entry 6): a live context of the current unit at full
service and without errors of the hardware, its word in a resident overlay, the schedule naming that context. -/
def State.placeWord (s : State) (nbits w : Nat) : State :=
  let u := s.cur
  let c := s.c
  let x := s.cx
  let pc := x.placePc
  let s1 := (s.modCtx u c fun y => y.placed pc).modUnit u fun y => y.placed c nbits w pc x.asr
  { s1 with stage := 4#4, upsets := [], sched := [.issue u c false], disabled := s.disabled.filter fun p => ! (unitParts u).contains p }

end Sys2Proof.Machine
end

