-- ==== Sys2Proof/Machine/Step.lean ====
section
/-! DEFINITION. One step of the machine. -/

namespace Sys2Proof.Machine

/-- One step: the next choice of the schedule, or, where the schedule is empty, the machine's own next move (log entry 2); each sleeping
RECV whose TAIL it has changed keeps the value (R180). -/
noncomputable def step (s : State) : Out :=
  latched
    (match s.sched with
    | ch :: rest => stepChoice { s with sched := rest } ch
    | [] => stepDefault s)

/-- The state with an instruction where the next step fetches it (log entry 6). -/
def State.withFetchWord (s : State) (nbits w : Nat) : State := s.placeWord nbits w

end Sys2Proof.Machine
end

