-- ==== Sys2Proof/Safety.lean ====
section
/-! DEFINITION. What a safe run is, in the terms the claims use: the canonical form of memory, windows that lie in local memory, and the
runs of the machine. -/

namespace Sys2Proof.Machine

/-- Memory of the state is in canonical form. -/
def State.memOk (s : State) : Prop := s.mem.wf = true

/-- The 32 registers of a context's window lie apart in its local memory: a trap, shadow or other linear window wholly inside it
(R78, R393), or a ring of 4 to 64 frames inside it (R69, R70). -/
def State.winOk (s : State) (u c : Nat) : Prop :=
  if (s.ctx u c).linear then (s.ctx u c).wp.toNat + 256 ≤ localSize (kindOf u)
  else 4 ≤ (s.ctx u c).cap.toNat ∧ (s.ctx u c).cap.toNat ≤ 64
    ∧ (s.ctx u c).frb.toNat + (s.ctx u c).span ≤ localSize (kindOf u)

/-- What the integer and branch statements ask of a state: canonical memory, and the issuing context's window in place. -/
def State.regOk (s : State) : Prop := s.memOk ∧ s.winOk s.cur s.c

/-- One step of the machine leads from a state to a state. -/
def StepsTo (s t : State) : Prop := step s = .next t

/-- A run of the machine: states linked by steps. -/
inductive Reaches : State → State → Prop where
  | refl (s : State) : Reaches s s
  | tail {s t v : State} : Reaches s t → StepsTo t v → Reaches s v

/-- A state from which no step stops: neither fault nor refusal. -/
def State.goesOn (s : State) : Prop := ∃ t, step s = .next t

end Sys2Proof.Machine
end

