-- ==== Sys2Proof/Claims.lean ====
section
/-! DEFINITION. The vocabulary of the statements: the results that the tables of the spec give, written over unbounded numbers as
their pseudocode is (00_scope R8) and apart from the machine's own operations; and the shapes of a step's effect. -/

namespace Sys2Proof.Claims

open Machine

/-! ## Integer results (05_integer R96 to R100) -/

/-- s(x) of R96 at width n. -/
def sgn (n x : Nat) : Int := if 2 ^ (n - 1) ≤ x then (x : Int) - 2 ^ n else x

/-- Sext(r mod 2^n, n) (R8, R96). -/
def sext (n : Nat) (r : Int) : Word := BitVec.ofInt 64 (sgn n (r % 2 ^ n).toNat)

/-- Clm(u, v) of R96: the exclusive or, over every i with bit i of v set, of u × 2^i. -/
def clm (u v : Nat) : Nat := (List.range 64).foldl (fun acc i => if v.testBit i then acc ^^^ (u * 2 ^ i) else acc) 0

/-- The sum of f i × w^i over i below n. -/
def digits (w n : Nat) (f : Nat → Nat) : Nat := ((List.range n).map fun i => f i * w ^ i).sum

/-- 1 where a condition holds, else 0. -/
def one (b : Bool) : Int := if b then 1 else 0

/-- A result written through W forms and full forms alike (R92, R96): `f` of the low n bits of two registers. -/
def intBin (g : Reg → Word) (n : Nat) (d a b : Reg) (f : Nat → Nat → Int) : Option (Reg × Word) :=
  some (d, sext n (f ((g a).toNat % 2 ^ n) ((g b).toNat % 2 ^ n)))

/-- The same of one register. -/
def intUn (g : Reg → Word) (n : Nat) (d a : Reg) (f : Nat → Int) : Option (Reg × Word) :=
  some (d, sext n (f ((g a).toNat % 2 ^ n)))

/-- div of R96 at width n. -/
def divR (n u v : Nat) : Int :=
  if v = 0 then -1
  else if sgn n u = -2 ^ (n - 1) ∧ sgn n v = -1 then -2 ^ (n - 1)
  else (sgn n u).tdiv (sgn n v)

/-- divu of R96 at width n. -/
def divuR (n u v : Nat) : Int := if v = 0 then 2 ^ n - 1 else ((u / v : Nat) : Int)

/-- rem of R96 at width n. -/
def remR (n u v : Nat) : Int :=
  if v = 0 then sgn n u
  else if sgn n u = -2 ^ (n - 1) ∧ sgn n v = -1 then 0
  else sgn n u - sgn n v * (sgn n u).tdiv (sgn n v)

/-- remu of R96. -/
def remuR (u v : Nat) : Int := if v = 0 then (u : Int) else ((u % v : Nat) : Int)

/-- shl of R96: u × 2^k. -/
def shlR (u k : Nat) : Int := ((u * 2 ^ k : Nat) : Int)

/-- shr of R96: u div 2^k. -/
def shrR (u k : Nat) : Int := ((u / 2 ^ k : Nat) : Int)

/-- sar of R96 at width n: s(u) div 2^k. -/
def sarR (n u k : Nat) : Int := sgn n u / 2 ^ k

/-- rotl of R96 at width n: u × 2^k + u div 2^(n−k). -/
def rotlR (n u k : Nat) : Int := ((u * 2 ^ k + u / 2 ^ (n - k) : Nat) : Int)

/-- clz of R96 at width n: the bit positions from which on no bit of u is set. -/
def clzR (n u : Nat) : Int := (((List.range n).filter fun i => decide (u < 2 ^ i)).length : Int)

/-- ctz of R96 at width n: the bit positions up to which no bit of u is set. -/
def ctzR (n u : Nat) : Int := (((List.range n).filter fun i => decide (u % 2 ^ (i + 1) = 0)).length : Int)

/-- popc of R96 at width n. -/
def popcR (n u : Nat) : Int := (((List.range n).filter fun i => u.testBit i).length : Int)

/-- brev of R96 at width n: bit i of the result is bit n − 1 − i of u. -/
def brevR (n u : Nat) : Int := (digits 2 n fun i => (u.testBit (n - 1 - i)).toNat : Nat)

/-- bswap of R96 at width n: byte i of the result is byte n/8 − 1 − i of u. -/
def bswapR (n u : Nat) : Int := (digits 256 (n / 8) fun i => u / 256 ^ (n / 8 - 1 - i) % 256 : Nat)

/-- What an arithmetic or division instruction writes (R96). -/
def arithResult (g : Reg → Word) : Instr → Option (Reg × Word)
  | .add d a b => intBin g 64 d a b fun u v => u + v
  | .addw d a b => intBin g 32 d a b fun u v => u + v
  | .sub d a b => intBin g 64 d a b fun u v => u - v
  | .subw d a b => intBin g 32 d a b fun u v => u - v
  | .mul d a b => intBin g 64 d a b fun u v => u * v
  | .mulw d a b => intBin g 32 d a b fun u v => u * v
  | .mulh d a b => intBin g 64 d a b fun u v => sgn 64 u * sgn 64 v / 2 ^ 64
  | .mulhu d a b => intBin g 64 d a b fun u v => ((u * v / 2 ^ 64 : Nat) : Int)
  | .div d a b => intBin g 64 d a b (divR 64)
  | .divw d a b => intBin g 32 d a b (divR 32)
  | .divu d a b => intBin g 64 d a b (divuR 64)
  | .divuw d a b => intBin g 32 d a b (divuR 32)
  | .rem d a b => intBin g 64 d a b (remR 64)
  | .remw d a b => intBin g 32 d a b (remR 32)
  | .remu d a b => intBin g 64 d a b remuR
  | .remuw d a b => intBin g 32 d a b remuR
  | .min d a b => intBin g 64 d a b fun u v => if sgn 64 u ≤ sgn 64 v then u else v
  | .max d a b => intBin g 64 d a b fun u v => if sgn 64 u ≥ sgn 64 v then u else v
  | .minu d a b => intBin g 64 d a b fun u v => if u ≤ v then u else v
  | .maxu d a b => intBin g 64 d a b fun u v => if u ≥ v then u else v
  | .seq d a b => intBin g 64 d a b fun u v => one (u == v)
  | .slt d a b => intBin g 64 d a b fun u v => one (decide (sgn 64 u < sgn 64 v))
  | .sltu d a b => intBin g 64 d a b fun u v => one (decide (u < v))
  | _ => none

/-- What a logical, shift, count or reordering instruction writes (R96). -/
def bitResult (g : Reg → Word) : Instr → Option (Reg × Word)
  | .and d a b => intBin g 64 d a b fun u v => ((u &&& v : Nat) : Int)
  | .or d a b => intBin g 64 d a b fun u v => ((u ||| v : Nat) : Int)
  | .xor d a b => intBin g 64 d a b fun u v => ((u ^^^ v : Nat) : Int)
  | .andn d a b => intBin g 64 d a b fun u v => ((u &&& (2 ^ 64 - 1 - v) : Nat) : Int)
  | .shl d a b => intBin g 64 d a b fun u v => shlR u (v % 64)
  | .shlw d a b => intBin g 32 d a b fun u v => shlR u (v % 32)
  | .shr d a b => intBin g 64 d a b fun u v => shrR u (v % 64)
  | .shrw d a b => intBin g 32 d a b fun u v => shrR u (v % 32)
  | .sar d a b => intBin g 64 d a b fun u v => sarR 64 u (v % 64)
  | .sarw d a b => intBin g 32 d a b fun u v => sarR 32 u (v % 32)
  | .rotl d a b => intBin g 64 d a b fun u v => rotlR 64 u (v % 64)
  | .rotlw d a b => intBin g 32 d a b fun u v => rotlR 32 u (v % 32)
  | .clz d a => intUn g 64 d a (clzR 64)
  | .clzw d a => intUn g 32 d a (clzR 32)
  | .ctz d a => intUn g 64 d a (ctzR 64)
  | .ctzw d a => intUn g 32 d a (ctzR 32)
  | .popc d a => intUn g 64 d a (popcR 64)
  | .popcw d a => intUn g 32 d a (popcR 32)
  | .brev d a => intUn g 64 d a (brevR 64)
  | .brevw d a => intUn g 32 d a (brevR 32)
  | .bswap d a => intUn g 64 d a (bswapR 64)
  | .bswapw d a => intUn g 32 d a (bswapR 32)
  | .sextb d a => intUn g 64 d a fun u => sgn 8 (u % 2 ^ 8)
  | .sexth d a => intUn g 64 d a fun u => sgn 16 (u % 2 ^ 16)
  | .clmul d a b => intBin g 64 d a b fun u v => (clm u v : Int)
  | .clmulh d a b => intBin g 64 d a b fun u v => ((clm u v / 2 ^ 64 : Nat) : Int)
  | .clmulr d a b => intBin g 64 d a b fun u v => ((clm u v / 2 ^ 63 : Nat) : Int)
  | _ => none

/-- What an INT instruction writes (R92, R96). -/
def intResult (g : Reg → Word) (i : Instr) : Option (Reg × Word) := (arithResult g i).or (bitResult g i)

/-- The immediate of R97 as a number. -/
def imm (i : BitVec 12) : Int := sgn 12 i.toNat

/-- What an INTI or SHI instruction writes (R97, R98). -/
def immResult (g : Reg → Word) : Instr → Option (Reg × Word)
  | .addi d a i => intUn g 64 d a fun u => u + imm i
  | .slti d a i => intUn g 64 d a fun u => one (decide (sgn 64 u < imm i))
  | .sltiu d a i => intUn g 64 d a fun u => one (decide ((u : Int) < imm i % 2 ^ 64))
  | .andi d a i => intUn g 64 d a fun u => ((u &&& (imm i % 2 ^ 64).toNat : Nat) : Int)
  | .ori d a i => intUn g 64 d a fun u => ((u ||| (imm i % 2 ^ 64).toNat : Nat) : Int)
  | .xori d a i => intUn g 64 d a fun u => ((u ^^^ (imm i % 2 ^ 64).toNat : Nat) : Int)
  | .addiw d a i => intUn g 32 d a fun u => u + imm i
  | .shli d a c => intUn g 64 d a fun u => shlR u c.toNat
  | .shri d a c => intUn g 64 d a fun u => shrR u c.toNat
  | .sari d a c => intUn g 64 d a fun u => sarR 64 u c.toNat
  | .rotli d a c => intUn g 64 d a fun u => rotlR 64 u c.toNat
  | .shliw d a c => intUn g 32 d a fun u => shlR u c.toNat
  | .shriw d a c => intUn g 32 d a fun u => shrR u c.toNat
  | .sariw d a c => intUn g 32 d a fun u => sarR 32 u c.toNat
  | _ => none

/-- What LDHI, ADDPC and a SEL whose condition holds write; P is the address of the word (R99, R100). -/
def constResult (g : Reg → Word) (p : Word) : Instr → Option (Reg × Word)
  | .ldhi d i => some (d, sext 32 (i.toNat * 2 ^ 12 : Nat))
  | .addpc d i => some (d, BitVec.ofInt 64 (p.toNat + sgn 32 (i.toNat * 2 ^ 12)))
  | .sel .eqz d a b => if g a = 0#64 then some (d, g b) else none
  | .sel .nez d a b => if g a ≠ 0#64 then some (d, g b) else none
  | .sel .ltz d a b => if sgn 64 (g a).toNat < 0 then some (d, g b) else none
  | .sel .gez d a b => if 0 ≤ sgn 64 (g a).toNat then some (d, g b) else none
  | _ => none

/-! ## Transfers (05_integer R101 to R105) -/

/-- Whether a branch, SKIP or J transfers, and where to (R101 to R105); `none` for any other instruction. -/
def transfer (g : Reg → Word) (p : Word) : Instr → Option (Bool × Word)
  | .skip _ c a b n =>
    let x := (g a).toNat
    let y := (g b).toNat
    let t : Bool := match c with
      | .eq => x == y
      | .ne => x != y
      | .lt => decide (sgn 64 x < sgn 64 y)
      | .ge => decide (sgn 64 x ≥ sgn 64 y)
      | .ltu => decide (x < y)
      | .geu => decide (x ≥ y)
    some (t, BitVec.ofNat 64 (p.toNat + 4 + 4 * (n.toNat + 1)))
  | .beq _ a b off => some ((g a).toNat == (g b).toNat, rel p 10 off.toNat)
  | .bne _ a b off => some ((g a).toNat != (g b).toNat, rel p 10 off.toNat)
  | .blt _ a b off => some (decide (sgn 64 (g a).toNat < sgn 64 (g b).toNat), rel p 10 off.toNat)
  | .bge _ a b off => some (decide (sgn 64 (g a).toNat ≥ sgn 64 (g b).toNat), rel p 10 off.toNat)
  | .bltu _ a b off => some (decide ((g a).toNat < (g b).toNat), rel p 10 off.toNat)
  | .bgeu _ a b off => some (decide ((g a).toNat ≥ (g b).toNat), rel p 10 off.toNat)
  | .bbs _ a b off => some ((g a).toNat.testBit ((g b).toNat % 64), rel p 10 off.toNat)
  | .bbc _ a b off => some (! (g a).toNat.testBit ((g b).toNat % 64), rel p 10 off.toNat)
  | .beqz _ a off => some (sgn 64 (g a).toNat == 0, rel p 15 off.toNat)
  | .bnez _ a off => some (sgn 64 (g a).toNat != 0, rel p 15 off.toNat)
  | .bltz _ a off => some (decide (sgn 64 (g a).toNat < 0), rel p 15 off.toNat)
  | .bgez _ a off => some (decide (sgn 64 (g a).toNat ≥ 0), rel p 15 off.toNat)
  | .bgtz _ a off => some (decide (sgn 64 (g a).toNat > 0), rel p 15 off.toNat)
  | .blez _ a off => some (decide (sgn 64 (g a).toNat ≤ 0), rel p 15 off.toNat)
  | .j off => some (true, rel p 25 off.toNat)
  | _ => none
where
  /-- (P + Sext(offset, n) × 4) mod 2^64. -/
  rel (p : Word) (n off : Nat) : Word := BitVec.ofInt 64 (p.toNat + sgn n off * 4)

/-- A word of B or BZ (R103, R104). -/
def isBranch : Instr → Bool
  | .beq _ _ _ _ | .bne _ _ _ _ | .blt _ _ _ _ | .bge _ _ _ _ | .bltu _ _ _ _ | .bgeu _ _ _ _ | .bbs _ _ _ _ | .bbc _ _ _ _
  | .beqz _ _ _ | .bnez _ _ _ | .bltz _ _ _ | .bgez _ _ _ | .bgtz _ _ _ | .blez _ _ _ => true
  | _ => false

/-! ## Shapes of an effect -/

/-- The first of the eight bytes that hold a register of the issuing context's window (R69). -/
def regAt (s : State) (d : Reg) : Nat := regPa s.cur s.cx d

/-- The effect of a word that writes one register and passes on, and its frame: the register holds the value, every other register of
the window and every byte outside the register's eight reads as before, and nothing else of the machine but the PC changes. -/
def Wrote (s t : State) (d : Reg) (v : Word) : Prop :=
  t.g d = v ∧ (∀ r, r ≠ d → t.g r = s.g r)
    ∧ (∀ a, a < regAt s d ∨ regAt s d + 8 ≤ a → t.mem.read a = s.mem.read a)
    ∧ t.memOk ∧ t.pc = s.pc + 4#64 ∧ t = { s.advance with mem := t.mem }

/-- A word passed with one deferred result more, its source as given, and nothing else changed (R65, R66). -/
def Deferring (s t : State) (d : Reg) (src : DefSrc) : Prop :=
  t.cx.defs = s.cx.defs ++ [⟨d, s.po, src, 0#5⟩] ∧ t.pc = s.pc + 4#64 ∧ t.mem = s.mem ∧ (∀ r, t.g r = s.g r)
    ∧ t = (s.defer s.cur s.c d src).advance

/-! ## Scalar memory (06_memory R107 to R125, 07_ordering R142) -/

/-- The number whose little-endian bytes are given by a function (R3). -/
def leNat (n : Nat) (f : Nat → Byte) : Nat := digits 256 n fun k => (f k).toNat

/-- A load: destination, effective address, size in bytes, sign extension, and whether it acquires. -/
structure LoadForm where
  d : Reg
  ea : Word
  size : Nat
  signed : Bool
  acq : Bool

/-- A store: data, effective address, size in bytes, and whether it releases. -/
structure StoreForm where
  data : Word
  ea : Word
  size : Nat
  rel : Bool

/-- The effective address of the M format: (Win[a] + Sext(imm12, 12)) mod 2^64 (R123, R124). -/
def eaOfM (g : Reg → Word) (a : Reg) (i : BitVec 12) : Word := BitVec.ofInt 64 ((g a).toNat + imm i)

/-- The effective address of LDX and STX: (Win[a] + Win[b] × size) mod 2^64 (R125). -/
def eaOfX (g : Reg → Word) (a b : Reg) (size : Nat) : Word := BitVec.ofNat 64 ((g a).toNat + (g b).toNat * size)

/-- The loads of R121, R125 and R142. -/
def loadForm (g : Reg → Word) : Instr → Option LoadForm
  | .ldb d a i => some ⟨d, eaOfM g a i, 1, true, false⟩
  | .ldh d a i => some ⟨d, eaOfM g a i, 2, true, false⟩
  | .ldw d a i => some ⟨d, eaOfM g a i, 4, true, false⟩
  | .ldd d a i => some ⟨d, eaOfM g a i, 8, true, false⟩
  | .ldbu d a i => some ⟨d, eaOfM g a i, 1, false, false⟩
  | .ldhu d a i => some ⟨d, eaOfM g a i, 2, false, false⟩
  | .ldwu d a i => some ⟨d, eaOfM g a i, 4, false, false⟩
  | .ldxB d a b => some ⟨d, eaOfX g a b 1, 1, true, false⟩
  | .ldxH d a b => some ⟨d, eaOfX g a b 2, 2, true, false⟩
  | .ldxW d a b => some ⟨d, eaOfX g a b 4, 4, true, false⟩
  | .ldxD d a b => some ⟨d, eaOfX g a b 8, 8, true, false⟩
  | .ldxBu d a b => some ⟨d, eaOfX g a b 1, 1, false, false⟩
  | .ldxHu d a b => some ⟨d, eaOfX g a b 2, 2, false, false⟩
  | .ldxWu d a b => some ⟨d, eaOfX g a b 4, 4, false, false⟩
  | .lda .b8 d a => some ⟨d, g a, 1, true, true⟩
  | .lda .h16 d a => some ⟨d, g a, 2, true, true⟩
  | .lda .w32 d a => some ⟨d, g a, 4, true, true⟩
  | .lda .d64 d a => some ⟨d, g a, 8, true, true⟩
  | .lda .bu8 d a => some ⟨d, g a, 1, false, true⟩
  | .lda .hu16 d a => some ⟨d, g a, 2, false, true⟩
  | .lda .wu32 d a => some ⟨d, g a, 4, false, true⟩
  | _ => none

/-- The stores of R121, R125 and R142. -/
def storeForm (g : Reg → Word) : Instr → Option StoreForm
  | .stb d a i => some ⟨g d, eaOfM g a i, 1, false⟩
  | .sth d a i => some ⟨g d, eaOfM g a i, 2, false⟩
  | .stw d a i => some ⟨g d, eaOfM g a i, 4, false⟩
  | .std d a i => some ⟨g d, eaOfM g a i, 8, false⟩
  | .stxB d a b => some ⟨g d, eaOfX g a b 1, 1, false⟩
  | .stxH d a b => some ⟨g d, eaOfX g a b 2, 2, false⟩
  | .stxW d a b => some ⟨g d, eaOfX g a b 4, 4, false⟩
  | .stxD d a b => some ⟨g d, eaOfX g a b 8, 8, false⟩
  | .stl .b8 d a => some ⟨g d, g a, 1, true⟩
  | .stl .h16 d a => some ⟨g d, g a, 2, true⟩
  | .stl .w32 d a => some ⟨g d, g a, 4, true⟩
  | .stl .d64 d a => some ⟨g d, g a, 8, true⟩
  | _ => none

/-- The value of a load's bytes: Sext or Zext at 8 × size bits (R123). -/
def loadValue (signed : Bool) (size : Nat) (f : Nat → Byte) : Word :=
  if signed then sext (8 * size) (leNat size f) else BitVec.ofNat 64 (leNat size f)

/-- The effect of a word stays in the issuing context and in what `f` blots out of its unit: memory, the other contexts, the other units
and the rest of the machine are as before. -/
def Within (s t : State) (f : UnitState → UnitState) : Prop :=
  t = { s with units := t.units } ∧ (∀ v, v ≠ s.cur → t.unit v = s.unit v) ∧ (∀ d, d ≠ s.c → t.ctx s.cur d = s.ctx s.cur d)
    ∧ { f t.ux with ctxs := [] } = { f s.ux with ctxs := [] }

/-- The effect of an event stays in one unit, as `Within` says it of a context. -/
def InUnit (s t : State) (u : Nat) : Prop := t = { s with units := t.units } ∧ ∀ v, v ≠ u → t.unit v = s.unit v

/-- The issuing context has no access on its way to a home, refused or held, no vector instruction in the queue, and waits for no token or
completion. -/
def Alone (s : State) : Prop :=
  s.flight = [] ∧ s.cx.blocked = [] ∧ (∀ k ∈ s.ux.vq, k.ctx ≠ s.c)
    ∧ ∀ e ∈ s.cx.defs, ∀ p, e.src ≠ .epop p ∧ e.src ≠ .mpop p ∧ e.src ≠ .nrwait p

/-- The local window's rule lets the issuing context reach `n` bytes at a local offset (R108, R109). -/
def InWindow (s : State) (off n : Nat) : Prop :=
  off + n ≤ localSize s.kind ∧ (s.cx.priv = .u → off + n ≤ s.ux.fence.toNat * 4096)

/-- No guarded region of R77 holds any of `n` bytes at a local offset: no block, ring or handler window of a live context of the unit,
the issuing one (a context of the unit, of 11) among them. -/
def Unguarded (s : State) (off n : Nat) : Prop :=
  s.guardedByOther s.cur none off n = false ∧ s.c < 11

/-- LMOOR after an out-of-range access (R108, R110): unchanged where V stood, else V, W, F and the offset. -/
def oorRecord (s : State) (off n : Nat) (store : Bool) : Word :=
  if s.cx.lmoor.getLsbD 63 then s.cx.lmoor
  else BitVec.ofNat 64 (2 ^ 63 + (if store then 2 ^ 62 else 0) + (if off + n ≤ localSize s.kind then 2 ^ 61 else 0) + off)

/-! ## Atomics (07_ordering R131, R132) -/

/-- An atomic: operation, whether of 64 bits, destination, address, operand, expected value, acquire and release. -/
structure AtomicForm where
  op : AmoOp
  dbl : Bool
  d : Option Reg
  ea : Word
  v : Word
  e : Word
  acq : Bool
  rel : Bool

/-- A value-returning atomic; its fields say whether it acquires and releases (R131, R132). -/
def retForm (g : Reg → Word) (op : AmoOp) (dbl : Bool) (o : Ord4) (d a b : Reg) : Option AtomicForm :=
  some ⟨op, dbl, some d, g a, g b, g d, o == .aq || o == .aqrl, o == .rl || o == .aqrl⟩

/-- A no-return atomic (R132). -/
def noRetForm (g : Reg → Word) (op : AmoOp) (dbl rl : Bool) (a b : Reg) : Option AtomicForm :=
  some ⟨op, dbl, none, g a, g b, 0#64, false, rl⟩

/-- The atomics of R132. -/
def atomicForm (g : Reg → Word) : Instr → Option AtomicForm
  | .amoadd w o d a b => retForm g .add w o d a b
  | .amoand w o d a b => retForm g .and w o d a b
  | .amoor w o d a b => retForm g .or w o d a b
  | .amoxor w o d a b => retForm g .xor w o d a b
  | .amomin w o d a b => retForm g .min w o d a b
  | .amomax w o d a b => retForm g .max w o d a b
  | .amominu w o d a b => retForm g .minu w o d a b
  | .amomaxu w o d a b => retForm g .maxu w o d a b
  | .amoswap w o d a b => retForm g .swap w o d a b
  | .amocas w o d a b => retForm g .cas w o d a b
  | .amofadd w o d a b => retForm g .fadd w o d a b
  | .amofmin w o d a b => retForm g .fmin w o d a b
  | .amofmax w o d a b => retForm g .fmax w o d a b
  | .amoaddNr w rl a b => noRetForm g .add w rl a b
  | .amoandNr w rl a b => noRetForm g .and w rl a b
  | .amoorNr w rl a b => noRetForm g .or w rl a b
  | .amoxorNr w rl a b => noRetForm g .xor w rl a b
  | .amominNr w rl a b => noRetForm g .min w rl a b
  | .amomaxNr w rl a b => noRetForm g .max w rl a b
  | .amominuNr w rl a b => noRetForm g .minu w rl a b
  | .amomaxuNr w rl a b => noRetForm g .maxu w rl a b
  | .amofaddNr w rl a b => noRetForm g .fadd w rl a b
  | .amofminNr w rl a b => noRetForm g .fmin w rl a b
  | .amofmaxNr w rl a b => noRetForm g .fmax w rl a b
  | _ => none

/-- Op(op, old, v) of R132 at n bits; the floating operations round to nearest even and leave no flag (R133). -/
def atomicResult (n : Nat) (op : AmoOp) (old v : Nat) : Option Nat :=
  let f := if n = 64 then bFP64 else bFP32
  match op with
  | .add => some ((old + v) % 2 ^ n)
  | .and => some (old &&& v)
  | .or => some (old ||| v)
  | .xor => some (old ^^^ v)
  | .min => some (if sgn n old ≤ sgn n v then old else v)
  | .max => some (if sgn n old ≥ sgn n v then old else v)
  | .minu => some (if old ≤ v then old else v)
  | .maxu => some (if old ≥ v then old else v)
  | .swap => some v
  | .cas => some v
  | .fadd => some (fpOp f .add .rne 0#32 old v).1
  | .fmin => some (fpMinMax f false old v).1
  | .fmax => some (fpMinMax f true old v).1

/-- The effective address and size of a scalar load, store or atomic (R107). -/
def accessOf (g : Reg → Word) (i : Instr) : Option (Word × Nat) :=
  match loadForm g i, storeForm g i, atomicForm g i with
  | some f, _, _ => some (f.ea, f.size)
  | none, some f, _ => some (f.ea, f.size)
  | none, none, some f => some (f.ea, if f.dbl then 8 else 4)
  | none, none, none => none

/-! ## Calls and parks (04_contexts R64 to R82) -/

/-- The target of a call (R80). -/
def callTarget (g : Reg → Word) (p : Word) : Instr → Option Word
  | .call off => some (transfer.rel p 25 off.toNat)
  | .callr a i => some (eaOfM g a i)
  | _ => none

/-- A park of the issuing context finds nothing: no result or access outstanding, no fault, STOP, notice or trap to take, nothing refused,
no replay, no generation to adopt (R64, R67, R68, R78, R177, R396, R405, R407). -/
def NothingPending (s : State) : Prop :=
  s.cx.defs = [] ∧ s.flight = [] ∧ s.advances = [] ∧ s.cx.awaiting = false ∧ s.ux.replay = [] ∧ s.cx.homeFaults = [] ∧ s.cx.late = []
    ∧ s.cx.blocked = [] ∧ s.cx.stopDue = false ∧ s.cx.npend = false
    ∧ s.cx.stuck = false ∧ s.ux.rqPend = [] ∧ s.ux.absent = [] ∧ s.ux.stopPend = []

/-- The state after a park of the issuing context that found nothing: results landed, the segment begun with the word, whose marker makes
the next park due (R64, R67). -/
def parkPassed (s : State) : State := ((s.land s.cur s.c).parkedBefore s.cur s.c).beginFirst

/-- The issuing context as a word that has parked first leaves it where it does nothing else: the word passed, and begun as the first of its
segment (R64). -/
def afterFirst (s : State) : Ctx :=
  { s.cx with pc := s.pc + 4#64, parked := false, seg := 1, parking := s.ux.word.getLsbD 31, why := .segment }

/-- Two contexts agree in what a block, its vector registers included, and its seal record hold, reserved bits aside (R6, R74, R409). -/
def SameSaved (x y : Ctx) : Prop :=
  y.live = true ∧ y.pc = x.pc &&& 0x03FFFFFFFFFFFFFC#64 ∧ y.wp = x.wp ∧ y.frb = x.frb ∧ y.cap = x.cap ∧ y.res = x.res ∧ y.spilled = x.spilled ∧ y.bsp = x.bsp
    ∧ y.nact = x.nact ∧ y.npend = x.npend ∧ y.fxs = x.fxs ∧ y.frm = x.frm ∧ y.ve = x.ve ∧ y.priv = x.priv ∧ y.lmoor = x.lmoor &&& 0xE0000000000FFFFF#64
    ∧ y.nhpc = x.nhpc ∧ y.nhwp = x.nhwp ∧ y.cseq = x.cseq ∧ y.replay.rv = x.replay.rv ∧ y.replay.dist = x.replay.dist
    ∧ y.replay.pass = x.replay.pass ∧ y.replay.word = x.replay.word ∧ y.msp = x.msp ∧ y.srseed = x.srseed ∧ y.tkanc = x.tkanc
    ∧ y.tkd3 = x.tkd3 ∧ y.tkslc = x.tkslc ∧ y.tkhome = x.tkhome &&& 0xE000FFFFFFFF7FFF#64 ∧ y.vregs = x.vregs
    ∧ (∀ i : Fin 8, y.faults.get i = { x.faults.get i with info := (x.faults.get i).info &&& 0xFC00FFFF00000FFF#64 })
    ∧ y.asr = x.asr &&& 0x00000FFF0000FFFF#64 ∧ y.ptroot = x.ptroot &&& 0x000FFFFFFFFFC000#64 ∧ y.twb = x.twb

/-! ## Exceptions (21_system R391 to R400) -/

/-- What taking an exception needs to reach the handler (R391, R393): no handler runs, one is set, the trap window lies in local memory, at
most one entry of the fault ring is current, and no live context's block lies where the window is written. -/
def MayEnter (s : State) (u c : Nat) : Prop :=
  s.memOk ∧ (∀ d, d < 11 → s.inBlock u d ((s.ctx u c).twb.toNat + 160) 32 = false) ∧ (s.ctx u c).act = false ∧ s.handlerPc u c ≠ 0#64 ∧ (s.ctx u c).twb.toNat + 256 ≤ localSize (kindOf u)
    ∧ ∀ i j : Fin 8, ((s.ctx u c).faults.get i).info.getLsbD 63 = true → ((s.ctx u c).faults.get j).info.getLsbD 63 = true → i = j

/-- INFO as a number (R391). -/
def infoOf (cur act dbl deflt : Bool) (ppriv tseq hlp cause : Nat) : Word :=
  BitVec.ofNat 64 (cur.toNat * 2 ^ 63 + act.toNat * 2 ^ 62 + dbl.toNat * 2 ^ 61 + deflt.toNat * 2 ^ 60 + ppriv * 2 ^ 58 + tseq * 2 ^ 32
    + hlp * 2 ^ 8 + cause)

/-- The code of a level in PPRIV (R391). -/
def privCode : Level → Nat
  | .u => 0
  | .s => 1
  | .m => 3

/-- The fault ring after an entry (R391, R393): entry t mod 8 is the new one, and no other is current. -/
def Recorded (x y : Ctx) (tpc tval fpc : Word) (act dbl deflt : Bool) (hlp : Nat) (cause : Cause) : Prop :=
  let t := (x.tseq.toNat + 1) % 2 ^ 16
  ∀ i : Fin 8,
    if i.val = t % 8 then
      y.faults.get i = ⟨tpc, tval, fpc, infoOf true act dbl deflt (privCode x.priv) t hlp cause.code⟩
    else (y.faults.get i).tpc = (x.faults.get i).tpc ∧ (y.faults.get i).tval = (x.faults.get i).tval
      ∧ (y.faults.get i).fpc = (x.faults.get i).fpc ∧ (y.faults.get i).info = (x.faults.get i).info &&& 0x7FFFFFFFFFFFFFFF#64

/-- The state after taking an exception (R393), and its frame: the entry; the four doublewords of the trap window; the level, the PC, the
window; the rest of the context, every other context and every other byte as before. -/
def Entered (s t : State) (u c : Nat) (tpc tval fpc : Word) (deflt : Bool) (hlp : Nat) (cause : Cause) : Prop :=
  let x := s.ctx u c
  let y := t.ctx u c
  Recorded x y tpc tval fpc true false deflt hlp cause
    ∧ y = { x with
        faults := y.faults, wp := x.twb
        pc := (if x.priv = .m then (s.unit u).mtvec else (s.unit u).tvec) &&& 0x03FFFFFFFFFFFFFC#64
        priv := if x.priv = .m then .m else .s
        seg := 0, parking := x.stopDue, why := .segment, parked := false, holding := false, resuming := false, wait := none, asleep := false
        woken := false, latch := none }
    ∧ t.loc64 u (x.twb.toNat + 160) = x.wp ∧ t.loc64 u (x.twb.toNat + 168) = tpc
    ∧ t.loc64 u (x.twb.toNat + 176) = s.reg u c 22#5 ∧ t.loc64 u (x.twb.toNat + 184) = s.reg u c 23#5
    ∧ (∀ a, a < localPa u (x.twb.toNat + 160) ∨ localPa u (x.twb.toNat + 160) + 32 ≤ a → t.mem.read a = s.mem.read a)
    ∧ t.memOk ∧ ∀ v d, ¬ (v = u ∧ d = c) → t.ctx v d = s.ctx v d

/-- The instructions of R57. -/
def isPrivileged : Instr → Bool
  | .start _ _ _ | .startRes _ | .stoph _ | .tkpop _ _ | .tksteal _ _ _ | .tkqcfg _ _ _ | .eret | .tlbinv _ _ | .genadv _ _
  | .genadvFloor _ _ | .cbswap _ _ | .cbswapSeal _ | .cbswapUnit _ | .stopc _ | .haltc => true
  | _ => false

/-- A unit of a kind has helper n (R14, R18, R56). -/
def hasHelperN (k : UnitKind) (n : BitVec 4) : Bool := decide (n.toNat ≤ match k with | .far => 10 | _ => 3)

/-- The profile of a kind of unit executes an instruction (R55, R56). -/
def executes (k : UnitKind) : Instr → Bool
  | .start n _ _ | .startRes n | .stoph n | .cbswap n _ | .cbswapSeal n => hasHelperN k n
  | .cget _ _ | .waitc _ _ | .wtarm _ _ _ | .recv _ _ _ | .tksteal _ _ _ => k == .far
  | .tkpop _ _ => k != .far
  | .mfmt _ _ | .mzero _ _ | .mma _ _ _ _ | .mmas _ _ _ _ | .mldc _ _ _ _ | .mstc _ _ _ _ | .mprog _ _ _ | .mrec _ _ _ _
  | .mtlist _ _ _ | .mpop _ => k == .far
  | .aand _ _ _ | .aor _ _ _ | .axor _ _ _ | .anor _ _ _ | .anand _ _ _ | .axnor _ _ _ | .anot _ _ | .acopy _ _ | .afadd _ _ _
  | .afsub _ _ _ | .aldp _ _ | .aldc _ _ | .astp _ | .astc _ | .ashl _ _ | .ashr _ _ | .aadd _ _ _ _ | .asub _ _ _ _ | .amul _ _ _ _
  | .amac _ _ _ _ | .acmplt _ _ _ _ | .amax _ _ _ _ | .aneg _ _ _ | .aabs _ _ _ | .aadds _ _ _ _ | .asubs _ _ _ _ | .asel _
  | .asetrb _ | .axin _ _ | .axout _ _ | .adot | .abuf _ | .aout _ _ | .achk _ | .await => k == .slice
  | .nrprog _ | .nrrun _ | .nrstat _ | .nrwait _ => k == .stack
  | _ => true

/-- The words that need VE = 1 (R75): majors 0x18 to 0x1E. -/
def needsVector : Instr → Bool
  | .vld _ _ _ | .vst _ _ _ | .vlds _ _ _ | .vsts _ _ _ | .vldx _ _ _ _ | .vstx _ _ _ _ | .vldbc _ _ _ | .vstm _ _ _
  | .vadd _ _ _ _ _ | .vsub _ _ _ _ _ | .vmul _ _ _ _ _ | .vmulh _ _ _ _ _ | .vmac _ _ _ _ _ | .vmin _ _ _ _ _ | .vmax _ _ _ _ _
  | .vminu _ _ _ _ _ | .vmaxu _ _ _ _ _ | .vand _ _ _ _ _ | .vor _ _ _ _ _ | .vxor _ _ _ _ _ | .vshl _ _ _ _ _ | .vshr _ _ _ _ _
  | .vsar _ _ _ _ _ | .vclmul _ _ _ _ _ | .vclmulh _ _ _ _ _ | .vpopc _ _ _ _ | .vfadd _ _ _ _ _ _ | .vfsub _ _ _ _ _ _
  | .vfmul _ _ _ _ _ _ | .vfma _ _ _ _ _ _ | .vfmin _ _ _ _ _ | .vfmax _ _ _ _ _ | .vfdiv _ _ _ _ _ _ | .vfsqrt _ _ _ _ _
  | .vcmp _ _ _ _ _ _ | .vfcmp _ _ _ _ _ _ | .vsel _ _ _ _ _ | .vbcast _ _ _ | .vext _ _ _ _ _ | .vins _ _ _ _ _ | .vperm _ _ _ _
  | .vslide _ _ _ _ | .vred _ _ _ _ | .vcvt _ _ _ _ _ _ | .vmxs _ _ _ | .vmxq _ _ _ _ | .vmxd _ _ _ _ | .vdot _ _ _ _ _
  | .rpt _ _ _ => true
  | _ => false

/-! ## Waiting words (R67, R68) -/

/-- The words that wait at a park of their own: what each waits for (R170, R180, R341, R400). -/
def waitOf (g : Reg → Word) : Instr → Option Wait
  | .waitc a b => some (.waitc (g a) (g b))
  | .recv d a b => some (.recv d (g a) (g b))
  | .lapw d => some (.lapw d)
  | .haltc => some .haltc
  | _ => none

/-- The issuing context is at the park of a waiting word, and the park finds nothing else (R67). -/
def AtWait (s : State) (w : Wait) : Prop :=
  NothingPending s ∧ s.cx.live = true ∧ s.cx.held = false ∧ s.ux.halted = false ∧ s.cx.parking = true ∧ s.cx.why = .segment
    ∧ s.cx.asleep = false ∧ s.cx.wait = some w ∧ s.cx.act = false ∧ s.cx.firmware = false ∧ s.cx.redo = none ∧ s.regOk

/-- The wait of the issuing context is over: its word is passed and the rest goes on (R67, R68). -/
def Passed (s t : State) : Prop :=
  (t.ctx s.cur s.c).pc = s.pc + 4#64 ∧ (t.ctx s.cur s.c).wait = none ∧ (t.ctx s.cur s.c).asleep = false
    ∧ (t.ctx s.cur s.c).parking = false ∧ (t.ctx s.cur s.c).seg = 0

/-! ## System registers (04_contexts R75, R76, R88 to R90; 21_system R391, R414) -/

/-- The value of a system register, for the ones whose value is that of one field of the machine or a few fields side by side. -/
def sysReg (s : State) : Nat → Option Word
  | 0x000 => some (BitVec.ofNat 64 (s.c % 16 + if s.kind = .far then 0 else 256))
  | 0x001 => some s.cx.wp
  | 0x002 => some s.cx.frb
  | 0x003 => some (BitVec.ofNat 64 (s.cx.spilled.toNat * 2 ^ 32 + s.cx.res.toNat * 2 ^ 8 + s.cx.cap.toNat))
  | 0x004 => some s.cx.bsp
  | 0x005 => some (BitVec.ofNat 64 (s.cx.nact.toNat * 2 ^ 23 + s.cx.npend.toNat * 2 ^ 22 + s.cx.fxs.toNat * 2 ^ 8 + s.cx.frm.toNat * 2 ^ 5
      + s.cx.ve.toNat * 2 ^ 4 + privCode s.cx.priv))
  | 0x006 => some (BitVec.ofNat 64 (s.cx.frm.toNat * 2 ^ 5 + s.cx.fxs.toNat))
  | 0x007 => some s.cx.lmoor
  | 0x008 => some s.cx.nhpc
  | 0x009 => some s.cx.nhwp
  | 0x00A => some (BitVec.ofNat 64 s.cx.cseq.toNat)
  | 0x00B => some s.cx.msp
  | 0x00C => some (BitVec.ofNat 64 s.cx.srseed.toNat)
  | 0x040 => some (BitVec.ofNat 64 (s.cx.cur.info.toNat % 2 ^ 8))
  | 0x041 => some s.cx.cur.tval
  | 0x042 => some s.cx.cur.tpc
  | 0x043 => some (s.cbOf s.cur s.c)
  | 0x044 => some s.cx.cur.info
  | 0x045 => some s.cx.twb
  | 0x046 => some s.cx.cur.fpc
  | 0x047 => some s.cx.asr
  | 0x048 => some s.cx.ptroot
  | 0x049 => some s.cx.drsel
  | 0x04B => some s.cx.drply
  | 0x04C => some (if s.kind = .slice then BitVec.ofNat 64 (s.cx.arb.toNat * 2 ^ 32 + s.cx.chk.toNat * 2 ^ 26 + s.cx.pe.toNat * 2 ^ 24 + s.cx.sel.toNat)
      else 0#64)
  | 0x04D => some s.cx.ctab
  | 0x060 => some s.ux.tvec
  | 0x061 => some (BitVec.ofNat 64 (s.ux.fence.toNat * 2 ^ 12))
  | 0x062 => some (BitVec.ofNat 64 s.ux.maxmsg.toNat)
  | 0x063 => some (if s.kind = .far then BitVec.ofNat 64 (s.ux.mrqb.toNat * 2 ^ 10) else 0#64)
  | 0x064 => some (BitVec.ofNat 64 s.ux.hend.toNat)
  | 0x065 => some (BitVec.ofNat 64 s.ux.hdead.toNat)
  | 0x066 => some s.ux.lapres
  | 0x068 => some (if s.kind = .slice then BitVec.ofNat 64 (s.slice s.ownSlice).plsel.toNat else 0#64)
  | 0x06A => some s.ux.trsel
  | 0x06D => some s.ux.usave
  | 0x06F => some (BitVec.ofNat 64 ((match s.kind with | .far => 0 | .slice => 1 | .stack => 2) * 2 ^ 10 + s.cur % 512))
  | 0x070 => some s.ux.errlog
  | 0x071 => some (if s.cx.priv = .u then 0#64 else s.ux.mroot)
  | 0x072 => some (if s.cx.priv = .u then 0#64 else s.ux.mtvec)
  | _ => none

/-- The registers whose read clears them, cleared (R7). -/
def cleared (s : State) : Nat → State
  | 0x064 => s.modU fun y => { y with hend := 0#11 }
  | 0x065 => s.modU fun y => { y with hdead := 0#11 }
  | 0x070 => s.modU fun y => { y with errlog := 0#64 }
  | _ => s

/-- No instruction stands before the access of a system register that would hold it (R234, R274). -/
def Unheld (s : State) : Prop :=
  (∀ k ∈ s.ux.vq, k.ctx ≠ s.c) ∧ s.ux.replay = [] ∧ (s.kind = .slice → (s.slice s.ownSlice).fifo = [])

/-- INFO of the current entry after a write of TSTAT by a level (R391): ACT as written; PPRIV as written, but for 0b10 and for a level above
the writer's own. -/
def tstatInfo (info v : Word) (writer : Level) : Word :=
  let code := v.toNat / 2 ^ 58 % 4
  let p := if code = 2 ∨ privCode writer < code then info.toNat / 2 ^ 58 % 4 else code
  BitVec.ofNat 64 (info.toNat / 2 ^ 63 * 2 ^ 63 + (v.toNat / 2 ^ 62 % 2) * 2 ^ 62 + info.toNat / 2 ^ 60 % 4 * 2 ^ 60 + p * 2 ^ 58
    + info.toNat % 2 ^ 58)

/-- What a write by S or M level does, for the registers whose write needs no park and no FIFO and changes one field. -/
def srwWrite (r : Nat) (v : Word) (s : State) : Option State :=
  match r with
  | 0x005 => some (s.modC fun x => { x with
      fxs := BitVec.ofNat 5 (v.toNat / 2 ^ 8)
      frm := if v.toNat / 2 ^ 5 % 2 ^ 3 ≤ 5 then BitVec.ofNat 3 (v.toNat / 2 ^ 5) else x.frm
      ve := v.getLsbD 4
      priv := if v.toNat % 4 = 3 ∧ x.priv = .m then .m else if v.toNat % 4 = 1 ∧ x.priv ≠ .u then .s
        else if v.toNat % 4 = 0 then .u else x.priv })
  | 0x007 => some (s.modC fun x => { x with lmoor := v &&& 0xE0000000000FFFFF#64 })
  | 0x008 => some (s.modC fun x => { x with nhpc := v })
  | 0x009 => some (s.modC fun x => { x with nhwp := v })
  | 0x00B => some (s.modC fun x => { x with msp := v })
  | 0x047 => some (s.modC fun x => { x with asr := v &&& 0x00000FFF0000FFFF#64 })
  | 0x048 => some (s.modC fun x => { x with ptroot := v &&& 0x000FFFFFFFFFC000#64 })
  | 0x049 => some (s.modC fun x => { x with drsel := v &&& 0x000000000007FFFF#64 })
  | 0x04D => some (s.modC fun x => { x with ctab := v })
  | 0x060 => some (s.modU fun y => { y with tvec := v })
  | 0x061 => some (s.modU fun y => { y with fence := BitVec.ofNat 8 (v.toNat / 2 ^ 12) })
  | 0x063 => some (if s.kind = .far then s.modU fun y => { y with mrqb := BitVec.ofNat 10 (v.toNat / 2 ^ 10) } else s)
  | 0x068 => some (if s.kind = .slice then s.modSlice s.ownSlice fun y => { y with plsel := BitVec.ofNat 5 v.toNat } else s)
  | 0x06A => some (s.modU fun y => { y with trsel := v &&& 0x00000000000033FF#64 })
  | 0x06D => some (s.modU fun y => { y with usave := v })
  | _ => none

/-- The registers that a program only reads (Access RO and RC). -/
def readOnlyReg (r : Nat) : Bool :=
  [0x000, 0x00A, 0x00D, 0x040, 0x041, 0x042, 0x043, 0x046, 0x04A, 0x04C, 0x064, 0x065, 0x066, 0x06E, 0x06F, 0x070].contains r

/-! ## Floating point (09_formats R186 to R212) -/

/-- A floating result: register, bits, flags, whether the rounding draws from the LFSR, and whether the result is deferred (R197, R212). -/
structure FpForm where
  d : Reg
  bits : Nat
  flags : Flags
  draws : Bool
  deferred : Bool

/-- The operand of a format in a register (R201). -/
def fpIn (dbl : Bool) (w : Word) : Nat := if dbl then w.toNat else w.toNat % 2 ^ 32

/-- The results of majors 0x13 to 0x15: one rounding from the exact value, in the mode of the rm field or of FRM (R195, R203 to R210). -/
def fpForm (s : State) : Instr → Option FpForm
  | .fadd z rm d a b => bin .add z rm d a b false
  | .fsub z rm d a b => bin .sub z rm d a b false
  | .fmul z rm d a b => bin .mul z rm d a b false
  | .fdiv z rm d a b => bin .div z rm d a b true
  | .fsqrt z rm d a => some (of d (fpSqrt (fm z) (s.cx.mode rm) (s.draw (s.cx.mode rm)) (fpIn z (s.g a))) (s.cx.mode rm == .sr) true)
  | .fmin z d a b => some (of d (fpMinMax (fm z) false (fpIn z (s.g a)) (fpIn z (s.g b))) false false)
  | .fmax z d a b => some (of d (fpMinMax (fm z) true (fpIn z (s.g a)) (fpIn z (s.g b))) false false)
  | .fsgn z d a b => some (of d (sign z (fpIn z (s.g a)) ((fpIn z (s.g b)).testBit (width z - 1)), 0#5) false false)
  | .fsgnn z d a b => some (of d (sign z (fpIn z (s.g a)) (! (fpIn z (s.g b)).testBit (width z - 1)), 0#5) false false)
  | .fsgnx z d a b =>
    some (of d (sign z (fpIn z (s.g a)) ((fpIn z (s.g a)).testBit (width z - 1) ^^ (fpIn z (s.g b)).testBit (width z - 1)), 0#5) false false)
  | .feq z d a b => cmp .eq z d a b
  | .flt z d a b => cmp .lt z d a b
  | .fle z d a b => cmp .le z d a b
  | .fclass z d a => some (of d (2 ^ fpClass (fm z) (fpIn z (s.g a)), 0#5) false false)
  | .fma z rm d a b => fused .fma z rm d a b
  | .fms z rm d a b => fused .fms z rm d a b
  | .fnma z rm d a b => fused .fnma z rm d a b
  | .cvt ovf rm dst src d a =>
    let r := convert ovf dst src (s.cx.mode rm) (s.draw (s.cx.mode rm)) (s.g a).toNat
    some ⟨d, if fmtWidth dst = 32 ∧ (dst = .s32 ∨ dst = .u32) then (sext 32 r.1).toNat else r.1, r.2, s.cx.mode rm == .sr, false⟩
  | _ => none
where
  fm (z : Bool) : BinFmt := if z then bFP64 else bFP32
  width (z : Bool) : Nat := if z then 64 else 32
  sign (z : Bool) (x : Nat) (neg : Bool) : Nat := x % 2 ^ (width z - 1) + neg.toNat * 2 ^ (width z - 1)
  of (d : Reg) (r : Nat × Flags) (draws deferred : Bool) : FpForm := ⟨d, r.1, r.2, draws, deferred⟩
  bin (op : FOp) (z : Bool) (rm : RM) (d a b : Reg) (deferred : Bool) : Option FpForm :=
    some (of d (fpOp (fm z) op (s.cx.mode rm) (s.draw (s.cx.mode rm)) (fpIn z (s.g a)) (fpIn z (s.g b))) (s.cx.mode rm == .sr) deferred)
  cmp (op : FCmpOp) (z : Bool) (d a b : Reg) : Option FpForm :=
    let r := fpCmp (fm z) op (fpIn z (s.g a)) (fpIn z (s.g b))
    some (of d (r.1.toNat, r.2) false false)
  fused (op : FmaOp) (z : Bool) (rm : RM) (d a b : Reg) : Option FpForm :=
    some (of d (fpFma (fm z) op (s.cx.mode rm) (s.draw (s.cx.mode rm)) (fpIn z (s.g a)) (fpIn z (s.g b)) (fpIn z (s.g d)))
      (s.cx.mode rm == .sr) false)

/-- A code is a NaN of FP32 or FP64: its magnitude lies above that of infinity (R186, R188). -/
def nanCode (z : Bool) (a : Nat) : Bool :=
  if z then decide (0x7FF0000000000000 < a % 2 ^ 63) else decide (0x7F800000 < a % 2 ^ 31)

/-- A signalling NaN: the top fraction bit is 0 (R188). -/
def sigCode (z : Bool) (a : Nat) : Bool := nanCode z a && ! a.testBit (if z then 51 else 22)

/-- A value that is neither a NaN nor an infinity. -/
def isFinite : FVal → Bool
  | .fin _ _ _ => true
  | _ => false

/-- The rational number that a finite value is. -/
def ratOf : FVal → ℚ
  | .fin neg num den => (if neg then -1 else 1) * ((num : ℚ) / den)
  | _ => 0

/-- The place of a code that is no NaN in the order of R206: sign and magnitude, the zeros alike. -/
def ordKey (z : Bool) (a : Nat) : Int :=
  let m : Nat := a % 2 ^ (if z then 63 else 31)
  if a.testBit (if z then 63 else 31) then -(m : Int) else m

/-! ## Coprocessor words (10_vector R214 to R221, 12_matrix R249, 13_array R273) -/

/-- What a vector word reads as it issues, and the register that its result is deferred to (R214, R217, R221, R230, R235, R236). -/
structure VForm where
  opa : Word
  opb : Word
  rm : RM
  dst : Option Reg

/-- The operands of a vector word: a masked word reads its mask unless the field is 0 (R214). -/
def vectorForm (g : Reg → Word) : Instr → Option VForm
  | .vld _ _ m => some ⟨g m, 0#64, .rne, none⟩
  | .vst _ _ m => some ⟨g m, 0#64, .rne, none⟩
  | .vlds _ _ m => some ⟨g m, g (m + 1#5), .rne, none⟩
  | .vsts _ _ m => some ⟨g m, g (m + 1#5), .rne, none⟩
  | .vldx _ _ _ m => some ⟨g m, 0#64, .rne, none⟩
  | .vstx _ _ _ m => some ⟨g m, 0#64, .rne, none⟩
  | .vldbc _ _ m => some ⟨g m, 0#64, .rne, none⟩
  | .vstm _ _ m => some ⟨g m, g (m + 1#5), .rne, none⟩
  | .vadd _ m _ _ _ | .vsub _ m _ _ _ | .vmul _ m _ _ _ | .vmulh _ m _ _ _ | .vmac _ m _ _ _ | .vmin _ m _ _ _ | .vmax _ m _ _ _ | .vminu _ m _ _ _ | .vmaxu _ m _ _ _
  | .vand _ m _ _ _ | .vor _ m _ _ _ | .vxor _ m _ _ _ | .vshl _ m _ _ _ | .vshr _ m _ _ _ | .vsar _ m _ _ _ | .vclmul _ m _ _ _ | .vclmulh _ m _ _ _ | .vpopc _ m _ _ => some ⟨mask m, 0#64, .rne, none⟩
  | .vfadd _ rm m _ _ _ | .vfsub _ rm m _ _ _ | .vfmul _ rm m _ _ _ | .vfma _ rm m _ _ _ | .vfdiv _ rm m _ _ _ | .vfsqrt _ rm m _ _ => some ⟨mask m, 0#64, rm, none⟩
  | .vfmin _ m _ _ _ | .vfmax _ m _ _ _ => some ⟨mask m, 0#64, .rne, none⟩
  | .vcmp _ _ m k _ _ | .vfcmp _ _ m k _ _ => some ⟨mask m, 0#64, .rne, some (BitVec.ofNat 5 (k.toNat + 8))⟩
  | .vsel _ _ _ _ m | .vbcast _ _ m | .vins _ _ m _ _ | .vslide _ _ _ m => some ⟨g m, 0#64, .rne, none⟩
  | .vext _ m _ _ _ => some ⟨0#64, 0#64, .rne, some m⟩
  | .vperm _ _ _ _ => some ⟨0#64, 0#64, .rne, none⟩
  | .vred (.fadd rm) _ _ _ => some ⟨0#64, 0#64, rm, none⟩
  | .vred _ _ _ _ => some ⟨0#64, 0#64, .rne, none⟩
  | .vcvt _ m _ _ _ _ | .vdot _ m _ _ _ => some ⟨mask m, 0#64, .dyn, none⟩
  | .vmxs _ _ _ | .vmxq _ _ _ _ | .vmxd _ _ _ _ => some ⟨0#64, 0#64, .dyn, none⟩
  | _ => none
where
  mask (m : Reg) : Word := if m = 0#5 then 0#64 else g m

/-- What a matrix word but MPOP reads as it issues: K, OPA, OPB; a field that a word does not have reads g0 (R249). -/
def matrixForm (g : Reg → Word) : Instr → Option (Bool × Word × Word)
  | .mfmt k a | .mprog k _ a | .mtlist k _ a => some (k, g a, g 0#5)
  | .mzero k _ => some (k, g 0#5, g 0#5)
  | .mma k _ a b | .mmas k _ a b | .mldc k _ a b | .mstc k _ a b | .mrec k _ a b => some (k, g a, g b)
  | _ => none

/-- What an array word but AWAIT reads as it issues: OPA and OPB (R273). -/
def arrayForm (g : Reg → Word) : Instr → Option (Word × Word)
  | .aand _ _ _ | .aor _ _ _ | .axor _ _ _ | .anor _ _ _ | .anand _ _ _ | .axnor _ _ _ | .anot _ _ | .acopy _ _ | .afadd _ _ _
  | .afsub _ _ _ | .aldp _ _ | .aldc _ _ | .astp _ | .astc _ | .ashl _ _ | .ashr _ _ | .adot | .abuf _ => some (0#64, 0#64)
  | .aadd _ d a b | .asub _ d a b | .amul _ d a b | .amac _ d a b | .acmplt _ d a b | .amax _ d a b | .aadds _ d a b
  | .asubs _ d a b => some (rows d a b, 0#64)
  | .aneg _ d a | .aabs _ d a => some (rows d a 0#5, 0#64)
  | .asel a | .asetrb a | .achk a => some (g a, 0#64)
  | .axin a b | .axout a b => some (g a, g b)
  | .aout _ b => some (0#64, g b)
  | _ => none
where
  rows (d a b : Reg) : Word :=
    BitVec.ofNat 64 ((g d).toNat % 256 * 2 ^ 16 + (g a).toNat % 256 * 2 ^ 8 + (g b).toNat % 256)

/-- No fault recorded and no replay: a coprocessor word of the issuing context dispatches without a park (R216, R219, R227). -/
def QuietCop (s : State) : Prop := s.cx.late = [] ∧ s.ux.replay = []

/-- The issuing context has dispatched a coprocessor word (R221): its number is used, and its entry stands last in the ring. -/
def Dispatched (s t : State) (unit : Nat) (opa opb : Word) (st : BitVec 4) : Prop :=
  t.pc = s.pc + 4#64 ∧ t.cx.cseq = s.cx.cseq + 1#16 ∧ t.mem = s.mem ∧ (∀ r, t.g r = s.g r)
    ∧ t.cx.dring.getLast? = some ⟨s.pc, s.cx.cseq, 0#8, BitVec.ofNat 4 unit, st, s.ux.word, opa, opb, 0#64⟩

/-- The vector unit can run a word of the issuing context at once: nothing is queued or recorded, and no command stands before it
(R216 to R219, R287). -/
def VectorFree (s : State) : Prop :=
  QuietCop s ∧ s.flight = [] ∧ s.cx.blocked = [] ∧ s.upsets = [] ∧ s.async = false ∧ s.cx.ve = true ∧ s.ux.vq = [] ∧ s.cx.defs = [] ∧ s.ux.matrix.fifo = []
    ∧ (s.kind = .slice → (s.slice s.ownSlice).fifo = [])

/-- Element i of n bits of a vector register (R213). -/
def lane (n : Nat) (v : BitVec 2048) (i : Nat) : Nat := v.toNat / 2 ^ (n * i) % 2 ^ n

/-- Op of R232 at width n, modulo 2^n: operands u and v, old destination t. -/
def laneOp (n u v t : Nat) : Instr → Option Int
  | .vadd _ _ _ _ _ => some (u + v)
  | .vsub _ _ _ _ _ => some (u - v)
  | .vmul _ _ _ _ _ => some (u * v)
  | .vmulh _ _ _ _ _ => some (sgn n u * sgn n v / 2 ^ n)
  | .vmac _ _ _ _ _ => some (t + u * v)
  | .vmin _ _ _ _ _ => some (if sgn n u ≤ sgn n v then u else v)
  | .vmax _ _ _ _ _ => some (if sgn n u ≥ sgn n v then u else v)
  | .vminu _ _ _ _ _ => some (min u v : Nat)
  | .vmaxu _ _ _ _ _ => some (max u v : Nat)
  | .vand _ _ _ _ _ => some (u &&& v : Nat)
  | .vor _ _ _ _ _ => some (u ||| v : Nat)
  | .vxor _ _ _ _ _ => some (u ^^^ v : Nat)
  | .vshl _ _ _ _ _ => some (shlR u (v % n))
  | .vshr _ _ _ _ _ => some (shrR u (v % n))
  | .vsar _ _ _ _ _ => some (sarR n u (v % n))
  | .vclmul _ _ _ _ _ => some (clm u v % 2 ^ n : Nat)
  | .vclmulh _ _ _ _ _ => some (clm u v / 2 ^ n : Nat)
  | .vpopc _ _ _ _ => some (popcR n u)
  | _ => none

/-- Width, mask field, destination and operands of a VINT word (R232). -/
def laneWord : Instr → Option (VWidth × Reg × VReg × VReg × VReg)
  | .vadd w m d a b | .vsub w m d a b | .vmul w m d a b | .vmulh w m d a b | .vmac w m d a b | .vmin w m d a b | .vmax w m d a b
  | .vminu w m d a b | .vmaxu w m d a b | .vand w m d a b | .vor w m d a b | .vxor w m d a b | .vshl w m d a b | .vshr w m d a b
  | .vsar w m d a b | .vclmul w m d a b | .vclmulh w m d a b => some (w, m, d, a, b)
  | .vpopc w m d a => some (w, m, d, a, a)
  | _ => none

/-- Active(i) of R214 for elements of n bits: every element where the mask field is 0, else bit i × n div 32 of the mask. -/
def laneOn (g : Reg → Word) (m : Reg) (n i : Nat) : Bool := m == 0#5 || (g m).getLsbD (i * n / 32)

/-- The bits of an element width (R213). -/
def laneBitsOf : VWidth → Nat
  | .b8 => 8
  | .h16 => 16
  | .w32 => 32
  | .d64 => 64

/-- A vector word has written one register of the issuing context, with no other effect but its number, its entry and the PC. -/
def LanesWritten (s t : State) (d : VReg) (n : Nat) (f : Nat → Nat) : Prop :=
  (∀ i, i < 2048 / n → lane n (t.v s.cur s.c d) i = f i) ∧ (∀ r, r ≠ d → t.v s.cur s.c r = s.v s.cur s.c r)
    ∧ t.mem = s.mem ∧ (∀ r, t.g r = s.g r) ∧ t.pc = s.pc + 4#64 ∧ t.cx.cseq = s.cx.cseq + 1#16 ∧ t.cx.defs = []
    ∧ t.cx.late = [] ∧ t.ux.vq = []

/-- The condition of VCMP on elements of n bits (R235). -/
def laneHolds (c : VCond) (n u v : Nat) : Bool :=
  match c with
  | .eq => u == v
  | .ne => u != v
  | .lt => decide (sgn n u < sgn n v)
  | .ge => decide (sgn n u ≥ sgn n v)
  | .ltu => decide (u < v)
  | .geu => decide (u ≥ v)

/-! ## Floating vector words (09_formats R197, R200; 10_vector R233 to R241) -/

/-- The LFSR after a number of steps (R197). -/
def lfsrAfter (n : Nat) (s : Word32) : Word32 := lfsrStep^[n] s

/-- The LFSR that rounding number n of an instruction uses: stepped once for each rounding up to it in SR, else as it stands (R197, R234). -/
def seedOf (m : RM) (s : Word32) (n : Nat) : Word32 := if m = .sr then lfsrAfter (n + 1) s else s

/-- The flags of several results together (R198). -/
def flagsOf (l : List Flags) : Flags := l.foldl (· ||| ·) 0#5

/-- A vector word has written the lanes of a register and these flags, with a number of roundings. -/
def FpLanesWritten (s t : State) (d : VReg) (n : Nat) (m : RM) (steps : Nat) (fl : Flags) (f : Nat → Nat) : Prop :=
  LanesWritten s t d n f ∧ t.cx.fxs = s.cx.fxs ||| fl ∧ t.cx.srseed = (if m = .sr then lfsrAfter steps s.cx.srseed else s.cx.srseed)

/-- Active lanes of index order below an index, and the roundings that came before it (R214, R234). -/
def activeBelow (on : Nat → Bool) (i : Nat) : Nat := ((List.range i).filter on).length

/-- A vector word has rounded every active lane of `count` in index order, kept the others, and left lanes past `count` as `rest` says. -/
def RoundedLanes (s t : State) (d : VReg) (n : Nat) (m : RM) (count : Nat) (on : Nat → Bool) (rest : Nat → Nat)
    (f : Nat → Word32 → Nat × Flags) : Prop :=
  let r := fun i => f i (seedOf m s.cx.srseed (activeBelow on i))
  FpLanesWritten s t d n m (activeBelow on count) (flagsOf (((List.range count).filter on).map fun i => (r i).2))
    fun i => if i < count ∧ on i = true then (r i).1 % 2 ^ n else rest i

/-- Format, mask, destination, operands and mode of a VFP word; in the last place the result of one lane from its operands and the old
destination (R233). -/
def vfpWord : Instr → Option (Bool × RM × Reg × VReg × VReg × VReg × (BinFmt → RM → Word32 → Nat → Nat → Nat → Nat × Flags))
  | .vfadd z rm m d a b => some (z, rm, m, d, a, b, fun f r s x y _ => fpOp f .add r s x y)
  | .vfsub z rm m d a b => some (z, rm, m, d, a, b, fun f r s x y _ => fpOp f .sub r s x y)
  | .vfmul z rm m d a b => some (z, rm, m, d, a, b, fun f r s x y _ => fpOp f .mul r s x y)
  | .vfdiv z rm m d a b => some (z, rm, m, d, a, b, fun f r s x y _ => fpOp f .div r s x y)
  | .vfma z rm m d a b => some (z, rm, m, d, a, b, fun f r s x y t => fpFma f .fma r s x y t)
  | .vfsqrt z rm m d a => some (z, rm, m, d, a, a, fun f r s x _ _ => fpSqrt f r s x)
  | .vfmin z m d a b => some (z, .rne, m, d, a, b, fun f _ _ x y _ => fpMinMax f false x y)
  | .vfmax z m d a b => some (z, .rne, m, d, a, b, fun f _ _ x y _ => fpMinMax f true x y)
  | _ => none

/-- Node i of level k of the pairwise tree over `count` leaves; `f` is given the number of the combination, level by level (R200). -/
def treeNode (count : Nat) (leaf : Nat → Nat) (f : Nat → Nat → Nat → Nat × Flags) : Nat → Nat → Nat
  | 0, i => leaf i
  | k + 1, i => (f (count - count / 2 ^ k + i) (treeNode count leaf f k (2 * i)) (treeNode count leaf f k (2 * i + 1))).1

/-- The flags of every combination of the tree's first `depth` levels. -/
def treeFlags (count : Nat) (leaf : Nat → Nat) (f : Nat → Nat → Nat → Nat × Flags) (depth : Nat) : Flags :=
  flagsOf ((List.range depth).flatMap fun k => (List.range (count / 2 ^ (k + 1))).map fun i =>
    (f (count - count / 2 ^ k + i) (treeNode count leaf f k (2 * i)) (treeNode count leaf f k (2 * i + 1))).2)

/-- One combination of VRED on elements of n bits (R237). -/
def redPair (op : RedOp) (m : RM) (n : Nat) (seed : Word32) (x y : Nat) : Nat × Flags :=
  let f := if n = 64 then bFP64 else bFP32
  match op with
  | .add => ((x + y) % 2 ^ n, 0#5)
  | .min => (if sgn n x ≤ sgn n y then x else y, 0#5)
  | .max => (if sgn n x ≥ sgn n y then x else y, 0#5)
  | .minu => (min x y, 0#5)
  | .maxu => (max x y, 0#5)
  | .and => (x &&& y, 0#5)
  | .or => (x ||| y, 0#5)
  | .xor => (x ^^^ y, 0#5)
  | .fadd _ => fpOp f .add m seed x y
  | .fmin => fpMinMax f false x y
  | .fmax => fpMinMax f true x y

/-- One first-level rounding of VDOT on FP32: the exact sum of two exact products, an inactive one +0 (R241). -/
def dotPair (m : RM) (seed : Word32) (on : Nat → Bool) (x y : Nat → Nat) (i : Nat) : Nat × Flags :=
  let p := fun k => if on k then (bFP32.decode (x k)).mul (bFP32.decode (y k)) else (.fin false 0 1, 0#5)
  let sig := fun k => if on k then sigFlag (bFP32.decode (x k)) ||| sigFlag (bFP32.decode (y k)) else 0#5
  let r := (p (2 * i)).1.add m (p (2 * i + 1)).1
  let e := bFP32.deliver .ieee m seed r.1
  (e.1, r.2 ||| e.2 ||| (p (2 * i)).2 ||| (p (2 * i + 1)).2 ||| sig (2 * i) ||| sig (2 * i + 1))

/-! ## Array commands (13_array R281 to R287) -/

/-- The command that a slice executes next, from its beginning, with no fault recorded, no derivation rule and no error standing. -/
def ArrayNext (s : State) (sl : Nat) (k : ArrayCmd) : Prop :=
  s.arrayHead sl = some k ∧ (s.ctx (Config.sliceUnit0 + sl) k.ctx).late = [] ∧ k.done = 0 ∧ s.upsets = [] ∧ s.rules = [] ∧ s.stale = []
    ∧ s.memOk ∧ sl < 512

/-- A macro of two sources or one: its operand width, its result's width, its sources, and its result in one column from the sources' bands x
and y and what the destination's band holds (R281, R282). -/
def macroWord : Instr → Option (Nat × Nat × Bool × (Nat → Nat → Nat → Int))
  | .aadd w _ _ _ => some (w.toNat, w.toNat, true, fun x y _ => x + y)
  | .asub w _ _ _ => some (w.toNat, w.toNat, true, fun x y _ => x - y)
  | .amul w _ _ _ => some (w.toNat, 2 * w.toNat, true, fun x y _ => sgn w.toNat x * sgn w.toNat y)
  | .amac w _ _ _ => some (w.toNat, 2 * w.toNat, true, fun x y t => t + sgn w.toNat x * sgn w.toNat y)
  | .acmplt w _ _ _ => some (w.toNat, 1, true, fun x y _ => one (decide (sgn w.toNat x < sgn w.toNat y)))
  | .amax w _ _ _ => some (w.toNat, w.toNat, true, fun x y _ => max (sgn w.toNat x) (sgn w.toNat y))
  | .aneg w _ _ => some (w.toNat, w.toNat, false, fun x _ _ => - sgn w.toNat x)
  | .aabs w _ _ => some (w.toNat, w.toNat, false, fun x _ _ => if sgn w.toNat x < 0 then - sgn w.toNat x else sgn w.toNat x)
  | .aadds w _ _ _ => some (w.toNat, w.toNat, true, fun x y _ => sat w.toNat (sgn w.toNat x + sgn w.toNat y))
  | .asubs w _ _ _ => some (w.toNat, w.toNat, true, fun x y _ => sat w.toNat (sgn w.toNat x - sgn w.toNat y))
  | _ => none
where
  sat (w : Nat) (x : Int) : Int := max (- 2 ^ (w - 1)) (min x (2 ^ (w - 1) - 1))

/-- Two bands of rows share none (R283). -/
def Apart (a wa b wb : Nat) : Prop := ∀ i j, i < wa → j < wb → (a + i) % 256 ≠ (b + j) % 256

/-- The place of a macro's destination against its sources (R283). -/
def MacroPlaced (i : Instr) (w wd rd ra rb : Nat) (two : Bool) : Prop :=
  match i with
  | .acmplt _ _ _ _ => True
  | .amul _ _ _ _ | .amac _ _ _ _ => Apart rd wd ra w ∧ Apart rd wd rb w
  | _ => rd = ra ∨ (two = true ∧ rd = rb) ∨ (Apart rd wd ra w ∧ (two = true → Apart rd wd rb w))

/-- The number that w rows from a base hold in one column, the first row least significant (R281). -/
def bandNat (s : State) (sl y base w c : Nat) : Nat := digits 2 w fun t => ((s.row sl y ((base + t) % 256)).getLsbD c).toNat

/-- The operand of a move is accepted (R286): no reserved bit; a whole array, or a band of a plot. -/
def MoveOk (w : Word) : Prop :=
  let n := w.toNat
  n < 2 ^ 32 ∧ n / 2 ^ 7 % 2 ^ 9 = 0
    ∧ ((n / 2 ^ 30 < 2 ∧ n / 2 ^ 16 % 2 ^ 14 = 0 ∧ n % 2 ^ 7 < 96)
      ∨ (n / 2 ^ 30 = 2 ∧ 1 ≤ n / 2 ^ 24 % 2 ^ 6 ∧ n / 2 ^ 24 % 2 ^ 6 ≤ 32 ∧ n % 2 ^ 7 < 24))

/-! ## Matrix grants (12_matrix R247, R250, R258 to R264) -/

/-- Cell (i, j) of an accumulator slot, of one 32-bit word or of two (R247). -/
def cellNat (v : SMap Word32) (dbl : Bool) (i j : Nat) : Nat :=
  if dbl then (SMap.get v (128 * i + 2 * j) 0#32).toNat + 2 ^ 32 * (SMap.get v (128 * i + 2 * j + 1) 0#32).toNat
  else (SMap.get v (128 * i + j) 0#32).toNat

/-- Every cell i < m, j < n of a slot holds a value, and every other word of the slot is as it was (R247). -/
def CellsLeft (f : MatShape) (v w : SMap Word32) (val : Nat → Nat → Nat) : Prop :=
  (∀ i j, i < f.m → j < f.n → cellNat w (f.acc == 1) i j = val i j)
    ∧ ∀ q, q < 128 * 128 → ¬ (q / 128 < f.m ∧ q % 128 < f.n * f.cell / 4) → SMap.get w q 0#32 = SMap.get v q 0#32

/-- Element k of row i of an operand in local memory, its rows of `len` bytes at a stride and its elements of w bits (R258). -/
def operandAt (s : State) (u base stride len w i k : Nat) : Nat :=
  (leNat len fun b => s.mem.read (localPa u (base + i * stride + b))) / 2 ^ (w * k) % 2 ^ w

/-- What an A × Bᵀ leaves in one cell: an integer sum modulo 2^32; else per group of R246 the exact sum of its exact products, rounded once to
FP32 and added in RNE, or, where a group is one product, one rounding in the accumulator's format (R258, R259). -/
def mmaCell (f : MatShape) (scaled : Bool) (c : Nat) (a b sa sb : Nat → Nat) : Nat :=
  if f.acc = 2 then
    (((c : Int) + ((List.range f.k).map fun e => sgn (fmtWidth f.fmtA) (a e) * sgn (fmtWidth f.fmtB) (b e)).sum) % 2 ^ 32).toNat
  else
    let p := fun e =>
      let x := matValue f.fmtA scaled (a e)
      let y := matValue f.fmtB scaled (b e)
      if scaled then
        if sa (e / 32) = 255 ∨ sb (e / 32) = 255 then .nan false else scaleF (x.mul y).1 ((sa (e / 32) : Int) + sb (e / 32) - 254)
      else (x.mul y).1
    if f.group = 1 then
      let g := if f.acc = 1 then bFP64 else bFP32
      (List.range f.k).foldl (fun c e => (g.deliver .ieee .rne 0#32 ((g.decode c).add .rne (p e)).1).1) c
    else
      (List.range (f.k / f.group)).foldl (fun c h =>
        (fpOp bFP32 .add .rne 0#32 c
          (bFP32.deliver .ieee .rne 0#32 (sumProducts ((List.range f.group).map fun e => p (h * f.group + e)))).1).1) c

/-- A command without a token that its cluster's unit grants next, no fault recorded for its context and no error standing (R250, R253). -/
def Granting (s : State) (cl u : Nat) (k : MatCmd) : Prop :=
  s.matNext cl = some (u, k) ∧ k.k = false ∧ (s.ctx u k.ctx).late = [] ∧ s.upsets = [] ∧ matOk (s.mat u).fmt = true ∧ s.memOk

/-- The head command of a core is complete and one slot holds v; the rest of the core's matrix state is as it was. -/
def SlotLeft (s t : State) (u : Nat) (slot : Bool) (v : SMap Word32) : Prop :=
  t.mat u = { (s.mat u).setAcc slot v with fifo := (s.mat u).fifo.drop 1, walk := none }

/-! ## Requests (21_system R403) -/

/-- The TLB entries that TLBINV removes, by KIND: every entry; the entries of an ASID but for global ones; those that hold VA, of the ASID or
global; those that hold VA (R403). -/
def tlbGone (e : TlbEntry) (va ctl : Word) : Bool :=
  let holds : Bool := decide (e.va ≤ va.toNat ∧ va.toNat < e.va + e.size)
  let same : Bool := decide (e.asid.toNat = ctl.toNat / 2 ^ 32 % 2 ^ 12)
  match ctl.toNat % 4 with
  | 0 => true
  | 1 => ! e.pte.getLsbD 5 && same
  | 2 => holds && (e.pte.getLsbD 5 || same)
  | _ => holds

/-! ## Row operations (13_array R278 to R280) -/

/-- The rows that an AROW word names: the destination where it has one, and the two that it senses (R278). -/
def rowNames : Instr → Option (Option RowOff × RowOff × RowOff)
  | .aand d a b | .aor d a b | .axor d a b | .anor d a b | .anand d a b | .axnor d a b | .afadd d a b | .afsub d a b => some (some d, a, b)
  | .anot d a | .acopy d a | .ashl d a | .ashr d a => some (some d, a, 0#7)
  | .aldp _ a | .aldc _ a => some (none, a, 0#7)
  | .astp d | .astc d => some (some d, 0#7, 0#7)
  | _ => none

/-- Src(m) of R280 in one column. -/
def latchIn (m : LatchSrc) (a p : Bool) : Bool :=
  match m with
  | .row => a
  | .notRow => ! a
  | .zero => false
  | .one => true
  | .andRow => p && a

/-- The destination row's bit in column j, of rows a and b and latches c and p (R278). -/
def rowBit (i : Instr) (a b c p : Nat → Bool) (j : Nat) : Option Bool :=
  match i with
  | .aand _ _ _ => some (a j && b j)
  | .aor _ _ _ => some (a j || b j)
  | .axor _ _ _ => some (a j != b j)
  | .anor _ _ _ => some (! (a j || b j))
  | .anand _ _ _ => some (! (a j && b j))
  | .axnor _ _ _ => some (a j == b j)
  | .anot _ _ => some (! a j)
  | .acopy _ _ => some (a j)
  | .afadd _ _ _ => some (((a j).toNat + (b j).toNat + (c j).toNat) % 2 == 1)
  | .afsub _ _ _ => some (((a j).toNat + (! b j).toNat + (c j).toNat) % 2 == 1)
  | .astp _ => some (p j)
  | .astc _ => some (c j)
  | .ashl _ _ => some (j != 0 && a (j - 1))
  | .ashr _ _ => some (a (j + 1))
  | _ => none

/-- Latch C in column j, where the word writes it (R278). -/
def carryBit (i : Instr) (a b c p : Nat → Bool) (j : Nat) : Option Bool :=
  match i with
  | .afadd _ _ _ => some (decide (2 ≤ (a j).toNat + (b j).toNat + (c j).toNat))
  | .afsub _ _ _ => some (decide (2 ≤ (a j).toNat + (! b j).toNat + (c j).toNat))
  | .aldc m _ => some (latchIn m (a j) (p j))
  | _ => none

/-- Latch P in column j, where the word writes it (R278). -/
def predBit (i : Instr) (a p : Nat → Bool) (j : Nat) : Option Bool :=
  match i with
  | .aldp m _ => some (latchIn m (a j) (p j))
  | _ => none

/-! ## Messages (08_messages R163 to R181) -/

/-- The local offset and the length that a spec holds (R165). -/
def specOf (w : Word) : Nat × Nat := (w.toNat % 2 ^ 20, w.toNat / 2 ^ 32 % 2 ^ 11)

/-- The checks of R166 pass for a local range and a remote address, and leave the context as it was; accesses are posted; a word that is
posted finds a place in the store queue, no acquire before it under way, and no earlier access of the context but a store yet to write local bytes
that it sends. -/
def MsgOk (s : State) (off n : Nat) (ra : Word) (load farOnly : Bool) (s1 : State) (pa : Nat) : Prop :=
  n ≤ s.ux.maxmsg.toNat ∧ s.localRangeOk off n = true ∧ s.checkRemote ra n load farOnly = .ok (s1, pa)
    ∧ s1.async = true ∧ s1.flight = s.flight ∧ s1.mem = s.mem ∧ s1.po = s.po ∧ s1.pc = s.pc ∧ (∀ r, s1.g r = s.g r)
    ∧ (load = false → s1.storesFull s1.cur = false ∧ s1.ownPending off n = false)

/-- An access has been posted with an effective and a physical address and what it does, and the word passed. -/
def Posted (s s1 t : State) (ea : Word) (pa : Nat) (act : Action) : Prop :=
  (∃ r, t.flight = s.flight ++ [r] ∧ r.ea = ea ∧ r.pa = pa ∧ r.act = act ∧ r.who = s1.issuer s1.cur s1.c ∧ r.po = s.po)
    ∧ t.mem = s.mem ∧ t.pc = s.pc + 4#64

/-- The message that SEND makes of a payload and a tag (R175, R179). -/
def sentMessage (s : State) (tag : Word) (payload : List Byte) : Message where
  handOff := false
  dev := s.dev
  src := s.cur % 512
  kind := s.kind
  ctx := s.c
  wte := 0
  tag := BitVec.ofNat 32 (tag.toNat / 2 ^ 32)
  payload := payload

/-! ## Engines (18_engines R350 to R363) -/

/-- What an engine word pushes (R351, R352): its code, N, the destination, OPA and OPB, and whether OPA names a block. -/
structure EngForm where
  op : Nat
  n : Bool
  opd : Word
  opa : Word
  opb : Word
  block : Bool

/-- The engine words (R351, R358 to R363). -/
def engineForm (g : Reg → Word) : Instr → Option EngForm
  | .ecpy n d a b => some ⟨0, n, g d, g a, g b, false⟩
  | .ecpy2 n a b => some ⟨1, n, 0#64, g a, g b, true⟩
  | .egath n a b => some ⟨2, n, 0#64, g a, g b, true⟩
  | .escat n a b => some ⟨3, n, 0#64, g a, g b, true⟩
  | .efill n d a b => some ⟨4, n, g d, g a, g b, false⟩
  | .eovl n a b => some ⟨5, n, 0#64, g a, g b, false⟩
  | .ebulk n a b => some ⟨8, n, 0#64, g a, g b, true⟩
  | _ => none

/-- The fields of a command's token (R350). -/
def tokenHolds (w : Word) (k : EngCmd) (err mis sub chunks : Nat) : Prop :=
  w.toNat / 2 ^ 63 = 1 ∧ w.toNat / 2 ^ 62 % 2 = err ∧ w.toNat / 2 ^ 61 % 2 = mis ∧ w.toNat / 2 ^ 52 % 16 = k.op % 16
    ∧ w.toNat / 2 ^ 48 % 16 = k.ctx % 16 ∧ w.toNat / 2 ^ 32 % 2 ^ 16 = k.tag % 2 ^ 16 ∧ w.toNat / 2 ^ 24 % 256 = sub % 256
    ∧ w.toNat % 2 ^ 24 = chunks % 2 ^ 24

/-- The engine of a unit is free, with a command's token more in its output; the token of a launch being cancelled is dropped (log entry
109). -/
def TokenOut (s t : State) (u : Nat) (k : EngCmd) (err mis sub chunks : Nat) : Prop :=
  (t.unit u).engine.begun = none
    ∧ (s.cancelling (s.ctx u k.ctx).lid = true → (t.unit u).engine.out = (s.unit u).engine.out)
    ∧ (s.cancelling (s.ctx u k.ctx).lid = false →
        ∃ w, (t.unit u).engine.out = (s.unit u).engine.out ++ [w] ∧ tokenHolds w k err mis sub chunks)

/-- The bytes that would be pinned in an overlay table (R362). -/
def pinBytes (os : Vector Overlay 16) (mask : Word) : Nat :=
  ((List.finRange 16).map fun i =>
    let e := os.get i
    if e.valid && (e.pinned || mask.getLsbD i.val) then e.len else 0).sum

/-- The address space of the issuing context. -/
def asidOf (s : State) : BitVec 12 := BitVec.ofNat 12 (s.cx.asr.toNat / 2 ^ 32)

/-! ## Tasks (16_tasks R312 to R341) -/

/-- The status of R333 that a grant or a failure gives. -/
def taskStatus (code : Nat) (ticket : Word32) (h q : Nat) : Word :=
  BitVec.ofNat 64 (code * 2 ^ 56 + ticket.toNat * 2 ^ 16 + ((if h < 512 then 0 else 2 ^ 13) + h % 512 * 8 + q) % 2 ^ 15)

/-- A task of a queue has been granted to a helper of a unit (R322): it is started and no longer resident, and the helper's task information
names its home queue, its ticket and, for a far body, FAR. -/
def Granted (s t : State) (u h q : Nat) (k : QTask) (n : Nat) (far : Bool) : Prop :=
  (t.queue h q).started = (s.queue h q).started ++ [k]
    ∧ (t.queue h q).resident = (s.queue h q).resident.filter (fun o => o != k)
    ∧ (s.memOk → t.loc64 u ((s.cbOf u n).toNat + 0x78)
        = BitVec.ofNat 64 (2 ^ 63 + 2 ^ 62 + (if far then 2 ^ 61 else 0) + k.ticket.toNat * 2 ^ 16
            + ((if h < 512 then 0 else 2 ^ 13) + h % 512 * 8 + q) % 2 ^ 15))

/-- A task of a queue has been taken whose body cannot begin (R322, R323): it is no longer resident, and none is started. -/
def NotStarted (s t : State) (h q : Nat) (k : QTask) : Prop :=
  (t.queue h q).started = (s.queue h q).started ∧ (t.queue h q).resident = (s.queue h q).resident.filter fun o => o != k

/-! ## Launches (23_device R419 to R426) -/

/-- A completion has been written to the ring of a queue that has room for it (R423). -/
def CompletionWritten (s t : State) (q : Nat) (c : Completion) : Prop :=
  t.hostMem = s.hostMem.writeBytes (((s.lq q).dw 4 &&& 0xFFFFFFFFFFFFF000#64).toNat
      + 32 * ((s.lq q).crtail.toNat % 2 ^ (s.lq q).crlog2)) c.bytes
    ∧ (t.lq q).crtail = (s.lq q).crtail + 1#32 ∧ (t.lq q).crhead = (s.lq q).crhead

/-- A queue takes completions at once. -/
def RingTakes (s : State) (q : Nat) : Prop := (s.lq q).held = [] ∧ (s.lq q).ringFull = false

/-- A helper has begun a body at an address (R323). -/
def BodyBegun (t : State) (u n : Nat) (pc : Word) (lid : Nat) : Prop :=
  (t.ctx u n).live = true ∧ (t.ctx u n).pc = pc ∧ (t.ctx u n).priv = .u ∧ (t.ctx u n).lid = lid


end Sys2Proof.Claims
end

