-- ==== Sys2Proof/Certificates/Slice0/Obligations.lean ====
section
/-! DEFINITION. The statements about the model, each from the numbered rules of the spec that its docstring names. A statement that rests
on a choice of the model says so and names the log entry. -/

section

open Sys2Proof Sys2Proof.Machine Sys2Proof.Claims

/-- For every well-formed instruction and either value of the switch marker, the decoder reads from the encoder's word that marker
and exactly that instruction, every operand at every value its field admits; so no bit of an encoding is dropped, S included.
(03_encoding R48, 03_encoding R49, 03_encoding R58) -/
def Obligations.EncodedInstructionDecodes : Prop :=
  ∀ (m : Bool) (i : Instr), i.wf = true → decode (encode m i) = some (m, i)

/-- Whatever word the decoder accepts, the instruction it gives is well formed, is no event of the device, and its encoding with
the marker read is that very word; so each accepted word has one meaning and every reserved field of it is as its encoding says.
(03_encoding R48, 03_encoding R54, 03_encoding R58) -/
def Obligations.DecodedWordIsItsEncoding : Prop :=
  ∀ (w : Word32) (m : Bool) (i : Instr), decode w = some (m, i) → i.wf = true ∧ i.isEvent = false ∧ encode m i = w

/-- The words that the spec works out for addw, xor, j, a taken-hint bnez, bbs, skip, ldhi, ldw, a marked ldw, stw, tkenqn, addi,
vfma, mma and the halves of a rpt example decode to those instructions, with the marker where the spec's statement has one; the
all-zero word, the all-ones word, a word of an unassigned major, a BR word with hint 0b11 and a BZ word with cond 0b110 decode to
nothing. (03_encoding R50, 03_encoding R51, 03_encoding R55, 03_encoding R58, 05_integer, 10_vector, 12_matrix, 16_tasks) -/
def Obligations.WorkedWordsDecode : Prop :=
  decode 0x02846200#32 = some (false, .addw 8#5 8#5 24#5) ∧ decode 0x0251100B#32 = some (false, .xor 5#5 2#5 4#5)
    ∧ decode 0x14000000#32 = some (false, .j 0#25) ∧ decode 0x1292FFFD#32 = some (false, .bnez .taken 5#5 0x7FFD#15)
    ∧ decode 0x10608804#32 = some (false, .bbs .standard 1#5 2#5 4#10) ∧ decode 0x0E008801#32 = some (false, .skip .standard .eq 1#5 2#5 1#3)
    ∧ decode 0x08412346#32 = some (false, .ldhi 4#5 0x12346#20) ∧ decode 0x1A8CA000#32 = some (false, .ldw 8#5 25#5 0#12)
    ∧ decode 0x9ABCA00C#32 = some (true, .ldw 11#5 25#5 0xC#12) ∧ decode 0x1C8CA000#32 = some (false, .stw 8#5 25#5 0#12)
    ∧ decode 0x50621401#32 = some (false, .tkenqn 6#5 4#5 5#5) ∧ decode 0x04428040#32 = some (false, .addi 4#5 5#5 0x40#12)
    ∧ decode 0x34810083#32 = some (false, .vfma false .rne 0#5 4#4 0#4 8#4) ∧ decode 0x40063432#32 = some (false, .mma true true 12#5 13#5)
    ∧ decode 0x3C007010#32 = some (false, .rpt 7#8 0#4 1#4)
    ∧ decode 0#32 = none ∧ decode 0xFFFFFFFF#32 = none ∧ decode 0x2C000000#32 = none ∧ decode 0x11908BFD#32 = none
    ∧ decode 0x12648010#32 = none

/-- When the schedule names a context that may issue, with no re-dispatch or halted replay of it due, the fetch gives a word that
decodes to an instruction, and no error of the hardware stands at the unit's results, the step is exec of that instruction at the
fetched state, in which the word is the one being issued, one word more counts toward the segment (none for a word that has made
its own park already) and a park is due where the marker is set or 255 words stand before it; the PC, the registers and memory are
as the fetch left them. The step adds to exec's answer only what the model's own bookkeeping keeps of the wakes of RECV and LAPW
(log entry 96, a choice of the model): where no context waits at either, its answer is exec's. (03_encoding R47, 03_encoding R59,
04_contexts R64, 08_messages R180, 16_tasks R341, 21_system R412, log entry 2, log entry 96) -/
def Obligations.StepRunsDecodedInstruction : Prop :=
  ∀ (s s1 : State) (u c : Nat) (async : Bool) (rest : List Choice) (w : Word32) (m : Bool) (i : Instr),
    s.sched = .issue u c async :: rest →
    State.issueReady { s with sched := rest } u c = true →
    State.redoDue (State.focus { s with sched := rest } u c async) u c = false →
    State.resumeDue (State.focus { s with sched := rest } u c async) u c = false →
    issueFetch (State.focus { s with sched := rest } u c async) = .word s1 w →
    decode w = some (m, i) → s1.upsetAt .scalar s1.cur = none →
    step s = latched (exec i (s1.loadWord w m))
      ∧ (∀ t : State, (∀ v ∈ t.units, ∀ x ∈ v.2.ctxs, ∀ d l r, x.2.wait ≠ some (.recv d l r) ∧ x.2.wait ≠ some (.lapw d)) →
          latched (.next t) = .next t)
      ∧ (s1.loadWord w m).mem = s1.mem ∧ (s1.loadWord w m).pc = s1.pc
      ∧ (s1.loadWord w m).ux.word = w
      ∧ (s1.loadWord w m).cx.seg = (if s1.cx.parked then s1.cx.seg else s1.cx.seg + 1)
      ∧ (s1.loadWord w m).cx.parking = (m || decide (255 ≤ s1.cx.seg))

/-- When the schedule names a context that may issue and the fetch gives a word that is no instruction, the step takes the precise
trap ILLEGAL at that word, its TVAL the word zero-extended. Where a resident overlay covers the PC, the fetched word is the four
little-endian bytes of the unit's code store at the overlay's offset plus the distance of the PC from the overlay's base; where
none does there is no word; and a change of memory at any address, such as a store to the virtual address of code, changes no
fetched word. (03_encoding R58, 03_encoding R59, 03_encoding R47, 18_engines R361) -/
def Obligations.FetchAndIllegalWords : Prop :=
  (∀ (s s1 : State) (u c : Nat) (async : Bool) (rest : List Choice) (w : Word32),
    s.sched = .issue u c async :: rest →
    State.issueReady { s with sched := rest } u c = true →
    State.redoDue (State.focus { s with sched := rest } u c async) u c = false →
    State.resumeDue (State.focus { s with sched := rest } u c async) u c = false →
    issueFetch (State.focus { s with sched := rest } u c async) = .word s1 w →
    decode w = none →
    step s = latched ((s1.loadWord w false).trap .illegal (w.setWidth 64)))
    ∧ (∀ (s : State) (u c : Nat) (pc : Word),
    (s.overlayOf u c pc = none → s.fetchAt u c pc = none)
    ∧ (∀ e w, s.overlayOf u c pc = some e → s.fetchAt u c pc = some w →
        ∀ k, k < 4 → w.extractLsb' (8 * k) 8 = (s.unit u).code.read (e.off + (pc.toNat - e.va.toNat) + k))
    ∧ (∀ e, s.overlayOf u c pc = some e → ∃ w, s.fetchAt u c pc = some w)
    ∧ (∀ m : Memory, State.fetchAt { s with mem := m } u c pc = s.fetchAt u c pc))

/-- Every instruction and every event of the table, at every state, answers a next state: what the spec makes an exception of is
taken as one, and what it lets wait, waits. (03_encoding R59, 21_system R393, 95_what_each_step_holds) -/
def Obligations.EveryInstructionGivesANextState : Prop :=
  ∀ (i : Instr) (s : State), ∃ t, exec i s = .next t

/-- Right after reset every context is not live and has CTLW of all zeros but VE set and level S, FRS with CAP 16, RES 1 and
SPILLED 0, LMOOR, NHPC, ASR, PTROOT, TWB, CTAB, DRSEL and DRPLY of 0, no replay record, a fault ring of eight entries of zeros, so
that no handler runs, and ARB, CHK, PE and SEL of 0; on every unit LMSB.FENCE is 0x80 on far cores and 0x10 on near units, MAXMSG
is 256, TVEC, MTVEC, MRQB, HEND, HDEAD, LAPRES, TRSEL, USAVE, ERRLOG and MROOT are 0, every counter is 0 and every waiting-task
entry is free; every home's trace has EN, WRAP, AF, ASID, COUNT and TRBASE of 0 and its eight queues are off with threshold 0;
every array latch C is 0 and P is 1, every plot stands in word layout, PLSEL is 0; every pseudo-channel is in normal mode with no
sequence begun; and DEVSTAT has STAGE 0 (reset), PWR 0 and CAPPED 0, and PWRLIM is 2000. (04_contexts R75, 04_contexts R76,
06_memory R109, 06_memory R110, 08_messages R163, 08_messages R164, 07_ordering R147, 10_vector R222, 13_array R271, 21_system
R391, 21_system R414, 23_device R418) -/
def Obligations.ResetValuesOfTheSpec : Prop :=
  (∀ u c, (State.reset.ctx u c).ctlw = 0x11#64 ∧ (State.reset.ctx u c).frs = 0x110#64 ∧ (State.reset.ctx u c).act = false
      ∧ (State.reset.ctx u c).live = false ∧ (State.reset.ctx u c).lmoor = 0#64 ∧ (State.reset.ctx u c).nhpc = 0#64
      ∧ (State.reset.ctx u c).asr = 0#64 ∧ (State.reset.ctx u c).ptroot = 0#64 ∧ (State.reset.ctx u c).twb = 0#64
      ∧ (State.reset.ctx u c).ctab = 0#64 ∧ (State.reset.ctx u c).drsel = 0#64 ∧ (State.reset.ctx u c).drply = 0#64
      ∧ (State.reset.ctx u c).replay.rv = false ∧ (∀ k, (State.reset.ctx u c).faults.get k = ⟨0#64, 0#64, 0#64, 0#64⟩)
      ∧ (State.reset.ctx u c).arb = 0#8 ∧ (State.reset.ctx u c).chk = false ∧ (State.reset.ctx u c).pe = false
      ∧ (State.reset.ctx u c).sel = 0#24)
    ∧ (∀ u, (State.reset.unit u).fence = (if u < 512 then 0x80#8 else 0x10#8) ∧ (State.reset.unit u).maxmsg = 256#11
        ∧ (State.reset.unit u).tvec = 0#64 ∧ (State.reset.unit u).mtvec = 0#64 ∧ (State.reset.unit u).mroot = 0#64
        ∧ (State.reset.unit u).hend = 0#11 ∧ (State.reset.unit u).hdead = 0#11 ∧ (State.reset.unit u).lapres = 0#64
        ∧ (State.reset.unit u).trsel = 0#64 ∧ (State.reset.unit u).errlog = 0#64 ∧ (State.reset.unit u).mrqb = 0#10
        ∧ (State.reset.unit u).usave = 0#64)
    ∧ (∀ u k, State.reset.counter u k = 0#64 ∧ (State.reset.wte u k).armed = false)
    ∧ (∀ h, (State.reset.home h).trace.en = false ∧ (State.reset.home h).trace.wrap = false ∧ (State.reset.home h).trace.af = false
        ∧ (State.reset.home h).trace.asid = 0#12 ∧ (State.reset.home h).trace.count = 0 ∧ (State.reset.home h).trace.base = 0)
    ∧ (∀ h q, (State.reset.queue h q).en = false ∧ (State.reset.queue h q).t = 0)
    ∧ (∀ p, (State.reset.nearOf p).nm = false ∧ (State.reset.nearOf p).step = 0)
    ∧ (∀ sl a, (SMap.get (State.reset.slice sl).latches a Latch.reset).c = 0#512
        ∧ (SMap.get (State.reset.slice sl).latches a Latch.reset).p = BitVec.allOnes 512)
    ∧ (∀ sl, (State.reset.slice sl).plsel = 0#5 ∧ ∀ m, ((State.reset.slice sl).plot m).plane = false)
    ∧ State.reset.pwrlim = 2000#11 ∧ State.reset.stage = 0#4 ∧ State.reset.pwr = 0#16 ∧ State.reset.capped = false

/-- For every INT instruction, W forms included, at every state whose memory is canonical and whose window lies in local memory,
exec answers a next state in which the destination holds the table's result, every other register and every byte outside the
destination's eight is unchanged, the PC is 4 more, and nothing else of the machine changes. (R92, R96) -/
def Obligations.IntegerRegisterResults : Prop :=
  ∀ (i : Instr) (s : State) (d : Reg) (v : Word), s.regOk → intResult s.g i = some (d, v) →
    ∃ t, exec i s = .next t ∧ Wrote s t d v

/-- For every INTI and SHI instruction, with the immediate sign-extended from 12 bits or the count as it stands, exec answers a
next state in which the destination holds the table's result, and the frame is that of every integer instruction. LDHI writes its
immediate times 4,096 sign-extended from 32 bits, ADDPC the sum of that and the word's own address, SEL the second register where
its condition holds, with the frame of every integer instruction; a SEL whose condition does not hold passes on and changes the PC
alone. An INTI or SHI word of fn3 0b111, a SHI word whose count is beyond 63, or beyond 31 for a W form, and a SEL word with a bit
of fn[9:2] set are no instructions. (R97, R98, R99, R100) -/
def Obligations.ImmediateAndSelectResults : Prop :=
  (∀ (i : Instr) (s : State) (d : Reg) (v : Word), s.regOk → immResult s.g i = some (d, v) →
    ∃ t, exec i s = .next t ∧ Wrote s t d v)
    ∧ ((∀ (i : Instr) (s : State) (d : Reg) (v : Word), s.regOk → constResult s.g s.pc i = some (d, v) →
      ∃ t, exec i s = .next t ∧ Wrote s t d v)
    ∧ (∀ (c : SelCond) (d a b : Reg) (s : State), constResult s.g s.pc (.sel c d a b) = none →
        exec (.sel c d a b) s = .next (s.setPc (s.pc + 4#64))))
    ∧ (∀ w : Word32,
        (w.extractLsb' 25 6 = 2#6 ∧ w.extractLsb' 12 3 = 7#3)
          ∨ (w.extractLsb' 25 6 = 3#6 ∧ (w.extractLsb' 12 3 = 7#3 ∨ 64 ≤ (w.extractLsb' 0 12).toNat
              ∨ (4 ≤ (w.extractLsb' 12 3).toNat ∧ 32 ≤ (w.extractLsb' 0 12).toNat)))
          ∨ (w.extractLsb' 25 6 = 6#6 ∧ 4 ≤ (w.extractLsb' 0 10).toNat) →
        decode w = none)

/-- For every B and BZ word and either hint, while no replay of the context runs: where the condition of the table holds and the
target has bits 63:58 clear the next PC is the target; where it does not hold the next PC is the word's address plus 4; nothing
but the PC of the issuing context changes in either case; where it holds and the target has some of bits 63:58 set, the word traps
ACCESS with the target in TVAL. While a replay runs the word parks first and then does the same with its registers as they stand.
(05_integer R101, 05_integer R103, 05_integer R104, 05_integer R106, 10_vector R227) -/
def Obligations.BranchResults : Prop :=
  ∀ (i : Instr) (s : State) (taken : Bool) (t : Word), isBranch i = true → transfer s.g s.pc i = some (taken, t) →
    (s.replaying s.cur s.c = false →
        (taken = true → t.toNat < 2 ^ 58 → exec i s = .next (s.setPc t))
          ∧ (taken = false → exec i s = .next (s.setPc (s.pc + 4#64)))
          ∧ (taken = true → 2 ^ 58 ≤ t.toNat → exec i s = s.trap .access t))
      ∧ (s.replaying s.cur s.c = true → exec i s = .next (s.parkFirst fun s1 =>
          match transfer s1.g s.pc i with
          | some (true, t1) => if t1.toNat < 2 ^ 58 then s1.setPc t1 else s1.trapAt .access t1
          | _ => s1.setPc (s1.pc + 4#64)))

/-- While no replay of the context runs, a SKIP whose comparison holds goes to its address plus 4 plus 4 for each of its one to
eight words, else to its address plus 4; J goes to its target always; nothing but the PC changes; a new PC with some of bits 63:58
set traps ACCESS with it in TVAL when the transfer is made. While a replay runs the word parks first and then does the same with
its registers as they stand. (05_integer R102, 05_integer R105, 05_integer R106, 10_vector R227) -/
def Obligations.SkipAndJumpResults : Prop :=
  ∀ (i : Instr) (s : State) (taken : Bool) (t : Word), isBranch i = false → transfer s.g s.pc i = some (taken, t) →
    (s.replaying s.cur s.c = false →
        (taken = true → t.toNat < 2 ^ 58 → exec i s = .next (s.setPc t))
          ∧ (taken = false → exec i s = .next (s.setPc (s.pc + 4#64)))
          ∧ (taken = true → 2 ^ 58 ≤ t.toNat → exec i s = s.trap .access t))
      ∧ (s.replaying s.cur s.c = true → exec i s = .next (s.parkFirst fun s1 =>
          match transfer s1.g s.pc i with
          | some (true, t1) => if t1.toNat < 2 ^ 58 then s1.setPc t1 else s1.trapAt .access t1
          | _ => s1.setPc (s1.pc + 4#64)))

/-- For every load form, LDA's too, whose effective address is an aligned offset in range of the local window, outside every other
context's guarded regions and the own block, with no access or vector instruction of the context under way and no error standing
in stored data, exec answers a next state with one deferred result more, the little-endian bytes at the offset sign- or
zero-extended to gd; no register, no byte of memory and nothing else changes but the PC, and for LDA the read cache of a far core.
(06_memory R107, 06_memory R108, 06_memory R123, 06_memory R125, 06_memory R129, 07_ordering R142) -/
def Obligations.LocalLoadResults : Prop :=
  ∀ (i : Instr) (s : State) (f : LoadForm), loadForm s.g i = some f → Alone s → s.upsets = [] →
    f.ea.toNat < 0x100000 → f.ea.toNat % f.size = 0 → InWindow s f.ea.toNat f.size →
    s.guardedByOther s.cur (some s.c) f.ea.toNat f.size = false → s.inBlock s.cur s.c f.ea.toNat f.size = false →
    ∃ t, exec i s = .next t
      ∧ t.cx.defs = s.cx.defs ++ [⟨f.d, s.po,
          .value (loadValue f.signed f.size fun k => s.mem.read (localPa s.cur (f.ea.toNat + k))), 0#5⟩]
      ∧ t.pc = s.pc + 4#64 ∧ t.mem = s.mem ∧ (∀ r, t.g r = s.g r)
      ∧ (f.acq = false → Deferring s t f.d
          (.value (loadValue f.signed f.size fun k => s.mem.read (localPa s.cur (f.ea.toNat + k)))))
      ∧ (f.acq = true → s.cur < 512 → t.ux.cache = [])

/-- For every store form, STL's too, whose effective address is an aligned offset in range of the local window, outside every
other context's guarded regions and the own block, with no access or vector instruction of the context under way, exec answers a
next state in which the size bytes at the offset are the low bytes of the data, least significant first, every other byte of
memory is unchanged, the PC is 4 more, and nothing else of the machine changes. (06_memory R107, 06_memory R108, 06_memory R124,
06_memory R125) -/
def Obligations.LocalStoreResults : Prop :=
  ∀ (i : Instr) (s : State) (f : StoreForm), storeForm s.g i = some f → s.memOk → Alone s →
    f.ea.toNat < 0x100000 → f.ea.toNat % f.size = 0 → InWindow s f.ea.toNat f.size →
    s.guardedByOther s.cur (some s.c) f.ea.toNat f.size = false → s.inBlock s.cur s.c f.ea.toNat f.size = false →
    ∃ t, exec i s = .next t
      ∧ (∀ k, k < f.size → t.mem.read (localPa s.cur (f.ea.toNat + k)) = f.data.extractLsb' (8 * k) 8)
      ∧ (∀ a, a < localPa s.cur f.ea.toNat ∨ localPa s.cur f.ea.toNat + f.size ≤ a → t.mem.read a = s.mem.read a)
      ∧ t.memOk ∧ t.pc = s.pc + 4#64 ∧ t = { s.advance with mem := t.mem }

/-- Where an aligned local-window access lies out of range for the context's level and in no guarded region, with nothing of the
context under way, a load, LDA too, defers 0 and a store changes no byte of memory; neither traps, and LMOOR, when its V was 0,
records V, whether it was a store, whether the offset was in range but for the fence, and the offset; when V was 1 it is
unchanged. For every load, store and atomic, an effective address with some of bits 63:58 set traps ACCESS, and one with those
bits clear that is no multiple of the access size traps ALIGN, precisely at the word and with the effective address in TVAL.
(06_memory R108, 06_memory R110, 06_memory R107, 07_ordering R132) -/
def Obligations.AddressChecks : Prop :=
  ((∀ (i : Instr) (s : State) (f : LoadForm), loadForm s.g i = some f → Alone s → s.upsets = [] →
      f.ea.toNat < 0x100000 → f.ea.toNat % f.size = 0 → ¬ InWindow s f.ea.toNat f.size →
      Unguarded s f.ea.toNat f.size →
      ∃ t, exec i s = .next t ∧ t.cx.defs = s.cx.defs ++ [⟨f.d, s.po, .value 0#64, 0#5⟩] ∧ t.mem = s.mem ∧ t.pc = s.pc + 4#64
        ∧ t.cx.lmoor = oorRecord s f.ea.toNat f.size false)
    ∧ (∀ (i : Instr) (s : State) (f : StoreForm), storeForm s.g i = some f → Alone s →
      f.ea.toNat < 0x100000 → f.ea.toNat % f.size = 0 → ¬ InWindow s f.ea.toNat f.size →
      Unguarded s f.ea.toNat f.size →
      ∃ t, exec i s = .next t ∧ t.cx.defs = s.cx.defs ∧ t.mem = s.mem ∧ t.pc = s.pc + 4#64
        ∧ t.cx.lmoor = oorRecord s f.ea.toNat f.size true))
    ∧ (∀ (i : Instr) (s : State) (ea : Word) (size : Nat), accessOf s.g i = some (ea, size) →
    (2 ^ 58 ≤ ea.toNat → exec i s = s.trap .access ea)
      ∧ (ea.toNat < 2 ^ 58 → ea.toNat % size ≠ 0 → exec i s = s.trap .align ea))

/-- For every value-returning and no-return atomic, SWAP, CAS and the floating ones included, at an aligned offset in range of the
local window and in no guarded region, with nothing of the context under way, no derivation rule registered and no error standing
in stored data, exec answers a next state in which the location holds the operation of the old value and the operand (a CAS that
does not match leaves it), every other byte is unchanged, a value-returning form has deferred the old value sign-extended to gd, a
no-return form defers nothing, and the PC is 4 more; without acquire nothing else changes but the model's count of program order.
(07_ordering R130, 07_ordering R131, 07_ordering R132, 07_ordering R133, 07_ordering R134) -/
def Obligations.LocalAtomicResults : Prop :=
  ∀ (i : Instr) (s : State) (f : AtomicForm) (n r : Nat), atomicForm s.g i = some f → n = (if f.dbl then 64 else 32) →
    s.memOk → Alone s → s.upsets = [] → s.unitOn s.cur = true → s.rules = [] → s.stale = [] →
    f.ea.toNat < 0x100000 → f.ea.toNat % (n / 8) = 0 → InWindow s f.ea.toNat (n / 8) → Unguarded s f.ea.toNat (n / 8) →
    atomicResult n f.op (leNat (n / 8) fun k => s.mem.read (localPa s.cur f.ea.toNat + k)) (f.v.toNat % 2 ^ n) = some r →
    ∃ t, exec i s = .next t
      ∧ (leNat (n / 8) fun k => t.mem.read (localPa s.cur f.ea.toNat + k))
          = (if f.op = .cas ∧ (leNat (n / 8) fun k => s.mem.read (localPa s.cur f.ea.toNat + k)) ≠ f.e.toNat % 2 ^ n
              then leNat (n / 8) fun k => s.mem.read (localPa s.cur f.ea.toNat + k) else r)
      ∧ (∀ a, a < localPa s.cur f.ea.toNat ∨ localPa s.cur f.ea.toNat + n / 8 ≤ a → t.mem.read a = s.mem.read a)
      ∧ t.memOk ∧ t.pc = s.pc + 4#64
      ∧ t.cx.defs = s.cx.defs ++ (match f.d with
          | some d => [⟨d, s.po, .value (sext n (leNat (n / 8) fun k => s.mem.read (localPa s.cur f.ea.toNat + k))), 0#5⟩]
          | none => [])
      ∧ (f.acq = false → t = { (s.modC fun x => { x with pc := t.pc, defs := t.cx.defs }).tick with mem := t.mem })

/-- Where accesses are posted and a load, a store, an atomic or an AMERGE passes its checks and its address leads to a home other
than the unit's own local memory, exec answers a next state in which the accesses under way stand as they were and the new one is
last in flight with the effective and the physical address, the operation and operands read at issue, and the issuer's unit,
context, ASID, generation and level; memory is as the checks left it. This holds of a load whose line the read cache does not
hold, of a store, a no-return atomic or an AMERGE that finds a place in the unit's store queue of 32 entries, of a value-returning
atomic, of atomics outside the host window, and of an AMERGE at a DRAM home or a word plot. While the queue is full a store, a
no-return atomic and an AMERGE hold issue, none of their effect made (the form of the hold is the model's, log entry 49). A load
and a value-returning atomic have a deferred result that waits for the access. An atomic of the host window, and an AMERGE of any
other place, trap ACCESS with the address. (06_memory R107, 06_memory R119, 06_memory R123, 06_memory R124, 06_memory R128,
07_ordering R132, 07_ordering R135, 07_ordering R136, log entry 3, log entry 49) -/
def Obligations.PostedAccessLeavesAtItsHome : Prop :=
  (∀ (i : Instr) (s s1 : State) (f : LoadForm) (pa : Nat) (leaf : TlbEntry), loadForm s.g i = some f →
      s.checkEa s.cur s.c f.ea f.size .load = .ok (s1, .home pa leaf) → s1.async = true → s1.rcLine s1.cur pa = none →
      ∃ t r, exec i s = .next t ∧ t.flight = s1.flight ++ [r] ∧ r.ea = f.ea ∧ r.pa = pa ∧ r.act = .load f.size f.signed s1.po
        ∧ r.who = s1.issuer s1.cur s1.c ∧ r.po = s1.po ∧ r.acq = f.acq ∧ t.mem = s1.mem ∧ t.pc = s1.pc + 4#64
        ∧ t.cx.defs = s1.cx.defs ++ [⟨f.d, s1.po, .pending, 0#5⟩])
    ∧ (∀ (i : Instr) (s s1 : State) (f : StoreForm) (pa : Nat) (leaf : TlbEntry), storeForm s.g i = some f →
      s.checkEa s.cur s.c f.ea f.size .store = .ok (s1, .home pa leaf) → s1.async = true →
      (s1.storesFull s1.cur = true → exec i s = .next s1.hold)
      ∧ (s1.storesFull s1.cur = false →
      ∃ t r, exec i s = .next t ∧ t.flight = s1.flight ++ [r] ∧ r.ea = f.ea ∧ r.pa = pa ∧ r.act = .store f.size f.data
        ∧ r.who = s1.issuer s1.cur s1.c ∧ r.po = s1.po ∧ t.mem = s1.mem ∧ t.pc = s1.pc + 4#64 ∧ t.cx.defs = s1.cx.defs))
    ∧ (∀ (i : Instr) (s s1 : State) (f : AtomicForm) (pa : Nat) (leaf : TlbEntry), atomicForm s.g i = some f →
      s.checkEa s.cur s.c f.ea (if f.dbl then 8 else 4) .atomic = .ok (s1, .home pa leaf) →
      (s1.place pa = .host → exec i s = s.trap .access f.ea)
      ∧ (s1.place pa ≠ .host → f.d = none → s1.storesFull s1.cur = true → exec i s = .next s1.hold)
      ∧ (s1.place pa ≠ .host → s1.async = true → (f.d = none → s1.storesFull s1.cur = false) →
        ∃ t r, exec i s = .next t ∧ t.flight = s1.flight ++ [r] ∧ r.ea = f.ea ∧ r.pa = pa ∧ r.who = s1.issuer s1.cur s1.c
          ∧ r.act = .atomic f.op f.dbl f.v f.e (f.d.map fun _ => s1.po) ∧ r.po = s1.po ∧ r.acq = f.acq ∧ t.mem = s1.mem
          ∧ t.pc = s1.pc + 4#64
          ∧ t.cx.defs = s1.cx.defs ++ (match f.d with | some d => [⟨d, s1.po, .pending, 0#5⟩] | none => [])))
    ∧ (∀ (fp dbl : Bool) (k a b : Reg) (s s1 : State) (pa : Nat) (leaf : TlbEntry),
      let i := if fp then Instr.amergeFadd dbl k a b else .amergeAdd dbl k a b
      let takes := (∃ p off, s1.place pa = .dram p off)
        ∨ ∃ sl off, s1.place pa = .silt sl off ∧ ((s1.slice sl).plot (off / 0x10000)).plane = false
      s.checkEa s.cur s.c (s.g a) (if dbl then 8 else 4) .atomic = .ok (s1, .home pa leaf) →
      (takes → s1.storesFull s1.cur = true → exec i s = .next s1.hold)
      ∧ (takes → s1.async = true → s1.storesFull s1.cur = false →
        ∃ t r, exec i s = .next t ∧ t.flight = s1.flight ++ [r] ∧ r.ea = s.g a ∧ r.pa = pa ∧ r.who = s1.issuer s1.cur s1.c ∧ r.po = s1.po
          ∧ r.act = .merge fp dbl (s1.g b) ((s1.g k).toNat % 2 ^ 32) ∧ t.mem = s1.mem ∧ t.pc = s1.pc + 4#64 ∧ t.cx.defs = s1.cx.defs)
      ∧ (¬ takes → exec i s = s.trap .access (s.g a)))

/-- The events of a load, store, atomic, contribution, put, get, message, enqueue, base write or held array access that reach
their home perform the access when it is in flight and no earlier access stands before it, and it is in flight no more; otherwise
the event changes nothing. (07_ordering R151, 95_what_each_step_holds, log entry 3) -/
def Obligations.AccessEventsPerformInOrder : Prop :=
  ∀ (ev : Req → Instr) (r : Req) (s : State),
    ev ∈ [Instr.homeLoad, .homeStore, .homeAtomic, .mergeContribution, .putDeliver, .getServe, .messageDeposit, .taskAccept,
      .baseWriteRelease, .arrayHeldAccess] →
    (r ∈ s.flight → s.mayPerform r = true →
        exec (ev r) s = .next (State.perform { s with flight := s.flight.filter fun o => o != r } r))
      ∧ (r ∉ s.flight ∨ s.mayPerform r = false → exec (ev r) s = .next s)

/-- For an access in flight that order lets go, whose bytes lie in DRAM, whose generation is not stale, with no trace, no
derivation rule, no error standing in stored data, no copy in its core's cache and no acquire: a load answers its deferred result
with the extended bytes and changes no memory; a store writes its low bytes there; an atomic, integer or floating, writes the
operation's result (none for a CAS that does not match) and answers the old value sign-extended where a result waits. A merge
contribution to a target of its launch's table, the same in size and op, adds its operand where its index is below the entry's
next; at next it adds it and moves next on, and where the pending contribution of the following index waits, that one too; above
next it is kept, and where 64 are kept it is refused and its context blocked; the first to a target makes an entry whose next is
0, and a seventeenth entry, or another size or op, returns ACCESS; a contribution not applied changes no memory. Every other byte
of memory is unchanged and the access is in flight no more. (01_machine R21, 06_memory R123, 06_memory R124, 07_ordering R130,
07_ordering R132, 07_ordering R133, 07_ordering R137, 07_ordering R138) -/
def Obligations.DramAccessResults : Prop :=
  ∀ (s : State) (r : Req), s.memOk → r ∈ s.flight → s.mayPerform r = true → r.acq = false → s.rules = [] → s.stale = [] →
    s.upsets = [] → (s.unit r.who.unit).cache = [] →
    (∀ h, (s.home h).trace.en = false ∧ s.isStaleGen h r.who = false) →
    (∀ size signed id, r.act = .load size signed id → 0 < size → r.pa + size ≤ s.dramSize →
        exec (.homeLoad r) s = .next (State.answer { s with flight := s.flight.filter fun o => o != r } r.who.unit r.who.ctx id
          (.value (loadValue signed size fun k => s.mem.read (r.pa + k)))))
      ∧ (∀ size data, r.act = .store size data → size ≤ 8 → r.pa + size ≤ s.dramSize → 0 < size →
        ∃ t, exec (.homeStore r) s = .next t ∧ (∀ k, k < size → t.mem.read (r.pa + k) = data.extractLsb' (8 * k) 8)
          ∧ (∀ a, a < r.pa ∨ r.pa + size ≤ a → t.mem.read a = s.mem.read a) ∧ t.memOk
          ∧ t = { s with flight := s.flight.filter fun o => o != r, mem := t.mem })
      ∧ (∀ op dbl v e id n x, r.act = .atomic op dbl v e id → n = (if dbl then 64 else 32) →
        r.pa + n / 8 ≤ s.dramSize →
        atomicResult n op (leNat (n / 8) fun k => s.mem.read (r.pa + k)) (v.toNat % 2 ^ n) = some x →
        ∃ t, exec (.homeAtomic r) s = .next t
          ∧ (leNat (n / 8) fun k => t.mem.read (r.pa + k))
              = (if op = .cas ∧ (leNat (n / 8) fun k => s.mem.read (r.pa + k)) ≠ e.toNat % 2 ^ n
                  then leNat (n / 8) fun k => s.mem.read (r.pa + k) else x)
          ∧ (∀ a, a < r.pa ∨ r.pa + n / 8 ≤ a → t.mem.read a = s.mem.read a) ∧ t.memOk
          ∧ t.flight = s.flight.filter (fun o => o != r)
          ∧ (∀ k, id = some k → (t.ctx r.who.unit r.who.ctx).defs
              = (s.ctx r.who.unit r.who.ctx).defs.map fun d =>
                  if d.id = k then { d with src := .value (sext n (leNat (n / 8) fun j => s.mem.read (r.pa + j))) } else d))
      ∧ (∀ fp dbl v k n h, r.act = .merge fp dbl v k → n = (if dbl then 64 else 32) → r.pa + n / 8 ≤ s.dramSize →
        (s.place r.pa).home = some h →
        let lid := (s.ctx r.who.unit r.who.ctx).lid
        let table := (s.home h).merges
        let mine := table.filter fun e => e.lid == lid
        let sum := fun (old : Nat) (v : Word) => atomicResult n (if fp then .fadd else .add) old (v.toNat % 2 ^ n)
        let old := leNat (n / 8) fun j => s.mem.read (r.pa + j)
        let put := fun (e : MergeEntry) => table.map fun o => if o.target = e.target ∧ o.lid = e.lid then e else o
        ∃ t, exec (.mergeContribution r) s = .next t ∧ t.flight = s.flight.filter (fun o => o != r)
          ∧ (∀ a, a < r.pa ∨ r.pa + n / 8 ≤ a → t.mem.read a = s.mem.read a)
          ∧ let now := leNat (n / 8) fun j => t.mem.read (r.pa + j)
            (∀ e, mine.find? (fun e => e.target == r.pa) = some e → e.dbl = dbl → e.fp = fp →
              (k < e.next → some now = sum old v ∧ (t.home h).merges = put e)
                ∧ (k = e.next → (∀ p ∈ e.pending, p.1 ≠ k + 1) → some now = sum old v ∧ (t.home h).merges = put { e with next := k + 1 })
                ∧ (∀ v2 w2, k = e.next → e.pending = [(k + 1, v2, w2)] → (s.unit w2.unit).cache = [] →
                    some now = (sum old v).bind (fun x => sum x v2) ∧ (t.home h).merges = put { e with next := k + 2, pending := [] })
                ∧ (e.next < k → e.pending.length < 64 → t.mem = s.mem
                    ∧ (t.home h).merges = put { e with pending := e.pending ++ [(k, v, r.who)] })
                ∧ (e.next < k → 64 ≤ e.pending.length → t.mem = s.mem ∧ (t.home h).merges = table
                    ∧ r ∈ (t.ctx r.who.unit r.who.ctx).blocked))
              ∧ (mine.find? (fun e => e.target == r.pa) = none → mine.length < 16 →
                (k = 0 → some now = sum old v ∧ (t.home h).merges = table ++ [⟨lid, r.pa, dbl, fp, 1, []⟩])
                  ∧ (0 < k → t.mem = s.mem ∧ (t.home h).merges = table ++ [⟨lid, r.pa, dbl, fp, 0, [(k, v, r.who)]⟩]))
              ∧ ((∃ e, mine.find? (fun e => e.target == r.pa) = some e ∧ (e.dbl ≠ dbl ∨ e.fp ≠ fp))
                  ∨ (mine.find? (fun e => e.target == r.pa) = none ∧ 16 ≤ mine.length) → t.mem = s.mem ∧ (t.home h).merges = table
                ∧ (t.ctx r.who.unit r.who.ctx).homeFaults
                  = (s.ctx r.who.unit r.who.ctx).homeFaults ++ [⟨r.po, .access, r.ea, r.fpc⟩]))

/-- When the deferred results of a context whose window is in place land, a register holds the last value deferred to it in
program order, a register to which no value was deferred keeps its own, none is outstanding any more, and the flags deferred with
values that landed are in FXS. (04_contexts R66, 04_contexts R67, 09_formats R212) -/
def Obligations.ParkLandsResultsInOrder : Prop :=
  ∀ (s : State) (u c : Nat), s.memOk → s.winOk u c →
    (s.land u c).memOk ∧ ((s.land u c).ctx u c).defs = []
      ∧ (∀ d, (s.land u c).reg u c d
          = ((s.ctx u c).defs.foldl (fun acc e => match e.src with
              | .value v => if e.dst = d then v else acc
              | _ => acc) (s.reg u c d)))
      ∧ ((s.land u c).ctx u c).fxs = (s.ctx u c).defs.foldl (fun acc e => match e.src with
          | .value _ => acc ||| e.flags
          | _ => acc) (s.ctx u c).fxs

/-- PREF passes on and changes nothing but the PC where its address fails its check or is local, where the core may not cache the
line or holds it, where a read of the line would fault at its home, or where the home holds accesses back; else, no tile standing
stale and no error in stored data, the line joins the read cache with the home's bytes, every other line standing but one where
the cache is full. RCINV empties the read cache of a far core; with a range it removes exactly the issuer's lines that hold a byte
of it (none for length 0; for a length above 65,536, every line of a far core). FENCE rel marks its place, and no later write of
the context is performed while an access before the fence is in flight. With its park made, FENCE acq passes and empties a far
core's read cache where no earlier load, atomic or acquire is outstanding, and FENCE full where no earlier access is; otherwise
each stays at its word with the cache as it was (log entry 49, a choice of the model's form). Every scope does the same.
(06_memory R116, 06_memory R117, 06_memory R126, 06_memory R127, 07_ordering R141, 07_ordering R144, 07_ordering R145, log entry
49) -/
def Obligations.CacheAndFenceResults : Prop :=
  (∀ (a : Reg) (i : BitVec 12) (s : State),
        (∀ s1 pa leaf, s.checkEa s.cur s.c (eaOfM s.g a i) 1 .load ≠ .ok (s1, .home pa leaf)) →
        exec (.pref a i) s = .next (s.setPc (s.pc + 4#64)))
    ∧ (∀ (a : Reg) (i : BitVec 12) (s s1 : State) (pa : Nat) (leaf : TlbEntry),
        s.checkEa s.cur s.c (eaOfM s.g a i) 1 .load = .ok (s1, .home pa leaf) →
        let refused := s1.rcMay s1.cur pa leaf = false ∨ s1.rcLine s1.cur pa ≠ none
          ∨ s1.lineFault (s1.issuer s1.cur s1.c) (some (s1.cur, s1.c)) pa ≠ none
          ∨ s1.accessWaits (pa / 64 * 64) 64 s1.po = true
        let line : CacheLine := ⟨pa / 64, (eaOfM s.g a i).toNat / 64, asidOf s1, s1.physBytes (pa / 64 * 64) 64⟩
        (refused → exec (.pref a i) s = .next (s.setPc (s.pc + 4#64)))
          ∧ (¬ refused → s1.stale = [] → s1.upsets = [] → s1.ux.cache.length < 1024 →
              exec (.pref a i) s = .next ((s1.modU fun y => { y with cache := y.cache ++ [line] }).setPc (s1.pc + 4#64)))
          ∧ (¬ refused → s1.stale = [] → s1.upsets = [] → 1024 ≤ s1.ux.cache.length →
              ∃ t, exec (.pref a i) s = .next t ∧ line ∈ t.ux.cache ∧ (∀ l ∈ t.ux.cache, l = line ∨ l ∈ s1.ux.cache) ∧ t.mem = s1.mem
                ∧ t.pc = s1.pc + 4#64))
    ∧ (∀ s : State,
        (s.kind = .far → exec .rcinv s = .next ((s.modU fun y => { y with cache := [] }).setPc (s.pc + 4#64)))
          ∧ (s.kind ≠ .far → exec .rcinv s = .next (s.setPc (s.pc + 4#64))))
    ∧ (∀ (a b : Reg) (s : State),
        (s.g b = 0#64 → exec (.rcinvRange a b) s = .next (s.setPc (s.pc + 4#64)))
          ∧ (65536 < (s.g b).toNat → s.kind = .far →
              exec (.rcinvRange a b) s = .next ((s.modU fun y => { y with cache := [] }).setPc (s.pc + 4#64)))
          ∧ (65536 < (s.g b).toNat → s.kind ≠ .far → exec (.rcinvRange a b) s = .next (s.setPc (s.pc + 4#64)))
          ∧ (0 < (s.g b).toNat → (s.g b).toNat ≤ 65536 →
              ∃ keep, exec (.rcinvRange a b) s = .next ((s.modU fun y => { y with cache := keep }).setPc (s.pc + 4#64))
                ∧ ∀ l, l.va < 2 ^ 52 → (l ∈ keep ↔ l ∈ s.ux.cache
                    ∧ ¬ (l.asid = asidOf s ∧ ∃ k, k < (s.g b).toNat ∧ ((s.g a).toNat + k) % 2 ^ 64 / 64 = l.va))))
    ∧ (∀ (c : Scope) (s : State),
        exec (.fenceRel c) s = .next (((s.modC fun x => { x with fenced := s.po }).tick).setPc (s.pc + 4#64)))
    ∧ (∀ (r a : Req) (s : State), reqWrites r = true → a ∈ s.flight → a.who.unit = r.who.unit → a.who.ctx = r.who.ctx →
        a.po < (s.ctx r.who.unit r.who.ctx).fenced → a.po < r.po → s.mayPerform (s.fencedReq r) = false)
    ∧ (∀ (c : Scope) (s : State), s.cx.parked = true →
        let s1 := s.beginFirst
        (s.readsBefore s.cur s.c = false → s.kind = .far →
            exec (.fenceAcq c) s = .next ((s1.modU fun y => { y with cache := [] }).setPc (s.pc + 4#64)))
          ∧ (s.readsBefore s.cur s.c = false → s.kind ≠ .far → exec (.fenceAcq c) s = .next (s1.setPc (s.pc + 4#64)))
          ∧ (s.readsBefore s.cur s.c = true → exec (.fenceAcq c) s = .next s1.waitFirst)
          ∧ (s.allPerformed s.cur s.c = true → s.kind = .far →
            exec (.fenceFull c) s = .next ((s1.modU fun y => { y with cache := [] }).setPc (s.pc + 4#64)))
          ∧ (s.allPerformed s.cur s.c = true → s.kind ≠ .far → exec (.fenceFull c) s = .next (s1.setPc (s.pc + 4#64)))
          ∧ (s.allPerformed s.cur s.c = false → exec (.fenceFull c) s = .next s1.waitFirst)
          ∧ s1.waitFirst.pc = s.pc ∧ s1.waitFirst.ux.cache = s.ux.cache ∧ s1.waitFirst.mem = s.mem)

/-- With its park made, no handler running, room in the ring and a target that its check accepts, CALL or CALLR goes to its
target; the window is the one 192 bytes lower in the ring and one frame more is resident; in it g21 is the word's address plus 4,
g22 and g23 are the caller's, g24 to g31 are the caller's g0 to g7; no byte of memory but those of the new g21 to g23 changes, and
the frames spilled, BSP and the ring stay. (04_contexts R69, 04_contexts R80) -/
def Obligations.CallResults : Prop :=
  ∀ (i : Instr) (s : State) (target : Word), callTarget s.g s.pc i = some target → s.cx.parked = true → s.regOk →
    s.cx.linear = false → s.cx.act = false → s.cx.nact = false → target.toNat < 2 ^ 58 → target.toNat % 4 = 0 →
    s.cx.res.toNat < s.cx.cap.toNat →
    ∃ t, exec i s = .next t ∧ t.pc = target ∧ t.cx.wp = s.cx.ring (s.cx.wp - 192#64) ∧ t.cx.res = s.cx.res + 1#8
      ∧ t.g 21#5 = s.pc + 4#64 ∧ t.g 22#5 = s.g 22#5 ∧ t.g 23#5 = s.g 23#5
      ∧ (∀ n, n < 8 → t.g (BitVec.ofNat 5 (24 + n)) = s.g (BitVec.ofNat 5 n))
      ∧ (∀ a, a < regAt t 21#5 ∨ regAt t 21#5 + 24 ≤ a → t.mem.read a = s.mem.read a) ∧ t.memOk
      ∧ t.cx.spilled = s.cx.spilled ∧ t.cx.bsp = s.cx.bsp ∧ t.cx.frb = s.cx.frb ∧ t.cx.cap = s.cx.cap

/-- With its park made, no handler running, a frame to return to and no fill needed, and g21 a target its check accepts, RET goes
to g21, the window is the one 192 bytes higher in the ring, one frame less is resident, the caller's g0 to g7 are the callee's g24
to g31, and no byte of memory changes; a helper whose only frame this is and that holds no task ends when no coprocessor
instruction of it is queued: it is no longer live and its bit of HEND is set, and no other context changes; while one is queued it
stays live, its park due (log entry 30, a choice of the model). Where frames must be filled, RET completes at g21 once the fills
have been made, traps as the fill that fails, or waits while a fill is held at its home; a helper at its only frame that holds a
task does what TKDONE does. (04_contexts R69, 04_contexts R72, 04_contexts R82, 16_tasks R325, 16_tasks R326, log entry 30, log
entry 49) -/
def Obligations.ReturnResults : Prop :=
  (∀ s : State, s.cx.parked = true → s.regOk → s.cx.linear = false → s.cx.act = false → s.cx.nact = false →
      2 ≤ s.cx.res.toNat → (3 ≤ s.cx.res.toNat ∨ s.cx.spilled = 0#32) → (s.g 21#5).toNat < 2 ^ 58 → (s.g 21#5).toNat % 4 = 0 →
      ∃ t, exec .ret s = .next t ∧ t.pc = s.g 21#5 ∧ t.cx.wp = s.cx.ring (s.cx.wp + 192#64) ∧ t.cx.res = s.cx.res - 1#8
        ∧ (∀ n, n < 8 → t.g (BitVec.ofNat 5 n) = s.g (BitVec.ofNat 5 (24 + n))) ∧ t.mem = s.mem)
    ∧ (∀ s : State, s.cx.parked = true → s.cx.act = false → s.cx.nact = false → s.cx.res = 1#8 → s.cx.spilled = 0#32 →
      s.c ≠ 0 → s.c < 11 → s.cx.tkhome.getLsbD 63 = false →
      (s.copQueued s.cur s.c = false →
          ∃ t, exec .ret s = .next t ∧ (t.ctx s.cur s.c).live = false ∧ (t.unit s.cur).hend.getLsbD s.c = true
            ∧ (∀ d, d ≠ s.c → t.ctx s.cur d = s.ctx s.cur d) ∧ ∀ v, v ≠ s.cur → t.unit v = s.unit v)
        ∧ (s.copQueued s.cur s.c = true →
          ∃ t, exec .ret s = .next t ∧ (t.ctx s.cur s.c).live = s.cx.live ∧ (t.ctx s.cur s.c).parking = true ∧ t.mem = s.mem))
    ∧ (∀ s : State, s.cx.parked = true → s.cx.act = false → s.cx.nact = false → ¬ (s.cx.res = 1#8 ∧ s.cx.spilled = 0#32) →
      (s.g 21#5).toNat < 2 ^ 58 → (s.g 21#5).toNat % 4 = 0 →
      let s1 := s.beginFirst.modC fun y => { y with wp := y.ring (y.wp + 192#64), res := y.res - 1#8 }
      (s1.fillWaits s.cur s.c 2 = true → exec .ret s = .next s.beginFirst.waitFirst)
      ∧ (s1.fillWaits s.cur s.c 2 = false →
          (∀ s2, s1.fillResident s.cur s.c 2 = (s2, none) → exec .ret s = .next (s2.setPc (s.g 21#5)))
          ∧ ∀ s2 k w, s1.fillResident s.cur s.c 2 = (s2, some (k, w)) → exec .ret s = .next (s.beginFirst.trapAt k w)))
    ∧ (∀ s : State, s.cx.parked = true → s.cx.act = false → s.cx.nact = false → s.cx.res = 1#8 → s.cx.spilled = 0#32 →
      s.c ≠ 0 → s.cx.tkhome.getLsbD 63 = true → exec .ret s = exec .tkdone s)

/-- While no replay of the context runs, JR goes to the register plus the signed immediate when that is a multiple of 4 with bits
63:58 clear, and changes the PC alone; a target with some of bits 1:0 set traps ALIGN, one with those clear and some of bits 63:58
set traps ACCESS, the target in TVAL. While a replay runs the word parks first and then does the same with its registers as they
stand. (03_encoding R62, 04_contexts R81, 10_vector R227) -/
def Obligations.RegisterJumpResults : Prop :=
  ∀ (a : Reg) (i : BitVec 12) (s : State),
    (s.replaying s.cur s.c = false →
      ((eaOfM s.g a i).toNat % 4 = 0 → (eaOfM s.g a i).toNat < 2 ^ 58 → exec (.jr a i) s = .next (s.setPc (eaOfM s.g a i)))
        ∧ ((eaOfM s.g a i).toNat % 4 ≠ 0 → exec (.jr a i) s = s.trap .align (eaOfM s.g a i))
        ∧ ((eaOfM s.g a i).toNat % 4 = 0 → 2 ^ 58 ≤ (eaOfM s.g a i).toNat → exec (.jr a i) s = s.trap .access (eaOfM s.g a i)))
      ∧ (s.replaying s.cur s.c = true → exec (.jr a i) s = .next (s.parkFirst fun s1 =>
          let t := eaOfM s1.g a i
          if t.toNat % 4 ≠ 0 then s1.trapAt .align t else if 2 ^ 58 ≤ t.toNat then s1.trapAt .access t else s1.setPc t))

/-- At S or M level, for a helper that the unit has: START with its park made, of a helper that is not live and a target its check
accepts, with every earlier access of the issuer performed, makes it live at that PC at U level in the issuer's launch, with one
resident frame, no fault and no out-of-range record; its window being in place, its g21 is 0, g22 the task register, g23 its MSP
and g24 to g31 the issuer's g0 to g7; no byte of memory but those registers, no other context and nothing else of the issuer than
that it has passed the word changes. While an access of the issuer is not performed START and START.RES stay at their word (log
entry 49, a choice of the model); the helper's launch is the issuer's (log entry 31); a target that its check refuses, and a live
helper, trap. START.RES with its park made takes a helper that is not live as its block and seal stand when they pass their check,
memory unchanged; when they fail it, DEF is set in the seal, the launch ends in failure and RESTOREBAD is taken. STOPH of a helper
that is not live passes on and changes the PC alone; of a live one whose results, accesses and coprocessor instructions are
complete it halts its replay, writes and seals its block and leaves it not live, and the issuer passes; a STOPH that names its
issuer does so too, after its park. (04_contexts R83, 04_contexts R84, 07_ordering R146, 21_system R410, log entry 31, log entry
49, log entry 86, log entry 87) -/
def Obligations.HelperStartResults : Prop :=
  (∀ (n : BitVec 4) (d a : Reg) (s : State), s.cx.parked = true → s.cx.priv ≠ .u → n.toNat ≤ helperCount s.kind → n.toNat ≠ s.c →
      let s1 := s.beginFirst
      (((s.g a).toNat % 4 ≠ 0 → exec (.start n d a) s = .next (s1.trapAt .align (s.g a)))
        ∧ ((s.g a).toNat % 4 = 0 → 2 ^ 58 ≤ (s.g a).toNat → exec (.start n d a) s = .next (s1.trapAt .access (s.g a))))
      ∧ ((s.g a).toNat % 4 = 0 → (s.g a).toNat < 2 ^ 58 →
        ((s.ctx s.cur n.toNat).live = true → exec (.start n d a) s = .next (s1.trapAt .access (n.setWidth 64)))
        ∧ ((s.ctx s.cur n.toNat).live = false → s.allPerformed s.cur s.c = false → exec (.start n d a) s = .next s1.waitFirst)
        ∧ ((s.ctx s.cur n.toNat).live = false → s.allPerformed s.cur s.c = true → s.memOk →
          ∃ t, exec (.start n d a) s = .next t ∧ t.cx = afterFirst s ∧ (t.ctx s.cur n.toNat).live = true
            ∧ (t.ctx s.cur n.toNat).pc = s.g a ∧ (t.ctx s.cur n.toNat).priv = .u ∧ (t.ctx s.cur n.toNat).res = 1#8
            ∧ (t.ctx s.cur n.toNat).spilled = 0#32 ∧ (t.ctx s.cur n.toNat).lmoor = 0#64 ∧ (t.ctx s.cur n.toNat).nhpc = 0#64
            ∧ (t.ctx s.cur n.toNat).lid = s.cx.lid ∧ (t.ctx s.cur n.toNat).late = [] ∧ (t.ctx s.cur n.toNat).homeFaults = []
            ∧ (t.winOk s.cur n.toNat → t.reg s.cur n.toNat 21#5 = 0#64 ∧ t.reg s.cur n.toNat 22#5 = s.g d
                ∧ t.reg s.cur n.toNat 23#5 = (t.ctx s.cur n.toNat).msp
                ∧ ∀ k, k < 8 → t.reg s.cur n.toNat (BitVec.ofNat 5 (24 + k)) = s.g (BitVec.ofNat 5 k))
            ∧ (∀ p, (∀ k, 21 ≤ k → k < 32 → p < regPa s.cur (t.ctx s.cur n.toNat) (BitVec.ofNat 5 k)
                  ∨ regPa s.cur (t.ctx s.cur n.toNat) (BitVec.ofNat 5 k) + 8 ≤ p) → t.mem.read p = s.mem.read p)
            ∧ (∀ k, k ≠ n.toNat → k ≠ s.c → t.ctx s.cur k = s.ctx s.cur k) ∧ ∀ v, v ≠ s.cur → t.unit v = s.unit v)))
    ∧ (∀ (n : BitVec 4) (s : State), s.cx.parked = true → s.cx.priv ≠ .u → n.toNat ≤ helperCount s.kind → n.toNat ≠ s.c →
      let s1 := s.beginFirst
      let cb := s.cbOf s.cur n.toNat
      ((s.ctx s.cur n.toNat).live = true → exec (.startRes n) s = .next (s1.trapAt .access (n.setWidth 64)))
      ∧ ((s.ctx s.cur n.toNat).live = false → s.allPerformed s.cur s.c = false → exec (.startRes n) s = .next s1.waitFirst)
      ∧ ((s.ctx s.cur n.toNat).live = false → s.allPerformed s.cur s.c = true → s.sealOk s.cur cb = true →
        ∃ t, exec (.startRes n) s = .next t ∧ t.cx = afterFirst s ∧ t.mem = s.mem
          ∧ t.ctx s.cur n.toNat = { s.loadCtx s.cur cb (s.ctx s.cur n.toNat) with lid := s.cx.lid }
          ∧ (∀ k, k ≠ n.toNat → k ≠ s.c → t.ctx s.cur k = s.ctx s.cur k) ∧ ∀ v, v ≠ s.cur → t.unit v = s.unit v)
      ∧ ((s.ctx s.cur n.toNat).live = false → s.allPerformed s.cur s.c = true → s.sealOk s.cur cb = false →
        exec (.startRes n) s = .next (((s1.markDefunct s.cur cb).endLaunchBut (some s.cur) s.cx.lid 2 0x0F 0#64).trapAt .restoreBad
          (n.setWidth 64))))
    ∧ (∀ (n : BitVec 4) (s : State), s.cx.priv ≠ .u → n.toNat ≤ helperCount s.kind →
      ((s.ctx s.cur n.toNat).live = false → exec (.stoph n) s = .next (s.setPc (s.pc + 4#64)))
      ∧ ((s.ctx s.cur n.toNat).live = true → n.toNat ≠ s.c → s.flight = [] → s.copQueued s.cur n.toNat = false →
        (s.ctx s.cur n.toNat).defs = [] → (s.ctx s.cur n.toNat).blocked = [] →
        ∃ t, exec (.stoph n) s = .next t
          ∧ t = (((s.haltReplay s.cur n.toNat).land s.cur n.toNat).saveCtx s.cur n.toNat false).setPc (s.pc + 4#64)
          ∧ (t.ctx s.cur n.toNat).live = false ∧ t.cx = { s.cx with pc := s.pc + 4#64 })
      ∧ ((s.ctx s.cur n.toNat).live = true → n.toNat = s.c → s.cx.parked = true → s.copQueued s.cur s.c = false →
        ∃ t, exec (.stoph n) s = .next t ∧ (t.ctx s.cur s.c).live = false))

/-- SETNH with a PC that is a multiple of 4 and a shadow window that is a multiple of 64 wholly in local memory sets NHPC and NHWP
and nothing else but the PC; a running notice handler keeps its own window, so that what its SETNH has written first acts at the
next diversion (that the registers show it at once is the model's choice, log entry 114). A PC with some of bits 1:0 set traps
ALIGN, a window out of place ACCESS. NRET with its park made, in a handler, goes to the PC kept at 168 bytes above the handler's
shadow window, with the WP kept at 160 bytes above it, and clears NACT, where the PC passes its check and the WP is a slot of the
ring; with a notice pending and a handler set it diverts again at once; outside a handler it traps ACCESS with TVAL 0. YIELD of a
context with nothing to take or to wait for passes on and begins a new segment. (04_contexts R85, 04_contexts R86, 04_contexts
R87, 04_contexts R68, 03_encoding R62, log entry 114) -/
def Obligations.NoticeHandlerResults : Prop :=
  (∀ (d a : Reg) (s : State),
      ((s.g a).toNat % 4 = 0 → (s.g d).toNat % 64 = 0 → (s.g d).toNat + 256 ≤ localSize s.kind →
        exec (.setnh d a) s = .next ((s.modC fun x => { x with nhpc := s.g a, nhwp := s.g d }).setPc (s.pc + 4#64)))
      ∧ ((s.g a).toNat % 4 ≠ 0 → exec (.setnh d a) s = s.trap .align (s.g a))
      ∧ ((s.g a).toNat % 4 = 0 → (s.g d).toNat % 64 ≠ 0 ∨ localSize s.kind < (s.g d).toNat + 256 →
        exec (.setnh d a) s = s.trap .access (s.g d)))
    ∧ (∀ s : State, s.cx.parked = true →
      let s1 := s.beginFirst
      let p := s.loc64 s.cur (s.cx.nwin.toNat + 168)
      let w := s.loc64 s.cur (s.cx.nwin.toNat + 160)
      (s.cx.nact = false → exec .nret s = .next (s1.trapAt .access 0#64))
      ∧ (s.cx.nact = true → p.toNat % 4 = 0 → p.toNat < 2 ^ 58 → s.cx.isSlot w = true →
        let back := s1.modC fun y => { y with wp := w, nact := false, pc := p }
        (s.cx.npend = false ∨ s.cx.nhpc = 0#64 → exec .nret s = .next back)
        ∧ (s.cx.npend = true → s.cx.nhpc ≠ 0#64 → exec .nret s = .next (back.divertNotice s.cur s.c p))))
    ∧ (∀ s : State, NothingPending s →
      ∃ t, exec .yield s = .next t ∧ (t.ctx s.cur s.c).pc = s.pc + 4#64 ∧ (t.ctx s.cur s.c).seg = 0 ∧ t.mem = s.mem
        ∧ ∀ d, d ≠ s.c → t.ctx s.cur d = s.ctx s.cur d)

/-- When the park before a word finds nothing outstanding, pending or refused and the context stays the one to issue, what the
word does is done at a state that differs from the one before only in the context's park bookkeeping: memory, the window, the PC,
the other contexts and the rest of the machine are the same, and the segment begins with this word, whose marker makes the next
park due. A word whose park has been made acts at the state that begins its segment, without another park. (04_contexts R64,
04_contexts R67, 04_contexts R68, log entry 17) -/
def Obligations.WordThatParksFirstActs : Prop :=
  (∀ (s : State) (act : State → State), NothingPending s → s.cx.parked = false →
    ((s.land s.cur s.c).parkedBefore s.cur s.c).nextCtx s.cur s.c = s.c →
    s.parkFirst act = act (parkPassed s) ∧ (parkPassed s).mem = s.mem ∧ (parkPassed s).cur = s.cur ∧ (parkPassed s).c = s.c
      ∧ (parkPassed s).cx = { s.cx with
          defs := [], awaiting := false, seg := 1, parked := false, parking := s.ux.word.getLsbD 31, why := .segment
          holding := false }
      ∧ (∀ v d, ¬ (v = s.cur ∧ d = s.c) → (parkPassed s).ctx v d = s.ctx v d) ∧ (∀ r, (parkPassed s).g r = s.g r))
    ∧ ∀ (s : State) (act : State → State), s.cx.parked = true → s.parkFirst act = act s.beginFirst

/-- When a context whose block and seal fit its local memory, with no fault pending or kept in its ring and no error standing in
stored data, is saved without default, its seal passes the check of START.RES, and what START.RES reads from the block and the
seal is the context as it was, reserved bits aside: PC, WP, the ring, the counts, BSP, CTLW with its level, rounding mode and
flags, the notice registers, the out-of-range record, CSEQ, MSP, the rounding seed, the task fields, the fault ring, and the
vector registers. (00_scope R6, 04_contexts R74, 04_contexts R84, 21_system R409, 21_system R410) -/
def Obligations.SavedContextIsRestored : Prop :=
  ∀ (s : State) (u c : Nat), s.memOk → (s.cbOf u c).toNat + 0x1240 ≤ localSize (kindOf u) → (s.ctx u c).late = [] →
    (s.ctx u c).homeFaults = [] → (s.ctx u c).kept = [] → s.upsets = [] →
    (s.saveCtx u c false).sealOk u (s.cbOf u c) = true ∧ ((s.saveCtx u c false).ctx u c).live = false
      ∧ SameSaved (s.ctx u c) ((s.saveCtx u c false).loadCtx u (s.cbOf u c) ((s.saveCtx u c false).ctx u c))

/-- With no handler running and one set, taking an exception writes entry t mod 8 of the fault ring with TPC, TVAL, FPC and INFO,
t one above TSEQ, and leaves no other entry current; stores WP, TPC, g22 and g23 at TWB + 160, 168, 176 and 184; keeps M at M and
takes U and S to S; goes to MTVEC at M and to TVEC otherwise, with the window at TWB; no other byte, no other context and nothing
else of the context changes, but that its segment and wait end. (21_system R391, 21_system R393) -/
def Obligations.ExceptionEntry : Prop :=
  ∀ (s : State) (u c : Nat) (tpc tval fpc : Word) (deflt : Bool) (hlp : Nat) (cause : Cause), MayEnter s u c → hlp < 16 →
    Entered s (s.enterTrap u c tpc tval fpc deflt hlp cause) u c tpc tval fpc deflt hlp cause

/-- With a handler running or no handler PC, an exception is a double trap. Of the control context it is recorded with DBL = 1 and
ACT = 0, the unit stops issuing and no byte of memory changes. A helper none of whose coprocessor instructions is queued is no
longer live and its bits of HEND and HDEAD are set, and where it has no fault pending, and no entry of its ring bears the number
of the next trap, its fault ring is as recorded with DBL = 1 and ACT = 0; one of which some are queued is recorded so, stays live,
and its park is due, at which it stops (that it stays live until its park rests on log entries 30 and 49, choices of the model).
(21_system R394, 04_contexts R84, log entry 29, log entry 30, log entry 49) -/
def Obligations.DoubleTrap : Prop :=
  ∀ (s : State) (u c : Nat) (tpc tval fpc : Word) (deflt : Bool) (hlp : Nat) (cause : Cause),
    (s.ctx u c).act = true ∨ s.handlerPc u c = 0#64 → hlp < 16 → c < 11 →
    (∀ i j : Fin 8, ((s.ctx u c).faults.get i).info.getLsbD 63 = true → ((s.ctx u c).faults.get j).info.getLsbD 63 = true → i = j) →
    let t := s.enterTrap u c tpc tval fpc deflt hlp cause
    let recorded := Recorded (s.ctx u c) (t.ctx u c) tpc tval fpc false true deflt hlp cause
    (c = 0 → recorded ∧ (t.unit u).halted = true ∧ t.mem = s.mem)
      ∧ (c ≠ 0 → s.copQueued u c = false → ((s.ctx u c).late = [] → (s.ctx u c).homeFaults = [] →
            (∀ i : Fin 8, ((s.ctx u c).faults.get i).info.extractLsb' 32 16 ≠ (s.ctx u c).tseq + 2#16) → recorded) ∧ (t.ctx u c).live = false
          ∧ (t.unit u).hend.getLsbD c = true ∧ (t.unit u).hdead.getLsbD c = true)
      ∧ (c ≠ 0 → s.copQueued u c = true → recorded ∧ (t.ctx u c).live = (s.ctx u c).live ∧ (t.ctx u c).parking = true
          ∧ (t.ctx u c).why = .defunct ∧ t.mem = s.mem)

/-- With nothing outstanding or pending and a handler to go to, TRAP enters SYSCALL with the register in TVAL and BKPT enters BKPT
with TVAL 0, TPC and FPC the word's address, DEF 0 and HLP 0; the same entry is what every failed check of a word comes to.
(21_system R393, 21_system R395, 21_system R398, 03_encoding R59) -/
def Obligations.TrapInstructions : Prop :=
  ∀ s : State, NothingPending s → MayEnter s s.cur s.c →
    (∀ a : Reg, ∃ t, exec (.trap a) s = .next t ∧ Entered s t s.cur s.c s.pc (s.g a) s.pc false 0 .sysCall)
      ∧ (∃ t, exec .bkpt s = .next t ∧ Entered s t s.cur s.c s.pc 0#64 s.pc false 0 .bkpt)
      ∧ ∀ (cause : Cause) (tval : Word), Entered s (s.trapAt cause tval) s.cur s.c s.pc tval s.pc false 0 cause

/-- A word that the issuing unit's profile does not execute traps PROFILE, and so does a vector word while VE is 0; a privileged
word that the profile executes traps PRIV at U level; TVAL is the word, zero-extended. (03_encoding R55, 03_encoding R56,
03_encoding R57, 03_encoding R59, 04_contexts R75) -/
def Obligations.LevelAndProfileChecks : Prop :=
  ∀ (i : Instr) (s : State),
    (executes s.kind i = false → exec i s = s.trap .profile (s.ux.word.setWidth 64))
      ∧ (needsVector i = true → s.cx.ve = false → exec i s = s.trap .profile (s.ux.word.setWidth 64))
      ∧ (executes s.kind i = true → isPrivileged i = true → s.cx.priv = .u → exec i s = s.trap .priv (s.ux.word.setWidth 64))

/-- At S or M level with its park made and a handler running, ERET goes to the doubleword at TWB + 168 with the window at TWB +
160 and the level PPRIV of the current entry, whose ACT it clears, where the PC passes its check and the window is a slot of the
ring or the shadow window of a running notice handler; no memory, no other context and nothing else of the context changes, but
that the segment begins with ERET and that of the control context the park is due where a STOP has waited for the handler. A PC
that its check refuses traps with it in TVAL, a window out of place ACCESS with the window; with no handler running ERET traps
ACCESS with TVAL 0. (21_system R399, 21_system R391, 21_system R407, 03_encoding R62) -/
def Obligations.ExceptionReturn : Prop :=
  ∀ s : State, s.cx.parked = true → s.cx.priv ≠ .u →
    let s1 := s.beginFirst
    let p := s.loc64 s.cur (s.cx.twb.toNat + 168)
    let w := s.loc64 s.cur (s.cx.twb.toNat + 160)
    let placed := s.cx.isSlot w = true ∨ (s.cx.nact = true ∧ w = s.cx.nwin)
    (s.cx.act = true → p.toNat % 4 = 0 → p.toNat < 2 ^ 58 → placed →
      (∀ i j : Fin 8, (s.cx.faults.get i).info.getLsbD 63 = true → (s.cx.faults.get j).info.getLsbD 63 = true → i = j) →
      ∃ t, exec .eret s = .next t ∧ t.cx.act = false ∧ t.mem = s.mem
        ∧ (∀ i, t.cx.faults.get i = { s.cx.faults.get i with
            info := if (s.cx.faults.get i).info.getLsbD 63 then (s.cx.faults.get i).info &&& 0xBFFFFFFFFFFFFFFF#64 else (s.cx.faults.get i).info })
        ∧ t.cx = { afterFirst s with
            pc := p, wp := w, priv := levelOfCode (s.cx.cur.info.extractLsb' 58 2), faults := t.cx.faults, resuming := true
            parking := s.ux.word.getLsbD 31 || (decide (s.c = 0) && s.ux.stopPend != []) }
        ∧ ∀ v d, ¬ (v = s.cur ∧ d = s.c) → t.ctx v d = s.ctx v d)
      ∧ (s.cx.act = true → p.toNat % 4 ≠ 0 → exec .eret s = .next (s1.trapAt .align p))
      ∧ (s.cx.act = true → p.toNat % 4 = 0 → 2 ^ 58 ≤ p.toNat → exec .eret s = .next (s1.trapAt .access p))
      ∧ (s.cx.act = true → p.toNat % 4 = 0 → p.toNat < 2 ^ 58 → ¬ placed → exec .eret s = .next (s1.trapAt .access w))
      ∧ (s.cx.act = false → exec .eret s = .next (s1.trapAt .access 0#64))

/-- WAITC and RECV on a far core, LAPW of a voter, or of a control context that the closure of its ended launch has answered, and
HALTC of the control context at S or M level stay at their word with what they wait for recorded and the park of their segment
due; nothing else changes. LAPW of any other context traps ACCESS with TVAL 0, and so does HALTC of a helper at S or M level. At
the park of a waiting word that finds nothing else to take: WAITC whose counter has reached its target passes; RECV whose ring's
tail differs from its operand passes with the tail in its register; LAPW with a closure recorded passes with its status in its
register, and takes the record; with none recorded, LAPW passes with bit 62 alone in its register where the unit has work; HALTC
with a bit of HEND set or a message deposited passes. WAITC of a counter that has not reached its target, RECV of a ring whose
tail is its operand, LAPW with no closure and no work, and HALTC with nothing to wake it stay at their word, asleep. (04_contexts
R67, 04_contexts R68, 08_messages R170, 08_messages R180, 16_tasks R341, 21_system R400) -/
def Obligations.WaitsEndAtTheirPark : Prop :=
  (∀ (i : Instr) (s : State) (w : Wait), waitOf s.g i = some w →
      ((i = .haltc → s.cx.priv ≠ .u ∧ s.c = 0) ∧ ((∃ a b, i = .waitc a b) ∨ (∃ d a b, i = .recv d a b) → s.kind = .far)
        ∧ ((∃ d, i = .lapw d) → s.c = 0 ∧ (s.isVoter s.cur s.cx.lid = true ∨ (s.ux.lapDone ≠ none ∧ s.launch s.cx.lid = none))) →
        exec i s = .next (s.modC fun x => { x with wait := some w, parking := true }))
      ∧ ((∃ d, i = .lapw d) → ¬ (s.c = 0 ∧ (s.isVoter s.cur s.cx.lid = true ∨ (s.ux.lapDone ≠ none ∧ s.launch s.cx.lid = none))) →
          exec i s = s.trap .access 0#64)
      ∧ (i = .haltc → s.cx.priv ≠ .u → s.c ≠ 0 → exec i s = s.trap .access 0#64))
    ∧ (∀ (s : State) (k v : Word), AtWait s (.waitc k v) → s.cx.woken = false →
      (∃ t, exec (.park s.cur s.c) s = .next t
        ∧ (reaches (s.counter s.cur (k.toNat % 256)) v = true → Passed s t)
        ∧ (reaches (s.counter s.cur (k.toNat % 256)) v = false → (t.ctx s.cur s.c).asleep = true ∧ (t.ctx s.cur s.c).pc = s.pc)))
    ∧ (∀ (s : State) (d : Reg) (last ring : Word), AtWait s (.recv d last ring) →
      (∃ t, exec (.park s.cur s.c) s = .next t
        ∧ (s.loc64 s.cur (s.ringBlock s.cur (ring.toNat % 16) + 16) ≠ last →
            Passed s t ∧ t.reg s.cur s.c d = s.loc64 s.cur (s.ringBlock s.cur (ring.toNat % 16) + 16))
        ∧ (s.loc64 s.cur (s.ringBlock s.cur (ring.toNat % 16) + 16) = last →
            (t.ctx s.cur s.c).asleep = true ∧ (t.ctx s.cur s.c).pc = s.pc)))
    ∧ (∀ (s : State) (d : Reg) (st : Word), AtWait s (.lapw d) → s.ux.lapDone = some st →
      ∃ t, exec (.park s.cur s.c) s = .next t ∧ Passed s t ∧ t.reg s.cur s.c d = st ∧ (t.unit s.cur).lapDone = none)
    ∧ (∀ (s : State) (d : Reg), AtWait s (.lapw d) → s.ux.lapDone = none → s.cx.woken = false →
      ∃ t, exec (.park s.cur s.c) s = .next t
        ∧ (s.workFor s.cur s.cx.lid = true → Passed s t ∧ t.reg s.cur s.c d = 0x4000000000000000#64)
        ∧ (s.workFor s.cur s.cx.lid = false → (t.ctx s.cur s.c).asleep = true ∧ (t.ctx s.cur s.c).pc = s.pc))
    ∧ (∀ s : State, AtWait s .haltc → s.c = 0 →
      (∃ t, exec (.park s.cur s.c) s = .next t
        ∧ (s.ux.hend ≠ 0#11 ∨ s.ux.deposit = true → Passed s t)
        ∧ (s.ux.hend = 0#11 → s.ux.deposit = false → (t.ctx s.cur s.c).asleep = true ∧ (t.ctx s.cur s.c).pc = s.pc)))

/-- With no instruction of the context before it that holds the access, RDSR of every register passes, writes one value to its
destination and changes no other register, no other byte and nothing else of the machine but what the read clears: HEND, HDEAD and
ERRLOG. The value is that of the register as the maps give it for the registers of 04_contexts R88 and for those of 21_system R414
that hold one field of the machine or a few side by side; MROOT and MTVEC at U level give 0; CSEQ reads as its 16-bit number alone
(log entry 48, the model's reading). CYCLE gives a value that nothing constrains (log entry 5, a choice of the model).
(04_contexts R75, 04_contexts R76, 04_contexts R88, 04_contexts R89, 21_system R391, 21_system R414, 00_scope R7, log entry 5, log
entry 48) -/
def Obligations.SystemRegisterReads : Prop :=
  (∀ (d : Reg) (r : BitVec 12) (s : State) (v : Word), sysReg s r.toNat = some v → Unheld s → s.regOk →
    ∃ t, exec (.rdsr d r) s = .next t ∧ Wrote (cleared s r.toNat) t d v)
    ∧ ∀ (d : Reg) (r : BitVec 12) (s : State), Unheld s → s.regOk →
      ∃ t v, exec (.rdsr d r) s = .next t ∧ Wrote (if r = 0x00D#12 then s.useFree else cleared s r.toNat) t d v

/-- With no instruction before it that holds the access, WRSR at S or M level of a register that needs no park and no FIFO changes
the fields of the register that it names, with the bits that the register does not hold dropped, and passes; MROOT and MTVEC are
written at M level and left at S and U; at U level a write of such a register passes and changes nothing; a write of a register
that is only read passes and changes nothing at any level; FCTL and SRSEED are written at every level, FRM keeping its value for
the codes 6 and 7 and SRSEED taking 1 for 0; TWB not a multiple of 64 or not wholly in local memory traps ACCESS with the value in
TVAL (log entry 46, the model's reading). TSTAT writes ACT and PPRIV of the current entry alone, PPRIV not for 0b10 or a level
above the writer's own, and nothing where no entry is current; clearing ACT of the control context makes the park due that a
waiting STOP asks for (log entry 49). DRPLY takes V and SEQ, and V = 0 gives up what stood to be dispatched again, a halted replay
and the marked array commands (log entry 50, the model's reading). MSGCTL takes a MAXMSG of 64 to 1,024 that is a multiple of 8,
and its bit 31 clears the counters and waiting-task entries of a far core. TRBASE takes the base of the trace of the home that
TRSEL selects while its EN is 0; with EN at 1, and with no home selected, it changes nothing. At U level a write of these four
changes nothing. (00_scope R7, 04_contexts R88, 04_contexts R89, 09_formats R197, 21_system R391, 21_system R414, 10_vector R222,
08_messages R164, 07_ordering R147, log entry 46, log entry 50) -/
def Obligations.SystemRegisterWrites : Prop :=
  ∀ (a : Reg) (r : BitVec 12) (s : State), Unheld s →
    (∀ s', srwWrite r.toNat (s.g a) s = some s' →
        (s.cx.priv ≠ .u → exec (.wrsr a r) s = .next (s'.setPc (s.pc + 4#64)))
          ∧ (s.cx.priv = .u → exec (.wrsr a r) s = .next (s.setPc (s.pc + 4#64))))
      ∧ (r = 0x071#12 ∨ r = 0x072#12 → s.cx.priv ≠ .m → exec (.wrsr a r) s = .next (s.setPc (s.pc + 4#64)))
      ∧ (r = 0x071#12 → s.cx.priv = .m →
          exec (.wrsr a r) s = .next ((s.modU fun y => { y with mroot := s.g a &&& 0x000FFFFFFFFFC000#64 }).setPc (s.pc + 4#64)))
      ∧ (r = 0x072#12 → s.cx.priv = .m → exec (.wrsr a r) s = .next ((s.modU fun y => { y with mtvec := s.g a }).setPc (s.pc + 4#64)))
      ∧ (readOnlyReg r.toNat = true → exec (.wrsr a r) s = .next (s.setPc (s.pc + 4#64)))
      ∧ (r = 0x006#12 → exec (.wrsr a r) s = .next ((s.modC fun x => { x with
            fxs := BitVec.ofNat 5 (s.g a).toNat
            frm := if (s.g a).toNat / 2 ^ 5 % 2 ^ 3 ≤ 5 then BitVec.ofNat 3 ((s.g a).toNat / 2 ^ 5) else x.frm }).setPc (s.pc + 4#64)))
      ∧ (r = 0x00C#12 → exec (.wrsr a r) s = .next ((s.modC fun x => { x with
            srseed := if (s.g a).toNat % 2 ^ 32 = 0 then 1#32 else BitVec.ofNat 32 (s.g a).toNat }).setPc (s.pc + 4#64)))
      ∧ (r = 0x045#12 → s.cx.priv ≠ .u →
          ((s.g a).toNat % 64 = 0 → (s.g a).toNat + 256 ≤ localSize s.kind →
            exec (.wrsr a r) s = .next ((s.modC fun x => { x with twb := s.g a }).setPc (s.pc + 4#64)))
          ∧ ((s.g a).toNat % 64 ≠ 0 ∨ localSize s.kind < (s.g a).toNat + 256 → exec (.wrsr a r) s = s.trap .access (s.g a)))
      ∧ (r ∈ [0x044#12, 0x04B#12, 0x062#12, 0x06C#12] → s.cx.priv = .u → exec (.wrsr a r) s = .next (s.setPc (s.pc + 4#64)))
      ∧ (r = 0x044#12 → s.cx.priv ≠ .u →
          ∃ t, exec (.wrsr a r) s = .next t
            ∧ (∀ i, t.cx.faults.get i = if s.cx.curEntry = some i then
                { s.cx.faults.get i with info := tstatInfo (s.cx.faults.get i).info (s.g a) s.cx.priv } else s.cx.faults.get i)
            ∧ t.cx = { s.cx with
                pc := s.pc + 4#64, faults := t.cx.faults
                parking := s.cx.parking || (decide (s.c = 0) && s.ux.stopPend != [] && ! t.cx.act) }
            ∧ t.mem = s.mem ∧ ∀ v d, ¬ (v = s.cur ∧ d = s.c) → t.ctx v d = s.ctx v d)
      ∧ (r = 0x04B#12 → s.cx.priv ≠ .u →
          let s1 := s.modC fun x => { x with
            drply := s.g a &&& 0x800000000000FFFF#64, redo := none, replay := { x.replay with rv := x.replay.rv && (s.g a).getLsbD 63 } }
          (s.kind ≠ .slice ∨ (s.g a).getLsbD 63 = true → exec (.wrsr a r) s = .next (s1.setPc (s.pc + 4#64)))
          ∧ (s.kind = .slice → (s.g a).getLsbD 63 = false → exec (.wrsr a r) s = .next ((s1.modSlice s.ownSlice fun y =>
              { y with fifo := y.fifo.filter fun k => ! (k.ctx == s.c && k.lid == s.cx.lid && k.halted) }).setPc (s.pc + 4#64))))
      ∧ (r = 0x062#12 → s.cx.priv ≠ .u →
          let n := (s.g a).toNat % 2 ^ 11
          let takes := 64 ≤ n ∧ n ≤ 1024 ∧ n % 8 = 0
          ((s.g a).getLsbD 31 = false ∨ s.kind ≠ .far →
            (takes → exec (.wrsr a r) s = .next ((s.modU fun y => { y with maxmsg := BitVec.ofNat 11 n }).setPc (s.pc + 4#64)))
            ∧ (¬ takes → exec (.wrsr a r) s = .next (s.setPc (s.pc + 4#64))))
          ∧ ((s.g a).getLsbD 31 = true → s.kind = .far →
            ∃ t, exec (.wrsr a r) s = .next t ∧ (∀ k, k < 256 → t.counter s.cur k = 0#64) ∧ (∀ e, e < 64 → t.wte s.cur e = Wte.free)
              ∧ t.ux.maxmsg = (if takes then BitVec.ofNat 11 n else s.ux.maxmsg) ∧ t.mem = s.mem ∧ t.pc = s.pc + 4#64))
      ∧ (r = 0x06C#12 → s.cx.priv ≠ .u →
          (s.traceHome = none → exec (.wrsr a r) s = .next (s.setPc (s.pc + 4#64)))
          ∧ ∀ h, s.traceHome = some h →
            ((s.home h).trace.en = true → ∃ t, exec (.wrsr a r) s = .next t ∧ t.pc = s.pc + 4#64 ∧ t.mem = s.mem ∧ ∀ k, t.home k = s.home k)
            ∧ ((s.home h).trace.en = false → exec (.wrsr a r) s = .next ((s.modHome h fun y => { y with trace := { y.trace with
                base := (s.g a &&& 0x000FFFFFFFFFF000#64).toNat } }).setPc (s.pc + 4#64))))

/-- At S or M level with its park made: WRSR of WP takes a slot of the ring, of BSP any value. WRSR of FRB takes a base whose ring
fits local memory: with no frame resident, WP goes to its top slot; the base that stands changes nothing; with frames resident,
they are spilled first. WRSR of FRS takes a capacity of 4 to 64 whose ring fits: with the capacity and the resident count that
stand it sets SPILLED alone; otherwise SPILLED is set, then the ring moves where the capacity changes, and frames are spilled or
filled to the resident count. A spill or fill that faults traps with its cause and address; while a home holds one back the word
waits (log entry 49, the model's form). A value out of place traps ACCESS with the value and changes nothing. At U level each
parks, passes and has no effect (that it parks there is log entry 34, the model's reading). FRS_WRITE and FRB_WRITE do the same at
S or M level apart from their word; at U level, and while a home holds a frame back, they change nothing. (00_scope R7,
04_contexts R69, 04_contexts R71, 04_contexts R72, 04_contexts R76, 04_contexts R90, log entry 34, log entry 49) -/
def Obligations.WindowRegisterWrites : Prop :=
  ∀ (a : Reg) (s : State),
    let v := s.g a
    let n := min (v.toNat / 2 ^ 8 % 256) (v.toNat % 256)
    let fits := fun (frb : Word) (cap : Nat) => frb.toNat % 64 = 0 ∧ 4 ≤ cap ∧ cap ≤ 64 ∧ frb.toNat + cap * 192 ≤ localSize s.kind
    let ends := fun (r : Seq) (t : State) => match r with | (t1, some e) => t = t1.trapAt e.1 e.2 | (t1, none) => t = t1.setPc (t1.pc + 4#64)
    let stays := fun (r : Seq) (t : State) => match r with | (t1, some e) => t = t1.trapAt e.1 e.2 | (t1, none) => t = t1
    let moved := fun (x : State) (frb : Word) (cap : BitVec 8) => Seq.andThen (x.spillTo x.cur x.c 0 256) fun y =>
      (y.modC fun z => { z with frb := frb, cap := cap, wp := frb + BitVec.ofNat 64 ((cap.toNat - 1) * 192) }, none)
    let toFrs := fun (x : State) =>
      let x1 := x.modC fun z => { z with spilled := BitVec.ofNat 32 (v.toNat / 2 ^ 32) }
      Seq.andThen (if v.toNat % 256 = s.cx.cap.toNat then (x1, none) else moved x1 s.cx.frb (BitVec.ofNat 8 v.toNat)) fun y =>
        Seq.andThen (y.spillTo y.cur y.c n 256) fun z => z.fillTo z.cur z.c n 256
    (s.cx.parked = true →
      let s1 := s.beginFirst
      (s.cx.priv = .u → ∀ r : BitVec 12, 0x001#12 ≤ r → r ≤ 0x004#12 → exec (.wrsr a r) s = .next (s1.setPc (s.pc + 4#64)))
      ∧ (s.cx.priv ≠ .u →
        (s.cx.isSlot v = true → exec (.wrsr a 0x001#12) s = .next ((s1.modC fun x => { x with wp := v }).setPc (s.pc + 4#64)))
        ∧ (s.cx.isSlot v = false → exec (.wrsr a 0x001#12) s = .next (s1.trapAt .access v))
        ∧ exec (.wrsr a 0x004#12) s = .next ((s1.modC fun x => { x with bsp := v }).setPc (s.pc + 4#64))
        ∧ (s1.ringWaits 0 = true → exec (.wrsr a 0x002#12) s = .next s1.waitFirst)
        ∧ (s1.ringWaits 0 = false →
          (fits v s.cx.cap.toNat → v ≠ s.cx.frb → s.cx.res = 0#8 →
            exec (.wrsr a 0x002#12) s = .next ((s1.modC fun x => { x with
              frb := v, cap := x.cap, wp := v + BitVec.ofNat 64 ((x.cap.toNat - 1) * 192) }).setPc (s.pc + 4#64)))
          ∧ (fits v s.cx.cap.toNat → v = s.cx.frb → exec (.wrsr a 0x002#12) s = .next (s1.setPc (s.pc + 4#64)))
          ∧ (fits v s.cx.cap.toNat → v ≠ s.cx.frb → ∃ t, exec (.wrsr a 0x002#12) s = .next t ∧ ends (moved s1 v s.cx.cap) t)
          ∧ (¬ fits v s.cx.cap.toNat → exec (.wrsr a 0x002#12) s = .next (s1.trapAt .access v)))
        ∧ (s1.ringWaits n = true → exec (.wrsr a 0x003#12) s = .next s1.waitFirst)
        ∧ (s1.ringWaits n = false →
          (fits s.cx.frb (v.toNat % 256) → v.toNat % 256 = s.cx.cap.toNat → v.toNat / 2 ^ 8 % 256 = s.cx.res.toNat →
            s.cx.res.toNat ≤ s.cx.cap.toNat →
            exec (.wrsr a 0x003#12) s = .next ((s1.modC fun x => { x with spilled := BitVec.ofNat 32 (v.toNat / 2 ^ 32) }).setPc (s.pc + 4#64)))
          ∧ (fits s.cx.frb (v.toNat % 256) → ∃ t, exec (.wrsr a 0x003#12) s = .next t ∧ ends (toFrs s1) t)
          ∧ (¬ fits s.cx.frb (v.toNat % 256) → exec (.wrsr a 0x003#12) s = .next (s1.trapAt .access v)))))
      ∧ (s.cx.priv = .u ∨ s.ringWaits n = true → exec (.frsWrite v) s = .next s)
      ∧ (s.cx.priv ≠ .u → s.ringWaits n = false →
        (¬ fits s.cx.frb (v.toNat % 256) → exec (.frsWrite v) s = .next (s.trapAt .access v))
        ∧ (fits s.cx.frb (v.toNat % 256) → v.toNat % 256 = s.cx.cap.toNat → v.toNat / 2 ^ 8 % 256 = s.cx.res.toNat →
          s.cx.res.toNat ≤ s.cx.cap.toNat →
          exec (.frsWrite v) s = .next (s.modC fun x => { x with spilled := BitVec.ofNat 32 (v.toNat / 2 ^ 32) }))
        ∧ (fits s.cx.frb (v.toNat % 256) → ∃ t, exec (.frsWrite v) s = .next t ∧ stays (toFrs s) t))
      ∧ (s.cx.priv = .u ∨ s.ringWaits 0 = true → exec (.frbWrite v) s = .next s)
      ∧ (s.cx.priv ≠ .u → s.ringWaits 0 = false →
        (fits v s.cx.cap.toNat → v = s.cx.frb → exec (.frbWrite v) s = .next s)
        ∧ (fits v s.cx.cap.toNat → v ≠ s.cx.frb → s.cx.res = 0#8 →
          exec (.frbWrite v) s = .next (s.modC fun x => { x with
            frb := v, cap := x.cap, wp := v + BitVec.ofNat 64 ((x.cap.toNat - 1) * 192) }))
        ∧ (fits v s.cx.cap.toNat → v ≠ s.cx.frb → ∃ t, exec (.frbWrite v) s = .next t ∧ stays (moved s v s.cx.cap) t)
        ∧ (¬ fits v s.cx.cap.toNat → exec (.frbWrite v) s = .next (s.trapAt .access v)))

/-- SRSEED_WRITE sets SRSEED, 1 for 0. MSGCTL_CCLR at S or M level clears every counter of a far core and frees every waiting-task
entry, and does nothing on a near unit or at U level. HEND_READ, HDEAD_READ and ERRLOG_READ write their register's value to the
destination, change no other register and no other byte, and clear the register. TRCTL_WRITE at S or M level writes the fields of
the trace of the home that TRSEL selects, WRAP being cleared by a 1 and the count by EN set from 0 (that EN at 1 written again
keeps the count is log entry 47, the model's reading); at U level it only clears WRAP; where TRSEL selects no home it changes
nothing. A PLCFG_WRITE at S or M level on a slice near unit that changes the layout of the selected plot stands in the slice's
order as the last command; one that changes nothing, one at U level and one on another unit have no effect. (09_formats R197,
08_messages R164, 16_tasks R326, 21_system R412, 21_system R414, 07_ordering R147, 13_array R272, 00_scope R7, log entry 47) -/
def Obligations.RegisterAccessEvents : Prop :=
  (∀ (s : State) (v : Word), exec (.srseedWrite v) s =
      .next (s.modC fun x => { x with srseed := if v.toNat % 2 ^ 32 = 0 then 1#32 else BitVec.ofNat 32 v.toNat }))
    ∧ (∀ s : State, (s.kind = .far → s.cx.priv ≠ .u → ∃ t, exec .msgctlCclr s = .next t ∧ (∀ k, k < 256 → t.counter s.cur k = 0#64)
          ∧ (∀ e, e < 64 → t.wte s.cur e = Wte.free) ∧ t.mem = s.mem ∧ ∀ v d, t.ctx v d = s.ctx v d)
      ∧ (s.kind ≠ .far ∨ s.cx.priv = .u → exec .msgctlCclr s = .next s))
    ∧ (∀ (s : State) (d : Reg), s.regOk →
      let reads := fun (i : Instr) (v : Word) (s1 : State) => ∃ t, exec i s = .next t ∧ t.g d = v ∧ (∀ r, r ≠ d → t.g r = s.g r)
        ∧ (∀ p, p < regAt s d ∨ regAt s d + 8 ≤ p → t.mem.read p = s.mem.read p) ∧ t.memOk ∧ t = { s1 with mem := t.mem }
      reads (.hendRead d) (BitVec.ofNat 64 s.ux.hend.toNat) (s.modU fun y => { y with hend := 0#11 })
        ∧ reads (.hdeadRead d) (BitVec.ofNat 64 s.ux.hdead.toNat) (s.modU fun y => { y with hdead := 0#11 })
        ∧ reads (.errlogRead d) s.ux.errlog (s.modU fun y => { y with errlog := 0#64 }))
    ∧ (∀ (s : State) (v : Word),
      (s.traceHome = none → exec (.trctlWrite v) s = .next s)
      ∧ ∀ h, s.traceHome = some h →
        (s.cx.priv = .u → exec (.trctlWrite v) s = .next (s.modHome h fun y =>
          { y with trace := { y.trace with wrap := y.trace.wrap && ! v.getLsbD 1 } }))
        ∧ (s.cx.priv ≠ .u → exec (.trctlWrite v) s = .next (s.modHome h fun y => { y with trace := { y.trace with
            en := v.getLsbD 0, wrap := y.trace.wrap && ! v.getLsbD 1, af := v.getLsbD 2, asid := BitVec.ofNat 12 (v.toNat / 2 ^ 20)
            count := if v.getLsbD 0 && ! y.trace.en then 0 else y.trace.count } })))
    ∧ (∀ (s : State) (v : Word),
      (s.kind ≠ .slice ∨ s.cx.priv = .u ∨ s.plcfgChanges v = false → exec (.plcfgWrite v) s = .next s)
      ∧ (s.kind = .slice → s.cx.priv ≠ .u → s.plcfgChanges v = true → s.async = true →
        ∃ k, exec (.plcfgWrite v) s = .next (s.tick.modSlice s.ownSlice fun y => { y with fifo := y.fifo ++ [k] }) ∧ k.opa = v
          ∧ k.opb = BitVec.ofNat 64 (s.slice s.ownSlice).plsel.toNat ∧ k.ctx = s.c ∧ k.halted = false ∧ numbered k.instr = false))

/-- On a stack near unit at S or M level: ARM outside near mode begins the sequence for the issuing context; KEY of the context
that has armed it, with the channel's index exclusive-or 0xA5A5, takes it on; COMMIT of the same context after KEY enters near
mode for its launch where no access is under way at the channel, and otherwise has the entry wait, which ENTER_NEAR finishes once
none is (that the entry waits apart from its word is log entry 49, the model's form); EXIT of the launch that holds the channel in
near mode, with no row program running, leaves near mode; CANCEL, and each of these in any other state, ends the sequence and
changes nothing else. On any other unit, and at U level, they have no effect. (19_near R367, 19_near R368, 19_near R369, 19_near
R381, 00_scope R7, log entry 49) -/
def Obligations.NearModeSequence : Prop :=
  (∀ s : State, s.kind = .stack → s.cx.priv ≠ .u →
    let p := pchOf s.cur
    let x := s.nearOf p
    let out := fun (f : Near → Near) => (Host.Outcome.next (s.modNear p f) : Out)
    let ended := out fun y => { y with step := 0 }
    (exec .nmctlArm s = if x.nm then ended else out fun y => { y with step := 1, owner := s.c })
      ∧ (∀ key : BitVec 16, exec (.nmctlKey key) s =
          if x.step = 1 ∧ x.owner = s.c ∧ key.toNat = (p % 65536) ^^^ 0xA5A5 then out fun y => { y with step := 2 } else ended)
      ∧ (exec .nmctlCommit s =
          if x.step = 2 ∧ x.owner = s.c then
            (if s.channelQuiet p then out fun y => { y with step := 0, nm := true, lid := s.cx.lid, entering := none }
             else out fun y => { y with step := 0, entering := some s.cx.lid })
          else ended)
      ∧ (exec .nmctlExit s =
          if x.nm = true ∧ x.stream = none ∧ x.lid = s.cx.lid then out fun y => { y with step := 0, nm := false } else ended)
      ∧ exec .nmctlCancel s = ended)
    ∧ (∀ (i : Instr) (key : BitVec 16) (s : State), s.kind ≠ .stack ∨ s.cx.priv = .u →
      i ∈ [Instr.nmctlArm, .nmctlKey key, .nmctlCommit, .nmctlExit, .nmctlCancel] → exec i s = .next s)
    ∧ ∀ (u : Nat) (s : State),
      let p := pchOf u
      ((s.nearOf p).entering = none ∨ s.channelQuiet p = false → exec (.enterNear u) s = .next s)
        ∧ ∀ lid, (s.nearOf p).entering = some lid → s.channelQuiet p = true →
          exec (.enterNear u) s = .next (s.modNear p fun y => { y with nm := true, lid := lid, entering := none })

/-- Every FP, FMA and CVT word writes its result, one rounding of the exact value in the mode of its rm field or of FRM, with the
flags that it raises added to FXS and one step of the LFSR in mode SR; FDIV and FSQRT defer the result and its flags; no other
register, no byte outside the destination register and nothing else of the machine but the PC changes. (09_formats R195,
09_formats R197, 09_formats R201, 09_formats R203, 09_formats R204, 09_formats R205, 09_formats R206, 09_formats R207, 09_formats
R208, 09_formats R210, 09_formats R212) -/
def Obligations.FloatingResults : Prop :=
  ∀ (i : Instr) (s : State) (f : FpForm), fpForm s i = some f → s.regOk →
    let s1 := if f.draws then s.modC fun x => { x with srseed := lfsrStep x.srseed } else s
    ∃ t, exec i s = .next t
      ∧ (f.deferred = false → Wrote (s1.modC fun x => { x with fxs := x.fxs ||| f.flags }) t f.d (BitVec.ofNat 64 f.bits))
      ∧ (f.deferred = true → t.cx.defs = s.cx.defs ++ [⟨f.d, s.po, .value (BitVec.ofNat 64 f.bits), f.flags⟩] ∧ t.mem = s.mem
          ∧ t.pc = s.pc + 4#64 ∧ t.cx.fxs = s.cx.fxs ∧ t.cx.srseed = (if f.draws then lfsrStep s.cx.srseed else s.cx.srseed))

/-- In FP32 and FP64, a sum, difference, product or quotient, a square root and a fused operation with a NaN among their operands
give the canonical NaN 0x7FC00000 or 0x7FF8000000000000; the flags are NV where a NaN is signalling, and none where neither is and
no 0 × ∞ arises; FMIN and FMAX give the other operand where one is a NaN and the canonical NaN where both are. For FP32 and FP64
operands that are no NaN, FEQ, FLT and FLE compare their codes as sign and magnitude with +0 and −0 equal, and FMIN and FMAX give
the operand that is first or last in that order, −0 before +0; with a NaN FEQ, FLT and FLE give 0, FEQ raising NV for a signalling
one and FLT and FLE for any. (09_formats R186, 09_formats R188, 09_formats R198, 09_formats R203, 09_formats R204, 09_formats
R208, 09_formats R206) -/
def Obligations.FloatingNaNsAndOrder : Prop :=
  (∀ (z : Bool) (rm : RM) (seed : Word32) (a b w : Nat), a < 2 ^ (if z then 64 else 32) → b < 2 ^ (if z then 64 else 32) →
    w < 2 ^ (if z then 64 else 32) →
    let f := if z then bFP64 else bFP32
    let canon := if z then 0x7FF8000000000000 else 0x7FC00000
    (∀ op : FOp, nanCode z a = true ∨ nanCode z b = true →
        fpOp f op rm seed a b = (canon, if sigCode z a || sigCode z b then 16#5 else 0#5))
      ∧ (nanCode z a = true → fpSqrt f rm seed a = (canon, if sigCode z a then 16#5 else 0#5))
      ∧ (∀ op : FmaOp, nanCode z a = true ∨ nanCode z b = true → fpFma f op rm seed a b w
          = (canon, if sigCode z a || sigCode z b || sigCode z w then 16#5 else 0#5))
      ∧ (∀ op : FmaOp, nanCode z w = true → (fpFma f op rm seed a b w).1 = canon)
      ∧ (∀ max : Bool, (fpMinMax f max a b).2 = (if sigCode z a || sigCode z b then 16#5 else 0#5)
          ∧ (nanCode z a = true → nanCode z b = true → (fpMinMax f max a b).1 = canon)
          ∧ (nanCode z a = true → nanCode z b = false → (fpMinMax f max a b).1 = b)
          ∧ (nanCode z a = false → nanCode z b = true → (fpMinMax f max a b).1 = a)))
    ∧ (∀ (z : Bool) (a b : Nat), a < 2 ^ (if z then 64 else 32) → b < 2 ^ (if z then 64 else 32) →
    let f := if z then bFP64 else bFP32
    (nanCode z a = false → nanCode z b = false →
        fpCmp f .eq a b = (decide (ordKey z a = ordKey z b), 0#5) ∧ fpCmp f .lt a b = (decide (ordKey z a < ordKey z b), 0#5)
          ∧ fpCmp f .le a b = (decide (ordKey z a ≤ ordKey z b), 0#5)
          ∧ (ordKey z a < ordKey z b → fpMinMax f false a b = (a, 0#5) ∧ fpMinMax f true a b = (b, 0#5)
              ∧ fpMinMax f false b a = (a, 0#5) ∧ fpMinMax f true b a = (b, 0#5)))
      ∧ (nanCode z a = true ∨ nanCode z b = true →
          fpCmp f .eq a b = (false, if sigCode z a || sigCode z b then 16#5 else 0#5) ∧ fpCmp f .lt a b = (false, 16#5)
            ∧ fpCmp f .le a b = (false, 16#5))
      ∧ fpMinMax f false (2 ^ (if z then 63 else 31)) 0 = (2 ^ (if z then 63 else 31), 0#5)
      ∧ fpMinMax f true 0 (2 ^ (if z then 63 else 31)) = (0, 0#5))

/-- In FP64, FP32, FP16, E5M2 and E4M3: delivering the exact value of a code that is no NaN gives that code back, with no flag, in
every rounding mode and under every overflow rule. Delivering any other nonzero exact value without an overflow gives a finite
value with no value of the format strictly between the two, and raises NX exactly where the two differ. In RNE it is at most as
far from the exact value as every value of the format, and where another is as far its least significant bit is 0; in RNA it is at
most as far and in a tie the one of greater magnitude; in RTZ its magnitude, in RDN its value is not above the exact one, and in
RUP not below. (09_formats R186, 09_formats R187, 09_formats R195, 09_formats R196, 09_formats R198) -/
def Obligations.RepresentableValuesAreDelivered : Prop :=
  (∀ (f : BinFmt) (o : Over) (rm : RM) (seed : Word32) (c : Nat), f ∈ [bFP64, bFP32, bFP16, bE5M2, bE4M3] → c < 2 ^ f.width →
    (f.decode c).isNan = false → f.deliver o rm seed (f.decode c) = (c, 0#5))
    ∧ ∀ (f : BinFmt) (o : Over) (rm : RM) (seed : Word32) (neg : Bool) (num den : Nat), f ∈ [bFP64, bFP32, bFP16, bE5M2, bE4M3] →
      num ≠ 0 → den ≠ 0 →
      let r := f.deliver o rm seed (.fin neg num den)
      let x := ratOf (.fin neg num den)
      let y := ratOf (f.decode r.1)
      r.2.getLsbD 2 = false →
      r.1 < 2 ^ f.width ∧ isFinite (f.decode r.1) = true ∧ (r.2.getLsbD 0 = true ↔ y ≠ x)
        ∧ (rm = .rtz → |y| ≤ |x|) ∧ (rm = .rdn → y ≤ x) ∧ (rm = .rup → x ≤ y)
        ∧ ∀ c, c < 2 ^ f.width → isFinite (f.decode c) = true →
          let z := ratOf (f.decode c)
          ¬ (min x y < z ∧ z < max x y)
            ∧ (rm = .rne → |x - y| ≤ |x - z| ∧ (|x - y| = |x - z| → z ≠ y → r.1 % 2 = 0))
            ∧ (rm = .rna → |x - y| ≤ |x - z| ∧ (|x - y| = |x - z| → |z| ≤ |y|))

/-- At S or M level with its park made: TLBINV with a reserved bit of its control word set traps ACCESS with that word, and of a
KIND that names an address, with an address of more than 58 bits, ACCESS with the address. Otherwise, while an earlier access of
the context is not performed, it waits at its word, holding the unit, or parked where the context has an access that its home has
refused or holds (the model's choice, log entry 49); once all are, it removes from the TLB of every unit and die the entries that
its KIND, ASID and VA name and no other, the read cache of a far core that lost one is empty and every other is as it was, with
memory as before, and where no access that a removed translation may have formed is on its way, the word is passed. GENADV of a
word that is an ASID raises the hub's generation of it by one and defers a result; with other bits set it traps ACCESS with the
word. GENADV.FLOOR sets the floor of an ASID at every home and no other floor, and traps ACCESS for one newer than the generation.
As events: a request removes the entries of one unit and of its die; where an advance with no context due still finds older work
at a unit nothing changes, else the unit's older overlays of the address space are gone and it owes no acknowledgement, and the
last unit's ends the advance and answers its result; a floor reaches its home. That GENADV acts first and defers, and what a
unit's part in an advance is, are log entry 22. (06_memory R119, 21_system R403, 21_system R404, 21_system R405, log entry 22, log
entry 49) -/
def Obligations.TranslationAndGenerationRequests : Prop :=
  (∀ (a b : Reg) (s : State), s.cx.parked = true → s.cx.priv ≠ .u →
      let s1 := s.beginFirst
      let va := s.g a
      let ctl := s.g b
      let clean : Prop := ctl.toNat / 2 ^ 44 = 0 ∧ ctl.toNat / 4 % 2 ^ 30 = 0
      (¬ clean → exec (.tlbinv a b) s = .next (s1.trapAt .access ctl))
        ∧ (clean → 2 ≤ ctl.toNat % 4 → 2 ^ 58 ≤ va.toNat → exec (.tlbinv a b) s = .next (s1.trapAt .access va))
        ∧ (clean → (ctl.toNat % 4 < 2 ∨ va.toNat < 2 ^ 58) →
          (s.allPerformed s.cur s.c = false → exec (.tlbinv a b) s = .next s1.waitFirst)
          ∧ (s.allPerformed s.cur s.c = true →
            ∃ t, exec (.tlbinv a b) s = .next t ∧ t.mem = s.mem ∧ (s.tlbPending ctl = false → t.cx = afterFirst s)
              ∧ (s.tlbPending ctl = true → t.pc = s.pc)
              ∧ (∀ u, (t.unit u).tlb = (s.unit u).tlb.filter fun e => ! tlbGone e va ctl)
              ∧ (∀ u, (t.unit u).cache = if kindOf u = .far ∧ (∃ e ∈ (s.unit u).tlb, tlbGone e va ctl = true) then [] else (s.unit u).cache)
              ∧ ∀ d, (SMap.get t.dies d ⟨[]⟩).tlb = (SMap.get s.dies d ⟨[]⟩).tlb.filter fun e => ! tlbGone e va ctl)))
    ∧ (∀ (u : Nat) (va ctl : Word) (s : State), ∃ t, exec (.tlbInvalidateRequest u va ctl) s = .next t ∧ t.mem = s.mem
        ∧ (t.unit u).tlb = ((s.unit u).tlb.filter fun e => ! tlbGone e va ctl)
        ∧ (t.unit u).cache = (if kindOf u = .far ∧ (∃ e ∈ (s.unit u).tlb, tlbGone e va ctl = true) then [] else (s.unit u).cache)
        ∧ (∀ v, v ≠ u → t.unit v = s.unit v)
        ∧ ∀ d, (SMap.get t.dies d ⟨[]⟩).tlb
            = if d = dieOf u then (SMap.get s.dies d ⟨[]⟩).tlb.filter fun e => ! tlbGone e va ctl else (SMap.get s.dies d ⟨[]⟩).tlb)
    ∧ (∀ (d a : Reg) (s : State), s.cx.parked = true → s.cx.priv ≠ .u →
        ((s.g a).toNat < 2 ^ 12 → ∃ t, exec (.genadv d a) s = .next t ∧ t.pc = s.pc + 4#64 ∧ t.mem = s.mem
            ∧ SMap.get t.gens (s.g a).toNat 0#16 = SMap.get s.gens (s.g a).toNat 0#16 + 1#16
            ∧ (t.cx.defs.map fun e => (e.dst, e.id)) = (s.cx.defs.map fun e => (e.dst, e.id)) ++ [(d, s.po)])
          ∧ (2 ^ 12 ≤ (s.g a).toNat → exec (.genadv d a) s = .next (s.beginFirst.trapAt .access (s.g a))))
    ∧ (∀ (a b : Reg) (s : State), s.cx.parked = true → s.cx.priv ≠ .u →
        let asid := (s.g a).toNat % 2 ^ 12
        let newer := ((s.g b).toNat % 2 ^ 16 + 2 ^ 16 - (SMap.get s.gens asid 0#16).toNat) % 2 ^ 16
        (newer = 0 ∨ 2 ^ 15 ≤ newer → ∃ t, exec (.genadvFloor a b) s = .next t ∧ t.cx = afterFirst s ∧ t.mem = s.mem
            ∧ ∀ h k, SMap.get (t.home h).floors k (SMap.get t.floors k 0#16)
                = if k = asid then BitVec.ofNat 16 (s.g b).toNat else SMap.get (s.home h).floors k (SMap.get s.floors k 0#16))
          ∧ (1 ≤ newer ∧ newer < 2 ^ 15 → exec (.genadvFloor a b) s = .next (s.beginFirst.trapAt .access (s.g b))))
    ∧ (∀ (u : Nat) (g : GenAdvance) (s : State), s.advances = [g] → g.due = [] → u ∈ g.owing →
        (s.olderWork u g.asid g.gen = true → exec (.genAdvanceRequest u g.asid g.gen) s = .next s)
          ∧ (s.olderWork u g.asid g.gen = false →
            ∃ t, exec (.genAdvanceRequest u g.asid g.gen) s = .next t ∧ t.mem = s.mem
              ∧ (∀ i : Fin 16, let e := (s.unit u).overlays.get i
                  (t.unit u).overlays.get i
                    = if e.valid = true ∧ e.asid = g.asid ∧ 1 ≤ (g.gen - e.gen).toNat ∧ (g.gen - e.gen).toNat < 2 ^ 15 then Overlay.none else e)
              ∧ ((∀ v ∈ g.owing, v = u) → t.advances = []
                  ∧ (t.ctx g.unit g.ctx).defs = (s.ctx g.unit g.ctx).defs.map fun e =>
                      if e.id = g.id then { e with src := .value (BitVec.ofNat 64 g.gen.toNat) } else e)
              ∧ ((∃ v ∈ g.owing, v ≠ u) → t.advances = [{ g with owing := g.owing.filter fun v => v != u }])))
    ∧ ∀ (h : Nat) (asid : BitVec 12) (floor : BitVec 16) (s : State),
      exec (.generationFloorRequest h asid floor) s
        = .next (s.modHome h fun y => { y with floors := SMap.put y.floors asid.toNat floor })

/-- At S or M level: CBSWAP of a helper that is not live, with a block that fits local memory, makes it the helper's block, and
changes nothing else but the PC and the slot's pending notice, which was the stopped body's (the model's choice, log entry 106),
and with a live helper or another block traps ACCESS. With its park made: CBSWAP.SEAL of a helper that is not live waits at its
word while an access of the issuer is not performed (log entry 49), and else leaves its block with a seal that passes the check of
START.RES and every other byte as it was, and of a live one traps ACCESS. CBSWAP.UNIT of an area that passes its check puts the
counters, the waiting-task table, the held messages, the matrix format context and slots and the engine back, an engine command
that has begun since behind the one that the area holds, and reports the restore; of any other area it fails the launch and traps
RESTOREBAD. What the area numbers and what a save takes out are log entries 14 and 21, the failed launch log entry 20; that a
block is as long as its own VE bit says is log entry 19. STOPC of 0 only passes; of a word with a reserved bit or a helper the
unit lacks it traps ACCESS; of one live helper with nothing under way it leaves that helper not live; with the acknowledgement
asked, the unit owes none; with the save asked, one save more stands, and engine and held messages are empty. (21_system R408,
21_system R409, 21_system R410, 21_system R411, log entry 19, log entry 20, log entry 21, log entry 49, log entry 106) -/
def Obligations.ContextSlotWords : Prop :=
  ∀ s : State, s.cx.priv ≠ .u →
    let s1 := s.beginFirst
    (∀ (n : BitVec 4) (a : Reg), hasHelperN s.kind n = true →
        ((s.ctx s.cur n.toNat).live = false → s.blockFits s.cur (s.g a) = true →
          exec (.cbswap n a) s = .next (((s.modU fun y => { y with cb := y.cb.setIfInBounds n.toNat (s.g a) }).modCtx s.cur n.toNat
            fun y => { y with npend := false }).setPc (s.pc + 4#64)))
        ∧ ((s.ctx s.cur n.toNat).live = true ∨ s.blockFits s.cur (s.g a) = false → exec (.cbswap n a) s = s.trap .access (s.g a)))
      ∧ (∀ n : BitVec 4, hasHelperN s.kind n = true → s.cx.parked = true →
        ((s.ctx s.cur n.toNat).live = true → exec (.cbswapSeal n) s = .next (s1.trapAt .access (BitVec.ofNat 64 n.toNat)))
        ∧ ((s.ctx s.cur n.toNat).live = false → s.allPerformed s.cur s.c = false → exec (.cbswapSeal n) s = .next s1.waitFirst)
        ∧ ((s.ctx s.cur n.toNat).live = false → s.allPerformed s.cur s.c = true → s.memOk → s.upsets = [] →
          (s.cbOf s.cur n.toNat).toNat + 0x1240 ≤ localSize s.kind →
          let base := localPa s.cur (s.cbOf s.cur n.toNat).toNat
          ∃ t, exec (.cbswapSeal n) s = .next t ∧ t.cx = afterFirst s ∧ t.sealOk s.cur (s.cbOf s.cur n.toNat) = true ∧ t.memOk
            ∧ ∀ a, a < base ∨ base + 0x1240 ≤ a → t.mem.read a = s.mem.read a))
      ∧ (∀ a : Reg, s.cx.parked = true →
        (∀ x, s1.checkArea s.cur (s.g a).toNat = some x →
          ∃ t, exec (.cbswapUnit a) s = .next t ∧ t.pc = s.pc + 4#64 ∧ t.mem = s.mem ∧ t.ux.counters = x.counters ∧ t.ux.wtes = x.wtes
            ∧ t.ux.heldMsgs = x.held ++ s.ux.heldMsgs ∧ t.ux.matrix = { s.ux.matrix with
                fmt := x.matrix.fmt, acc0 := x.matrix.acc0, acc1 := x.matrix.acc1, prog := x.matrix.prog, pf32 := x.matrix.pf32, az := x.matrix.az }
            ∧ (x.engine.begun = none ∨ s.ux.engine.begun = none →
                t.ux.engine.infifo = x.engine.infifo ++ s.ux.engine.infifo ∧ t.ux.engine.begun = x.engine.begun.or s.ux.engine.begun)
            ∧ (∀ p k, x.engine.begun = some p → s.ux.engine.begun = some k →
                t.ux.engine.infifo = x.engine.infifo ++ { k.1 with chunks := k.2 } :: s.ux.engine.infifo ∧ t.ux.engine.begun = some p)
            ∧ t.ux.engine.out = x.engine.out ++ s.ux.engine.out
            ∧ t.ux.engine.susp = false
            ∧ ∀ l, s.launch x.lid = some l → t.launch x.lid = some { l with away := l.away.filter fun v => v != s.cur })
        ∧ (s1.checkArea s.cur (s.g a).toNat = none →
            exec (.cbswapUnit a) s = .next ((s1.endLaunchBut (some s.cur) s.cx.lid 2 0x0F 0#64).trapAt .restoreBad 0#64)))
      ∧ (∀ a : Reg, s.cx.parked = true →
        let w := s.g a
        (w = 0#64 → exec (.stopc a) s = .next (s1.setPc (s.pc + 4#64)))
        ∧ ((2 ^ 48 ≤ w.toNat ∨ w.toNat / 2 ^ 19 % 2 ^ 13 ≠ 0 ∨ w.toNat / 2 ^ 11 % 2 ^ 5 ≠ 0 ∨ w.toNat % 2 = 1
              ∨ (s.kind ≠ .far ∧ w.toNat / 2 ^ 4 % 2 ^ 7 ≠ 0)) →
            exec (.stopc a) s = .next (s1.trapAt .access w))
        ∧ (∀ n : Nat, w = BitVec.ofNat 64 (2 ^ n) → 1 ≤ n → n ≤ (if s.kind = .far then 10 else 3) → n ≠ s.c →
            (s.ctx s.cur n).live = true → (s.ctx s.cur n).defs = [] → (s.ctx s.cur n).blocked = [] → s.flight = [] →
            s.copQueued s.cur n = false →
            ∃ t, exec (.stopc a) s = .next t ∧ (t.ctx s.cur n).live = false ∧ t.pc = s.pc + 4#64)
        ∧ (∀ (lid : Nat) (l : Launch), lid < 2 ^ 16 → w = BitVec.ofNat 64 (2 ^ 18 + lid * 2 ^ 32) → s.launch lid = some l →
            ∃ t, exec (.stopc a) s = .next t ∧ t.pc = s.pc + 4#64 ∧ (s.ux.matrix.walk = none → t.mem = s.mem)
              ∧ t.launch lid = some { l with owing := l.owing.filter fun v => v != s.cur })
        ∧ ∀ lid : Nat, lid < 2 ^ 16 → w = BitVec.ofNat 64 (2 ^ 17 + lid * 2 ^ 32) →
            ∃ t, exec (.stopc a) s = .next t ∧ t.pc = s.pc + 4#64 ∧ t.saves.length = s.saves.length + 1
              ∧ t.ux.engine = Engine.reset ∧ t.ux.heldMsgs = [])

/-- With VE set, a place in the queue, no recorded fault or replay and no error of the vector unit, and instructions performed
apart from their issue, a vector word joins the end of the queue with its scalar operands, its mode resolved and the context's
next number, its entry stands last in the dispatch ring, its scalar result, where it has one, is deferred, and nothing else
changes but the number and the PC. (10_vector R214, 10_vector R215, 10_vector R216, 10_vector R217, 10_vector R221, log entry 3)
-/
def Obligations.VectorDispatch : Prop :=
  ∀ (i : Instr) (s : State) (f : VForm), vectorForm s.g i = some f → QuietCop s → s.upsetAt .vector s.cur = none → s.async = true →
    s.cx.ve = true → s.ux.vq.length < 16 →
    ∃ t k, exec i s = .next t ∧ Dispatched s t 1 f.opa f.opb 1#4 ∧ t.ux.vq = s.ux.vq ++ [k] ∧ k.ctx = s.c ∧ k.instr = i ∧ k.opa = f.opa
      ∧ k.opb = f.opb ∧ k.rm = s.cx.mode f.rm ∧ k.seq = s.cx.cseq ∧ k.po = s.po ∧ k.pc = s.pc ∧ k.who = s.issuer s.cur s.c
      ∧ t.cx.defs = s.cx.defs ++ (match f.dst with | some d => [⟨d, s.po, .pending, 0#5⟩] | none => [])

/-- A VINT word that the vector unit runs at once writes to every active element of its destination the operation's result modulo
two to the element width, keeps the destination's inactive elements, and changes no other vector register, no register of the
window, no memory and no flag. Run at once: VCMP defers to its register a word whose bit j is 1 exactly where every element that
overlaps lane j is active and fulfils the condition; VSEL takes each element from its first operand where the mask bit is 1 and
from its second elsewhere; VBCAST writes the register's low bits to every element; VINS writes them to one element and keeps the
others; VEXT defers one element, sign-extended; VPERM takes the element that its second operand names, modulo the count; VSLIDE
takes the element at a signed distance, and 0 outside. VFP gives each active element in index order the one rounding of its
operation, VCVT that of its conversion and 0 past its elements, VRED and VDOT leave in element 0 their pairwise tree, VDOT of
bytes the sum of its products, and 0 elsewhere, VMXS the scale codes of two blocks, VMXQ and VMXD the elements quantised and read
back, each with the flags of all its roundings added to FXS and one step of the LFSR for each in mode SR; VFCMP is as VCMP with
the flags of its active elements. A VCVT from DM8 rounds in RNE (log entry 115); the flags and codes of special elements and of
blocks of zeros are log entry 16. (10_vector R213, 10_vector R214, 10_vector R232, 10_vector R233, 10_vector R234, 10_vector R235,
10_vector R236, 10_vector R237, 10_vector R239, 10_vector R240, 10_vector R241, 09_formats R200) -/
def Obligations.VectorLanes : Prop :=
  (∀ (i : Instr) (s : State) (w : VWidth) (m : Reg) (d a b : VReg), laneWord i = some (w, m, d, a, b) → VectorFree s →
    let n := laneBitsOf w
    ∃ t, exec i s = .next t ∧ t.cx.fxs = s.cx.fxs
      ∧ LanesWritten s t d n fun k =>
          if laneOn s.g m n k then
            (match laneOp n (lane n (s.v s.cur s.c a) k) (lane n (s.v s.cur s.c b) k) (lane n (s.v s.cur s.c d) k) i with
             | some x => (x % 2 ^ n).toNat
             | none => 0)
          else lane n (s.v s.cur s.c d) k)
    ∧ (∀ (w : VWidth) (s : State), VectorFree s →
    let n := laneBitsOf w
    let v := s.v s.cur s.c
    (∀ (c : VCond) (m : Reg) (k a b : VReg), ∃ t x, exec (.vcmp c w m k a b) s = .next t
        ∧ t.cx.defs = [⟨BitVec.ofNat 5 (k.toNat + 8), s.po, .value x, 0#5⟩] ∧ t.mem = s.mem ∧ t.pc = s.pc + 4#64
        ∧ ∀ j, j < 64 → (x.getLsbD j = true ↔ ∀ i, i < 2048 / n → i * n < 32 * (j + 1) → 32 * j < (i + 1) * n →
            laneOn s.g m n i = true ∧ laneHolds c n (lane n (v a) i) (lane n (v b) i) = true))
      ∧ (∀ (d a b : VReg) (m : Reg), ∃ t, exec (.vsel w d a b m) s = .next t
          ∧ LanesWritten s t d n fun i => lane n (if (s.g m).getLsbD (i * n / 32) then v a else v b) i)
      ∧ (∀ (d : VReg) (m : Reg), ∃ t, exec (.vbcast w d m) s = .next t ∧ LanesWritten s t d n fun _ => (s.g m).toNat % 2 ^ n)
      ∧ (∀ (d : VReg) (m : Reg) (hi lo : VReg), ∃ t, exec (.vins w d m hi lo) s = .next t
          ∧ LanesWritten s t d n fun i => if i = hi.toNat * 16 + lo.toNat then (s.g m).toNat % 2 ^ n else lane n (v d) i)
      ∧ (∀ (m : Reg) (a hi lo : VReg), ∃ t, exec (.vext w m a hi lo) s = .next t ∧ t.mem = s.mem ∧ t.pc = s.pc + 4#64
          ∧ t.cx.defs = [⟨m, s.po, .value (sext n (lane n (v a) (hi.toNat * 16 + lo.toNat) : Nat)), 0#5⟩])
      ∧ (∀ (d a b : VReg), ∃ t, exec (.vperm w d a b) s = .next t
          ∧ LanesWritten s t d n fun i => lane n (v a) (lane n (v b) i % (2048 / n)))
      ∧ ∀ (d a : VReg) (m : Reg), ∃ t, exec (.vslide w d a m) s = .next t
          ∧ LanesWritten s t d n fun i =>
              let j : Int := i + (s.g m).toInt
              if 0 ≤ j ∧ j < 2048 / n then lane n (v a) j.toNat else 0)
    ∧ (∀ (i : Instr) (s : State) z rm m d a b op, vfpWord i = some (z, rm, m, d, a, b, op) → VectorFree s →
      let f := if z then bFP64 else bFP32
      let n := if z then 64 else 32
      let v := s.v s.cur s.c
      ∃ t, exec i s = .next t ∧ RoundedLanes s t d n (s.cx.mode rm) (2048 / n) (laneOn s.g m n) (lane n (v d))
        fun k seed => op f (s.cx.mode rm) seed (lane n (v a) k) (lane n (v b) k) (lane n (v d) k))
    ∧ ∀ s : State, VectorFree s →
      let v := s.v s.cur s.c
      let frm := s.cx.mode .dyn
      let on := fun (m : Reg) (i : Nat) => m == 0#5 || (s.g m).getLsbD i
      (∀ (c : FCond) (z : Bool) (m : Reg) (k a b : VReg),
        let n := if z then 64 else 32
        let r := fun i => fpCmp (if z then bFP64 else bFP32) (fcond c) (lane n (v a) i) (lane n (v b) i)
        ∃ t x, exec (.vfcmp c z m k a b) s = .next t
          ∧ t.cx.defs = [⟨BitVec.ofNat 5 (k.toNat + 8), s.po, .value x, 0#5⟩] ∧ t.mem = s.mem ∧ t.pc = s.pc + 4#64
          ∧ t.cx.fxs = s.cx.fxs ||| flagsOf (((List.range (2048 / n)).filter (laneOn s.g m n)).map fun i => (r i).2)
          ∧ ∀ j, j < 64 → (x.getLsbD j = true ↔ ∀ i, i < 2048 / n → i * n < 32 * (j + 1) → 32 * j < (i + 1) * n →
              laneOn s.g m n i = true ∧ (r i).1 = true))
        ∧ (∀ (op : RedOp) (w : VWidth) (d a : VReg),
          let n := laneBitsOf w
          let count := 2048 / n
          let m := match op with | .fadd rm => s.cx.mode rm | _ => .rne
          let f := fun i => redPair op m n (seedOf m s.cx.srseed i)
          (Instr.vred op w d a).wf = true → ∃ t, exec (.vred op w d a) s = .next t
            ∧ FpLanesWritten s t d n m (count - 1) (treeFlags count (lane n (v a)) f (Nat.log2 count))
              fun i => if i = 0 then treeNode count (lane n (v a)) f (Nat.log2 count) 0 else 0)
        ∧ (∀ (ovf : Bool) (m : Reg) (dst src : Fmt) (d a : VReg),
          let count := if fmtWidth src = 64 ∨ fmtWidth dst = 64 then 32 else 64
          let r := if src = .dm8 then .rne else frm
          ∃ t, exec (.vcvt ovf m dst src d a) s = .next t ∧ RoundedLanes s t d (fmtWidth dst) r count (on m)
            (fun i => if i < count then lane (fmtWidth dst) (v d) i else 0)
            fun i seed => convert ovf dst src r seed (lane (fmtWidth src) (v a) i))
        ∧ (∀ (f : MxFmt) (d a : VReg),
          let k := fun j => mxScale f ((List.range 32).map fun i => bFP32.decode (lane 32 (v a) (32 * j + i)))
          ∃ t, exec (.vmxs f d a) s = .next t
            ∧ FpLanesWritten s t d 8 .rne 0 (if (k 0).2 || (k 1).2 then 16#5 else 0#5) fun i => if i < 2 then (k i).1 else 0)
        ∧ (∀ (f : MxFmt) (d a b : VReg),
          (∃ t, exec (.vmxq f d a b) s = .next t ∧ RoundedLanes s t d (mxWidth f) frm 64 (fun _ => true) (fun _ => 0)
            fun i seed => mxQuant f frm (lane 8 (v b) (i / 32))
              (bFP32.decode (if (List.range 32).all fun j => lane 32 (v a) (i / 32 * 32 + j) % 2 ^ 31 == 0 then 0 else lane 32 (v a) i)) seed)
          ∧ ∃ t, exec (.vmxd f d a b) s = .next t ∧ RoundedLanes s t d 32 frm 64 (fun _ => true) (fun _ => 0)
            fun i seed => mxElement f frm (lane 8 (v b) (i / 32)) (lane (mxWidth f) (v a) i) seed)
        ∧ ∀ (m : Reg) (d a b : VReg),
          (∃ t, exec (.vdot false m d a b) s = .next t ∧ t.cx.fxs = s.cx.fxs ∧ LanesWritten s t d 32 fun i =>
            if i = 0 then (((List.range 256).map fun k =>
              if on m (k / 4) then sgn 8 (lane 8 (v a) k) * sgn 8 (lane 8 (v b) k) else 0).sum % 2 ^ 32).toNat else 0)
          ∧ let leaf := fun i => dotPair frm (seedOf frm s.cx.srseed i) (on m) (lane 32 (v a)) (lane 32 (v b)) i
            let f := fun i => fpOp bFP32 .add frm (seedOf frm s.cx.srseed (32 + i))
            ∃ t, exec (.vdot true m d a b) s = .next t
              ∧ FpLanesWritten s t d 32 frm 63 (flagsOf ((List.range 32).map fun i => (leaf i).2) ||| treeFlags 32 (fun i => (leaf i).1) f 5)
                fun i => if i = 0 then treeNode 32 (fun i => (leaf i).1) f 5 0 else 0

/-- Run at once by a unit of the device, with a base aligned to the element and 256 bytes of the local window that the context may
reach and no guarded region holds: VLD writes each element from its bytes, least significant first, and changes no memory; VLDBC
writes the element at the base to all; VST writes each element to its bytes and changes no other byte and no vector register.
(06_memory R108, 10_vector R218, 10_vector R230, 10_vector R231) -/
def Obligations.VectorMemoryLanes : Prop :=
  ∀ (w : VWidth) (d : VReg) (m : Reg) (s : State), VectorFree s → s.memOk → s.cur < 1536 → (s.g m).toNat + 256 ≤ localSize s.kind →
    (s.g m).toNat % (laneBitsOf w / 8) = 0 → InWindow s (s.g m).toNat 256 → Unguarded s (s.g m).toNat 256 →
    let n := laneBitsOf w
    let at_ := fun (i : Nat) => localPa s.cur ((s.g m).toNat + i * (n / 8))
    (∃ t, exec (.vld w d m) s = .next t ∧ LanesWritten s t d n fun i => leNat (n / 8) fun k => s.mem.read (at_ i + k))
      ∧ (∃ t, exec (.vldbc w d m) s = .next t ∧ LanesWritten s t d n fun _ => leNat (n / 8) fun k => s.mem.read (at_ 0 + k))
      ∧ ∃ t, exec (.vst w d m) s = .next t ∧ t.pc = s.pc + 4#64 ∧ t.cx.vregs = s.cx.vregs ∧ t.memOk ∧ t.cx.late = []
          ∧ (∀ i, i < 2048 / n → (leNat (n / 8) fun k => t.mem.read (at_ i + k)) = lane n (s.v s.cur s.c d) i)
          ∧ ∀ a, a < at_ 0 ∨ at_ 0 + 256 ≤ a → t.mem.read a = s.mem.read a

/-- With a place in the FIFO and no recorded fault or replay: a matrix word on a far core joins the end of the core's FIFO, and an
array word on a slice near unit whose commands are performed apart from their issue joins the end of the slice's, each with its
operands, K where it has it, and the context's next number, its entry last in the dispatch ring; nothing else changes but the
number and the PC. MPOP on a far core defers its result until its park. AWAIT on a slice near unit takes a number, its entry
complete, and ends its segment with the wait recorded. (10_vector R221, 12_matrix R248, 12_matrix R249, 12_matrix R267, 13_array
R273, 13_array R289, log entry 3) -/
def Obligations.MatrixAndArrayIssue : Prop :=
  (∀ (i : Instr) (s : State) (k : Bool) (a b : Word), matrixForm s.g i = some (k, a, b) → s.kind = .far → QuietCop s →
      s.ux.matrix.fifo.length < 8 →
      ∃ t x, exec i s = .next t ∧ Dispatched s t 2 a b 1#4 ∧ t.ux.matrix = { s.ux.matrix with fifo := s.ux.matrix.fifo ++ [x] }
        ∧ x.ctx = s.c ∧ x.k = k ∧ x.instr = i ∧ x.opa = a ∧ x.opb = b ∧ x.seq = s.cx.cseq ∧ x.pc = s.pc ∧ x.po = s.po
        ∧ x.who = s.issuer s.cur s.c ∧ t.cx.defs = s.cx.defs)
    ∧ (∀ (d : Reg) (s : State), s.kind = .far → ∃ t, exec (.mpop d) s = .next t ∧ Deferring s t d (.mpop s.pc))
    ∧ (∀ (i : Instr) (s : State) (a b : Word), arrayForm s.g i = some (a, b) → s.kind = .slice → QuietCop s → s.async = true →
      (s.slice s.ownSlice).fifo.length < 32 →
      ∃ t x, exec i s = .next t ∧ Dispatched s t 3 a b 1#4 ∧ (t.slice s.ownSlice).fifo = (s.slice s.ownSlice).fifo ++ [x]
        ∧ x.ctx = s.c ∧ x.instr = i ∧ x.opa = a ∧ x.opb = b ∧ x.seq = s.cx.cseq ∧ x.pc = s.pc ∧ x.po = s.po ∧ x.halted = false
        ∧ t.cx.defs = s.cx.defs)
    ∧ ∀ s : State, s.kind = .slice → QuietCop s →
      ∃ t, exec .await s = .next t ∧ Dispatched s t 3 0#64 0#64 0#4 ∧ t.cx.awaiting = true ∧ t.cx.parking = true

/-- A grant of a command without K at the head of its core's FIFO, with its operands aligned, in range and in no guarded region,
leaves: of MMA and MMAS, where SCM agrees, every cell of the slot's M × N with the products of its rows accumulated, integers
modulo 2^32, else per group in FP32 or, in FP32 and FP64, product by product; of MLDC every cell from its bytes in memory; of MSTC
every cell in its bytes in memory and no other byte changed; of MREC every cell as the program leaves it from the step's records,
the command complete after its last step and under way before; of MPROG the accepted program; of MFMT the accepted format, and
where the accumulator format changes both slots zero and AZ set. MTLIST of an exhausted list with TOUCHED 0 and no zero stores
ends, its block's CUR moved to ROWEND and no other byte and no cell changed; with TOUCHED 1 its grant stores the slot's row block,
clears it and goes on; an entry in hand of the current row block, the list's last, accumulates its product. Every other cell of
the slots, the other slot and every other byte is as it was. (12_matrix R246, 12_matrix R247, 12_matrix R250, 12_matrix R254,
12_matrix R256, 12_matrix R258, 12_matrix R259, 12_matrix R260, 12_matrix R261, 12_matrix R262, 12_matrix R263, 12_matrix R264) -/
def Obligations.MatrixGrantResults : Prop :=
  ∀ (cl u : Nat) (k : MatCmd) (s : State), Granting s cl u k →
    let x := s.mat u
    let f := matShape x.fmt
    let lv := k.who.level
    let la := f.k * fmtWidth f.fmtA / 8
    let lb := f.k * fmtWidth f.fmtB / 8
    let q := f.k / 32
    let offA := k.opa.toNat % 2 ^ 20
    let offB := k.opb.toNat % 2 ^ 20
    let rows := f.n * f.cell
    let wa := fmtWidth f.fmtA
    let wb := fmtWidth f.fmtB
    (x.walk = none → ∀ (kk sl : Bool) (a b : Reg),
      (∀ scaled : Bool, k.instr = (if scaled then .mmas kk sl a b else .mma kk sl a b) → f.scm = (if scaled then 1 else 0) →
        let sA := k.opa.toNat / 2 ^ 32 % 2 ^ 20
        let sB := k.opb.toNat / 2 ^ 32 % 2 ^ 20
        s.localFault u lv 64 ([(offA, f.m * la), (offB, f.n * lb)] ++ if scaled then [(sA, f.m * q), (sB, f.n * q)] else []) = none →
        ∃ t v, exec (.matrixGrant cl) s = .next t ∧ t.mem = s.mem ∧ SlotLeft s t u sl v ∧ CellsLeft f (x.acc sl) v fun i j =>
          mmaCell f scaled (cellNat (x.acc sl) (f.acc == 1) i j) (operandAt s u offA la la wa i) (operandAt s u offB lb lb wb j)
            (fun e => (s.mem.read (localPa u (sA + i * q + e))).toNat) fun e => (s.mem.read (localPa u (sB + j * q + e))).toNat)
      ∧ (k.opb.toNat % 64 = 0 → rows ≤ k.opb.toNat →
        s.localFault u lv 64 ((List.range f.m).map fun i => (offA + i * k.opb.toNat, rows)) = none →
        let at_ := fun (i j : Nat) => localPa u (offA + i * k.opb.toNat + j * f.cell)
        (k.instr = .mldc kk sl a b → ∃ t v, exec (.matrixGrant cl) s = .next t ∧ t.mem = s.mem ∧ SlotLeft s t u sl v
            ∧ CellsLeft f (x.acc sl) v fun i j => leNat f.cell fun y => s.mem.read (at_ i j + y))
          ∧ (k.instr = .mstc kk sl a b → ∃ t, exec (.matrixGrant cl) s = .next t ∧ t.memOk ∧ SlotLeft s t u sl (x.acc sl)
            ∧ (∀ i j, i < f.m → j < f.n → (leNat f.cell fun y => t.mem.read (at_ i j + y)) = cellNat (x.acc sl) (f.acc == 1) i j)
            ∧ ∀ p, (∀ i, i < f.m → p < at_ i 0 ∨ at_ i 0 + rows ≤ p) → t.mem.read p = s.mem.read p))
      ∧ (k.instr = .mrec kk sl a b → 1 ≤ k.opb.toNat → k.opb.toNat ≤ 4096 → f.acc = (if x.pf32 then 0 else 2) →
        s.localFault u lv 64 [(offA, k.opb.toNat * (4 * (f.m + f.n)))] = none →
        let at_ := fun (i : Nat) => leNat 4 fun y => s.mem.read (localPa u (offA + 4 * i + y))
        ∃ t v, exec (.matrixGrant cl) s = .next t ∧ t.mem = s.mem
          ∧ (k.opb.toNat = 1 → SlotLeft s t u sl v)
          ∧ (1 < k.opb.toNat → ∃ w, w.next = 1 ∧ t.mat u = { x.setAcc sl v with walk := some w })
          ∧ CellsLeft f (x.acc sl) v fun i j => recRun x.prog x.pf32 (at_ i) (at_ (f.m + j)) (cellNat (x.acc sl) false i j) 0 0 4)
      ∧ (∀ f32 : Bool, k.instr = .mprog kk f32 a → progOk k.opa = true →
        ∃ t, exec (.matrixGrant cl) s = .next t ∧ t.mem = s.mem
          ∧ t.mat u = { x with prog := k.opa, pf32 := f32, fifo := x.fifo.drop 1, walk := none })
      ∧ (k.instr = .mfmt kk a → matOk k.opa = true → s.stage ≠ 3#4 →
        ∃ t, exec (.matrixGrant cl) s = .next t ∧ t.mem = s.mem ∧ (t.mat u).fmt = k.opa ∧ (t.mat u).fifo = x.fifo.drop 1
          ∧ (k.opa.toNat / 2 ^ 12 % 4 = x.fmt.toNat / 2 ^ 12 % 4 → (t.mat u).acc0 = x.acc0 ∧ (t.mat u).acc1 = x.acc1 ∧ (t.mat u).az = x.az)
          ∧ (k.opa.toNat / 2 ^ 12 % 4 ≠ x.fmt.toNat / 2 ^ 12 % 4 → (t.mat u).acc0 = [] ∧ (t.mat u).acc1 = [] ∧ (t.mat u).az = true))
      ∧ (k.instr = .mtlist kk sl a → f.scm = 0 → s.localFault u lv 64 [(offA, 64)] = none →
        let dw := fun (i : Nat) => leNat 8 fun y => s.mem.read (localPa u (offA + 8 * i + y))
        let cur := dw 2 / 2 ^ 32 % 2 ^ 16
        let start := dw 1 % 2 ^ 32
        dw 0 % 16 = 0 → dw 7 = 0 → dw 2 % 2 ^ 32 < 2 → (∀ i, 3 ≤ i → i < 7 → dw i % 64 = 0 ∧ dw i < 2 ^ 20) → dw 1 / 2 ^ 32 ≤ start →
        (dw 2 % 2 = 0 → ∃ t, exec (.matrixGrant cl) s = .next t ∧ t.memOk ∧ SlotLeft s t u sl (x.acc sl)
            ∧ (leNat 8 fun y => t.mem.read (localPa u (offA + 16 + y)))
                = dw 2 / 2 ^ 48 * 2 ^ 48 + max cur (dw 2 / 2 ^ 48) * 2 ^ 32
            ∧ ∀ p, p < localPa u (offA + 16) ∨ localPa u (offA + 24) ≤ p → t.mem.read p = s.mem.read p)
          ∧ (dw 2 % 2 = 1 → rows ≤ dw 6 →
            let at_ := fun (i j : Nat) => localPa u (dw 5 + cur * f.m * dw 6 + i * dw 6 + j * f.cell)
            s.localFault u lv 64 ((List.range f.m).map fun i => (dw 5 + cur * f.m * dw 6 + i * dw 6, rows)) = none →
            ∃ t v w, exec (.matrixGrant cl) s = .next t ∧ t.memOk ∧ t.mat u = { x.setAcc sl v with walk := some w }
              ∧ CellsLeft f (x.acc sl) v (fun _ _ => 0) ∧ w.touched = false ∧ w.cur = cur + 1 ∧ w.next = start ∧ w.stored = 1
              ∧ (∀ i j, i < f.m → j < f.n → (leNat f.cell fun y => t.mem.read (at_ i j + y)) = cellNat (x.acc sl) (f.acc == 1) i j)
              ∧ ∀ p, (∀ i, i < f.m → p < at_ i 0 ∨ at_ i 0 + rows ≤ p) → t.mem.read p = s.mem.read p)))
    ∧ ∀ (kk sl : Bool) (a : Reg) (w : Walk) (e0 e1 : Word), k.instr = .mtlist kk sl a → x.walk = some w → w.entry = some (e0, e1) →
      (w.dw 1).toNat / 2 ^ 32 = w.next + 1 → e0.toNat % 2 ^ 16 = w.cur → e0.toNat / 2 ^ 32 = 0 → w.cur < (w.dw 2).toNat / 2 ^ 48 →
      e1.toNat < 2 ^ 20 →
      let bAt := (w.dw 3).toNat % 2 ^ 20 + e0.toNat / 2 ^ 16 % 2 ^ 16 * lb
      let stride := (w.dw 4).toNat % 2 ^ 20
      s.localFault u lv 1 ((List.range f.n).map fun j => (bAt + j * stride, lb)) = none → s.localFault u lv 64 [(e1.toNat, f.m * la)] = none →
      ∃ t v, exec (.matrixGrant cl) s = .next t ∧ t.mem = s.mem
        ∧ t.mat u = { x.setAcc sl v with walk := some { w with touched := true, next := w.next + 1, entry := none } }
        ∧ CellsLeft f (x.acc sl) v fun i j =>
          mmaCell f false (cellNat (x.acc sl) (f.acc == 1) i j) (operandAt s u e1.toNat la la wa i) (operandAt s u bAt stride lb wb j)
            (fun _ => 0) fun _ => 0

/-- RPT of a body that passes its checks starts the repetition at its first body word, and of count 1 only passes. VECTOR_EXECUTE
runs the head of the queue, once what it waits for is done, and takes it out; before that, and with nothing queued, nothing
changes. REPLAY_PASS of a one-word body on its last pass queues the word with each vector register number moved by pass × stride,
and the repetition ends; with no repetition nothing changes. At REPLAY_RESUME, of a context that has returned from an exception or
is restored with a replay record: at the record's PC the repetition goes on at its pass and word, with the body read again from
the code store, and the record is spent; at any other PC it is lost; with none, before a re-dispatch that is due, or within a
handler at another PC nothing changes (what the body's words read again is log entry 32). REDISPATCH, where a context has so
returned or been restored, with nothing to dispatch clears DRPLY.V; a recorded VINT word from that number on is queued again with
its operands and a new number; without V, while a handler runs, or with no such return nothing changes. MATRIX_GRANT of an MZERO
at the head of a core's FIFO clears the accumulator and takes it out; with no command to grant nothing changes. ARRAY_EXECUTE of
an ASETRB that comes next sets ARB and takes it out; with no command to execute nothing changes. MATRIX_STOP_BOUNDARY and
ARRAY_HALT, where a stop of the launch that owns every command has reached the unit, empty the core's FIFO and mark every numbered
command of the slice's, in their order; where none has, the commands stay. (10_vector R216, 10_vector R223, 10_vector R224,
10_vector R226, 10_vector R229, 12_matrix R250, 12_matrix R257, 12_matrix R266, 13_array R273, 13_array R285, 13_array R291) -/
def Obligations.CoprocessorEvents : Prop :=
  (∀ (n : BitVec 8) (len stride : BitVec 4) (s : State), s.cx.ve = true → QuietCop s →
      s.checkBody s.cur s.c (s.pc + 4#64) (len.toNat + 1) = .ok →
      ∃ t, exec (.rpt n len stride) s = .next t ∧ t.pc = s.pc + 4#64 ∧ t.mem = s.mem
        ∧ t.ux.replay = if n = 0#8 then [] else [⟨s.c, s.pc + 4#64, len.toNat + 1, [], n.toNat + 1, stride.toNat, 1, 0⟩])
    ∧ (∀ (u : Nat) (s : State), ((s.unit u).vq = [] → exec (.vectorExecute u) s = .next s)
      ∧ ∀ k rest, (s.unit u).vq = k :: rest →
        (s.vready u k = true → exec (.vectorExecute u) s = .next (State.vrun (s.modUnit u fun x => { x with vq := rest }) u k))
          ∧ (s.vready u k = false → exec (.vectorExecute u) s = .next s))
    ∧ (∀ (u : Nat) (s : State), ((s.unit u).replay = [] → exec (.replayPass u) s = .next s)
      ∧ ∀ (r : Replay) (x : RWord), (s.unit u).replay = [r] → r.body = [x] → r.len = 1 → r.word = 0 → r.count = r.pass + 1 →
        (s.unit u).vq.length < 16 →
        ∃ t k, exec (.replayPass u) s = .next t ∧ (t.unit u).replay = [] ∧ (t.unit u).vq = (s.unit u).vq ++ [k]
          ∧ k.instr = stagger (BitVec.ofNat 4 (r.pass * r.stride)) x.instr ∧ k.opa = x.opa ∧ k.opb = x.opb ∧ k.rm = x.rm
          ∧ k.seq = (s.ctx u r.ctx).cseq)
    ∧ (∀ (u c : Nat) (s : State),
      let x := s.ctx u c
      let r := x.replay
      (x.live = false ∨ x.resuming = false ∨ r.rv = false ∨ (x.act = false ∧ x.drply.getLsbD 63 = true) ∨ (x.act = true ∧ x.pc ≠ r.pc) →
          exec (.replayResume u c) s = .next s)
        ∧ (x.live = true → x.resuming = true → x.act = false → x.drply.getLsbD 63 = false → r.rv = true → x.pc ≠ r.pc →
          ∃ t, exec (.replayResume u c) s = .next t ∧ (t.ctx u c).replay.rv = false ∧ t.mem = s.mem
            ∧ (t.unit u).replay = (s.unit u).replay)
        ∧ (x.live = true → x.resuming = true → (x.act = true ∨ x.drply.getLsbD 63 = false) → r.rv = true → x.pc = r.pc →
          let base := x.pc - BitVec.ofNat 64 (4 * r.dist.toNat)
          ∀ (w : Word32) (n : BitVec 8) (len stride : BitVec 4), s.fetchAt u c (base - 4#64) = some w →
            decodeCop w = some (.rpt n len stride) →
            (∀ k, k < len.toNat + 1 → ∃ w i, s.fetchAt u c (base + BitVec.ofNat 64 (4 * k)) = some w ∧ decodeCop w = some i) →
            ∃ t body, exec (.replayResume u c) s = .next t ∧ (t.ctx u c).replay.rv = false ∧ t.mem = s.mem
              ∧ (t.unit u).replay = ((s.unit u).replay.filter fun o => o.ctx != c)
                  ++ [⟨c, base, len.toNat + 1, body, n.toNat + 1, stride.toNat, r.pass.toNat, r.word.toNat⟩]
              ∧ body.length = min (len.toNat + 1) r.dist.toNat
              ∧ ∀ k y, body[k]? = some y → y.pc = base + BitVec.ofNat 64 (4 * k)
                ∧ ∃ w, s.fetchAt u c y.pc = some w ∧ decodeCop w = some y.instr))
    ∧ (∀ (u c : Nat) (s : State),
      ((s.ctx u c).redo = none → (s.ctx u c).drply.getLsbD 63 = false ∨ (s.ctx u c).act = true ∨ (s.ctx u c).resuming = false →
          exec (.redispatch u c) s = .next s)
        ∧ ((s.ctx u c).live = true → (s.ctx u c).resuming = true → (s.ctx u c).act = false → (s.ctx u c).drply.getLsbD 63 = true → (s.ctx u c).redo = none →
          (s.ctx u c).defs = [] → (s.ctx u c).awaiting = false → (s.unit u).replay = [] → (s.ctx u c).replay.rv = false →
          ((s.ctx u c).dring = [] →
            ∃ t, exec (.redispatch u c) s = .next t ∧ (t.ctx u c).drply.getLsbD 63 = false ∧ t.mem = s.mem)
          ∧ ∀ e i x, (s.ctx u c).dring = [e] → e.st = 2#4 ∨ e.st = 3#4 → e.unit = 1#4 → decodeCop e.word = some i → laneWord i = some x →
            e.seq.toNat = (s.ctx u c).drply.toNat % 2 ^ 16 → e.seq ≠ (s.ctx u c).cseq → (s.unit u).vq.length < 16 →
            ∃ t k, exec (.redispatch u c) s = .next t ∧ (t.ctx u c).drply.getLsbD 63 = false ∧ t.mem = s.mem
              ∧ (t.unit u).vq = (s.unit u).vq ++ [k] ∧ k.instr = i ∧ k.ctx = c ∧ k.opa = e.opa ∧ k.opb = e.opb ∧ k.pc = e.pc
              ∧ k.seq = (s.ctx u c).cseq ∧ (t.ctx u c).cseq = (s.ctx u c).cseq + 1#16))
    ∧ (∀ (cl : Nat) (s : State), (s.matNext cl = none → exec (.matrixGrant cl) s = .next s)
      ∧ ∀ u k acc, s.matNext cl = some (u, k) → k.instr = .mzero false acc → k.k = false → (s.mat u).walk = none →
        (s.ctx u k.ctx).late = [] →
        ∃ t, exec (.matrixGrant cl) s = .next t ∧ (t.mat u).fifo = (s.mat u).fifo.drop 1 ∧ (t.mat u).out = (s.mat u).out
          ∧ (if acc then (t.mat u).acc1 else (t.mat u).acc0) = [] ∧ t.mem = s.mem)
    ∧ (∀ (sl : Nat) (s : State), (s.arrayHead sl = none → exec (.arrayExecute sl) s = .next s)
      ∧ ∀ k a, s.arrayHead sl = some k → k.instr = .asetrb a → k.opa.toNat < 256 → k.done = 0 → s.upsets = [] →
        (s.ctx (Config.sliceUnit0 + sl) k.ctx).late = [] →
        ∃ t, exec (.arrayExecute sl) s = .next t ∧ (t.ctx (Config.sliceUnit0 + sl) k.ctx).arb = BitVec.ofNat 8 k.opa.toNat
          ∧ (t.slice sl).fifo = (s.slice sl).fifo.filter (fun o => o != k) ∧ t.mem = s.mem)
    ∧ (∀ (u lid : Nat) (s : State), (s.launch lid = none → exec (.matrixStopBoundary u lid) s = .next s)
      ∧ ∀ l, s.launch lid = some l →
        (l.stopped = false ∨ u ∉ l.owing → exec (.matrixStopBoundary u lid) s = .next s)
          ∧ (l.stopped = true → u ∈ l.owing → (∀ k ∈ (s.mat u).fifo, (s.ctx u k.ctx).lid = lid) → (s.mat u).walk = none →
            (s.mat u).fifo ≠ [] →
            ∃ t, exec (.matrixStopBoundary u lid) s = .next t ∧ (t.mat u).fifo = [] ∧ (t.mat u).walk = none ∧ t.mem = s.mem))
    ∧ ∀ (sl lid : Nat) (s : State), (s.launch lid = none → exec (.arrayHalt sl lid) s = .next s)
      ∧ ∀ l, s.launch lid = some l →
        (l.stopped = false ∨ Config.sliceUnit0 + sl ∉ l.owing → exec (.arrayHalt sl lid) s = .next s)
          ∧ (l.stopped = true → Config.sliceUnit0 + sl ∈ l.owing → (∀ k ∈ (s.slice sl).fifo, k.lid = lid) →
            ∃ t, exec (.arrayHalt sl lid) s = .next t ∧ (s.arrayHead sl = none → t.mem = s.mem)
              ∧ ((t.slice sl).fifo.map fun k => (k.ctx, k.seq, k.instr, k.opa, k.opb, k.halted))
                  = (s.slice sl).fifo.map fun k => (k.ctx, k.seq, k.instr, k.opa, k.opb, k.halted || numbered k.instr))

/-- An AROW command at the head of a slice's order, with no derivation rule and no error of the hardware standing, writes in every
selected array, in the columns that predication leaves writable, the destination row's bit and latch C as the table gives them,
and latch P in every column; every other column, row, array and latch keeps its value. So executed, an AMACRO whose destination is
placed as R283 asks leaves in the rows of its band, in each such column, its result modulo two to the band's width, with latch C 0
and P as it was; AXIN of an accepted operand in range leaves in the array or the band the bits of local memory and changes no
other row, AXOUT leaves in local memory the bits of the rows and changes no other byte; ADOT leaves in the outputs of each
selected array the sums of its weights with the row buffer; ABUF copies its vector register to the row buffer, and AOUT half of an
array's outputs to its register. (13_array R270, 13_array R274, 13_array R278, 13_array R279, 13_array R280, 13_array R281,
13_array R282, 13_array R283, 13_array R286, 13_array R287) -/
def Obligations.ArrayRowResults : Prop :=
  (∀ (sl : Nat) (s : State) (k : ArrayCmd) (d : Option RowOff) (ra rb : RowOff), ArrayNext s sl k → rowNames k.instr = some (d, ra, rb) →
    let x := s.ctx (Config.sliceUnit0 + sl) k.ctx
    let rowNo := fun (f : RowOff) => (x.arb.toNat + f.toNat) % 256
    ∃ t, exec (.arrayExecute sl) s = .next t ∧ t.memOk ∧ ∀ y j, y < 96 → j < 512 →
      let a := fun (c : Nat) => (s.row sl y (rowNo ra)).getLsbD c
      let b := fun (c : Nat) => (s.row sl y (rowNo rb)).getLsbD c
      let c := fun (q : Nat) => (s.latch sl y).c.getLsbD q
      let p := fun (q : Nat) => (s.latch sl y).p.getLsbD q
      let on : Bool := x.sel.getLsbD (y / 4)
      let writes : Bool := on && (! x.pe || p j)
      (∀ r, r < 256 → (t.row sl y r).getLsbD j
          = if writes && decide (d.map rowNo = some r) then (rowBit k.instr a b c p j).getD false else (s.row sl y r).getLsbD j)
        ∧ (t.latch sl y).c.getLsbD j = (if writes then (carryBit k.instr a b c p j).getD (c j) else c j)
        ∧ (t.latch sl y).p.getLsbD j = (if on then (predBit k.instr a p j).getD (p j) else p j))
    ∧ (∀ (sl : Nat) (s : State) (k : ArrayCmd) w wd two res, ArrayNext s sl k → macroWord k.instr = some (w, wd, two, res) →
      let x := s.ctx (Config.sliceUnit0 + sl) k.ctx
      let rd := (x.arb.toNat + k.opa.toNat / 2 ^ 16 % 256) % 256
      let ra := (x.arb.toNat + k.opa.toNat / 2 ^ 8 % 256) % 256
      let rb := (x.arb.toNat + k.opa.toNat % 256) % 256
      MacroPlaced k.instr w wd rd ra rb two →
      ∃ t, exec (.arrayExecute sl) s = .next t ∧ t.memOk ∧ ∀ y j, y < 96 → j < 512 →
        let on : Bool := x.sel.getLsbD (y / 4)
        let writes : Bool := on && (! x.pe || (s.latch sl y).p.getLsbD j)
        let v := (res (bandNat s sl y ra w j) (bandNat s sl y rb w j) (bandNat s sl y rd wd j) % 2 ^ wd).toNat
        (∀ r, r < 256 → (t.row sl y r).getLsbD j
            = if writes && decide ((r + 256 - rd) % 256 < wd) then v.testBit ((r + 256 - rd) % 256) else (s.row sl y r).getLsbD j)
          ∧ (t.latch sl y).c.getLsbD j = (! on && (s.latch sl y).c.getLsbD j) ∧ (t.latch sl y).p = (s.latch sl y).p)
    ∧ (∀ (sl : Nat) (s : State) (k : ArrayCmd) (a b : Reg), ArrayNext s sl k → MoveOk k.opb →
      let u := Config.sliceUnit0 + sl
      let x := s.ctx u k.ctx
      let mode := k.opb.toNat / 2 ^ 30
      let wid := k.opb.toNat / 2 ^ 24 % 2 ^ 6
      let idx := k.opb.toNat % 2 ^ 7
      let off := k.opa.toNat
      let bits := fun (m : Memory) (i : Nat) => (m.read (localPa u (off + i / 8))).getLsbD (i % 8)
      let first := (x.arb.toNat + k.opb.toNat / 2 ^ 16 % 2 ^ 8) % 256
      s.localFault u x.priv 64 [(off, if mode < 2 then 16384 else 256 * wid)] = none →
      (k.instr = .axin a b → ∃ t, exec (.arrayExecute sl) s = .next t ∧ t.memOk
        ∧ (mode < 2 →
          (∀ r j, r < 256 → j < 512 → (t.row sl idx r).getLsbD j = bits s.mem (512 * r + j))
            ∧ (∀ y r, y < 96 → r < 256 → y ≠ idx → t.row sl y r = s.row sl y r)
            ∧ t.latch sl idx = { s.latch sl idx with int4 := decide (mode = 1) })
        ∧ (mode = 2 → ∀ y r j, y < 96 → r < 256 → j < 512 → (t.row sl y r).getLsbD j
            = if y / 4 = idx ∧ (r + 256 - first) % 256 < wid then bits s.mem (wid * (512 * (y % 4) + j) + (r + 256 - first) % 256)
              else (s.row sl y r).getLsbD j))
      ∧ (k.instr = .axout a b → ∃ t, exec (.arrayExecute sl) s = .next t ∧ t.memOk
        ∧ (mode < 2 → (∀ r j, r < 256 → j < 512 → bits t.mem (512 * r + j) = (s.row sl idx r).getLsbD j)
            ∧ ∀ p, p < localPa u off ∨ localPa u off + 16384 ≤ p → t.mem.read p = s.mem.read p)
        ∧ (mode = 2 → (∀ e i, e < 2048 → i < wid →
              bits t.mem (wid * e + i) = (s.row sl (4 * idx + e / 512) ((first + i) % 256)).getLsbD (e % 512))
            ∧ ∀ p, p < localPa u off ∨ localPa u off + 256 * wid ≤ p → t.mem.read p = s.mem.read p)))
    ∧ ∀ (sl : Nat) (s : State) (k : ArrayCmd), ArrayNext s sl k →
      let u := Config.sliceUnit0 + sl
      let x := s.ctx u k.ctx
      (k.instr = .adot → ∃ t, exec (.arrayExecute sl) s = .next t ∧ t.mem = s.mem ∧ ∀ y o, y < 96 → o < 128 →
        let w := if (s.latch sl y).int4 then 4 else 8
        (SMap.get (t.slice sl).outs (128 * y + o) 0#32).toNat
          = if x.sel.getLsbD (y / 4) then
              (if w = 8 ∧ 64 ≤ o then 0 else
                (((List.range 256).map fun r => sgn w ((s.row sl y r).toNat / 2 ^ (w * o) % 2 ^ w) * sgn 8 (lane 8 (s.slice sl).rowbuf r)).sum
                  % 2 ^ 32).toNat)
            else (SMap.get (s.slice sl).outs (128 * y + o) 0#32).toNat)
        ∧ (∀ a, k.instr = .abuf a → k.ve = true →
          ∃ t, exec (.arrayExecute sl) s = .next t ∧ t.mem = s.mem ∧ (t.slice sl).rowbuf = s.v u k.ctx a)
        ∧ ∀ (d : VReg) (b : Reg), k.instr = .aout d b → k.ve = true → k.opb.toNat < 2 ^ 8 → k.opb.toNat % 2 ^ 7 < 96 →
          ∃ t, exec (.arrayExecute sl) s = .next t ∧ t.mem = s.mem
            ∧ (∀ i, i < 64 → lane 32 (t.v u k.ctx d) i
                = (SMap.get (s.slice sl).outs (128 * (k.opb.toNat % 2 ^ 7) + 64 * (k.opb.toNat / 2 ^ 7) + i) 0#32).toNat)
            ∧ ∀ r, r ≠ d → t.v u k.ctx r = s.v u k.ctx r

/-- Where a PUT, PUTC, GET, SEND or CINC passes its checks, and, but for GET, the store queue has a place and no earlier access of
its context is an acquire under way or yet to write the local bytes that it sends except stores in flight, and accesses are
posted, the word posts one access with the remote address and with the local bytes, counter, amount, ring, tag and sender that the
word names, read at issue (with the context's own stores in flight laid over what memory holds; with none in flight, what memory
holds); GET defers its result; memory does not change; with the queue full, or with such an access, a word that passes its checks
holds issue. That a context's own stores come first in what it reads of its unit, and that it waits for other writes, is log entry
99. A PUT, PUTC, GET or SEND whose length is above MAXMSG traps ACCESS with the spec, one whose local range fails traps ACCESS
with the offset, and one (or a CINC) whose remote address fails a check traps with that check's cause and the address. CGET on a
far core with no acquire under way defers the counter's value, and else holds issue. WTARM on a far core with CANCEL frees its
entry; of an armed entry it traps ACCESS; of a free one with a misaligned descriptor ALIGN, with one out of range ACCESS;
otherwise, where nothing else is yet to write the descriptor, it arms the entry with the counter, threshold, descriptor, context
and launch where the threshold is not reached, and where it is the entry fires at once: its hand-off is deposited and the entry
free, or it is held as the last of the unit's held messages. (08_messages R163, 08_messages R165, 08_messages R166, 08_messages
R167, 08_messages R169, 08_messages R172, 08_messages R175, 08_messages R179, 06_memory R128, log entry 3, log entry 99) -/
def Obligations.MessageResults : Prop :=
  (∀ (a b : Reg) (s s1 : State) (pa : Nat), MsgOk s (specOf (s.g a)).1 (specOf (s.g a)).2 (s.g b) false false s1 pa →
      ∃ t, exec (.put a b) s = .next t
        ∧ Posted s s1 t (s.g b) pa (.put (s.ownBytes (specOf (s.g a)).1 (specOf (s.g a)).2) none))
    ∧ (∀ (d a b : Reg) (s s1 : State) (pa : Nat), MsgOk s (specOf (s.g a)).1 (specOf (s.g a)).2 (s.g b) false true s1 pa →
      (∃ t, exec (.putc d a b) s = .next t
          ∧ Posted s s1 t (s.g b) pa (.put (s.ownBytes (specOf (s.g a)).1 (specOf (s.g a)).2) (some ((s.g d).toNat % 256))))
        ∧ ∃ t, exec (.send d a b) s = .next t
          ∧ Posted s s1 t (s.g b) pa (.send ((s.g d).toNat % 16)
              (sentMessage s1 (s.g d) (s.ownBytes (specOf (s.g a)).1 (specOf (s.g a)).2))))
    ∧ (∀ (d a b : Reg) (s s1 : State) (pa : Nat), MsgOk s (specOf (s.g a)).1 (specOf (s.g a)).2 (s.g b) true false s1 pa →
      ∃ t, exec (.get d a b) s = .next t ∧ t.cx.defs = s1.cx.defs ++ [⟨d, s.po, .pending, 0#5⟩]
        ∧ Posted s s1 t (s.g b) pa (.get (specOf (s.g a)).1 (specOf (s.g a)).2 s.po))
    ∧ (∀ (d a b : Reg) (s s1 : State) (pa : Nat), MsgOk s 0 0 (s.g b) false true s1 pa →
      ∃ t, exec (.cinc d a b) s = .next t ∧ Posted s s1 t (s.g b) pa (.cinc ((s.g d).toNat % 256) (s.g a)))
    ∧ (∀ (i : Instr) (load far : Bool) (d a b : Reg) (s : State),
      (i, load, far) ∈ [(Instr.put a b, false, false), (.putc d a b, false, true), (.get d a b, true, false), (.send d a b, false, true)] →
      let off := (specOf (s.g a)).1
      let n := (specOf (s.g a)).2
      (s.ux.maxmsg.toNat < n → exec i s = s.trap .access (s.g a))
        ∧ (n ≤ s.ux.maxmsg.toNat → s.localRangeOk off n = false → exec i s = s.trap .access (BitVec.ofNat 64 off))
        ∧ ∀ e, n ≤ s.ux.maxmsg.toNat → s.localRangeOk off n = true → s.checkRemote (s.g b) n load far = .error e →
          exec i s = s.trap e (s.g b))
    ∧ (∀ (d a b : Reg) (s : State) (e : Cause), s.checkRemote (s.g b) 0 false true = .error e →
      exec (.cinc d a b) s = s.trap e (s.g b))
    ∧ (∀ (i : Instr) (far : Bool) (d a b : Reg) (s s1 : State) (pa : Nat),
      (i, far) ∈ [(Instr.put a b, false), (.putc d a b, true), (.send d a b, true)] →
      let off := (specOf (s.g a)).1
      let n := (specOf (s.g a)).2
      n ≤ s.ux.maxmsg.toNat → s.localRangeOk off n = true → s.checkRemote (s.g b) n false far = .ok (s1, pa) →
      s1.storesFull s1.cur = true ∨ s1.ownPending off n = true → exec i s = .next s1.hold)
    ∧ (∀ (d a : Reg) (s : State), s.kind = .far → (s.ownAcquires = true → exec (.cget d a) s = .next s.hold) ∧ (s.ownAcquires = false →
      ∃ t, exec (.cget d a) s = .next t ∧ Deferring s t d (.value (SMap.get s.ux.counters ((s.g a).toNat % 256) 0#64))))
    ∧ (∀ (off n : Nat) (s : State), s.flight = [] → s.ownBytes off n = s.getLocal s.cur off n
      ∧ ((∀ k ∈ s.ux.vq, k.ctx ≠ s.c) → s.ownPending off n = false))
    ∧ ∀ (d a b : Reg) (s : State), s.kind = .far →
      let w := s.g d
      let e := w.toNat % 64
      let off := s.g b
      let past := (SMap.get s.ux.counters (w.toNat / 2 ^ 8 % 256) 0#64 - s.g a).toNat
      (2 ^ 63 ≤ w.toNat → ∃ t, exec (.wtarm d a b) s = .next t ∧ t.wte s.cur e = Wte.free ∧ t.mem = s.mem ∧ t.pc = s.pc + 4#64
          ∧ ∀ k, k ≠ e → t.wte s.cur k = s.wte s.cur k)
        ∧ (w.toNat < 2 ^ 63 → (s.wte s.cur e).armed = true → exec (.wtarm d a b) s = s.trap .access w)
        ∧ (w.toNat < 2 ^ 63 → (s.wte s.cur e).armed = false → off.toNat % 64 ≠ 0 → exec (.wtarm d a b) s = s.trap .align off)
        ∧ (w.toNat < 2 ^ 63 → (s.wte s.cur e).armed = false → off.toNat % 64 = 0 → s.localRangeOk off.toNat 64 = false →
          exec (.wtarm d a b) s = s.trap .access off)
        ∧ (w.toNat < 2 ^ 63 → (s.wte s.cur e).armed = false → off.toNat % 64 = 0 → s.localRangeOk off.toNat 64 = true →
          s.ownPending off.toNat 64 = false → 2 ^ 63 ≤ past →
          ∃ t, exec (.wtarm d a b) s = .next t ∧ t.mem = s.mem ∧ t.pc = s.pc + 4#64
            ∧ t.wte s.cur e = ⟨true, BitVec.ofNat 8 (w.toNat / 2 ^ 8), s.g a, s.ownBytes off.toNat 64, s.c, false, s.cx.lid⟩
            ∧ ∀ k, k ≠ e → t.wte s.cur k = s.wte s.cur k)
        ∧ (w.toNat < 2 ^ 63 → (s.wte s.cur e).armed = false → off.toNat % 64 = 0 → s.localRangeOk off.toNat 64 = true →
          s.ownPending off.toNat 64 = false → past < 2 ^ 63 →
          ∃ t, exec (.wtarm d a b) s = .next t ∧ t.pc = s.pc + 4#64
            ∧ (t.wte s.cur e = Wte.free
              ∨ ((t.wte s.cur e).fired = true ∧ t.ux.heldMsgs = s.ux.heldMsgs ++ [.handOff e])))

/-- A counter increment in flight that order lets go, at a core with no entry armed, adds its amount to its counter and is in
flight no more; with none in flight nothing changes. A retry of hand-offs with none held, of messages with none held, or of a
contribution that is not refused or whose channel a row stream holds, changes nothing; the one held hand-off that its ring now
takes frees its entry, is held no more and leaves its launch noted for the task's start; the one held message that its ring now
takes is held no more and stops its sender no more; a refused contribution is sent again, and where it is refused again nothing
changes. A line that no posted load asks for is not filled; the one load in flight that asks for a line of DRAM that reads without
a fault and can be performed is performed, and leaves the line's bytes in the read cache. A walk that finds a leaf leaves an entry
for the address, with A set and for a store D; an entry of the table that stands in a derived tile is not written; one that finds
none, or meets an error that no code corrects, changes nothing. (06_memory R116, 07_ordering R138, 08_messages R163, 08_messages
R171, 08_messages R172, 08_messages R176, 19_near R377, 21_system R401, 21_system R402, log entry 81) -/
def Obligations.MessageAndWalkEvents : Prop :=
  (∀ (core n : Nat) (amount : Word) (s : State), n < 256 →
      ((∀ r ∈ s.flight, r.act ≠ .cinc n amount) → exec (.counterIncrement core (BitVec.ofNat 8 n) amount) s = .next s)
        ∧ ∀ r, s.flight = [r] → r.act = .cinc n amount → s.unitAt r.pa = some core →
          s.mayPerform r = true → r.acq = false → s.homeFault r.who (reqTagged r) true none r.pa 1 = none →
          (∀ e, (s.wte core e).armed = false) →
          ∃ t, exec (.counterIncrement core (BitVec.ofNat 8 n) amount) s = .next t ∧ t.flight = [] ∧ t.mem = s.mem
            ∧ t.counter core n = s.counter core n + amount ∧ ∀ k, k < 256 → k ≠ n → t.counter core k = s.counter core k)
    ∧ (∀ (core : Nat) (s : State), (∀ h ∈ (s.unit core).heldMsgs, heldHandOff h = false) → exec (.handOffRetry core) s = .next s)
    ∧ (∀ (core e : Nat) (s s1 : State), (s.unit core).heldMsgs = [.handOff e] →
      s.deposit core 0 ⟨true, s.dev, core, .far, (s.wte core e).ctx, e, 0#32, (s.wte core e).desc⟩ = .done s1 →
      (s1.unit core).heldMsgs = (s.unit core).heldMsgs →
      ∃ t, exec (.handOffRetry core) s = .next t ∧ t.wte core e = Wte.free ∧ t.mem = s1.mem ∧ (t.unit core).heldMsgs = []
        ∧ (t.unit core).fires = (s1.unit core).fires ++ [(s.wte core e).lid])
    ∧ (∀ (core : Nat) (s : State), (∀ h ∈ (s.unit core).heldMsgs, heldHandOff h = true) → exec (.messageRetry core) s = .next s)
    ∧ (∀ (core ring : Nat) (m : Message) (r : Req) (s s1 : State), (s.unit core).heldMsgs = [.msg r] → r.act = .send ring m →
      s.depositReq r core ring m = some s1 → (s1.unit core).heldMsgs = [.msg r] →
      ∃ t, exec (.messageRetry core) s = .next t ∧ (t.unit core).heldMsgs = [] ∧ t.mem = s1.mem
        ∧ r ∉ (t.ctx r.who.unit r.who.ctx).blocked)
    ∧ (∀ (r : Req) (s : State),
      ((s.ctx r.who.unit r.who.ctx).blocked.contains r = false ∨ s.channelHeld r = true → exec (.mergeRetry r) s = .next s)
        ∧ ∀ fp dbl v k, r.act = .merge fp dbl v k → (s.ctx r.who.unit r.who.ctx).blocked.contains r = true → s.channelHeld r = false →
          let t := State.perform (s.modCtx r.who.unit r.who.ctx fun y => y.unblocked r) r
          ((t.ctx r.who.unit r.who.ctx).blocked.contains r = false → exec (.mergeRetry r) s = .next t)
            ∧ ((t.ctx r.who.unit r.who.ctx).blocked.contains r = true → exec (.mergeRetry r) s = .next s))
    ∧ (∀ (u : Nat) (asid : BitVec 12) (va : Word) (pa : Nat) (s : State),
      ((∀ r ∈ s.flight, r.line = false ∨ r.who.unit ≠ u ∨ r.pa / 64 ≠ pa / 64) → exec (.readCacheFill u asid va pa) s = .next s)
        ∧ ∀ r size sg id p off, s.flight = [r] → r.act = .load size sg id → r.acq = false → r.line = true → r.who.unit = u → kindOf u = .far →
          r.who.asid = asid → r.ea.toNat / 64 = va.toNat / 64 → r.pa / 64 = pa / 64 → 0 < size → r.pa % 64 + size ≤ 64 → s.mayPerform r = true →
          s.homeFault r.who true false (some (r.who.unit, r.who.ctx)) r.pa size = none →
          s.lineFault r.who (some (r.who.unit, r.who.ctx)) r.pa = none → 0x100000 ≤ r.ea.toNat →
          s.place r.pa = .dram p off → s.stale = [] →
          ∃ t l, exec (.readCacheFill u asid va pa) s = .next t ∧ t.flight = [] ∧ t.mem = s.mem ∧ l ∈ (t.unit u).cache ∧ l.pa = pa / 64
            ∧ l.bytes = s.physBytes (pa / 64 * 64) 64)
    ∧ ∀ (u c : Nat) (va : Word) (store : Bool) (s : State),
      let root := ptePa (match (s.ctx u c).priv with | .m => (s.unit u).mroot | _ => (s.ctx u c).ptroot)
      (∀ e, s.walkFrom va.toNat root 0 4 = .error e → exec (.pageWalk u c va store) s = .next s)
        ∧ ∀ s0 at_ level p, s.walkFrom va.toNat root 0 4 = .ok (s0, at_, level, p) →
          ∃ t e, exec (.pageWalk u c va store) s = .next t ∧ e ∈ (t.unit u).tlb ∧ e.va ≤ va.toNat ∧ va.toNat < e.va + e.size
            ∧ e.pte = (p ||| 0x40#64 ||| (if store then 0x80#64 else 0#64)) ∧ (s0.isDerived at_ = true → t.mem = s0.mem)

/-- At its park, DREG of a descriptor that no earlier access of its context is yet to write (log entry 99; else it waits at its
word) and that passes its checks registers the rule with every derived tile stale and passes, and of one that fails a check traps
with that check's cause. DUNREG of a registered rule takes its watches, and removes it with its marks once no recompute of its
tiles is in progress and, with F set, no stale tile of it must wait for array commands; until then it waits at its word (log entry
49); of no rule it traps ACCESS. DSTAT of an address in a slice defers the status, its derived, stale and busy bits as the tile
stands, of any other address 0, and traps where the address fails its check. DFRESH of length 0 passes, of a length above 2^24
traps ACCESS, of a tile that may not be loaded traps with that check's cause, and of tiles that may be loaded ends its segment. As
events: a mark of a derived tile leaves it stale, of any other tile changes nothing; with none in progress, a recompute of a tile
that is not stale or that no read asks for changes nothing, and of a stale one that a read asks for begins; in progress, with its
base tiles fresh, no array command accepted and no error standing, it ends with the tile fresh, or stale again where a mark has
come since it began, and with no byte outside the tile changed; a refresh request is the recompute that a sleeping DFRESH asks
for. (13_array R275, 14_derive R300, 14_derive R301, 14_derive R302, 14_derive R306, 14_derive R307, 14_derive R308, 14_derive
R309, 14_derive R303, log entry 49, log entry 99) -/
def Obligations.DerivationResults : Prop :=
  (∀ (a : Reg) (s : State), s.cx.parked = true →
      let s0 := s.beginFirst
      let w := s.g a
      ((w.toNat % 64 ≠ 0 ∨ s.localRangeOk w.toNat 64 = false) → exec (.dreg a) s = .next (s0.trapAt .access w))
        ∧ (w.toNat % 64 = 0 → s.localRangeOk w.toNat 64 = true → s0.ownPending w.toNat 64 = true → exec (.dreg a) s = .next s0.holdFirst)
        ∧ (w.toNat % 64 = 0 → s.localRangeOk w.toNat 64 = true → s0.ownPending w.toNat 64 = false →
          (ruleOf (asidOf s) (s0.ownBytes w.toNat 64) = none → exec (.dreg a) s = .next (s0.trapAt .access w))
          ∧ ∀ r, ruleOf (asidOf s) (s0.ownBytes w.toNat 64) = some r →
            (∀ e, s0.bindRule s.cur s.c r = .error e → exec (.dreg a) s = .next (s0.trapAt e.1 e.2))
            ∧ ∀ s1 r1, s0.bindRule s.cur s.c r = .ok (s1, r1) →
              (∀ e, s1.ruleCheck r1 = some e → exec (.dreg a) s = .next (s1.trapAt e.1 e.2))
              ∧ (s1.ruleCheck r1 = none → ∃ t, exec (.dreg a) s = .next t ∧ t.rules = s1.rules ++ [r1]
                  ∧ (∀ d ∈ r1.dtiles, t.isStale d.2 = true) ∧ t.mem = s1.mem ∧ t.pc = s1.pc + 4#64)))
    ∧ (∀ (f : Bool) (a : Reg) (s : State), s.cx.parked = true →
      let s0 := s.beginFirst
      ((∀ r ∈ s.rules, ¬ (r.asid = asidOf s ∧ r.dva = (s.g a).toNat)) → exec (.dunreg f a) s = .next (s0.trapAt .access (s.g a)))
        ∧ ∀ r, (∀ q ∈ s.rules, (q.asid = asidOf s ∧ q.dva = (s.g a).toNat) ↔ q = r) → r ∈ s.rules →
          let s1 := { s0 with rules := s0.rules.map fun q => if q = r then { r with watched := false } else q }
          ((∃ d ∈ r.dtiles, s1.inProgress d.2 = true ∨ (f = true ∧ s1.isStale d.2 = true ∧ s1.tileArrays 5 d.2 = true)) →
            exec (.dunreg f a) s = .next s1.holdFirst)
          ∧ ((∀ d ∈ r.dtiles, s1.inProgress d.2 = false ∧ (f = true → s1.isStale d.2 = true → s1.tileArrays 5 d.2 = false)) →
            ∃ t, exec (.dunreg f a) s = .next t ∧ (∀ q ∈ t.rules, ¬ (q.asid = asidOf s ∧ q.dva = (s.g a).toNat))
              ∧ (∀ d ∈ r.dtiles, d.2 ∉ t.stale) ∧ t.cx = afterFirst s ∧ (f = false → t.mem = s.mem)))
    ∧ (∀ (d a : Reg) (s s1 : State),
      (∀ e, s.checkEa s.cur s.c (s.g a) 1 .load = .error e → exec (.dstat d a) s = s.trap e (s.g a))
        ∧ (∀ off w, s.checkEa s.cur s.c (s.g a) 1 .load = .ok (s1, .own off w) →
          ∃ t, exec (.dstat d a) s = .next t ∧ Deferring s1 t d (.value 0#64))
        ∧ ∀ pa leaf, s.checkEa s.cur s.c (s.g a) 1 .load = .ok (s1, .home pa leaf) →
          ∃ t w, exec (.dstat d a) s = .next t ∧ Deferring s1 t d (.value w)
            ∧ (∀ sl off, s1.place pa = .silt sl off →
                w.toNat / 2 ^ 62 % 2 = (if s1.isDerived pa then 1 else 0) ∧ w.toNat / 2 ^ 60 % 2 = (if s1.isStale (pa / 4096) then 1 else 0)
                  ∧ w.toNat / 2 ^ 59 % 2 = (if s1.inProgress (pa / 4096) then 1 else 0))
            ∧ ((∀ sl off, s1.place pa ≠ .silt sl off) → w = 0#64))
    ∧ (∀ (a b : Reg) (s : State),
      let check := s.checkTiles s.cur s.c ((s.g a).toNat / 4096) (((s.g a).toNat + (s.g b).toNat - 1) / 4096 - (s.g a).toNat / 4096 + 1)
      (s.g b = 0#64 → exec (.dfresh a b) s = .next (s.setPc (s.pc + 4#64)))
        ∧ (2 ^ 24 < (s.g b).toNat → exec (.dfresh a b) s = s.trap .access (s.g b))
        ∧ (s.g b ≠ 0#64 → (s.g b).toNat ≤ 2 ^ 24 →
          (∀ e, check = .error e → exec (.dfresh a b) s = s.trap e.1 e.2)
          ∧ ∀ s1, check = .ok s1 →
            exec (.dfresh a b) s = .next (s1.modC fun x => { x with wait := some (.dfresh (s.g a) (s.g b)), parking := true })))
    ∧ (∀ (tile : Nat) (s : State),
      (s.isDerived (tile * 4096) = true → ∃ t, exec (.staleMark tile) s = .next t ∧ t.isStale tile = true ∧ t.mem = s.mem
          ∧ ∀ k, s.isStale k = true → t.isStale k = true)
        ∧ (s.isDerived (tile * 4096) = false → exec (.staleMark tile) s = .next s))
    ∧ (∀ (tile : Nat) (s : State),
      (s.recomputes = [] → (s.isStale tile = false ∨ s.tileAsked tile = false → exec (.recompute tile) s = .next s)
          ∧ (s.isStale tile = true → s.tileAsked tile = true → s.upsets = [] →
            exec (.recompute tile) s = .next { s with recomputes := [⟨tile, [], false, []⟩] }))
        ∧ ∀ r v again ahead, s.recomputes = [⟨tile, [], again, ahead⟩] → s.rules = [r] → s.stale = [tile] → (v, tile) ∈ r.dtiles →
          (∀ b ∈ r.btiles, b.2 ≠ tile) → s.upsets = [] → s.flight = [] → (∀ sl, (s.slice sl).fifo = []) →
          ∃ t, exec (.recompute tile) s = .next t ∧ t.recomputes = [] ∧ t.isStale tile = again
            ∧ ∀ a, a / 4096 ≠ tile → t.physByte a = s.physByte a)
    ∧ ∀ (u c tile : Nat) (s : State), (∀ lo len, (s.ctx u c).wait = some (.dfresh lo len) → exec (.dfreshRequest u c tile) s = exec (.recompute tile) s)
      ∧ ((∀ lo len, (s.ctx u c).wait ≠ some (.dfresh lo len)) → exec (.dfreshRequest u c tile) s = .next s)

/-- TKENQ of a descriptor that no earlier access of its context is yet to write and that passes its checks, outside a queued task,
ends its segment with the task to send (the descriptor's bytes as a context's own stores leave them, and the wait for other
writes, are log entry 99); inside a queued task it traps ACCESS. TKENQN posts the task to its anchor's home with a deferred
status. Of a descriptor that fails a check both trap with that check's cause. TKPOP on a near unit and TKSTEAL on a far core at S
or M level, with a valid bind word, where the home decides at once, defer the failure's status with nothing taken, or that of a
grant, which starts the task and writes the helper's task information, or PCBAD where the body's PC fails its check, which takes
the task and starts none; else they send the request and defer a result that its decision answers. TKDONE with its park made, on a
helper whose task lives: with a fault to take it parks again; with an access or a coprocessor instruction outstanding it waits at
its word (log entry 49); with neither, where the home completes the ticket at once or the task has no queue, it ends the helper, a
queued task's ticket no longer started, and where completions are sent it sends that of its ticket and waits; with no live task it
traps ACCESS. TKDEPTH defers the snapshot of a queue that the level may see, and 0 of any other. TKQCFG of a block that is BAD, or
that changes a queue that holds tasks, defers 2 or, where it is not BAD (log entry 23), 1 and leaves the queue, and otherwise
configures it, a near unit that did not run entering the launch that its queue is now bound to. LAPV of a voter leaves its vote at
the relay, or on its way there, and of any other context traps ACCESS. (16_tasks R318, 16_tasks R319, 16_tasks R322, 16_tasks
R335, 16_tasks R336, 16_tasks R337, 16_tasks R338, 16_tasks R339, 16_tasks R340, log entry 23, log entry 49, log entry 99) -/
def Obligations.TaskWordResults : Prop :=
  (∀ (d a b : Reg) (s : State) (e : Cause × Word), s.ownPending (s.g a).toNat 64 = false → s.enqueueCheck (s.g a) = .error e →
      exec (.tkenq a b) s = s.trap e.1 e.2 ∧ exec (.tkenqn d a b) s = s.trap e.1 e.2)
    ∧ (∀ (a b : Reg) (s s1 : State) (desc : List Byte) (pa : Nat), s.ownPending (s.g a).toNat 64 = false → s.enqueueCheck (s.g a) = .ok (s1, desc, pa) →
      (s.cx.tkhome.toNat / 2 ^ 62 ≠ 3 →
          exec (.tkenq a b) s = .next (s1.modC fun x =>
            { x with wait := some (.tkenq (descWord desc 2) pa ((s.g b).toNat % 8) desc), parking := true }))
        ∧ (s.cx.tkhome.toNat / 2 ^ 62 = 3 → exec (.tkenq a b) s = s.trap .access 0#64))
    ∧ (∀ (d a b : Reg) (s s1 : State) (desc : List Byte) (pa : Nat), s.ownPending (s.g a).toNat 64 = false →
      s.enqueueCheck (s.g a) = .ok (s1, desc, pa) → s1.async = true →
      ∃ t r, exec (.tkenqn d a b) s = .next t ∧ t.flight = s1.flight ++ [r] ∧ r.pa = pa
        ∧ r.act = .enqueue ((s.g b).toNat % 8) desc s.cx.lid (some s1.po)
        ∧ t.cx.defs = s1.cx.defs ++ [⟨d, s1.po, .pending, 0#5⟩] ∧ t.mem = s1.mem ∧ t.pc = s1.pc + 4#64)
    ∧ (∀ (d b : Reg) (s : State), s.kind ≠ .far → s.cx.priv ≠ .u → s.badBind (s.g b) = false → s.async = true →
      ∃ t, exec (.tkpop d b) s = .next t ∧ t.posted = s.posted ++ [.pop s.cur s.c (s.g b) s.po]
        ∧ t.cx.defs = s.cx.defs ++ [⟨d, s.po, .pending, 0#5⟩] ∧ t.mem = s.mem ∧ t.pc = s.pc + 4#64)
    ∧ (∀ (d a b : Reg) (s : State), s.kind = .far → s.cx.priv ≠ .u → s.badBind (s.g b) = false → s.selOk (s.g a) true = true → s.async = true →
      ∃ t, exec (.tksteal d a b) s = .next t ∧ t.posted = s.posted ++ [.steal s.cur s.c (s.g a) (s.g b) s.po]
        ∧ t.cx.defs = s.cx.defs ++ [⟨d, s.po, .pending, 0#5⟩] ∧ t.mem = s.mem ∧ t.pc = s.pc + 4#64)
    ∧ (∀ (d b : Reg) (s : State), s.kind ≠ .far → s.cx.priv ≠ .u → s.badBind (s.g b) = false → s.async = false →
      let h := s.cur - Config.sliceUnit0
      (∀ code q, s.popDecision h s.cx.lid = .error (code, q) →
          ∃ t, exec (.tkpop d b) s = .next t ∧ Deferring s t d (.value (taskStatus code 0#32 h q)))
        ∧ ∀ q k, s.popDecision h s.cx.lid = .ok (q, k) → (s.queue h q).spilled = 0 →
          k ∈ (s.queue h q).resident ∧ ∃ t, exec (.tkpop d b) s = .next t ∧ t.pc = s.pc + 4#64
            ∧ (checkTarget (descWord k.desc 0) = none → Granted s t s.cur h q k (bindHelper (s.g b)) false
              ∧ t.cx.defs = s.cx.defs ++ [⟨d, s.po, .value (taskStatus 0 k.ticket h q), 0#5⟩])
            ∧ (checkTarget (descWord k.desc 0) ≠ none → NotStarted s t h q k
              ∧ t.cx.defs = s.cx.defs ++ [⟨d, s.po, .value (taskStatus 4 k.ticket h q), 0#5⟩]))
    ∧ (∀ (d a b : Reg) (s : State), s.kind = .far → s.cx.priv ≠ .u → s.badBind (s.g b) = false → s.selOk (s.g a) false = true → s.async = false →
      let h := (selHome (s.g a)).1
      let q := (selHome (s.g a)).2
      (∀ code, s.stealDecision h q s.cx.lid (asidOf s) = .error code →
          ∃ t, exec (.tksteal d a b) s = .next t ∧ Deferring s t d (.value (taskStatus code 0#32 h q)))
        ∧ ∀ k, s.stealDecision h q s.cx.lid (asidOf s) = .ok k → (s.queue h q).spilled = 0 →
          k ∈ (s.queue h q).resident ∧ ∃ t, exec (.tksteal d a b) s = .next t ∧ t.pc = s.pc + 4#64
            ∧ (checkTarget (descWord k.desc 1) = none → Granted s t s.cur h q k (bindHelper (s.g b)) true ∧ (t.unit s.cur).cache = []
              ∧ t.cx.defs = s.cx.defs ++ [⟨d, s.po, .value (taskStatus 0 k.ticket h q), 0#5⟩])
            ∧ (checkTarget (descWord k.desc 1) ≠ none → NotStarted s t h q k
              ∧ t.cx.defs = s.cx.defs ++ [⟨d, s.po, .value (taskStatus 4 k.ticket h q), 0#5⟩]))
    ∧ (∀ s : State, s.cx.parked = true →
      let s1 := s.beginFirst
      let idle : Bool := s.allPerformed s.cur s.c && ! s.copBusy s.cur s.c
      let faulted : Bool := ! s.cx.act && (s.cx.homeFaults != [] || s.cx.late != [])
      let h := (selHome s.cx.tkhome).1
      let q := (selHome s.cx.tkhome).2
      let ticket := s.cx.tkhome.extractLsb' 16 32
      (2 ^ 63 ≤ s.cx.tkhome.toNat → idle = true → faulted = false → (s.cx.tkhome.toNat / 2 ^ 62 = 3 → Posted.complete h q ticket ∉ s.posted
            ∧ (s.async = false ∨ ∀ k ∈ (s.queue h q).started, k.ticket ≠ ticket)) →
          ∃ t, exec .tkdone s = .next t ∧ (t.ctx s.cur s.c).live = false ∧ (t.unit s.cur).hend.getLsbD s.c = decide (s.c < 11)
            ∧ (s.cx.tkhome.toNat / 2 ^ 62 = 3 → ∀ k ∈ (t.queue (selHome s.cx.tkhome).1 (selHome s.cx.tkhome).2).started,
                k.ticket.toNat ≠ s.cx.tkhome.toNat / 2 ^ 16 % 2 ^ 32))
        ∧ (s.cx.tkhome.toNat / 2 ^ 62 = 3 → idle = true → faulted = false → s.async = true →
            (∃ k ∈ (s.queue h q).started, k.ticket = ticket) → Posted.complete h q ticket ∉ s.posted →
            exec .tkdone s = .next ({ s1 with posted := s.posted ++ [Posted.complete h q ticket] }.waitFirst))
        ∧ (2 ^ 63 ≤ s.cx.tkhome.toNat → faulted = true → exec .tkdone s = .next s1.parkAgain)
        ∧ (2 ^ 63 ≤ s.cx.tkhome.toNat → faulted = false → idle = false → exec .tkdone s = .next s1.waitFirst)
        ∧ (s.cx.tkhome.toNat < 2 ^ 63 → exec .tkdone s = .next (s1.trapAt .access 0#64)))
    ∧ (∀ (d a : Reg) (s : State),
      (s.selOk (s.g a) false = false → exec (.tkdepth d a) s = s.trap .access (s.g a))
        ∧ (s.selOk (s.g a) false = true →
          let x := s.queue (selHome (s.g a)).1 (selHome (s.g a)).2
          ∃ t w, exec (.tkdepth d a) s = .next t ∧ Deferring s t d (.value w)
            ∧ (x.en = true ∧ (s.cx.priv = .u → x.asid = asidOf s) → w.toNat / 2 ^ 63 = 1 ∧ w.toNat / 2 ^ 33 % 2 ^ 9 = x.resident.length % 2 ^ 9
                ∧ w.toNat / 2 ^ 42 % 2 ^ 6 = x.started.length % 2 ^ 6 ∧ w.toNat / 2 ^ 16 % 2 ^ 17 = x.spilled % 2 ^ 17)
            ∧ (¬ (x.en = true ∧ (s.cx.priv = .u → x.asid = asidOf s)) → w = 0#64)))
    ∧ (∀ (d a b : Reg) (s : State), s.cx.priv ≠ .u → s.selOk (s.g a) false = true → (s.g b).toNat % 32 = 0 →
      s.localRangeOk (s.g b).toNat 32 = true → s.ownPending (s.g b).toNat 32 = false →
      let h := (selHome (s.g a)).1
      let q := (selHome (s.g a)).2
      let w := fun (i : Nat) => (s.ownWords (s.g b).toNat 4).getD i 0#64
      let x := s.queue h q
      let y := x.configure (w 0) (w 1)
      (s.ctx (nearUnit h) 0).live = true ∨ nearUnit h ≠ s.cur →
      ∃ t v, exec (.tkqcfg d a b) s = .next t ∧ t.cx.defs = s.cx.defs ++ [⟨d, s.po, .value v, 0#5⟩] ∧ t.mem = s.mem ∧ t.pc = s.pc + 4#64
        ∧ (s.badQueue (w 0) (w 1) (w 2) (w 3) = true → v = 2#64 ∧ t.queue h q = x)
        ∧ (s.badQueue (w 0) (w 1) (w 2) (w 3) = false → x.changes y = true ∧ x.holds = true → v = 1#64 ∧ t.queue h q = x)
        ∧ (s.badQueue (w 0) (w 1) (w 2) (w 3) = false → ¬ (x.changes y = true ∧ x.holds = true) →
            v = 0#64 ∧ { t.queue h q with beacon := false } = { y with beacon := false }
              ∧ ∀ l, 2 ^ 63 ≤ (w 0).toNat → s.launch y.lid = some l → l.asid = y.asid → (s.ctx (nearUnit h) 0).live = false →
                (t.ctx (nearUnit h) 0).live = true ∧ (t.ctx (nearUnit h) 0).lid = y.lid))
    ∧ ∀ (op : LapOp) (e : Bool) (a : Reg) (s : State),
      (∀ l, s.c = 0 → s.isVoter s.cur s.cx.lid = true → s.launch s.cx.lid = some l →
          ∃ t, exec (.lapv op e a) s = .next t ∧ t.mem = s.mem ∧ t.pc = s.pc + 4#64
            ∧ (s.async = false → t.launch s.cx.lid = some { l with votes := SMap.put l.votes s.cur ⟨op, e, s.g a⟩ })
            ∧ (s.async = true → t.posted = s.posted ++ [.vote s.cx.lid s.cur ⟨op, e, s.g a⟩] ∧ t.launch s.cx.lid = some l))
        ∧ (s.c ≠ 0 ∨ s.isVoter s.cur s.cx.lid = false → exec (.lapv op e a) s = s.trap .access 0#64)

/-- A pop or a steal on its way, at its home, answers its status where nothing is granted; where a task is, it is started for its
unit with the helper's task information written, and the answer is the grant's status, or PCBAD with the task taken and none
started where the body's PC fails its check; a completion on its way takes the ticket out of the started tasks; a pop, a steal, a
completion or a vote that is not on its way changes nothing; aging ages the eligible task of its ticket; a refill moves the spill
ring's head to the resident entries, and changes nothing where the ring is empty, the entries full or its channel busy; a refused
TKENQ that its home now takes passes, and one that it does not take sleeps on; a home with no beacon standing sends none, and the
one standing beacon of a home reaches each of its directories that has room in the same step (the model's choice, log entry 35); a
beacon that arrives is in its directory, a retraction takes it out; a voter's first vote on its way stands at the relay, one of a
unit that votes no more is dropped; a closure that is ready gives every voter its value and a status and opens the next lap, with
what the voters of the other devices come to among its votes (a free value, log entry 59), or ends the launch where every vote
carries E, and one that is not changes nothing. (16_tasks R313, 16_tasks R318, 16_tasks R319, 16_tasks R320, 16_tasks R325,
16_tasks R327, 16_tasks R329, 16_tasks R331, 16_tasks R332, log entry 35, log entry 59) -/
def Obligations.TaskEvents : Prop :=
  (∀ (u c id : Nat) (bind : Word) (s : State),
      let h := u - Config.sliceUnit0
      let p : Posted := .pop u c bind id
      let s1 := { s with posted := s.posted.erase p }
      let answered := fun (v : Word) => (s.ctx u c).defs.map fun e => if e.id = id then { e with src := .value v } else e
      (p ∉ s.posted → exec (.popDecide u c bind id) s = .next s)
        ∧ (p ∈ s.posted →
          (∀ code q, s.popDecision h (s.ctx u c).lid = .error (code, q) →
              exec (.popDecide u c bind id) s = .next (s1.answer u c id (.value (taskStatus code 0#32 h q))))
          ∧ ∀ q k, s.popDecision h (s.ctx u c).lid = .ok (q, k) → (s.queue h q).spilled = 0 →
            k ∈ (s.queue h q).resident ∧ ∃ t, exec (.popDecide u c bind id) s = .next t ∧ t.posted = s.posted.erase p
              ∧ (checkTarget (descWord k.desc 0) = none → Granted s t u h q k (bindHelper bind) false
                ∧ (t.ctx u c).defs = answered (taskStatus 0 k.ticket h q))
              ∧ (checkTarget (descWord k.desc 0) ≠ none → NotStarted s t h q k
                ∧ (t.ctx u c).defs = answered (taskStatus 4 k.ticket h q))))
    ∧ (∀ (u c id : Nat) (sel bind : Word) (s : State), sel.toNat < 2 ^ 63 →
      let h := (selHome sel).1
      let q := (selHome sel).2
      let p : Posted := .steal u c sel bind id
      let s1 := { s with posted := s.posted.erase p }
      let decision := s.stealDecision h q (s.ctx u c).lid ((s.ctx u c).asr.extractLsb' 32 12)
      let answered := fun (v : Word) => (s.ctx u c).defs.map fun e => if e.id = id then { e with src := .value v } else e
      (p ∉ s.posted → exec (.stealDecide u c sel bind id) s = .next s)
        ∧ (p ∈ s.posted →
          (∀ code, decision = .error code →
              exec (.stealDecide u c sel bind id) s = .next (s1.answer u c id (.value (taskStatus code 0#32 h q))))
          ∧ ∀ k, decision = .ok k → (s.queue h q).spilled = 0 →
            k ∈ (s.queue h q).resident ∧ ∃ t, exec (.stealDecide u c sel bind id) s = .next t ∧ t.posted = s.posted.erase p
              ∧ (checkTarget (descWord k.desc 1) = none → Granted s t u h q k (bindHelper bind) true
                ∧ (t.ctx u c).defs = answered (taskStatus 0 k.ticket h q))
              ∧ (checkTarget (descWord k.desc 1) ≠ none → NotStarted s t h q k
                ∧ (t.ctx u c).defs = answered (taskStatus 4 k.ticket h q))))
    ∧ (∀ (h q : Nat) (ticket : Word32) (s : State), (Posted.complete h q ticket ∉ s.posted → exec (.taskComplete h q ticket) s = .next s)
      ∧ (Posted.complete h q ticket ∈ s.posted → ∃ t, exec (.taskComplete h q ticket) s = .next t ∧ t.mem = s.mem
        ∧ t.posted = s.posted.erase (Posted.complete h q ticket)
        ∧ (t.queue h q).started = ((s.queue h q).started.filter fun k => k.ticket != ticket)
        ∧ (t.queue h q).resident = (s.queue h q).resident))
    ∧ (∀ (h q : Nat) (ticket : Word32) (s : State), ∃ t, exec (.priorityAging h q ticket) s = .next t ∧ t.mem = s.mem
      ∧ (t.queue h q).resident = ((s.queue h q).resident.map fun k =>
          if k.ticket = ticket ∧ (s.queue h q).eligible k = true then { k with aged := true } else k))
    ∧ (∀ (h q : Nat) (s : State),
      let x := s.queue h q
      let at_ := x.pa + 64 * (x.spillHead % x.spillCap)
      (x.spilled = 0 ∨ 256 ≤ x.resident.length ∨ s.chanBusy at_ = true → exec (.spillRefill h q) s = .next s)
        ∧ (0 < x.spilled → x.resident.length < 256 → s.chanBusy at_ = false → (∀ r ∈ s.flight, r.pa ≠ at_) →
          ∃ t, exec (.spillRefill h q) s = .next t ∧ (t.queue h q).spilled = x.spilled - 1
            ∧ (t.queue h q).spillHead = x.spillHead + 1
            ∧ (t.queue h q).resident = x.resident ++ [⟨x.next - BitVec.ofNat 32 x.spilled, (s.readHome at_ 64).2, false⟩]))
    ∧ (∀ (u c q pa : Nat) (ea : Word) (desc : List Byte) (s : State), (s.ctx u c).wait = some (.tkenq ea pa q desc) →
      ((s.ctx u c).asleep = false ∨ s.waitDone u c (.tkenq ea pa q desc) = none → exec (.enqueueRetry u c) s = .next s)
        ∧ ∀ s1, (s.ctx u c).asleep = true → s.waitDone u c (.tkenq ea pa q desc) = some s1 →
          ∃ t, exec (.enqueueRetry u c) s = .next t ∧ (t.ctx u c).wait = none ∧ (t.ctx u c).asleep = false
            ∧ (t.ctx u c).pc = (s1.ctx u c).pc + 4#64)
    ∧ (∀ (h : Nat) (s : State), (∀ q, q < 8 → (s.queue h q).beacon = false) → exec (.beaconResend h) s = .next s)
    ∧ (∀ (h q d : Nat) (s : State), q < 8 → (s.queue h q).beacon = true → (∀ k, k < 8 → k ≠ q → (s.queue h k).beacon = false) →
      d ∈ beaconDirs h → (s.dir d).length < 64 →
      ∃ t, exec (.beaconResend h) s = .next t ∧ (s.queue h q).beaconOf h q ∈ t.dir d)
    ∧ (∀ (d : Nat) (b : Beacon) (s : State),
      (∃ t, exec (.beaconArrival d b true) s = .next t ∧ ∀ o ∈ t.dir d, ¬ (o.home = b.home ∧ o.q = b.q))
        ∧ ((s.dir d).length < 64 → ∃ t, exec (.beaconArrival d b false) s = .next t ∧ b ∈ t.dir d))
    ∧ (∀ (lid u : Nat) (op : LapOp) (e : Bool) (v : Word) (s : State),
      let p : Posted := .vote lid u ⟨op, e, v⟩
      ((s.votesSent lid u).head? ≠ some p → exec (.lapVoteArrive lid u op e v) s = .next s)
        ∧ ((s.votesSent lid u).head? = some p →
          (s.isVoter u lid = false → exec (.lapVoteArrive lid u op e v) s = .next { s with posted := s.posted.erase p })
          ∧ ∀ l, s.isVoter u lid = true → s.launch lid = some l →
            ∃ t, exec (.lapVoteArrive lid u op e v) s = .next t ∧ t.posted = s.posted.erase p
              ∧ t.launch lid = some { l with votes := SMap.put l.votes u ⟨op, e, v⟩ }))
    ∧ ∀ (lid : Nat) (l : Launch) (s : State), s.launch lid = some l →
      (s.lapReady l = false → exec (.lapClose lid) s = .next s)
        ∧ (s.lapReady l = true →
          let votes := ((s.voters l).filterMap fun u => (l.votes.find? fun v => v.1 == u).map Prod.snd) ++ s.remoteVotes l
          ∃ t, exec (.lapClose lid) s = .next t
            ∧ ((∀ v ∈ votes, v.e = true) → t.launch lid = none)
            ∧ ((∃ v ∈ votes, v.e = false) → t.launch lid = some { l with votes := [], lap := l.lap + 1 })
            ∧ ∀ u ∈ s.voters l, (t.unit u).lapres = (voteResult votes).1 ∧ ∃ st, (t.unit u).lapDone = some st ∧ st.toNat / 2 ^ 63 = 1)

/-- With a place in the FIFO, an engine word whose block no earlier access of its context is yet to write joins the command with
its code, operands, issuer and block, read at issue with its context's own stores laid over it (log entry 99), to the end of the
FIFO and passes; one that names a block that is misplaced traps ACCESS. EPIN defers 2 where a named entry is not valid in the
issuer's address space, 1 where too much would be pinned, each changing no entry, and otherwise 0 with the named entries pinned;
EUNPIN unpins the named entries of the address space. EPOP defers its token to the park, ESTAT the snapshot. As events: the
command that may begin begins, or writes an error token where a field is wrong, an EOVL would remove a pinned entry or the
granules of an EBULK are not as they must be (their translation at the beginning is log entry 26); one that has begun before goes
on at its next chunk; a chunk that a home holds waits, one that faults ends the command with an error token, one that is not the
last leaves the next to do, the last writes the token; with none in progress, or with the engine suspended or a stop having
reached its unit, nothing changes; where a stop has reached the unit its engine suspends and its command stands, and where none
has nothing changes. The token of a launch being cancelled is dropped (log entry 109). (18_engines R347, 18_engines R350,
18_engines R352, 18_engines R354, 18_engines R356, 18_engines R357, 18_engines R361, 18_engines R362, 18_engines R365, log entry
26, log entry 99, log entry 109) -/
def Obligations.EngineResults : Prop :=
  (∀ (i : Instr) (s : State) (f : EngForm), engineForm s.g i = some f → s.ux.engine.infifo.length < 16 →
      (f.block = true → f.opa.toNat % 32 = 0 ∧ s.localRangeOk f.opa.toNat 32 = true ∧ s.ownPending f.opa.toNat 32 = false) →
      ∃ t k, exec i s = .next t ∧ t.ux.engine.infifo = s.ux.engine.infifo ++ [k] ∧ k.op = f.op ∧ k.n = f.n ∧ k.opd = f.opd
        ∧ k.opa = f.opa ∧ k.opb = f.opb ∧ k.ctx = s.c ∧ k.po = s.po ∧ k.who = s.issuer s.cur s.c
        ∧ (f.block = true → k.block = s.ownWords f.opa.toNat 4)
        ∧ t.mem = s.mem ∧ t.pc = s.pc + 4#64 ∧ t.cx.defs = s.cx.defs ∧ ∀ r, t.g r = s.g r)
    ∧ (∀ (i : Instr) (s : State) (f : EngForm), engineForm s.g i = some f → f.block = true →
      (f.opa.toNat % 32 ≠ 0 ∨ s.localRangeOk f.opa.toNat 32 = false) → exec i s = s.trap .access f.opa)
    ∧ (∀ (d a : Reg) (s : State),
      let mask := s.g a
      let bad := ∃ i : Fin 16, mask.getLsbD i.val = true
        ∧ ¬ ((s.ux.overlays.get i).valid = true ∧ (s.ux.overlays.get i).asid = asidOf s)
      ∃ t v, exec (.epin d a) s = .next t ∧ t.cx.defs = s.cx.defs ++ [⟨d, s.po, .value v, 0#5⟩] ∧ t.mem = s.mem ∧ t.pc = s.pc + 4#64
        ∧ (bad → v = 2#64 ∧ t.ux.overlays = s.ux.overlays)
        ∧ (¬ bad → pinLimit s.kind < pinBytes s.ux.overlays mask → v = 1#64 ∧ t.ux.overlays = s.ux.overlays)
        ∧ (¬ bad → pinBytes s.ux.overlays mask ≤ pinLimit s.kind → v = 0#64 ∧ ∀ i : Fin 16, t.ux.overlays.get i =
            if mask.getLsbD i.val then { s.ux.overlays.get i with pinned := true } else s.ux.overlays.get i))
    ∧ (∀ (a : Reg) (s : State), ∃ t, exec (.eunpin a) s = .next t ∧ t.mem = s.mem ∧ t.pc = s.pc + 4#64 ∧ t.cx.defs = s.cx.defs
      ∧ ∀ i : Fin 16, t.ux.overlays.get i =
          if (s.g a).getLsbD i.val = true ∧ (s.ux.overlays.get i).valid = true ∧ (s.ux.overlays.get i).asid = asidOf s
          then { s.ux.overlays.get i with pinned := false } else s.ux.overlays.get i)
    ∧ (∀ (d : Reg) (s : State), ∃ t, exec (.epop d) s = .next t ∧ Deferring s t d (.epop s.pc))
    ∧ (∀ (d : Reg) (s : State), ∃ t w, exec (.estat d) s = .next t ∧ Deferring s t d (.value w)
      ∧ w.toNat / 2 ^ 63 = (if s.ux.engine.begun.isSome then 1 else 0) ∧ w.toNat / 2 ^ 62 % 2 = (if s.ux.engine.susp then 1 else 0)
      ∧ w.toNat / 2 ^ 41 % 32 = s.ux.engine.infifo.length % 32 ∧ w.toNat / 2 ^ 36 % 32 = s.ux.engine.out.length % 32)
    ∧ (∀ (u : Nat) (s : State),
      (s.engMayBegin u = none → exec (.engineCommandBegin u) s = .next s)
        ∧ ∀ k, s.engMayBegin u = some k →
          (∀ sub, k.badFields (kindOf u) = some sub → ∃ t, exec (.engineCommandBegin u) s = .next t ∧ TokenOut s t u k 1 0 sub 0
              ∧ t.mem = s.mem ∧ (t.unit u).engine.infifo = (s.unit u).engine.infifo.drop 1)
          ∧ (k.badFields (kindOf u) = none → k.op = 5 → (s.unit u).overlayPinned k.opb = true →
              ∃ t, exec (.engineCommandBegin u) s = .next t ∧ TokenOut s t u k 1 0 0x12 0 ∧ t.mem = s.mem
                ∧ (t.unit u).overlays = (s.unit u).overlays)
          ∧ (k.badFields (kindOf u) = none → (k.op ≠ 5 ∨ (s.unit u).overlayPinned k.opb = false) → k.op ≠ 8 → ∃ t, exec (.engineCommandBegin u) s = .next t ∧ t.mem = s.mem
              ∧ (t.unit u).engine.begun = some (k, k.chunks) ∧ (t.unit u).engine.infifo = (s.unit u).engine.infifo.drop 1)
          ∧ (let s1 := s.modUnit u fun x => { x with engine := { x.engine with infifo := x.engine.infifo.drop 1 } }
            k.badFields (kindOf u) = none → k.op = 8 →
              (∀ sub, s1.bulkCheck k = .error sub → ∃ t, exec (.engineCommandBegin u) s = .next t ∧ TokenOut s t u k 1 0 sub 0 ∧ t.mem = s.mem)
              ∧ (∀ s2, s1.bulkCheck k = .ok s2 → ∃ t, exec (.engineCommandBegin u) s = .next t ∧ t.mem = s2.mem
                  ∧ (t.unit u).engine.begun = some (k, k.chunks))))
    ∧ (∀ (u : Nat) (s : State), (s.unit u).engine.begun = none →
      exec (.engineCommandComplete u) s = .next s ∧ exec (.bulkCommand u) s = .next s)
    ∧ (∀ (u : Nat) (s : State), s.engStill u = true →
      exec (.engineCommandBegin u) s = .next s ∧ exec (.engineCommandComplete u) s = .next s ∧ exec (.bulkCommand u) s = .next s)
    ∧ (∀ (u c : Nat) (k : EngCmd) (s : State), (s.unit u).engine.begun = some (k, c) → s.engStill u = false →
      k.ended c = false →
      let i := if k.op = 8 then Instr.bulkCommand u else .engineCommandComplete u
      (s.chunkWaits k c = true → exec i s = .next s)
        ∧ (s.chunkWaits k c = false →
          (∀ e, s.chunk u k c = .fault e → ∃ t, exec i s = .next t ∧ TokenOut s t u k 1 0 (subCode e) c ∧ t.mem = s.mem)
          ∧ (∀ s1, s.chunk u k c = .differs s1 → ∃ t, exec i s = .next t ∧ TokenOut s1 t u k 0 1 0 c ∧ t.mem = s1.mem)
          ∧ (∀ s1 k1, s.chunk u k c = .done s1 k1 → k.ended (c + 1) = false →
              ∃ t, exec i s = .next t ∧ (t.unit u).engine.begun = some (k1, c + 1) ∧ t.mem = s1.mem)
          ∧ (∀ s1 k1, s.chunk u k c = .done s1 k1 → k.ended (c + 1) = true →
              ∃ t, exec i s = .next t ∧ TokenOut s1 t u k1 0 0 0 (c + 1) ∧ t.mem = s1.mem)))
    ∧ ∀ (u : Nat) (s : State),
      ((∀ l ∈ s.launches, s.stopReaches u l.lid = false) → exec (.engineSuspend u) s = .next s)
        ∧ ∀ lid l, s.launch lid = some l → l.lid = lid → l.stopped = true → u ∈ l.owing →
          ∃ t, exec (.engineSuspend u) s = .next t ∧ (t.unit u).engine.susp = true ∧ t.mem = s.mem
            ∧ (t.unit u).engine.begun = (s.unit u).engine.begun ∧ ∀ v, v ≠ u → t.unit v = s.unit v

/-- On a stack near unit, of blocks that no earlier access of the context is yet to write: NRPROG of a valid block loads its type,
constants and steps for the launch, unless a stream runs; NRRUN of a valid stream block in near mode of its launch, with a program
and no stream, starts the stream at START, clearing the accumulators where CLEAR is set; blocks are read with the context's own
stores laid over them (log entry 99), and RUN stands until the NRWAIT that takes the completion (log entry 15); each traps ACCESS
with the operand for a block that is misplaced or not valid, and with 0 for a mode, stream or program that does not allow it;
NRSTAT defers the snapshot, which counts what is held for the channel (log entry 113); NRWAIT of the launch's near mode defers its
completion to the park. As events: a slot whose rows fail a check ends the stream with an error completion; a slot of a program
that stores nothing, before the last, runs the program's steps in every lane and goes on to the next row; once a stop has reached
the unit no slot begins; a window with none held, or with one that must wait, changes nothing but that it ends, and with one held
access that order lets go serves it, another window following only where the stream's next slot still waits for earlier accesses;
where a stop of the channel's launch has reached the unit the stream suspends, and where none has nothing changes. (19_near R370,
19_near R373, 19_near R375, 19_near R377, 19_near R380, 19_near R383, 19_near R384, 19_near R385, 19_near R386, log entry 15, log
entry 99, log entry 113) -/
def Obligations.NearResults : Prop :=
  (∀ (a : Reg) (s : State), s.kind = .stack → (s.g a).toNat % 64 = 0 → s.localRangeOk (s.g a).toNat 128 = true →
      s.ownPending (s.g a).toNat 128 = false →
      let p := s.cur - Config.stackUnit0
      let b := s.ownWords (s.g a).toNat 16
      ((s.nearOf p).run = true → exec (.nrprog a) s = s.trap .access 0#64)
        ∧ ((s.nearOf p).run = false → programOk b = false → exec (.nrprog a) s = s.trap .access (s.g a))
        ∧ ((s.nearOf p).run = false → programOk b = true → ∃ t, exec (.nrprog a) s = .next t ∧ t.mem = s.mem ∧ t.pc = s.pc + 4#64
            ∧ (t.nearOf p).plid = s.cx.lid
            ∧ (t.nearOf p).prog = some ((b.getD 0 0#64).toNat % 4, BitVec.ofNat 32 (b.getD 1 0#64).toNat,
                BitVec.ofNat 32 ((b.getD 1 0#64).toNat / 2 ^ 32), blockSteps b)))
    ∧ (∀ (a : Reg) (s : State), s.kind = .stack →
      ((s.g a).toNat % 64 ≠ 0 ∨ s.localRangeOk (s.g a).toNat 128 = false → exec (.nrprog a) s = s.trap .access (s.g a))
        ∧ ((s.g a).toNat % 64 ≠ 0 ∨ s.localRangeOk (s.g a).toNat 64 = false → exec (.nrrun a) s = s.trap .access (s.g a)))
    ∧ (∀ (a : Reg) (s : State), s.kind = .stack → (s.g a).toNat % 64 = 0 → s.localRangeOk (s.g a).toNat 64 = true →
      s.ownPending (s.g a).toNat 64 = false →
      let p := s.cur - Config.stackUnit0
      let x := s.nearOf p
      let b := s.ownWords (s.g a).toNat 8
      (x.nm = false ∨ x.lid ≠ s.cx.lid ∨ x.run = true ∨ x.done ≠ none ∨ x.prog = none → exec (.nrrun a) s = s.trap .access 0#64)
        ∧ (x.nm = true → x.lid = s.cx.lid → x.run = false → x.done = none → x.prog ≠ none → s.streamOk x b = false →
          exec (.nrrun a) s = s.trap .access (s.g a))
        ∧ (x.nm = true → x.lid = s.cx.lid → x.run = false → x.done = none → x.prog ≠ none → s.streamOk x b = true →
          ∃ t r, exec (.nrrun a) s = .next t ∧ t.mem = s.mem ∧ t.pc = s.pc + 4#64 ∧ (t.nearOf p).stream = some r ∧ r.block = b
            ∧ r.next = (b.getD 4 0#64).toNat % 2 ^ 32 ∧ r.susp = false
            ∧ (t.nearOf p).accs = if (b.getD 5 0#64).getLsbD 20 then [] else x.accs))
    ∧ (∀ (d : Reg) (s : State), s.kind = .stack →
      let x := s.nearOf (s.cur - Config.stackUnit0)
      ∃ t w, exec (.nrstat d) s = .next t ∧ Deferring s t d (.value w) ∧ w.toNat / 2 ^ 63 = (if x.nm then 1 else 0)
        ∧ w.toNat / 2 ^ 62 % 2 = (if x.run then 1 else 0) ∧ w.toNat / 2 ^ 60 % 2 = (if x.done.isSome then 1 else 0)
        ∧ w.toNat / 2 ^ 59 % 2 = (if x.prog.isSome then 1 else 0) ∧ w.toNat / 2 ^ 32 % 2 ^ 16 = x.lid % 2 ^ 16
        ∧ (∀ r, x.stream = some r → w.toNat / 2 ^ 61 % 2 = (if r.susp then 1 else 0) ∧ w.toNat % 2 ^ 32 = r.next % 2 ^ 32)
        ∧ w.toNat / 2 ^ 48 % 64 = min ((s.queuedAt (s.cur - Config.stackUnit0)).length + s.heldBeside (s.cur - Config.stackUnit0)) 32)
    ∧ (∀ (d : Reg) (s : State), s.kind = .stack →
      let x := s.nearOf (s.cur - Config.stackUnit0)
      (x.nm = true → x.lid ≠ s.cx.lid → exec (.nrwait d) s = s.trap .access 0#64)
        ∧ (x.nm = false ∨ x.lid = s.cx.lid → ∃ t, exec (.nrwait d) s = .next t ∧ Deferring s t d (.nrwait s.pc)))
    ∧ (∀ (p : Nat) (s : State),
      (s.slotReady p = none → exec (.rowSlot p) s = .next s)
        ∧ (s.stopReaches (Config.stackUnit0 + p) (s.nearOf p).lid = true → exec (.rowSlot p) s = .next s)
        ∧ (∀ r sub, s.slotReady p = some r → s.slotRows (s.nearOf p) r p = .error sub →
          ∃ t w, exec (.rowSlot p) s = .next t ∧ (t.nearOf p).done = some w ∧ w.toNat / 2 ^ 62 = 3 ∧ w.toNat / 2 ^ 48 % 256 = sub % 256
            ∧ w.toNat % 2 ^ 32 = r.next % 2 ^ 32)
        ∧ ∀ r s1 xa ya da ty k0 k1 ws, s.slotReady p = some r → s.slotRows (s.nearOf p) r p = .ok (s1, xa, ya, da) →
          (s.nearOf p).prog = some (ty, k0, k1, ws) → (s.nearOf p).uses.2.2 = false → r.next + 1 < (r.block.getD 4 0#64).toNat / 2 ^ 32 →
          ∃ t, exec (.rowSlot p) s = .next t ∧ t.mem = s1.mem ∧ (t.nearOf p).stream = some { r with next := r.next + 1 }
            ∧ ∀ k l, k < 4 → l < 256 → (t.nearOf p).acc k l =
                (laneRun ty k0 k1 (if (s.nearOf p).uses.1 then (s1.readRow xa).getD l 0#32 else 0#32)
                  (if (s.nearOf p).uses.2.1 then (s1.readRow ya).getD l 0#32 else 0#32) (s.nearOf p).steps
                  ((List.range 4).map fun j => (s.nearOf p).acc j l)).getD k 0#32)
    ∧ (∀ (p : Nat) (s : State),
      ((s.nearOf p).due = false → exec (.arbitrationWindow p) s = .next s)
        ∧ ((s.nearOf p).due = true → s.queuedAt p = [] →
          exec (.arbitrationWindow p) s = .next (s.modNear p fun x => { x with due := s.streamHeld p }))
        ∧ ∀ r, (s.nearOf p).due = true → s.queuedAt p = [r] →
          (s.orderFree r = false → exec (.arbitrationWindow p) s = .next (s.modNear p fun x => { x with due := s.streamHeld p }))
          ∧ (s.orderFree r = true →
            let s1 := State.perform { s with flight := s.flight.filter fun o => o != r } r
            exec (.arbitrationWindow p) s = .next (s1.modNear p fun x => { x with due := s1.streamHeld p })))
    ∧ ∀ (p : Nat) (s : State),
      let u := Config.stackUnit0 + p
      (s.launch (s.nearOf p).lid = none → exec (.streamSuspend p) s = .next s)
        ∧ ∀ l, s.launch (s.nearOf p).lid = some l →
          (¬ (l.stopped = true ∧ u ∈ l.owing) → exec (.streamSuspend p) s = .next s)
          ∧ ∀ r, l.stopped = true → u ∈ l.owing → (s.nearOf p).stream = some r →
            ∃ t, exec (.streamSuspend p) s = .next t ∧ (t.nearOf p).stream = some { r with susp := true } ∧ t.mem = s.mem

/-- The implicit park of a segment of 256 words that finds nothing starts the next segment at the same word; before the 256th word
there is none; a helper with nothing outstanding whose next word is not resident stops and is reported, and one whose word is
resident goes on. A STOP that arrives is pending for the control context and due at the next park of the launch's helpers, and
holds at once those that sleep; a unit that has not acknowledged one fails the launch and is reset, one of the launch's that makes
no progress fails it (that it is not reset is log entry 112), and another unit changes nothing; a launch whose units have all
restored issues again, any other stays as it is; a quiescent launch with no stall buffer is marked and reported. A record that the
aperture takes joins its queue, a bad one is completed (R421), one that finds no service (log entry 67) or no place is counted and
dropped; with no head nothing starts; the head whose cores are free starts its launch; aging raises the record's age alone. A held
completion is written once there is room, a cancelled launch that is quiet ends; CRHEAD takes what is written; a doubleword of an
idle queue's block takes its fields, a queue being busy while it has a record or a launch, stopped or not (log entry 98); a
cancelled launch is stopped. A mirrored record adds its launch (R429; the device's place among the launch's is log entry 59); a
hand-off (R310) or a near-mode grant (R388) begins its body, a SEND to ring 0 is received and dropped (log entry 92), and with
none of these nothing happens. (04_contexts R64, 21_system R407, 21_system R411, 23_device R419, 23_device R421, 23_device R422,
23_device R426, log entry 59, log entry 67, log entry 92, log entry 98, log entry 112) -/
def Obligations.LaunchEvents : Prop :=
  (∀ s : State, NothingPending s → s.cx.live = true → s.cx.held = false → s.ux.halted = false → s.cx.parking = true → s.cx.asleep = false →
      s.cx.wait = none → s.cx.why = .segment → s.cx.act = false → s.cx.firmware = false → s.cx.redo = none →
      (s.cx.seg < 256 → exec (.implicitPark s.cur s.c) s = .next s)
        ∧ (256 ≤ s.cx.seg → ∃ t, exec (.implicitPark s.cur s.c) s = .next t ∧ (t.ctx s.cur s.c).seg = 0 ∧ (t.ctx s.cur s.c).parking = false
            ∧ (t.ctx s.cur s.c).pc = s.pc ∧ t.mem = s.mem))
    ∧ (∀ (u c : Nat) (s : State),
      (c = 0 ∨ s.fetchAt u c (s.ctx u c).pc ≠ none → exec (.helperCodeAbsent u c) s = .next s)
        ∧ (c ≠ 0 → s.ready u c = true → (s.ctx u c).parking = false → (s.ctx u c).asleep = false →
          (s.ctx u c).defs = [] → s.flight = [] → (s.ctx u c).blocked = [] → s.advances = [] → s.copQueued u c = false → s.replaying u c = false →
          s.fetchAt u c (s.ctx u c).pc = none →
          ∃ t, exec (.helperCodeAbsent u c) s = .next t ∧ (t.ctx u c).live = false
            ∧ (t.unit u).absent = (s.unit u).absent ++ [(c, (s.ctx u c).pc)]))
    ∧ (∀ (u lid : Nat) (s : State), ∃ t, exec (.stopArrival u lid) s = .next t ∧ lid ∈ (t.unit u).stopPend
      ∧ ∀ c, 1 ≤ c → c ≤ 10 → (s.ctx u c).live = true → (s.ctx u c).lid = lid →
        ((s.ctx u c).asleep = false → (t.ctx u c).stopDue = true ∧ (t.ctx u c).parking = true)
          ∧ ((s.ctx u c).asleep = true → (t.ctx u c).held = true ∧ (t.ctx u c).asleep = false ∧ (t.ctx u c).wait = none))
    ∧ (∀ (u lid : Nat) (l : Launch) (s : State), s.launch lid = some l →
      (l.owing.contains u = true → ∃ t, exec (.unitWatchdog u lid) s = .next t ∧ t.launch lid = none ∧ t.unit u = UnitState.reset u)
        ∧ (l.owing.contains u = false → lid ∈ s.launchesOf u → ∃ t, exec (.unitWatchdog u lid) s = .next t ∧ t.launch lid = none)
        ∧ (l.owing.contains u = false → lid ∉ s.launchesOf u → exec (.unitWatchdog u lid) s = .next s))
    ∧ (∀ (lid : Nat) (s : State), s.launch lid = none →
      exec (.launchResume lid) s = .next s ∧ exec (.quiescenceDetect lid) s = .next s ∧ ∀ u, exec (.unitWatchdog u lid) s = .next s)
    ∧ (∀ (lid : Nat) (l : Launch) (s : State), s.launch lid = some l →
      let back : Prop := l.stopped = true ∧ l.cancel = false ∧ l.owing = [] ∧ l.away = []
      (¬ back → exec (.launchResume lid) s = .next s)
        ∧ (back → ∃ t, exec (.launchResume lid) s = .next t ∧ t.mem = s.mem ∧ t.launch lid = some { l with stopped := false, saved := [] }
            ∧ ∀ k ∈ s.launchCtxs lid, (t.ctx k.1 k.2).held = false))
    ∧ (∀ (lid : Nat) (l : Launch) (s : State), s.launch lid = some l →
      (l.stopped = true ∨ l.stalled = true ∨ s.quiescent l = false → exec (.quiescenceDetect lid) s = .next s)
        ∧ (l.stopped = false → l.stalled = false → s.quiescent l = true → l.stallva = 0#64 → RingTakes s l.queue →
          ∃ t, exec (.quiescenceDetect lid) s = .next t ∧ t.mem = s.mem ∧ t.launch lid = some { l with stalled := true }
            ∧ CompletionWritten s t l.queue
                ⟨l.tag, 3, 0, lid, l.lap - 1, BitVec.ofNat 64 (s.launchCtxs lid).length, l.taskErrors⟩))
    ∧ (∀ (port : Bool) (off : Nat) (bytes : List Byte) (s : State),
      let q := (wordOf ((bytes.drop 8).take 8)).toNat % 64
      let r : LRecord := ⟨0, recordWords bytes, 0, s.po⟩
      ((bytes.length ≠ 128 ∨ s.serving = false ∨ off % 128 ≠ 0 ∨ off < 0x1000 ∨ 0x1FFF < off ∨ (s.lq q).enabled = false ∨ 16 ≤ (s.lq q).records.length) →
          exec (.launchRecordPost port off bytes) s = .next { s with dropcnt := s.dropcnt + 1#32 })
        ∧ (bytes.length = 128 → s.serving = true → off % 128 = 0 → 0x1000 ≤ off → off ≤ 0x1FFF → (s.lq q).enabled = true → (s.lq q).records.length < 16 →
          (s.badRecord r = true → RingTakes s q →
              ∃ t, exec (.launchRecordPost port off bytes) s = .next t ∧ CompletionWritten s t q ⟨r.dw 6, 4, 0, 0, 0, 0#64, 0⟩)
          ∧ (s.badRecord r = false → ∃ t n, exec (.launchRecordPost port off bytes) s = .next t ∧ t.mem = s.mem
              ∧ (t.lq q).records = (s.lq q).records ++ [{ r with lid := n }]
              ∧ ((r.dw 1).toNat / 2 ^ 16 % 2 ^ 16 ≠ 0 → n = (r.dw 1).toNat / 2 ^ 16 % 2 ^ 16))))
    ∧ (∀ s : State, (s.serving = false ∨ s.headRecord = none → exec .launchStart s = .next s)
      ∧ ∀ q r s1 desc, s.serving = true → s.headRecord = some (q, r) →
        s.tableBad q r = false → (∀ c ∈ s.recordCores q r, c < 512 ∧ s.on (.farCore c) = true) →
        s.namesRetired (s.launchOf q r (s.recordCores q r)) = false →
        s.rootDesc q r = .ok (s1, desc) → s.coresFree 0 (s.recordCores q r) = true → s.resumesFirst r.prio (s.recordCores q r) = false →
        checkTarget (descWord desc 1) = none →
        ∃ t l, exec .launchStart s = .next t ∧ l ∈ t.launches ∧ l.lid = r.lid ∧ l.cores = s.recordCores q r ∧ l.lap = 1 ∧ l.tag = r.dw 6
          ∧ (t.lq q).records = (s1.lq q).records.drop 1)
    ∧ (∀ (q idx : Nat) (s : State), ∃ t, exec (.launchRecordAging q idx) s = .next t
      ∧ (t.lq q).records = ((s.lq q).records.zipIdx.map fun r => if r.2 = idx then { r.1 with age := r.1.age + 1 } else r.1))
    ∧ (∀ (q : Nat) (s : State),
      (∀ c rest, (s.lq q).held = c :: rest → (s.lq q).ringFull = false →
          ∃ t, exec (.completionWrite q) s = .next t ∧ (t.lq q).held = rest ∧ CompletionWritten s t q c)
        ∧ ((s.lq q).held ≠ [] → (s.lq q).ringFull = true → exec (.completionWrite q) s = .next s)
        ∧ ((s.lq q).held = [] → s.cancelDone q = none → exec (.completionWrite q) s = .next s)
        ∧ ∀ l, (s.lq q).held = [] → s.cancelDone q = some l → ∃ t, exec (.completionWrite q) s = .next t ∧ t.launch l.lid = none)
    ∧ (∀ (q : Nat) (v : Word32) (s : State), ∃ t, exec (.crheadWrite q v) s = .next t ∧ (t.lq q).crhead = v
      ∧ (t.lq q).crtail = (s.lq q).crtail ∧ ∀ k, k ≠ q → t.lq k = s.lq k)
    ∧ (∀ (q dw : Nat) (v : Word) (s : State), dw < 8 →
      (dw = 7 ∨ (dw ≠ 6 ∧ s.lqBusy q = true) → exec (.lqcfgWrite q dw v) s = .next s)
        ∧ (dw ≠ 7 → dw = 6 ∨ s.lqBusy q = false → ∃ t, exec (.lqcfgWrite q dw v) s = .next t ∧ (t.lq q).dw dw = v &&& lqMask dw
            ∧ ∀ j, j ≠ dw → (t.lq q).dw j = (s.lq q).dw j))
    ∧ (∀ (lid : BitVec 16) (s : State), (s.launch lid.toNat = none → exec (.lstopWrite lid) s = .next s)
      ∧ ∀ l, s.launch lid.toNat = some l →
        ∃ t k, exec (.lstopWrite lid) s = .next t ∧ t.launch lid.toNat = some k ∧ k.cancel = true ∧ k.stopped = true)
    ∧ (∀ (bytes : List Byte) (lid : Nat) (s : State),
      (lid = 0 ∨ s.lidHeld lid = true ∨ s.serving = false → exec (.mirrorRecord bytes lid) s = .next s.useFree)
        ∧ (lid ≠ 0 → s.lidHeld lid = false → s.serving = true → (recordWords bytes).getD 1 0#64 = 0x100000000#64 →
          (∀ x ∈ s.retired, s.names (s.launchOf 0 ⟨lid, recordWords bytes, 0, s.po⟩ []) x = false) →
          ∃ t l, exec (.mirrorRecord bytes lid) s = .next t ∧ l ∈ t.launches ∧ l.lid = lid ∧ l.tag = (recordWords bytes).getD 6 0#64))
    ∧ (∀ (u : Nat) (s : State),
      (s.handOffAt u = none → exec (.handOffTaskStart u) s = .next s)
        ∧ (s.handOffAt u = some none → exec (.handOffTaskStart u) s = .next (s.freeHead u))
        ∧ ∀ d l, s.handOffAt u = some (some d) → s.launch ((s.unit u).fires.headD 0) = some l →
          (s.freeHelper u = none → exec (.handOffTaskStart u) s = .next s)
            ∧ ∀ n, s.freeHelper u = some n → checkTarget (descWord d 1) = none →
              ∃ t, exec (.handOffTaskStart u) s = .next t ∧ BodyBegun t u n (descWord d 1) ((s.unit u).fires.headD 0))
    ∧ ∀ (p : Nat) (bind : Word) (s : State), p < 512 →
      let u := Config.stackUnit0 + p
      let n := bindHelper bind
      let d := s.getLocal u (bindOff bind) 64
      (s.granted u n = false → exec (.nearModeTaskGrant p bind) s = .next s)
        ∧ ((s.ctx u n).live = false → (s.loc64 u ((s.cbOf u n).toNat + 0x78)).getLsbD 63 = true → s.loc64 u (s.cbOf u n).toNat = 0#64 →
          (descWord d 7).toNat < 2 ^ 63 →
          ∃ t, exec (.nearModeTaskGrant p bind) s = .next t ∧ BodyBegun t u n (descWord d 0) (s.ctx u 0).lid)

/-- PWRLIM takes a limit from 400 to 2,000 and no other; a 1 written to HERR clears its bit; DROPCNT takes what is written. A
request for a quote is taken unless one is under way, and the quote carries its nonce, the signed items' digests and security
versions, the fused floor, DEVSTAT and CAP, and a signature over them, a free value (log entry 107). A read of BAR0 gives PWRLIM,
DROPCNT and HERR, and its writes act as the control register's own events; before service a read of BAR2 or BAR4 gives all ones
and sets HERR bit 0. A read of the host window that times out returns UNCORR. A port that is not trained or retrains carries
nothing; else a flit that fails its CRC is counted, and an access of one that passes is performed at its place here once its home
takes it; 64 failures since the last retraining retrain a port (log entry 60), and its end sets the lanes. Reset begins stage 1
(the model's choice, log entry 54) with nothing running, the signed items and fuses, the retired units gone, the host's memory as
it was, and memory with the blocks of the live contexts in it, all of it as it was where none is live and no unit is retired (the
model's choice, log entry 54); a stage whose signed items verify, with no security version below the floor, passes to the next, a
rejected item or another failure stops bring-up; full service follows once every launch is stopped. Power above the limit lowers
the clocks. A scrub logs its first error, with UC where it is not corrected, and a later one as an overflow that leaves the first
(log entry 61); an uncorrected one fails the unit's launches (log entry 62); a disabled unit fails the launches that name it.
(21_system R412, 23_device R418, 23_device R427, 23_device R430, 23_device R431, 23_device R432, 23_device R434, log entry 54, log
entry 60, log entry 61, log entry 62, log entry 107) -/
def Obligations.DeviceEvents : Prop :=
  (∀ (v : Word) (s : State),
      (400 ≤ v.toNat % 2048 ∧ v.toNat % 2048 ≤ 2000 → exec (.pwrlimWrite v) s = .next { s with pwrlim := BitVec.ofNat 11 v.toNat })
        ∧ (¬ (400 ≤ v.toNat % 2048 ∧ v.toNat % 2048 ≤ 2000) → exec (.pwrlimWrite v) s = .next s)
        ∧ ∃ t, exec (.herrClear v) s = .next t ∧ ∀ k, k < 2 → t.herr.getLsbD k = (s.herr.getLsbD k && ! v.getLsbD k))
    ∧ (∀ (v : Word32) (s : State), exec (.dropcntWrite v) s = .next { s with dropcnt := v })
    ∧ (∀ (nonce : List Byte) (s : State), nonce.length = 64 → s.attbox.wf = true →
      (s.attbox.readBytes 0x40 4 = [1#8, 0#8, 0#8, 0#8] → exec (.attestationRequest nonce) s = .next s)
        ∧ (s.attbox.readBytes 0x40 4 ≠ [1#8, 0#8, 0#8, 0#8] → ∃ t, exec (.attestationRequest nonce) s = .next t
            ∧ t.attbox.readBytes 0x40 4 = [1#8, 0#8, 0#8, 0#8] ∧ t.attbox.readBytes 0 64 = nonce))
    ∧ (∀ (quote : List Byte) (s : State), s.attbox.wf = true →
      (s.attbox.readBytes 0x40 4 ≠ [1#8, 0#8, 0#8, 0#8] → exec (.quoteComplete quote) s = .next s)
        ∧ (s.attbox.readBytes 0x40 4 = [1#8, 0#8, 0#8, 0#8] → ∃ t, exec (.quoteComplete quote) s = .next t
            ∧ t.attbox.readBytes 0x40 4 = [2#8, 0#8, 0#8, 0#8] ∧ t.attbox.readBytes 0x1C0 64 = s.attbox.readBytes 0 64
            ∧ (∀ k : Fin 5, t.attbox.readBytes (0x80 + 64 * k.val) 64 = bytesOfNat 64 (s.images.get k).digest.toNat
                ∧ t.attbox.readBytes (0x2C8 + 2 * k.val) 2 = bytesOfNat 2 (s.images.get k).version.toNat)
            ∧ t.attbox.readBytes 0x200 8 = bytesOf 8 s.devstat ∧ t.attbox.readBytes 0x2C0 8 = bytesOf 8 s.hostCap
            ∧ t.attbox.readBytes 0x2D2 2 = bytesOfNat 2 s.fusedFloor.toNat
            ∧ ∀ i, i < 132 → t.attbox.readBytes (0x300 + i) 1 =
                [Config.signature (natOfBytes quote) (s.attbox.readBytes 0 64 ++ t.attbox.readBytes 0x80 0x280) i]))
    ∧ (∀ (port : Bool) (s : State) (off : Nat) (v : Word), (off, v) ∈ [(0x10, s.pwrlim.setWidth 64), (0x20, s.dropcnt.setWidth 64),
        (0x28, s.herr.setWidth 64)] →
      exec (.hostAccess port 0 off (.read 8)) s = .next { s with hostReply := bytesOf 8 v })
    ∧ (∀ (port : Bool) (s : State) (bs : List Byte), exec (.hostAccess port 0 0x10 (.write bs)) s = exec (.pwrlimWrite (wordOf bs)) s
      ∧ exec (.hostAccess port 0 0x28 (.write bs)) s = exec (.herrClear (wordOf bs)) s
      ∧ exec (.hostAccess port 0 0x1000 (.write bs)) s = exec (.launchRecordPost port 0x1000 bs) s)
    ∧ (∀ (port : Bool) (s : State) (bar off n : Nat), bar = 2 ∨ bar = 4 → s.serving = false → 0 < n → off % 4096 + n ≤ 4096 →
      exec (.hostAccess port bar off (.read n)) s = .next { s with herr := s.herr ||| 1#2, hostReply := List.replicate n 0xFF#8 })
    ∧ (∀ (r : Req) (size id : Nat) (sg : Bool) (s : State), r.act = .load size sg id →
      (r ∈ s.flight → s.place r.pa = .host → ∃ t, exec (.hostReadTimeout r) s = .next t ∧ r ∉ t.flight ∧ t.mem = s.mem
          ∧ (t.ctx r.who.unit r.who.ctx).homeFaults = (s.ctx r.who.unit r.who.ctx).homeFaults ++ [⟨r.po, .uncorr, r.ea, r.fpc⟩])
        ∧ (r ∉ s.flight → exec (.hostReadTimeout r) s = .next s))
    ∧ (∀ (port : Nat) (reqs : List Req) (s : State),
      ((s.port port).lanes = 0 ∨ (s.port port).retraining = true → ∀ good, exec (.flitReceive port good reqs) s = .next s)
        ∧ (0 < (s.port port).lanes → (s.port port).retraining = false →
          (∃ t, exec (.flitReceive port false reqs) s = .next t ∧ (t.port port).fails = (s.port port).fails + 1 ∧ t.mem = s.mem)
            ∧ exec (.flitReceive port true []) s = .next s
            ∧ ∀ r p, peerPa r.pa = some p →
              (s.accessWaits p (reqSize r) s.po = true → exec (.flitReceive port true [r]) s = .next s)
                ∧ (s.accessWaits p (reqSize r) s.po = false → exec (.flitReceive port true [r]) s = .next (s.performPeer { r with pa := p }))))
    ∧ (∀ (port lanes : Nat) (s : State), (64 ≤ (s.port port).fails → ∃ t, exec (.linkRetrain port) s = .next t
          ∧ (t.port port).retraining = true ∧ (t.port port).fails = 0)
        ∧ ((s.port port).fails < 64 → exec (.linkRetrain port) s = .next s)
        ∧ ((s.port port).retraining = true → lanes ∈ [4, 2, 1] → ∃ t, exec (.linkRetrainingEnd port lanes) s = .next t
          ∧ (t.port port).retraining = false ∧ (t.port port).lanes = lanes)
        ∧ ((s.port port).retraining = false → exec (.linkRetrainingEnd port lanes) s = .next s))
    ∧ (∀ s : State, ∃ t, exec .deviceReset s = .next t ∧ t.stage = 1#4 ∧ t.launches = [] ∧ t.units = [] ∧ t.flight = []
      ∧ t.mem = s.keptMem ∧ (s.retired = [] → (∀ u ∈ s.units, ∀ x ∈ u.2.ctxs, x.2.live = false) → t.mem = s.mem)
      ∧ t.hostMem = s.hostMem ∧ t.images = s.images ∧ t.keyDigest = s.keyDigest ∧ t.fusedFloor = s.fusedFloor ∧ (∀ x ∈ s.retired, x ∈ t.disabled) ∧ ∀ x ∈ s.disabled, x ∈ t.disabled)
    ∧ (∀ s : State, (s.stage.toNat < 3 → s.stageAccepted = true →
          ∃ t, exec (.bootStageAdvance true) s = .next t ∧ t.stage = s.stage + 1#4 ∧ t.mem = s.mem)
        ∧ (s.stage = 1#4 → (s.stageAccepted = true ↔ ∀ k : Fin 5, k.val < 4 →
            Config.verify s.keyDigest (s.images.get k).digest (s.images.get k).signature = true
              ∧ s.fusedFloor.toNat ≤ (s.images.get k).version.toNat))
        ∧ (s.stage = 2#4 → (s.stageAccepted = true ↔
            Config.verify s.keyDigest (s.images.get 4).digest (s.images.get 4).signature = true
              ∧ s.fusedFloor.toNat ≤ (s.images.get 4).version.toNat))
        ∧ (s.stageAccepted = false → exec (.bootStageAdvance true) s = .next { s with stage := 0xF#4 })
        ∧ (3 ≤ s.stage.toNat → exec (.bootStageAdvance true) s = .next s)
        ∧ exec (.bootStageAdvance false) s = .next { s with stage := 0xF#4 })
    ∧ (∀ s : State, (s.stage ≠ 3#4 → exec .fullServiceTransition s = .next s)
      ∧ (s.stage = 3#4 → (∀ l ∈ s.launches, l.stopped = true ∧ l.owing = []) →
          exec .fullServiceTransition s = .next { s with stage := 4#4 })
      ∧ (s.stage = 3#4 → (∃ l ∈ s.launches, l.stopped = false) →
          ∃ t, exec .fullServiceTransition s = .next t ∧ t.stage = 3#4 ∧ ∀ l ∈ t.launches, l.stopped = true))
    ∧ (∀ (w : BitVec 16) (s : State), ∃ t, exec (.powerControl w) s = .next t ∧ t.pwr = w ∧ t.mem = s.mem
      ∧ (s.pwrlim.toNat < w.toNat → t.capped = true) ∧ (w.toNat ≤ s.pwrlim.toNat → s.capped = false → t.capped = false))
    ∧ (∀ (u : Nat) (src : ErrSrc) (addr : BitVec 52) (ok : Bool) (s : State), ∃ t, exec (.scrub u src addr ok) s = .next t
        ∧ ((s.unit u).errlog.toNat < 2 ^ 63 → (t.unit u).errlog.toNat =
            2 ^ 63 + (if ok then 0 else 2 ^ 61) + (errSrcCode src).toNat * 2 ^ 56 + addr.toNat)
        ∧ (2 ^ 63 ≤ (s.unit u).errlog.toNat → (t.unit u).errlog = (s.unit u).errlog ||| (1#64 <<< 62))
        ∧ (ok = true → t.mem = s.mem) ∧ (ok = false → ∀ lid ∈ s.launchesOf u, t.launch lid = none))
    ∧ ∀ (x : PartUnit) (s : State), ∃ t, exec (.unitDisable x) s = .next t ∧ x ∈ t.retired
        ∧ ∀ l ∈ s.launches, s.names l x = true → t.launch l.lid = none

/-- In every state whose memory is in its canonical form (addresses strictly rising, no entry equal to what an unlisted address
reads as), reached by a run or not, whatever step is next, whether an instruction, a trap or an event of the device, the memory of
the next state is in that form. (01_machine R21, log entry 1) -/
def Obligations.MemoryStaysCanonical : Prop :=
  ∀ s t : State, s.memOk → step s = .next t → t.memOk

end
end

