-- ==== Sys2Proof/Laws/State.lean ====
section
/-! SUPPORT. One lemma per field of State per update: what the updates of Ops.lean and Places.lean leave as it was. -/

namespace Sys2Proof.Machine

/-! ## setUnit changes units alone -/

@[simp] theorem State.setUnit_mem (s : State) (u : Nat) (x : UnitState) : (s.setUnit u x).mem = s.mem := rfl
@[simp] theorem State.setUnit_homes (s : State) (u : Nat) (x : UnitState) : (s.setUnit u x).homes = s.homes := rfl
@[simp] theorem State.setUnit_dies (s : State) (u : Nat) (x : UnitState) : (s.setUnit u x).dies = s.dies := rfl
@[simp] theorem State.setUnit_gens (s : State) (u : Nat) (x : UnitState) : (s.setUnit u x).gens = s.gens := rfl
@[simp] theorem State.setUnit_floors (s : State) (u : Nat) (x : UnitState) : (s.setUnit u x).floors = s.floors := rfl
@[simp] theorem State.setUnit_advances (s : State) (u : Nat) (x : UnitState) : (s.setUnit u x).advances = s.advances := rfl
@[simp] theorem State.setUnit_slices (s : State) (u : Nat) (x : UnitState) : (s.setUnit u x).slices = s.slices := rfl
@[simp] theorem State.setUnit_rules (s : State) (u : Nat) (x : UnitState) : (s.setUnit u x).rules = s.rules := rfl
@[simp] theorem State.setUnit_stale (s : State) (u : Nat) (x : UnitState) : (s.setUnit u x).stale = s.stale := rfl
@[simp] theorem State.setUnit_recomputes (s : State) (u : Nat) (x : UnitState) : (s.setUnit u x).recomputes = s.recomputes := rfl
@[simp] theorem State.setUnit_disabled (s : State) (u : Nat) (x : UnitState) : (s.setUnit u x).disabled = s.disabled := rfl
@[simp] theorem State.setUnit_retired (s : State) (u : Nat) (x : UnitState) : (s.setUnit u x).retired = s.retired := rfl
@[simp] theorem State.setUnit_dev (s : State) (u : Nat) (x : UnitState) : (s.setUnit u x).dev = s.dev := rfl
@[simp] theorem State.setUnit_ports (s : State) (u : Nat) (x : UnitState) : (s.setUnit u x).ports = s.ports := rfl
@[simp] theorem State.setUnit_routes (s : State) (u : Nat) (x : UnitState) : (s.setUnit u x).routes = s.routes := rfl
@[simp] theorem State.setUnit_launches (s : State) (u : Nat) (x : UnitState) : (s.setUnit u x).launches = s.launches := rfl
@[simp] theorem State.setUnit_near (s : State) (u : Nat) (x : UnitState) : (s.setUnit u x).near = s.near := rfl
@[simp] theorem State.setUnit_mgrant (s : State) (u : Nat) (x : UnitState) : (s.setUnit u x).mgrant = s.mgrant := rfl
@[simp] theorem State.setUnit_dirs (s : State) (u : Nat) (x : UnitState) : (s.setUnit u x).dirs = s.dirs := rfl
@[simp] theorem State.setUnit_lqs (s : State) (u : Nat) (x : UnitState) : (s.setUnit u x).lqs = s.lqs := rfl
@[simp] theorem State.setUnit_stage (s : State) (u : Nat) (x : UnitState) : (s.setUnit u x).stage = s.stage := rfl
@[simp] theorem State.setUnit_pwr (s : State) (u : Nat) (x : UnitState) : (s.setUnit u x).pwr = s.pwr := rfl
@[simp] theorem State.setUnit_capped (s : State) (u : Nat) (x : UnitState) : (s.setUnit u x).capped = s.capped := rfl
@[simp] theorem State.setUnit_pwrlim (s : State) (u : Nat) (x : UnitState) : (s.setUnit u x).pwrlim = s.pwrlim := rfl
@[simp] theorem State.setUnit_dropcnt (s : State) (u : Nat) (x : UnitState) : (s.setUnit u x).dropcnt = s.dropcnt := rfl
@[simp] theorem State.setUnit_herr (s : State) (u : Nat) (x : UnitState) : (s.setUnit u x).herr = s.herr := rfl
@[simp] theorem State.setUnit_images (s : State) (u : Nat) (x : UnitState) : (s.setUnit u x).images = s.images := rfl
@[simp] theorem State.setUnit_keyDigest (s : State) (u : Nat) (x : UnitState) : (s.setUnit u x).keyDigest = s.keyDigest := rfl
@[simp] theorem State.setUnit_fusedFloor (s : State) (u : Nat) (x : UnitState) : (s.setUnit u x).fusedFloor = s.fusedFloor := rfl
@[simp] theorem State.setUnit_mirrors (s : State) (u : Nat) (x : UnitState) : (s.setUnit u x).mirrors = s.mirrors := rfl
@[simp] theorem State.setUnit_attbox (s : State) (u : Nat) (x : UnitState) : (s.setUnit u x).attbox = s.attbox := rfl
@[simp] theorem State.setUnit_hostMem (s : State) (u : Nat) (x : UnitState) : (s.setUnit u x).hostMem = s.hostMem := rfl
@[simp] theorem State.setUnit_msi (s : State) (u : Nat) (x : UnitState) : (s.setUnit u x).msi = s.msi := rfl
@[simp] theorem State.setUnit_crPorts (s : State) (u : Nat) (x : UnitState) : (s.setUnit u x).crPorts = s.crPorts := rfl
@[simp] theorem State.setUnit_hostReply (s : State) (u : Nat) (x : UnitState) : (s.setUnit u x).hostReply = s.hostReply := rfl
@[simp] theorem State.setUnit_saves (s : State) (u : Nat) (x : UnitState) : (s.setUnit u x).saves = s.saves := rfl
@[simp] theorem State.setUnit_upsets (s : State) (u : Nat) (x : UnitState) : (s.setUnit u x).upsets = s.upsets := rfl
@[simp] theorem State.setUnit_bar2 (s : State) (u : Nat) (x : UnitState) : (s.setUnit u x).bar2 = s.bar2 := rfl
@[simp] theorem State.setUnit_cur (s : State) (u : Nat) (x : UnitState) : (s.setUnit u x).cur = s.cur := rfl
@[simp] theorem State.setUnit_flight (s : State) (u : Nat) (x : UnitState) : (s.setUnit u x).flight = s.flight := rfl
@[simp] theorem State.setUnit_posted (s : State) (u : Nat) (x : UnitState) : (s.setUnit u x).posted = s.posted := rfl
@[simp] theorem State.setUnit_po (s : State) (u : Nat) (x : UnitState) : (s.setUnit u x).po = s.po := rfl
@[simp] theorem State.setUnit_async (s : State) (u : Nat) (x : UnitState) : (s.setUnit u x).async = s.async := rfl
@[simp] theorem State.setUnit_sched (s : State) (u : Nat) (x : UnitState) : (s.setUnit u x).sched = s.sched := rfl
@[simp] theorem State.setUnit_free (s : State) (u : Nat) (x : UnitState) : (s.setUnit u x).free = s.free := rfl

/-! ## modUnit changes units alone -/

@[simp] theorem State.modUnit_mem (s : State) (u : Nat) (f : UnitState → UnitState) : (s.modUnit u f).mem = s.mem := rfl
@[simp] theorem State.modUnit_homes (s : State) (u : Nat) (f : UnitState → UnitState) : (s.modUnit u f).homes = s.homes := rfl
@[simp] theorem State.modUnit_dies (s : State) (u : Nat) (f : UnitState → UnitState) : (s.modUnit u f).dies = s.dies := rfl
@[simp] theorem State.modUnit_gens (s : State) (u : Nat) (f : UnitState → UnitState) : (s.modUnit u f).gens = s.gens := rfl
@[simp] theorem State.modUnit_floors (s : State) (u : Nat) (f : UnitState → UnitState) : (s.modUnit u f).floors = s.floors := rfl
@[simp] theorem State.modUnit_advances (s : State) (u : Nat) (f : UnitState → UnitState) : (s.modUnit u f).advances = s.advances := rfl
@[simp] theorem State.modUnit_slices (s : State) (u : Nat) (f : UnitState → UnitState) : (s.modUnit u f).slices = s.slices := rfl
@[simp] theorem State.modUnit_rules (s : State) (u : Nat) (f : UnitState → UnitState) : (s.modUnit u f).rules = s.rules := rfl
@[simp] theorem State.modUnit_stale (s : State) (u : Nat) (f : UnitState → UnitState) : (s.modUnit u f).stale = s.stale := rfl
@[simp] theorem State.modUnit_recomputes (s : State) (u : Nat) (f : UnitState → UnitState) : (s.modUnit u f).recomputes = s.recomputes := rfl
@[simp] theorem State.modUnit_disabled (s : State) (u : Nat) (f : UnitState → UnitState) : (s.modUnit u f).disabled = s.disabled := rfl
@[simp] theorem State.modUnit_retired (s : State) (u : Nat) (f : UnitState → UnitState) : (s.modUnit u f).retired = s.retired := rfl
@[simp] theorem State.modUnit_dev (s : State) (u : Nat) (f : UnitState → UnitState) : (s.modUnit u f).dev = s.dev := rfl
@[simp] theorem State.modUnit_ports (s : State) (u : Nat) (f : UnitState → UnitState) : (s.modUnit u f).ports = s.ports := rfl
@[simp] theorem State.modUnit_routes (s : State) (u : Nat) (f : UnitState → UnitState) : (s.modUnit u f).routes = s.routes := rfl
@[simp] theorem State.modUnit_launches (s : State) (u : Nat) (f : UnitState → UnitState) : (s.modUnit u f).launches = s.launches := rfl
@[simp] theorem State.modUnit_near (s : State) (u : Nat) (f : UnitState → UnitState) : (s.modUnit u f).near = s.near := rfl
@[simp] theorem State.modUnit_mgrant (s : State) (u : Nat) (f : UnitState → UnitState) : (s.modUnit u f).mgrant = s.mgrant := rfl
@[simp] theorem State.modUnit_dirs (s : State) (u : Nat) (f : UnitState → UnitState) : (s.modUnit u f).dirs = s.dirs := rfl
@[simp] theorem State.modUnit_lqs (s : State) (u : Nat) (f : UnitState → UnitState) : (s.modUnit u f).lqs = s.lqs := rfl
@[simp] theorem State.modUnit_stage (s : State) (u : Nat) (f : UnitState → UnitState) : (s.modUnit u f).stage = s.stage := rfl
@[simp] theorem State.modUnit_pwr (s : State) (u : Nat) (f : UnitState → UnitState) : (s.modUnit u f).pwr = s.pwr := rfl
@[simp] theorem State.modUnit_capped (s : State) (u : Nat) (f : UnitState → UnitState) : (s.modUnit u f).capped = s.capped := rfl
@[simp] theorem State.modUnit_pwrlim (s : State) (u : Nat) (f : UnitState → UnitState) : (s.modUnit u f).pwrlim = s.pwrlim := rfl
@[simp] theorem State.modUnit_dropcnt (s : State) (u : Nat) (f : UnitState → UnitState) : (s.modUnit u f).dropcnt = s.dropcnt := rfl
@[simp] theorem State.modUnit_herr (s : State) (u : Nat) (f : UnitState → UnitState) : (s.modUnit u f).herr = s.herr := rfl
@[simp] theorem State.modUnit_images (s : State) (u : Nat) (f : UnitState → UnitState) : (s.modUnit u f).images = s.images := rfl
@[simp] theorem State.modUnit_keyDigest (s : State) (u : Nat) (f : UnitState → UnitState) : (s.modUnit u f).keyDigest = s.keyDigest := rfl
@[simp] theorem State.modUnit_fusedFloor (s : State) (u : Nat) (f : UnitState → UnitState) : (s.modUnit u f).fusedFloor = s.fusedFloor := rfl
@[simp] theorem State.modUnit_mirrors (s : State) (u : Nat) (f : UnitState → UnitState) : (s.modUnit u f).mirrors = s.mirrors := rfl
@[simp] theorem State.modUnit_attbox (s : State) (u : Nat) (f : UnitState → UnitState) : (s.modUnit u f).attbox = s.attbox := rfl
@[simp] theorem State.modUnit_hostMem (s : State) (u : Nat) (f : UnitState → UnitState) : (s.modUnit u f).hostMem = s.hostMem := rfl
@[simp] theorem State.modUnit_msi (s : State) (u : Nat) (f : UnitState → UnitState) : (s.modUnit u f).msi = s.msi := rfl
@[simp] theorem State.modUnit_crPorts (s : State) (u : Nat) (f : UnitState → UnitState) : (s.modUnit u f).crPorts = s.crPorts := rfl
@[simp] theorem State.modUnit_hostReply (s : State) (u : Nat) (f : UnitState → UnitState) : (s.modUnit u f).hostReply = s.hostReply := rfl
@[simp] theorem State.modUnit_saves (s : State) (u : Nat) (f : UnitState → UnitState) : (s.modUnit u f).saves = s.saves := rfl
@[simp] theorem State.modUnit_upsets (s : State) (u : Nat) (f : UnitState → UnitState) : (s.modUnit u f).upsets = s.upsets := rfl
@[simp] theorem State.modUnit_bar2 (s : State) (u : Nat) (f : UnitState → UnitState) : (s.modUnit u f).bar2 = s.bar2 := rfl
@[simp] theorem State.modUnit_cur (s : State) (u : Nat) (f : UnitState → UnitState) : (s.modUnit u f).cur = s.cur := rfl
@[simp] theorem State.modUnit_flight (s : State) (u : Nat) (f : UnitState → UnitState) : (s.modUnit u f).flight = s.flight := rfl
@[simp] theorem State.modUnit_posted (s : State) (u : Nat) (f : UnitState → UnitState) : (s.modUnit u f).posted = s.posted := rfl
@[simp] theorem State.modUnit_po (s : State) (u : Nat) (f : UnitState → UnitState) : (s.modUnit u f).po = s.po := rfl
@[simp] theorem State.modUnit_async (s : State) (u : Nat) (f : UnitState → UnitState) : (s.modUnit u f).async = s.async := rfl
@[simp] theorem State.modUnit_sched (s : State) (u : Nat) (f : UnitState → UnitState) : (s.modUnit u f).sched = s.sched := rfl
@[simp] theorem State.modUnit_free (s : State) (u : Nat) (f : UnitState → UnitState) : (s.modUnit u f).free = s.free := rfl

/-! ## setCtx changes units alone -/

@[simp] theorem State.setCtx_mem (s : State) (u c : Nat) (x : Ctx) : (s.setCtx u c x).mem = s.mem := rfl
@[simp] theorem State.setCtx_homes (s : State) (u c : Nat) (x : Ctx) : (s.setCtx u c x).homes = s.homes := rfl
@[simp] theorem State.setCtx_dies (s : State) (u c : Nat) (x : Ctx) : (s.setCtx u c x).dies = s.dies := rfl
@[simp] theorem State.setCtx_gens (s : State) (u c : Nat) (x : Ctx) : (s.setCtx u c x).gens = s.gens := rfl
@[simp] theorem State.setCtx_floors (s : State) (u c : Nat) (x : Ctx) : (s.setCtx u c x).floors = s.floors := rfl
@[simp] theorem State.setCtx_advances (s : State) (u c : Nat) (x : Ctx) : (s.setCtx u c x).advances = s.advances := rfl
@[simp] theorem State.setCtx_slices (s : State) (u c : Nat) (x : Ctx) : (s.setCtx u c x).slices = s.slices := rfl
@[simp] theorem State.setCtx_rules (s : State) (u c : Nat) (x : Ctx) : (s.setCtx u c x).rules = s.rules := rfl
@[simp] theorem State.setCtx_stale (s : State) (u c : Nat) (x : Ctx) : (s.setCtx u c x).stale = s.stale := rfl
@[simp] theorem State.setCtx_recomputes (s : State) (u c : Nat) (x : Ctx) : (s.setCtx u c x).recomputes = s.recomputes := rfl
@[simp] theorem State.setCtx_disabled (s : State) (u c : Nat) (x : Ctx) : (s.setCtx u c x).disabled = s.disabled := rfl
@[simp] theorem State.setCtx_retired (s : State) (u c : Nat) (x : Ctx) : (s.setCtx u c x).retired = s.retired := rfl
@[simp] theorem State.setCtx_dev (s : State) (u c : Nat) (x : Ctx) : (s.setCtx u c x).dev = s.dev := rfl
@[simp] theorem State.setCtx_ports (s : State) (u c : Nat) (x : Ctx) : (s.setCtx u c x).ports = s.ports := rfl
@[simp] theorem State.setCtx_routes (s : State) (u c : Nat) (x : Ctx) : (s.setCtx u c x).routes = s.routes := rfl
@[simp] theorem State.setCtx_launches (s : State) (u c : Nat) (x : Ctx) : (s.setCtx u c x).launches = s.launches := rfl
@[simp] theorem State.setCtx_near (s : State) (u c : Nat) (x : Ctx) : (s.setCtx u c x).near = s.near := rfl
@[simp] theorem State.setCtx_mgrant (s : State) (u c : Nat) (x : Ctx) : (s.setCtx u c x).mgrant = s.mgrant := rfl
@[simp] theorem State.setCtx_dirs (s : State) (u c : Nat) (x : Ctx) : (s.setCtx u c x).dirs = s.dirs := rfl
@[simp] theorem State.setCtx_lqs (s : State) (u c : Nat) (x : Ctx) : (s.setCtx u c x).lqs = s.lqs := rfl
@[simp] theorem State.setCtx_stage (s : State) (u c : Nat) (x : Ctx) : (s.setCtx u c x).stage = s.stage := rfl
@[simp] theorem State.setCtx_pwr (s : State) (u c : Nat) (x : Ctx) : (s.setCtx u c x).pwr = s.pwr := rfl
@[simp] theorem State.setCtx_capped (s : State) (u c : Nat) (x : Ctx) : (s.setCtx u c x).capped = s.capped := rfl
@[simp] theorem State.setCtx_pwrlim (s : State) (u c : Nat) (x : Ctx) : (s.setCtx u c x).pwrlim = s.pwrlim := rfl
@[simp] theorem State.setCtx_dropcnt (s : State) (u c : Nat) (x : Ctx) : (s.setCtx u c x).dropcnt = s.dropcnt := rfl
@[simp] theorem State.setCtx_herr (s : State) (u c : Nat) (x : Ctx) : (s.setCtx u c x).herr = s.herr := rfl
@[simp] theorem State.setCtx_images (s : State) (u c : Nat) (x : Ctx) : (s.setCtx u c x).images = s.images := rfl
@[simp] theorem State.setCtx_keyDigest (s : State) (u c : Nat) (x : Ctx) : (s.setCtx u c x).keyDigest = s.keyDigest := rfl
@[simp] theorem State.setCtx_fusedFloor (s : State) (u c : Nat) (x : Ctx) : (s.setCtx u c x).fusedFloor = s.fusedFloor := rfl
@[simp] theorem State.setCtx_mirrors (s : State) (u c : Nat) (x : Ctx) : (s.setCtx u c x).mirrors = s.mirrors := rfl
@[simp] theorem State.setCtx_attbox (s : State) (u c : Nat) (x : Ctx) : (s.setCtx u c x).attbox = s.attbox := rfl
@[simp] theorem State.setCtx_hostMem (s : State) (u c : Nat) (x : Ctx) : (s.setCtx u c x).hostMem = s.hostMem := rfl
@[simp] theorem State.setCtx_msi (s : State) (u c : Nat) (x : Ctx) : (s.setCtx u c x).msi = s.msi := rfl
@[simp] theorem State.setCtx_crPorts (s : State) (u c : Nat) (x : Ctx) : (s.setCtx u c x).crPorts = s.crPorts := rfl
@[simp] theorem State.setCtx_hostReply (s : State) (u c : Nat) (x : Ctx) : (s.setCtx u c x).hostReply = s.hostReply := rfl
@[simp] theorem State.setCtx_saves (s : State) (u c : Nat) (x : Ctx) : (s.setCtx u c x).saves = s.saves := rfl
@[simp] theorem State.setCtx_upsets (s : State) (u c : Nat) (x : Ctx) : (s.setCtx u c x).upsets = s.upsets := rfl
@[simp] theorem State.setCtx_bar2 (s : State) (u c : Nat) (x : Ctx) : (s.setCtx u c x).bar2 = s.bar2 := rfl
@[simp] theorem State.setCtx_cur (s : State) (u c : Nat) (x : Ctx) : (s.setCtx u c x).cur = s.cur := rfl
@[simp] theorem State.setCtx_flight (s : State) (u c : Nat) (x : Ctx) : (s.setCtx u c x).flight = s.flight := rfl
@[simp] theorem State.setCtx_posted (s : State) (u c : Nat) (x : Ctx) : (s.setCtx u c x).posted = s.posted := rfl
@[simp] theorem State.setCtx_po (s : State) (u c : Nat) (x : Ctx) : (s.setCtx u c x).po = s.po := rfl
@[simp] theorem State.setCtx_async (s : State) (u c : Nat) (x : Ctx) : (s.setCtx u c x).async = s.async := rfl
@[simp] theorem State.setCtx_sched (s : State) (u c : Nat) (x : Ctx) : (s.setCtx u c x).sched = s.sched := rfl
@[simp] theorem State.setCtx_free (s : State) (u c : Nat) (x : Ctx) : (s.setCtx u c x).free = s.free := rfl

/-! ## modCtx changes units alone -/

@[simp] theorem State.modCtx_mem (s : State) (u c : Nat) (f : Ctx → Ctx) : (s.modCtx u c f).mem = s.mem := rfl
@[simp] theorem State.modCtx_homes (s : State) (u c : Nat) (f : Ctx → Ctx) : (s.modCtx u c f).homes = s.homes := rfl
@[simp] theorem State.modCtx_dies (s : State) (u c : Nat) (f : Ctx → Ctx) : (s.modCtx u c f).dies = s.dies := rfl
@[simp] theorem State.modCtx_gens (s : State) (u c : Nat) (f : Ctx → Ctx) : (s.modCtx u c f).gens = s.gens := rfl
@[simp] theorem State.modCtx_floors (s : State) (u c : Nat) (f : Ctx → Ctx) : (s.modCtx u c f).floors = s.floors := rfl
@[simp] theorem State.modCtx_advances (s : State) (u c : Nat) (f : Ctx → Ctx) : (s.modCtx u c f).advances = s.advances := rfl
@[simp] theorem State.modCtx_slices (s : State) (u c : Nat) (f : Ctx → Ctx) : (s.modCtx u c f).slices = s.slices := rfl
@[simp] theorem State.modCtx_rules (s : State) (u c : Nat) (f : Ctx → Ctx) : (s.modCtx u c f).rules = s.rules := rfl
@[simp] theorem State.modCtx_stale (s : State) (u c : Nat) (f : Ctx → Ctx) : (s.modCtx u c f).stale = s.stale := rfl
@[simp] theorem State.modCtx_recomputes (s : State) (u c : Nat) (f : Ctx → Ctx) : (s.modCtx u c f).recomputes = s.recomputes := rfl
@[simp] theorem State.modCtx_disabled (s : State) (u c : Nat) (f : Ctx → Ctx) : (s.modCtx u c f).disabled = s.disabled := rfl
@[simp] theorem State.modCtx_retired (s : State) (u c : Nat) (f : Ctx → Ctx) : (s.modCtx u c f).retired = s.retired := rfl
@[simp] theorem State.modCtx_dev (s : State) (u c : Nat) (f : Ctx → Ctx) : (s.modCtx u c f).dev = s.dev := rfl
@[simp] theorem State.modCtx_ports (s : State) (u c : Nat) (f : Ctx → Ctx) : (s.modCtx u c f).ports = s.ports := rfl
@[simp] theorem State.modCtx_routes (s : State) (u c : Nat) (f : Ctx → Ctx) : (s.modCtx u c f).routes = s.routes := rfl
@[simp] theorem State.modCtx_launches (s : State) (u c : Nat) (f : Ctx → Ctx) : (s.modCtx u c f).launches = s.launches := rfl
@[simp] theorem State.modCtx_near (s : State) (u c : Nat) (f : Ctx → Ctx) : (s.modCtx u c f).near = s.near := rfl
@[simp] theorem State.modCtx_mgrant (s : State) (u c : Nat) (f : Ctx → Ctx) : (s.modCtx u c f).mgrant = s.mgrant := rfl
@[simp] theorem State.modCtx_dirs (s : State) (u c : Nat) (f : Ctx → Ctx) : (s.modCtx u c f).dirs = s.dirs := rfl
@[simp] theorem State.modCtx_lqs (s : State) (u c : Nat) (f : Ctx → Ctx) : (s.modCtx u c f).lqs = s.lqs := rfl
@[simp] theorem State.modCtx_stage (s : State) (u c : Nat) (f : Ctx → Ctx) : (s.modCtx u c f).stage = s.stage := rfl
@[simp] theorem State.modCtx_pwr (s : State) (u c : Nat) (f : Ctx → Ctx) : (s.modCtx u c f).pwr = s.pwr := rfl
@[simp] theorem State.modCtx_capped (s : State) (u c : Nat) (f : Ctx → Ctx) : (s.modCtx u c f).capped = s.capped := rfl
@[simp] theorem State.modCtx_pwrlim (s : State) (u c : Nat) (f : Ctx → Ctx) : (s.modCtx u c f).pwrlim = s.pwrlim := rfl
@[simp] theorem State.modCtx_dropcnt (s : State) (u c : Nat) (f : Ctx → Ctx) : (s.modCtx u c f).dropcnt = s.dropcnt := rfl
@[simp] theorem State.modCtx_herr (s : State) (u c : Nat) (f : Ctx → Ctx) : (s.modCtx u c f).herr = s.herr := rfl
@[simp] theorem State.modCtx_images (s : State) (u c : Nat) (f : Ctx → Ctx) : (s.modCtx u c f).images = s.images := rfl
@[simp] theorem State.modCtx_keyDigest (s : State) (u c : Nat) (f : Ctx → Ctx) : (s.modCtx u c f).keyDigest = s.keyDigest := rfl
@[simp] theorem State.modCtx_fusedFloor (s : State) (u c : Nat) (f : Ctx → Ctx) : (s.modCtx u c f).fusedFloor = s.fusedFloor := rfl
@[simp] theorem State.modCtx_mirrors (s : State) (u c : Nat) (f : Ctx → Ctx) : (s.modCtx u c f).mirrors = s.mirrors := rfl
@[simp] theorem State.modCtx_attbox (s : State) (u c : Nat) (f : Ctx → Ctx) : (s.modCtx u c f).attbox = s.attbox := rfl
@[simp] theorem State.modCtx_hostMem (s : State) (u c : Nat) (f : Ctx → Ctx) : (s.modCtx u c f).hostMem = s.hostMem := rfl
@[simp] theorem State.modCtx_msi (s : State) (u c : Nat) (f : Ctx → Ctx) : (s.modCtx u c f).msi = s.msi := rfl
@[simp] theorem State.modCtx_crPorts (s : State) (u c : Nat) (f : Ctx → Ctx) : (s.modCtx u c f).crPorts = s.crPorts := rfl
@[simp] theorem State.modCtx_hostReply (s : State) (u c : Nat) (f : Ctx → Ctx) : (s.modCtx u c f).hostReply = s.hostReply := rfl
@[simp] theorem State.modCtx_saves (s : State) (u c : Nat) (f : Ctx → Ctx) : (s.modCtx u c f).saves = s.saves := rfl
@[simp] theorem State.modCtx_upsets (s : State) (u c : Nat) (f : Ctx → Ctx) : (s.modCtx u c f).upsets = s.upsets := rfl
@[simp] theorem State.modCtx_bar2 (s : State) (u c : Nat) (f : Ctx → Ctx) : (s.modCtx u c f).bar2 = s.bar2 := rfl
@[simp] theorem State.modCtx_cur (s : State) (u c : Nat) (f : Ctx → Ctx) : (s.modCtx u c f).cur = s.cur := rfl
@[simp] theorem State.modCtx_flight (s : State) (u c : Nat) (f : Ctx → Ctx) : (s.modCtx u c f).flight = s.flight := rfl
@[simp] theorem State.modCtx_posted (s : State) (u c : Nat) (f : Ctx → Ctx) : (s.modCtx u c f).posted = s.posted := rfl
@[simp] theorem State.modCtx_po (s : State) (u c : Nat) (f : Ctx → Ctx) : (s.modCtx u c f).po = s.po := rfl
@[simp] theorem State.modCtx_async (s : State) (u c : Nat) (f : Ctx → Ctx) : (s.modCtx u c f).async = s.async := rfl
@[simp] theorem State.modCtx_sched (s : State) (u c : Nat) (f : Ctx → Ctx) : (s.modCtx u c f).sched = s.sched := rfl
@[simp] theorem State.modCtx_free (s : State) (u c : Nat) (f : Ctx → Ctx) : (s.modCtx u c f).free = s.free := rfl

/-! ## modC changes units alone -/

@[simp] theorem State.modC_mem (s : State) (f : Ctx → Ctx) : (s.modC f).mem = s.mem := rfl
@[simp] theorem State.modC_homes (s : State) (f : Ctx → Ctx) : (s.modC f).homes = s.homes := rfl
@[simp] theorem State.modC_dies (s : State) (f : Ctx → Ctx) : (s.modC f).dies = s.dies := rfl
@[simp] theorem State.modC_gens (s : State) (f : Ctx → Ctx) : (s.modC f).gens = s.gens := rfl
@[simp] theorem State.modC_floors (s : State) (f : Ctx → Ctx) : (s.modC f).floors = s.floors := rfl
@[simp] theorem State.modC_advances (s : State) (f : Ctx → Ctx) : (s.modC f).advances = s.advances := rfl
@[simp] theorem State.modC_slices (s : State) (f : Ctx → Ctx) : (s.modC f).slices = s.slices := rfl
@[simp] theorem State.modC_rules (s : State) (f : Ctx → Ctx) : (s.modC f).rules = s.rules := rfl
@[simp] theorem State.modC_stale (s : State) (f : Ctx → Ctx) : (s.modC f).stale = s.stale := rfl
@[simp] theorem State.modC_recomputes (s : State) (f : Ctx → Ctx) : (s.modC f).recomputes = s.recomputes := rfl
@[simp] theorem State.modC_disabled (s : State) (f : Ctx → Ctx) : (s.modC f).disabled = s.disabled := rfl
@[simp] theorem State.modC_retired (s : State) (f : Ctx → Ctx) : (s.modC f).retired = s.retired := rfl
@[simp] theorem State.modC_dev (s : State) (f : Ctx → Ctx) : (s.modC f).dev = s.dev := rfl
@[simp] theorem State.modC_ports (s : State) (f : Ctx → Ctx) : (s.modC f).ports = s.ports := rfl
@[simp] theorem State.modC_routes (s : State) (f : Ctx → Ctx) : (s.modC f).routes = s.routes := rfl
@[simp] theorem State.modC_launches (s : State) (f : Ctx → Ctx) : (s.modC f).launches = s.launches := rfl
@[simp] theorem State.modC_near (s : State) (f : Ctx → Ctx) : (s.modC f).near = s.near := rfl
@[simp] theorem State.modC_mgrant (s : State) (f : Ctx → Ctx) : (s.modC f).mgrant = s.mgrant := rfl
@[simp] theorem State.modC_dirs (s : State) (f : Ctx → Ctx) : (s.modC f).dirs = s.dirs := rfl
@[simp] theorem State.modC_lqs (s : State) (f : Ctx → Ctx) : (s.modC f).lqs = s.lqs := rfl
@[simp] theorem State.modC_stage (s : State) (f : Ctx → Ctx) : (s.modC f).stage = s.stage := rfl
@[simp] theorem State.modC_pwr (s : State) (f : Ctx → Ctx) : (s.modC f).pwr = s.pwr := rfl
@[simp] theorem State.modC_capped (s : State) (f : Ctx → Ctx) : (s.modC f).capped = s.capped := rfl
@[simp] theorem State.modC_pwrlim (s : State) (f : Ctx → Ctx) : (s.modC f).pwrlim = s.pwrlim := rfl
@[simp] theorem State.modC_dropcnt (s : State) (f : Ctx → Ctx) : (s.modC f).dropcnt = s.dropcnt := rfl
@[simp] theorem State.modC_herr (s : State) (f : Ctx → Ctx) : (s.modC f).herr = s.herr := rfl
@[simp] theorem State.modC_images (s : State) (f : Ctx → Ctx) : (s.modC f).images = s.images := rfl
@[simp] theorem State.modC_keyDigest (s : State) (f : Ctx → Ctx) : (s.modC f).keyDigest = s.keyDigest := rfl
@[simp] theorem State.modC_fusedFloor (s : State) (f : Ctx → Ctx) : (s.modC f).fusedFloor = s.fusedFloor := rfl
@[simp] theorem State.modC_mirrors (s : State) (f : Ctx → Ctx) : (s.modC f).mirrors = s.mirrors := rfl
@[simp] theorem State.modC_attbox (s : State) (f : Ctx → Ctx) : (s.modC f).attbox = s.attbox := rfl
@[simp] theorem State.modC_hostMem (s : State) (f : Ctx → Ctx) : (s.modC f).hostMem = s.hostMem := rfl
@[simp] theorem State.modC_msi (s : State) (f : Ctx → Ctx) : (s.modC f).msi = s.msi := rfl
@[simp] theorem State.modC_crPorts (s : State) (f : Ctx → Ctx) : (s.modC f).crPorts = s.crPorts := rfl
@[simp] theorem State.modC_hostReply (s : State) (f : Ctx → Ctx) : (s.modC f).hostReply = s.hostReply := rfl
@[simp] theorem State.modC_saves (s : State) (f : Ctx → Ctx) : (s.modC f).saves = s.saves := rfl
@[simp] theorem State.modC_upsets (s : State) (f : Ctx → Ctx) : (s.modC f).upsets = s.upsets := rfl
@[simp] theorem State.modC_bar2 (s : State) (f : Ctx → Ctx) : (s.modC f).bar2 = s.bar2 := rfl
@[simp] theorem State.modC_cur (s : State) (f : Ctx → Ctx) : (s.modC f).cur = s.cur := rfl
@[simp] theorem State.modC_flight (s : State) (f : Ctx → Ctx) : (s.modC f).flight = s.flight := rfl
@[simp] theorem State.modC_posted (s : State) (f : Ctx → Ctx) : (s.modC f).posted = s.posted := rfl
@[simp] theorem State.modC_po (s : State) (f : Ctx → Ctx) : (s.modC f).po = s.po := rfl
@[simp] theorem State.modC_async (s : State) (f : Ctx → Ctx) : (s.modC f).async = s.async := rfl
@[simp] theorem State.modC_sched (s : State) (f : Ctx → Ctx) : (s.modC f).sched = s.sched := rfl
@[simp] theorem State.modC_free (s : State) (f : Ctx → Ctx) : (s.modC f).free = s.free := rfl

/-! ## modU changes units alone -/

@[simp] theorem State.modU_mem (s : State) (f : UnitState → UnitState) : (s.modU f).mem = s.mem := rfl
@[simp] theorem State.modU_homes (s : State) (f : UnitState → UnitState) : (s.modU f).homes = s.homes := rfl
@[simp] theorem State.modU_dies (s : State) (f : UnitState → UnitState) : (s.modU f).dies = s.dies := rfl
@[simp] theorem State.modU_gens (s : State) (f : UnitState → UnitState) : (s.modU f).gens = s.gens := rfl
@[simp] theorem State.modU_floors (s : State) (f : UnitState → UnitState) : (s.modU f).floors = s.floors := rfl
@[simp] theorem State.modU_advances (s : State) (f : UnitState → UnitState) : (s.modU f).advances = s.advances := rfl
@[simp] theorem State.modU_slices (s : State) (f : UnitState → UnitState) : (s.modU f).slices = s.slices := rfl
@[simp] theorem State.modU_rules (s : State) (f : UnitState → UnitState) : (s.modU f).rules = s.rules := rfl
@[simp] theorem State.modU_stale (s : State) (f : UnitState → UnitState) : (s.modU f).stale = s.stale := rfl
@[simp] theorem State.modU_recomputes (s : State) (f : UnitState → UnitState) : (s.modU f).recomputes = s.recomputes := rfl
@[simp] theorem State.modU_disabled (s : State) (f : UnitState → UnitState) : (s.modU f).disabled = s.disabled := rfl
@[simp] theorem State.modU_retired (s : State) (f : UnitState → UnitState) : (s.modU f).retired = s.retired := rfl
@[simp] theorem State.modU_dev (s : State) (f : UnitState → UnitState) : (s.modU f).dev = s.dev := rfl
@[simp] theorem State.modU_ports (s : State) (f : UnitState → UnitState) : (s.modU f).ports = s.ports := rfl
@[simp] theorem State.modU_routes (s : State) (f : UnitState → UnitState) : (s.modU f).routes = s.routes := rfl
@[simp] theorem State.modU_launches (s : State) (f : UnitState → UnitState) : (s.modU f).launches = s.launches := rfl
@[simp] theorem State.modU_near (s : State) (f : UnitState → UnitState) : (s.modU f).near = s.near := rfl
@[simp] theorem State.modU_mgrant (s : State) (f : UnitState → UnitState) : (s.modU f).mgrant = s.mgrant := rfl
@[simp] theorem State.modU_dirs (s : State) (f : UnitState → UnitState) : (s.modU f).dirs = s.dirs := rfl
@[simp] theorem State.modU_lqs (s : State) (f : UnitState → UnitState) : (s.modU f).lqs = s.lqs := rfl
@[simp] theorem State.modU_stage (s : State) (f : UnitState → UnitState) : (s.modU f).stage = s.stage := rfl
@[simp] theorem State.modU_pwr (s : State) (f : UnitState → UnitState) : (s.modU f).pwr = s.pwr := rfl
@[simp] theorem State.modU_capped (s : State) (f : UnitState → UnitState) : (s.modU f).capped = s.capped := rfl
@[simp] theorem State.modU_pwrlim (s : State) (f : UnitState → UnitState) : (s.modU f).pwrlim = s.pwrlim := rfl
@[simp] theorem State.modU_dropcnt (s : State) (f : UnitState → UnitState) : (s.modU f).dropcnt = s.dropcnt := rfl
@[simp] theorem State.modU_herr (s : State) (f : UnitState → UnitState) : (s.modU f).herr = s.herr := rfl
@[simp] theorem State.modU_images (s : State) (f : UnitState → UnitState) : (s.modU f).images = s.images := rfl
@[simp] theorem State.modU_keyDigest (s : State) (f : UnitState → UnitState) : (s.modU f).keyDigest = s.keyDigest := rfl
@[simp] theorem State.modU_fusedFloor (s : State) (f : UnitState → UnitState) : (s.modU f).fusedFloor = s.fusedFloor := rfl
@[simp] theorem State.modU_mirrors (s : State) (f : UnitState → UnitState) : (s.modU f).mirrors = s.mirrors := rfl
@[simp] theorem State.modU_attbox (s : State) (f : UnitState → UnitState) : (s.modU f).attbox = s.attbox := rfl
@[simp] theorem State.modU_hostMem (s : State) (f : UnitState → UnitState) : (s.modU f).hostMem = s.hostMem := rfl
@[simp] theorem State.modU_msi (s : State) (f : UnitState → UnitState) : (s.modU f).msi = s.msi := rfl
@[simp] theorem State.modU_crPorts (s : State) (f : UnitState → UnitState) : (s.modU f).crPorts = s.crPorts := rfl
@[simp] theorem State.modU_hostReply (s : State) (f : UnitState → UnitState) : (s.modU f).hostReply = s.hostReply := rfl
@[simp] theorem State.modU_saves (s : State) (f : UnitState → UnitState) : (s.modU f).saves = s.saves := rfl
@[simp] theorem State.modU_upsets (s : State) (f : UnitState → UnitState) : (s.modU f).upsets = s.upsets := rfl
@[simp] theorem State.modU_bar2 (s : State) (f : UnitState → UnitState) : (s.modU f).bar2 = s.bar2 := rfl
@[simp] theorem State.modU_cur (s : State) (f : UnitState → UnitState) : (s.modU f).cur = s.cur := rfl
@[simp] theorem State.modU_flight (s : State) (f : UnitState → UnitState) : (s.modU f).flight = s.flight := rfl
@[simp] theorem State.modU_posted (s : State) (f : UnitState → UnitState) : (s.modU f).posted = s.posted := rfl
@[simp] theorem State.modU_po (s : State) (f : UnitState → UnitState) : (s.modU f).po = s.po := rfl
@[simp] theorem State.modU_async (s : State) (f : UnitState → UnitState) : (s.modU f).async = s.async := rfl
@[simp] theorem State.modU_sched (s : State) (f : UnitState → UnitState) : (s.modU f).sched = s.sched := rfl
@[simp] theorem State.modU_free (s : State) (f : UnitState → UnitState) : (s.modU f).free = s.free := rfl

/-! ## setPc changes units alone -/

@[simp] theorem State.setPc_mem (s : State) (w : Word) : (s.setPc w).mem = s.mem := rfl
@[simp] theorem State.setPc_homes (s : State) (w : Word) : (s.setPc w).homes = s.homes := rfl
@[simp] theorem State.setPc_dies (s : State) (w : Word) : (s.setPc w).dies = s.dies := rfl
@[simp] theorem State.setPc_gens (s : State) (w : Word) : (s.setPc w).gens = s.gens := rfl
@[simp] theorem State.setPc_floors (s : State) (w : Word) : (s.setPc w).floors = s.floors := rfl
@[simp] theorem State.setPc_advances (s : State) (w : Word) : (s.setPc w).advances = s.advances := rfl
@[simp] theorem State.setPc_slices (s : State) (w : Word) : (s.setPc w).slices = s.slices := rfl
@[simp] theorem State.setPc_rules (s : State) (w : Word) : (s.setPc w).rules = s.rules := rfl
@[simp] theorem State.setPc_stale (s : State) (w : Word) : (s.setPc w).stale = s.stale := rfl
@[simp] theorem State.setPc_recomputes (s : State) (w : Word) : (s.setPc w).recomputes = s.recomputes := rfl
@[simp] theorem State.setPc_disabled (s : State) (w : Word) : (s.setPc w).disabled = s.disabled := rfl
@[simp] theorem State.setPc_retired (s : State) (w : Word) : (s.setPc w).retired = s.retired := rfl
@[simp] theorem State.setPc_dev (s : State) (w : Word) : (s.setPc w).dev = s.dev := rfl
@[simp] theorem State.setPc_ports (s : State) (w : Word) : (s.setPc w).ports = s.ports := rfl
@[simp] theorem State.setPc_routes (s : State) (w : Word) : (s.setPc w).routes = s.routes := rfl
@[simp] theorem State.setPc_launches (s : State) (w : Word) : (s.setPc w).launches = s.launches := rfl
@[simp] theorem State.setPc_near (s : State) (w : Word) : (s.setPc w).near = s.near := rfl
@[simp] theorem State.setPc_mgrant (s : State) (w : Word) : (s.setPc w).mgrant = s.mgrant := rfl
@[simp] theorem State.setPc_dirs (s : State) (w : Word) : (s.setPc w).dirs = s.dirs := rfl
@[simp] theorem State.setPc_lqs (s : State) (w : Word) : (s.setPc w).lqs = s.lqs := rfl
@[simp] theorem State.setPc_stage (s : State) (w : Word) : (s.setPc w).stage = s.stage := rfl
@[simp] theorem State.setPc_pwr (s : State) (w : Word) : (s.setPc w).pwr = s.pwr := rfl
@[simp] theorem State.setPc_capped (s : State) (w : Word) : (s.setPc w).capped = s.capped := rfl
@[simp] theorem State.setPc_pwrlim (s : State) (w : Word) : (s.setPc w).pwrlim = s.pwrlim := rfl
@[simp] theorem State.setPc_dropcnt (s : State) (w : Word) : (s.setPc w).dropcnt = s.dropcnt := rfl
@[simp] theorem State.setPc_herr (s : State) (w : Word) : (s.setPc w).herr = s.herr := rfl
@[simp] theorem State.setPc_images (s : State) (w : Word) : (s.setPc w).images = s.images := rfl
@[simp] theorem State.setPc_keyDigest (s : State) (w : Word) : (s.setPc w).keyDigest = s.keyDigest := rfl
@[simp] theorem State.setPc_fusedFloor (s : State) (w : Word) : (s.setPc w).fusedFloor = s.fusedFloor := rfl
@[simp] theorem State.setPc_mirrors (s : State) (w : Word) : (s.setPc w).mirrors = s.mirrors := rfl
@[simp] theorem State.setPc_attbox (s : State) (w : Word) : (s.setPc w).attbox = s.attbox := rfl
@[simp] theorem State.setPc_hostMem (s : State) (w : Word) : (s.setPc w).hostMem = s.hostMem := rfl
@[simp] theorem State.setPc_msi (s : State) (w : Word) : (s.setPc w).msi = s.msi := rfl
@[simp] theorem State.setPc_crPorts (s : State) (w : Word) : (s.setPc w).crPorts = s.crPorts := rfl
@[simp] theorem State.setPc_hostReply (s : State) (w : Word) : (s.setPc w).hostReply = s.hostReply := rfl
@[simp] theorem State.setPc_saves (s : State) (w : Word) : (s.setPc w).saves = s.saves := rfl
@[simp] theorem State.setPc_upsets (s : State) (w : Word) : (s.setPc w).upsets = s.upsets := rfl
@[simp] theorem State.setPc_bar2 (s : State) (w : Word) : (s.setPc w).bar2 = s.bar2 := rfl
@[simp] theorem State.setPc_cur (s : State) (w : Word) : (s.setPc w).cur = s.cur := rfl
@[simp] theorem State.setPc_flight (s : State) (w : Word) : (s.setPc w).flight = s.flight := rfl
@[simp] theorem State.setPc_posted (s : State) (w : Word) : (s.setPc w).posted = s.posted := rfl
@[simp] theorem State.setPc_po (s : State) (w : Word) : (s.setPc w).po = s.po := rfl
@[simp] theorem State.setPc_async (s : State) (w : Word) : (s.setPc w).async = s.async := rfl
@[simp] theorem State.setPc_sched (s : State) (w : Word) : (s.setPc w).sched = s.sched := rfl
@[simp] theorem State.setPc_free (s : State) (w : Word) : (s.setPc w).free = s.free := rfl

/-! ## advance changes units alone -/

@[simp] theorem State.advance_mem (s : State) : (s.advance).mem = s.mem := rfl
@[simp] theorem State.advance_homes (s : State) : (s.advance).homes = s.homes := rfl
@[simp] theorem State.advance_dies (s : State) : (s.advance).dies = s.dies := rfl
@[simp] theorem State.advance_gens (s : State) : (s.advance).gens = s.gens := rfl
@[simp] theorem State.advance_floors (s : State) : (s.advance).floors = s.floors := rfl
@[simp] theorem State.advance_advances (s : State) : (s.advance).advances = s.advances := rfl
@[simp] theorem State.advance_slices (s : State) : (s.advance).slices = s.slices := rfl
@[simp] theorem State.advance_rules (s : State) : (s.advance).rules = s.rules := rfl
@[simp] theorem State.advance_stale (s : State) : (s.advance).stale = s.stale := rfl
@[simp] theorem State.advance_recomputes (s : State) : (s.advance).recomputes = s.recomputes := rfl
@[simp] theorem State.advance_disabled (s : State) : (s.advance).disabled = s.disabled := rfl
@[simp] theorem State.advance_retired (s : State) : (s.advance).retired = s.retired := rfl
@[simp] theorem State.advance_dev (s : State) : (s.advance).dev = s.dev := rfl
@[simp] theorem State.advance_ports (s : State) : (s.advance).ports = s.ports := rfl
@[simp] theorem State.advance_routes (s : State) : (s.advance).routes = s.routes := rfl
@[simp] theorem State.advance_launches (s : State) : (s.advance).launches = s.launches := rfl
@[simp] theorem State.advance_near (s : State) : (s.advance).near = s.near := rfl
@[simp] theorem State.advance_mgrant (s : State) : (s.advance).mgrant = s.mgrant := rfl
@[simp] theorem State.advance_dirs (s : State) : (s.advance).dirs = s.dirs := rfl
@[simp] theorem State.advance_lqs (s : State) : (s.advance).lqs = s.lqs := rfl
@[simp] theorem State.advance_stage (s : State) : (s.advance).stage = s.stage := rfl
@[simp] theorem State.advance_pwr (s : State) : (s.advance).pwr = s.pwr := rfl
@[simp] theorem State.advance_capped (s : State) : (s.advance).capped = s.capped := rfl
@[simp] theorem State.advance_pwrlim (s : State) : (s.advance).pwrlim = s.pwrlim := rfl
@[simp] theorem State.advance_dropcnt (s : State) : (s.advance).dropcnt = s.dropcnt := rfl
@[simp] theorem State.advance_herr (s : State) : (s.advance).herr = s.herr := rfl
@[simp] theorem State.advance_images (s : State) : (s.advance).images = s.images := rfl
@[simp] theorem State.advance_keyDigest (s : State) : (s.advance).keyDigest = s.keyDigest := rfl
@[simp] theorem State.advance_fusedFloor (s : State) : (s.advance).fusedFloor = s.fusedFloor := rfl
@[simp] theorem State.advance_mirrors (s : State) : (s.advance).mirrors = s.mirrors := rfl
@[simp] theorem State.advance_attbox (s : State) : (s.advance).attbox = s.attbox := rfl
@[simp] theorem State.advance_hostMem (s : State) : (s.advance).hostMem = s.hostMem := rfl
@[simp] theorem State.advance_msi (s : State) : (s.advance).msi = s.msi := rfl
@[simp] theorem State.advance_crPorts (s : State) : (s.advance).crPorts = s.crPorts := rfl
@[simp] theorem State.advance_hostReply (s : State) : (s.advance).hostReply = s.hostReply := rfl
@[simp] theorem State.advance_saves (s : State) : (s.advance).saves = s.saves := rfl
@[simp] theorem State.advance_upsets (s : State) : (s.advance).upsets = s.upsets := rfl
@[simp] theorem State.advance_bar2 (s : State) : (s.advance).bar2 = s.bar2 := rfl
@[simp] theorem State.advance_cur (s : State) : (s.advance).cur = s.cur := rfl
@[simp] theorem State.advance_flight (s : State) : (s.advance).flight = s.flight := rfl
@[simp] theorem State.advance_posted (s : State) : (s.advance).posted = s.posted := rfl
@[simp] theorem State.advance_po (s : State) : (s.advance).po = s.po := rfl
@[simp] theorem State.advance_async (s : State) : (s.advance).async = s.async := rfl
@[simp] theorem State.advance_sched (s : State) : (s.advance).sched = s.sched := rfl
@[simp] theorem State.advance_free (s : State) : (s.advance).free = s.free := rfl

/-! ## setReg changes mem alone -/

@[simp] theorem State.setReg_units (s : State) (u c : Nat) (r : Reg) (w : Word) : (s.setReg u c r w).units = s.units := rfl
@[simp] theorem State.setReg_homes (s : State) (u c : Nat) (r : Reg) (w : Word) : (s.setReg u c r w).homes = s.homes := rfl
@[simp] theorem State.setReg_dies (s : State) (u c : Nat) (r : Reg) (w : Word) : (s.setReg u c r w).dies = s.dies := rfl
@[simp] theorem State.setReg_gens (s : State) (u c : Nat) (r : Reg) (w : Word) : (s.setReg u c r w).gens = s.gens := rfl
@[simp] theorem State.setReg_floors (s : State) (u c : Nat) (r : Reg) (w : Word) : (s.setReg u c r w).floors = s.floors := rfl
@[simp] theorem State.setReg_advances (s : State) (u c : Nat) (r : Reg) (w : Word) : (s.setReg u c r w).advances = s.advances := rfl
@[simp] theorem State.setReg_slices (s : State) (u c : Nat) (r : Reg) (w : Word) : (s.setReg u c r w).slices = s.slices := rfl
@[simp] theorem State.setReg_rules (s : State) (u c : Nat) (r : Reg) (w : Word) : (s.setReg u c r w).rules = s.rules := rfl
@[simp] theorem State.setReg_stale (s : State) (u c : Nat) (r : Reg) (w : Word) : (s.setReg u c r w).stale = s.stale := rfl
@[simp] theorem State.setReg_recomputes (s : State) (u c : Nat) (r : Reg) (w : Word) : (s.setReg u c r w).recomputes = s.recomputes := rfl
@[simp] theorem State.setReg_disabled (s : State) (u c : Nat) (r : Reg) (w : Word) : (s.setReg u c r w).disabled = s.disabled := rfl
@[simp] theorem State.setReg_retired (s : State) (u c : Nat) (r : Reg) (w : Word) : (s.setReg u c r w).retired = s.retired := rfl
@[simp] theorem State.setReg_dev (s : State) (u c : Nat) (r : Reg) (w : Word) : (s.setReg u c r w).dev = s.dev := rfl
@[simp] theorem State.setReg_ports (s : State) (u c : Nat) (r : Reg) (w : Word) : (s.setReg u c r w).ports = s.ports := rfl
@[simp] theorem State.setReg_routes (s : State) (u c : Nat) (r : Reg) (w : Word) : (s.setReg u c r w).routes = s.routes := rfl
@[simp] theorem State.setReg_launches (s : State) (u c : Nat) (r : Reg) (w : Word) : (s.setReg u c r w).launches = s.launches := rfl
@[simp] theorem State.setReg_near (s : State) (u c : Nat) (r : Reg) (w : Word) : (s.setReg u c r w).near = s.near := rfl
@[simp] theorem State.setReg_mgrant (s : State) (u c : Nat) (r : Reg) (w : Word) : (s.setReg u c r w).mgrant = s.mgrant := rfl
@[simp] theorem State.setReg_dirs (s : State) (u c : Nat) (r : Reg) (w : Word) : (s.setReg u c r w).dirs = s.dirs := rfl
@[simp] theorem State.setReg_lqs (s : State) (u c : Nat) (r : Reg) (w : Word) : (s.setReg u c r w).lqs = s.lqs := rfl
@[simp] theorem State.setReg_stage (s : State) (u c : Nat) (r : Reg) (w : Word) : (s.setReg u c r w).stage = s.stage := rfl
@[simp] theorem State.setReg_pwr (s : State) (u c : Nat) (r : Reg) (w : Word) : (s.setReg u c r w).pwr = s.pwr := rfl
@[simp] theorem State.setReg_capped (s : State) (u c : Nat) (r : Reg) (w : Word) : (s.setReg u c r w).capped = s.capped := rfl
@[simp] theorem State.setReg_pwrlim (s : State) (u c : Nat) (r : Reg) (w : Word) : (s.setReg u c r w).pwrlim = s.pwrlim := rfl
@[simp] theorem State.setReg_dropcnt (s : State) (u c : Nat) (r : Reg) (w : Word) : (s.setReg u c r w).dropcnt = s.dropcnt := rfl
@[simp] theorem State.setReg_herr (s : State) (u c : Nat) (r : Reg) (w : Word) : (s.setReg u c r w).herr = s.herr := rfl
@[simp] theorem State.setReg_images (s : State) (u c : Nat) (r : Reg) (w : Word) : (s.setReg u c r w).images = s.images := rfl
@[simp] theorem State.setReg_keyDigest (s : State) (u c : Nat) (r : Reg) (w : Word) : (s.setReg u c r w).keyDigest = s.keyDigest := rfl
@[simp] theorem State.setReg_fusedFloor (s : State) (u c : Nat) (r : Reg) (w : Word) : (s.setReg u c r w).fusedFloor = s.fusedFloor := rfl
@[simp] theorem State.setReg_mirrors (s : State) (u c : Nat) (r : Reg) (w : Word) : (s.setReg u c r w).mirrors = s.mirrors := rfl
@[simp] theorem State.setReg_attbox (s : State) (u c : Nat) (r : Reg) (w : Word) : (s.setReg u c r w).attbox = s.attbox := rfl
@[simp] theorem State.setReg_hostMem (s : State) (u c : Nat) (r : Reg) (w : Word) : (s.setReg u c r w).hostMem = s.hostMem := rfl
@[simp] theorem State.setReg_msi (s : State) (u c : Nat) (r : Reg) (w : Word) : (s.setReg u c r w).msi = s.msi := rfl
@[simp] theorem State.setReg_crPorts (s : State) (u c : Nat) (r : Reg) (w : Word) : (s.setReg u c r w).crPorts = s.crPorts := rfl
@[simp] theorem State.setReg_hostReply (s : State) (u c : Nat) (r : Reg) (w : Word) : (s.setReg u c r w).hostReply = s.hostReply := rfl
@[simp] theorem State.setReg_saves (s : State) (u c : Nat) (r : Reg) (w : Word) : (s.setReg u c r w).saves = s.saves := rfl
@[simp] theorem State.setReg_upsets (s : State) (u c : Nat) (r : Reg) (w : Word) : (s.setReg u c r w).upsets = s.upsets := rfl
@[simp] theorem State.setReg_bar2 (s : State) (u c : Nat) (r : Reg) (w : Word) : (s.setReg u c r w).bar2 = s.bar2 := rfl
@[simp] theorem State.setReg_cur (s : State) (u c : Nat) (r : Reg) (w : Word) : (s.setReg u c r w).cur = s.cur := rfl
@[simp] theorem State.setReg_flight (s : State) (u c : Nat) (r : Reg) (w : Word) : (s.setReg u c r w).flight = s.flight := rfl
@[simp] theorem State.setReg_posted (s : State) (u c : Nat) (r : Reg) (w : Word) : (s.setReg u c r w).posted = s.posted := rfl
@[simp] theorem State.setReg_po (s : State) (u c : Nat) (r : Reg) (w : Word) : (s.setReg u c r w).po = s.po := rfl
@[simp] theorem State.setReg_async (s : State) (u c : Nat) (r : Reg) (w : Word) : (s.setReg u c r w).async = s.async := rfl
@[simp] theorem State.setReg_sched (s : State) (u c : Nat) (r : Reg) (w : Word) : (s.setReg u c r w).sched = s.sched := rfl
@[simp] theorem State.setReg_free (s : State) (u c : Nat) (r : Reg) (w : Word) : (s.setReg u c r w).free = s.free := rfl

/-! ## setG changes mem alone -/

@[simp] theorem State.setG_units (s : State) (r : Reg) (w : Word) : (s.setG r w).units = s.units := rfl
@[simp] theorem State.setG_homes (s : State) (r : Reg) (w : Word) : (s.setG r w).homes = s.homes := rfl
@[simp] theorem State.setG_dies (s : State) (r : Reg) (w : Word) : (s.setG r w).dies = s.dies := rfl
@[simp] theorem State.setG_gens (s : State) (r : Reg) (w : Word) : (s.setG r w).gens = s.gens := rfl
@[simp] theorem State.setG_floors (s : State) (r : Reg) (w : Word) : (s.setG r w).floors = s.floors := rfl
@[simp] theorem State.setG_advances (s : State) (r : Reg) (w : Word) : (s.setG r w).advances = s.advances := rfl
@[simp] theorem State.setG_slices (s : State) (r : Reg) (w : Word) : (s.setG r w).slices = s.slices := rfl
@[simp] theorem State.setG_rules (s : State) (r : Reg) (w : Word) : (s.setG r w).rules = s.rules := rfl
@[simp] theorem State.setG_stale (s : State) (r : Reg) (w : Word) : (s.setG r w).stale = s.stale := rfl
@[simp] theorem State.setG_recomputes (s : State) (r : Reg) (w : Word) : (s.setG r w).recomputes = s.recomputes := rfl
@[simp] theorem State.setG_disabled (s : State) (r : Reg) (w : Word) : (s.setG r w).disabled = s.disabled := rfl
@[simp] theorem State.setG_retired (s : State) (r : Reg) (w : Word) : (s.setG r w).retired = s.retired := rfl
@[simp] theorem State.setG_dev (s : State) (r : Reg) (w : Word) : (s.setG r w).dev = s.dev := rfl
@[simp] theorem State.setG_ports (s : State) (r : Reg) (w : Word) : (s.setG r w).ports = s.ports := rfl
@[simp] theorem State.setG_routes (s : State) (r : Reg) (w : Word) : (s.setG r w).routes = s.routes := rfl
@[simp] theorem State.setG_launches (s : State) (r : Reg) (w : Word) : (s.setG r w).launches = s.launches := rfl
@[simp] theorem State.setG_near (s : State) (r : Reg) (w : Word) : (s.setG r w).near = s.near := rfl
@[simp] theorem State.setG_mgrant (s : State) (r : Reg) (w : Word) : (s.setG r w).mgrant = s.mgrant := rfl
@[simp] theorem State.setG_dirs (s : State) (r : Reg) (w : Word) : (s.setG r w).dirs = s.dirs := rfl
@[simp] theorem State.setG_lqs (s : State) (r : Reg) (w : Word) : (s.setG r w).lqs = s.lqs := rfl
@[simp] theorem State.setG_stage (s : State) (r : Reg) (w : Word) : (s.setG r w).stage = s.stage := rfl
@[simp] theorem State.setG_pwr (s : State) (r : Reg) (w : Word) : (s.setG r w).pwr = s.pwr := rfl
@[simp] theorem State.setG_capped (s : State) (r : Reg) (w : Word) : (s.setG r w).capped = s.capped := rfl
@[simp] theorem State.setG_pwrlim (s : State) (r : Reg) (w : Word) : (s.setG r w).pwrlim = s.pwrlim := rfl
@[simp] theorem State.setG_dropcnt (s : State) (r : Reg) (w : Word) : (s.setG r w).dropcnt = s.dropcnt := rfl
@[simp] theorem State.setG_herr (s : State) (r : Reg) (w : Word) : (s.setG r w).herr = s.herr := rfl
@[simp] theorem State.setG_images (s : State) (r : Reg) (w : Word) : (s.setG r w).images = s.images := rfl
@[simp] theorem State.setG_keyDigest (s : State) (r : Reg) (w : Word) : (s.setG r w).keyDigest = s.keyDigest := rfl
@[simp] theorem State.setG_fusedFloor (s : State) (r : Reg) (w : Word) : (s.setG r w).fusedFloor = s.fusedFloor := rfl
@[simp] theorem State.setG_mirrors (s : State) (r : Reg) (w : Word) : (s.setG r w).mirrors = s.mirrors := rfl
@[simp] theorem State.setG_attbox (s : State) (r : Reg) (w : Word) : (s.setG r w).attbox = s.attbox := rfl
@[simp] theorem State.setG_hostMem (s : State) (r : Reg) (w : Word) : (s.setG r w).hostMem = s.hostMem := rfl
@[simp] theorem State.setG_msi (s : State) (r : Reg) (w : Word) : (s.setG r w).msi = s.msi := rfl
@[simp] theorem State.setG_crPorts (s : State) (r : Reg) (w : Word) : (s.setG r w).crPorts = s.crPorts := rfl
@[simp] theorem State.setG_hostReply (s : State) (r : Reg) (w : Word) : (s.setG r w).hostReply = s.hostReply := rfl
@[simp] theorem State.setG_saves (s : State) (r : Reg) (w : Word) : (s.setG r w).saves = s.saves := rfl
@[simp] theorem State.setG_upsets (s : State) (r : Reg) (w : Word) : (s.setG r w).upsets = s.upsets := rfl
@[simp] theorem State.setG_bar2 (s : State) (r : Reg) (w : Word) : (s.setG r w).bar2 = s.bar2 := rfl
@[simp] theorem State.setG_cur (s : State) (r : Reg) (w : Word) : (s.setG r w).cur = s.cur := rfl
@[simp] theorem State.setG_flight (s : State) (r : Reg) (w : Word) : (s.setG r w).flight = s.flight := rfl
@[simp] theorem State.setG_posted (s : State) (r : Reg) (w : Word) : (s.setG r w).posted = s.posted := rfl
@[simp] theorem State.setG_po (s : State) (r : Reg) (w : Word) : (s.setG r w).po = s.po := rfl
@[simp] theorem State.setG_async (s : State) (r : Reg) (w : Word) : (s.setG r w).async = s.async := rfl
@[simp] theorem State.setG_sched (s : State) (r : Reg) (w : Word) : (s.setG r w).sched = s.sched := rfl
@[simp] theorem State.setG_free (s : State) (r : Reg) (w : Word) : (s.setG r w).free = s.free := rfl

/-! ## setLoc64 changes mem alone -/

@[simp] theorem State.setLoc64_units (s : State) (u off : Nat) (w : Word) : (s.setLoc64 u off w).units = s.units := rfl
@[simp] theorem State.setLoc64_homes (s : State) (u off : Nat) (w : Word) : (s.setLoc64 u off w).homes = s.homes := rfl
@[simp] theorem State.setLoc64_dies (s : State) (u off : Nat) (w : Word) : (s.setLoc64 u off w).dies = s.dies := rfl
@[simp] theorem State.setLoc64_gens (s : State) (u off : Nat) (w : Word) : (s.setLoc64 u off w).gens = s.gens := rfl
@[simp] theorem State.setLoc64_floors (s : State) (u off : Nat) (w : Word) : (s.setLoc64 u off w).floors = s.floors := rfl
@[simp] theorem State.setLoc64_advances (s : State) (u off : Nat) (w : Word) : (s.setLoc64 u off w).advances = s.advances := rfl
@[simp] theorem State.setLoc64_slices (s : State) (u off : Nat) (w : Word) : (s.setLoc64 u off w).slices = s.slices := rfl
@[simp] theorem State.setLoc64_rules (s : State) (u off : Nat) (w : Word) : (s.setLoc64 u off w).rules = s.rules := rfl
@[simp] theorem State.setLoc64_stale (s : State) (u off : Nat) (w : Word) : (s.setLoc64 u off w).stale = s.stale := rfl
@[simp] theorem State.setLoc64_recomputes (s : State) (u off : Nat) (w : Word) : (s.setLoc64 u off w).recomputes = s.recomputes := rfl
@[simp] theorem State.setLoc64_disabled (s : State) (u off : Nat) (w : Word) : (s.setLoc64 u off w).disabled = s.disabled := rfl
@[simp] theorem State.setLoc64_retired (s : State) (u off : Nat) (w : Word) : (s.setLoc64 u off w).retired = s.retired := rfl
@[simp] theorem State.setLoc64_dev (s : State) (u off : Nat) (w : Word) : (s.setLoc64 u off w).dev = s.dev := rfl
@[simp] theorem State.setLoc64_ports (s : State) (u off : Nat) (w : Word) : (s.setLoc64 u off w).ports = s.ports := rfl
@[simp] theorem State.setLoc64_routes (s : State) (u off : Nat) (w : Word) : (s.setLoc64 u off w).routes = s.routes := rfl
@[simp] theorem State.setLoc64_launches (s : State) (u off : Nat) (w : Word) : (s.setLoc64 u off w).launches = s.launches := rfl
@[simp] theorem State.setLoc64_near (s : State) (u off : Nat) (w : Word) : (s.setLoc64 u off w).near = s.near := rfl
@[simp] theorem State.setLoc64_mgrant (s : State) (u off : Nat) (w : Word) : (s.setLoc64 u off w).mgrant = s.mgrant := rfl
@[simp] theorem State.setLoc64_dirs (s : State) (u off : Nat) (w : Word) : (s.setLoc64 u off w).dirs = s.dirs := rfl
@[simp] theorem State.setLoc64_lqs (s : State) (u off : Nat) (w : Word) : (s.setLoc64 u off w).lqs = s.lqs := rfl
@[simp] theorem State.setLoc64_stage (s : State) (u off : Nat) (w : Word) : (s.setLoc64 u off w).stage = s.stage := rfl
@[simp] theorem State.setLoc64_pwr (s : State) (u off : Nat) (w : Word) : (s.setLoc64 u off w).pwr = s.pwr := rfl
@[simp] theorem State.setLoc64_capped (s : State) (u off : Nat) (w : Word) : (s.setLoc64 u off w).capped = s.capped := rfl
@[simp] theorem State.setLoc64_pwrlim (s : State) (u off : Nat) (w : Word) : (s.setLoc64 u off w).pwrlim = s.pwrlim := rfl
@[simp] theorem State.setLoc64_dropcnt (s : State) (u off : Nat) (w : Word) : (s.setLoc64 u off w).dropcnt = s.dropcnt := rfl
@[simp] theorem State.setLoc64_herr (s : State) (u off : Nat) (w : Word) : (s.setLoc64 u off w).herr = s.herr := rfl
@[simp] theorem State.setLoc64_images (s : State) (u off : Nat) (w : Word) : (s.setLoc64 u off w).images = s.images := rfl
@[simp] theorem State.setLoc64_keyDigest (s : State) (u off : Nat) (w : Word) : (s.setLoc64 u off w).keyDigest = s.keyDigest := rfl
@[simp] theorem State.setLoc64_fusedFloor (s : State) (u off : Nat) (w : Word) : (s.setLoc64 u off w).fusedFloor = s.fusedFloor := rfl
@[simp] theorem State.setLoc64_mirrors (s : State) (u off : Nat) (w : Word) : (s.setLoc64 u off w).mirrors = s.mirrors := rfl
@[simp] theorem State.setLoc64_attbox (s : State) (u off : Nat) (w : Word) : (s.setLoc64 u off w).attbox = s.attbox := rfl
@[simp] theorem State.setLoc64_hostMem (s : State) (u off : Nat) (w : Word) : (s.setLoc64 u off w).hostMem = s.hostMem := rfl
@[simp] theorem State.setLoc64_msi (s : State) (u off : Nat) (w : Word) : (s.setLoc64 u off w).msi = s.msi := rfl
@[simp] theorem State.setLoc64_crPorts (s : State) (u off : Nat) (w : Word) : (s.setLoc64 u off w).crPorts = s.crPorts := rfl
@[simp] theorem State.setLoc64_hostReply (s : State) (u off : Nat) (w : Word) : (s.setLoc64 u off w).hostReply = s.hostReply := rfl
@[simp] theorem State.setLoc64_saves (s : State) (u off : Nat) (w : Word) : (s.setLoc64 u off w).saves = s.saves := rfl
@[simp] theorem State.setLoc64_upsets (s : State) (u off : Nat) (w : Word) : (s.setLoc64 u off w).upsets = s.upsets := rfl
@[simp] theorem State.setLoc64_bar2 (s : State) (u off : Nat) (w : Word) : (s.setLoc64 u off w).bar2 = s.bar2 := rfl
@[simp] theorem State.setLoc64_cur (s : State) (u off : Nat) (w : Word) : (s.setLoc64 u off w).cur = s.cur := rfl
@[simp] theorem State.setLoc64_flight (s : State) (u off : Nat) (w : Word) : (s.setLoc64 u off w).flight = s.flight := rfl
@[simp] theorem State.setLoc64_posted (s : State) (u off : Nat) (w : Word) : (s.setLoc64 u off w).posted = s.posted := rfl
@[simp] theorem State.setLoc64_po (s : State) (u off : Nat) (w : Word) : (s.setLoc64 u off w).po = s.po := rfl
@[simp] theorem State.setLoc64_async (s : State) (u off : Nat) (w : Word) : (s.setLoc64 u off w).async = s.async := rfl
@[simp] theorem State.setLoc64_sched (s : State) (u off : Nat) (w : Word) : (s.setLoc64 u off w).sched = s.sched := rfl
@[simp] theorem State.setLoc64_free (s : State) (u off : Nat) (w : Word) : (s.setLoc64 u off w).free = s.free := rfl

/-! ## setLocal changes mem alone -/

@[simp] theorem State.setLocal_units (s : State) (u off : Nat) (bs : List Byte) : (s.setLocal u off bs).units = s.units := rfl
@[simp] theorem State.setLocal_homes (s : State) (u off : Nat) (bs : List Byte) : (s.setLocal u off bs).homes = s.homes := rfl
@[simp] theorem State.setLocal_dies (s : State) (u off : Nat) (bs : List Byte) : (s.setLocal u off bs).dies = s.dies := rfl
@[simp] theorem State.setLocal_gens (s : State) (u off : Nat) (bs : List Byte) : (s.setLocal u off bs).gens = s.gens := rfl
@[simp] theorem State.setLocal_floors (s : State) (u off : Nat) (bs : List Byte) : (s.setLocal u off bs).floors = s.floors := rfl
@[simp] theorem State.setLocal_advances (s : State) (u off : Nat) (bs : List Byte) : (s.setLocal u off bs).advances = s.advances := rfl
@[simp] theorem State.setLocal_slices (s : State) (u off : Nat) (bs : List Byte) : (s.setLocal u off bs).slices = s.slices := rfl
@[simp] theorem State.setLocal_rules (s : State) (u off : Nat) (bs : List Byte) : (s.setLocal u off bs).rules = s.rules := rfl
@[simp] theorem State.setLocal_stale (s : State) (u off : Nat) (bs : List Byte) : (s.setLocal u off bs).stale = s.stale := rfl
@[simp] theorem State.setLocal_recomputes (s : State) (u off : Nat) (bs : List Byte) : (s.setLocal u off bs).recomputes = s.recomputes := rfl
@[simp] theorem State.setLocal_disabled (s : State) (u off : Nat) (bs : List Byte) : (s.setLocal u off bs).disabled = s.disabled := rfl
@[simp] theorem State.setLocal_retired (s : State) (u off : Nat) (bs : List Byte) : (s.setLocal u off bs).retired = s.retired := rfl
@[simp] theorem State.setLocal_dev (s : State) (u off : Nat) (bs : List Byte) : (s.setLocal u off bs).dev = s.dev := rfl
@[simp] theorem State.setLocal_ports (s : State) (u off : Nat) (bs : List Byte) : (s.setLocal u off bs).ports = s.ports := rfl
@[simp] theorem State.setLocal_routes (s : State) (u off : Nat) (bs : List Byte) : (s.setLocal u off bs).routes = s.routes := rfl
@[simp] theorem State.setLocal_launches (s : State) (u off : Nat) (bs : List Byte) : (s.setLocal u off bs).launches = s.launches := rfl
@[simp] theorem State.setLocal_near (s : State) (u off : Nat) (bs : List Byte) : (s.setLocal u off bs).near = s.near := rfl
@[simp] theorem State.setLocal_mgrant (s : State) (u off : Nat) (bs : List Byte) : (s.setLocal u off bs).mgrant = s.mgrant := rfl
@[simp] theorem State.setLocal_dirs (s : State) (u off : Nat) (bs : List Byte) : (s.setLocal u off bs).dirs = s.dirs := rfl
@[simp] theorem State.setLocal_lqs (s : State) (u off : Nat) (bs : List Byte) : (s.setLocal u off bs).lqs = s.lqs := rfl
@[simp] theorem State.setLocal_stage (s : State) (u off : Nat) (bs : List Byte) : (s.setLocal u off bs).stage = s.stage := rfl
@[simp] theorem State.setLocal_pwr (s : State) (u off : Nat) (bs : List Byte) : (s.setLocal u off bs).pwr = s.pwr := rfl
@[simp] theorem State.setLocal_capped (s : State) (u off : Nat) (bs : List Byte) : (s.setLocal u off bs).capped = s.capped := rfl
@[simp] theorem State.setLocal_pwrlim (s : State) (u off : Nat) (bs : List Byte) : (s.setLocal u off bs).pwrlim = s.pwrlim := rfl
@[simp] theorem State.setLocal_dropcnt (s : State) (u off : Nat) (bs : List Byte) : (s.setLocal u off bs).dropcnt = s.dropcnt := rfl
@[simp] theorem State.setLocal_herr (s : State) (u off : Nat) (bs : List Byte) : (s.setLocal u off bs).herr = s.herr := rfl
@[simp] theorem State.setLocal_images (s : State) (u off : Nat) (bs : List Byte) : (s.setLocal u off bs).images = s.images := rfl
@[simp] theorem State.setLocal_keyDigest (s : State) (u off : Nat) (bs : List Byte) : (s.setLocal u off bs).keyDigest = s.keyDigest := rfl
@[simp] theorem State.setLocal_fusedFloor (s : State) (u off : Nat) (bs : List Byte) : (s.setLocal u off bs).fusedFloor = s.fusedFloor := rfl
@[simp] theorem State.setLocal_mirrors (s : State) (u off : Nat) (bs : List Byte) : (s.setLocal u off bs).mirrors = s.mirrors := rfl
@[simp] theorem State.setLocal_attbox (s : State) (u off : Nat) (bs : List Byte) : (s.setLocal u off bs).attbox = s.attbox := rfl
@[simp] theorem State.setLocal_hostMem (s : State) (u off : Nat) (bs : List Byte) : (s.setLocal u off bs).hostMem = s.hostMem := rfl
@[simp] theorem State.setLocal_msi (s : State) (u off : Nat) (bs : List Byte) : (s.setLocal u off bs).msi = s.msi := rfl
@[simp] theorem State.setLocal_crPorts (s : State) (u off : Nat) (bs : List Byte) : (s.setLocal u off bs).crPorts = s.crPorts := rfl
@[simp] theorem State.setLocal_hostReply (s : State) (u off : Nat) (bs : List Byte) : (s.setLocal u off bs).hostReply = s.hostReply := rfl
@[simp] theorem State.setLocal_saves (s : State) (u off : Nat) (bs : List Byte) : (s.setLocal u off bs).saves = s.saves := rfl
@[simp] theorem State.setLocal_upsets (s : State) (u off : Nat) (bs : List Byte) : (s.setLocal u off bs).upsets = s.upsets := rfl
@[simp] theorem State.setLocal_bar2 (s : State) (u off : Nat) (bs : List Byte) : (s.setLocal u off bs).bar2 = s.bar2 := rfl
@[simp] theorem State.setLocal_cur (s : State) (u off : Nat) (bs : List Byte) : (s.setLocal u off bs).cur = s.cur := rfl
@[simp] theorem State.setLocal_flight (s : State) (u off : Nat) (bs : List Byte) : (s.setLocal u off bs).flight = s.flight := rfl
@[simp] theorem State.setLocal_posted (s : State) (u off : Nat) (bs : List Byte) : (s.setLocal u off bs).posted = s.posted := rfl
@[simp] theorem State.setLocal_po (s : State) (u off : Nat) (bs : List Byte) : (s.setLocal u off bs).po = s.po := rfl
@[simp] theorem State.setLocal_async (s : State) (u off : Nat) (bs : List Byte) : (s.setLocal u off bs).async = s.async := rfl
@[simp] theorem State.setLocal_sched (s : State) (u off : Nat) (bs : List Byte) : (s.setLocal u off bs).sched = s.sched := rfl
@[simp] theorem State.setLocal_free (s : State) (u off : Nat) (bs : List Byte) : (s.setLocal u off bs).free = s.free := rfl

/-! ## modHome changes homes alone -/

@[simp] theorem State.modHome_mem (s : State) (h : Nat) (f : Home → Home) : (s.modHome h f).mem = s.mem := rfl
@[simp] theorem State.modHome_units (s : State) (h : Nat) (f : Home → Home) : (s.modHome h f).units = s.units := rfl
@[simp] theorem State.modHome_dies (s : State) (h : Nat) (f : Home → Home) : (s.modHome h f).dies = s.dies := rfl
@[simp] theorem State.modHome_gens (s : State) (h : Nat) (f : Home → Home) : (s.modHome h f).gens = s.gens := rfl
@[simp] theorem State.modHome_floors (s : State) (h : Nat) (f : Home → Home) : (s.modHome h f).floors = s.floors := rfl
@[simp] theorem State.modHome_advances (s : State) (h : Nat) (f : Home → Home) : (s.modHome h f).advances = s.advances := rfl
@[simp] theorem State.modHome_slices (s : State) (h : Nat) (f : Home → Home) : (s.modHome h f).slices = s.slices := rfl
@[simp] theorem State.modHome_rules (s : State) (h : Nat) (f : Home → Home) : (s.modHome h f).rules = s.rules := rfl
@[simp] theorem State.modHome_stale (s : State) (h : Nat) (f : Home → Home) : (s.modHome h f).stale = s.stale := rfl
@[simp] theorem State.modHome_recomputes (s : State) (h : Nat) (f : Home → Home) : (s.modHome h f).recomputes = s.recomputes := rfl
@[simp] theorem State.modHome_disabled (s : State) (h : Nat) (f : Home → Home) : (s.modHome h f).disabled = s.disabled := rfl
@[simp] theorem State.modHome_retired (s : State) (h : Nat) (f : Home → Home) : (s.modHome h f).retired = s.retired := rfl
@[simp] theorem State.modHome_dev (s : State) (h : Nat) (f : Home → Home) : (s.modHome h f).dev = s.dev := rfl
@[simp] theorem State.modHome_ports (s : State) (h : Nat) (f : Home → Home) : (s.modHome h f).ports = s.ports := rfl
@[simp] theorem State.modHome_routes (s : State) (h : Nat) (f : Home → Home) : (s.modHome h f).routes = s.routes := rfl
@[simp] theorem State.modHome_launches (s : State) (h : Nat) (f : Home → Home) : (s.modHome h f).launches = s.launches := rfl
@[simp] theorem State.modHome_near (s : State) (h : Nat) (f : Home → Home) : (s.modHome h f).near = s.near := rfl
@[simp] theorem State.modHome_mgrant (s : State) (h : Nat) (f : Home → Home) : (s.modHome h f).mgrant = s.mgrant := rfl
@[simp] theorem State.modHome_dirs (s : State) (h : Nat) (f : Home → Home) : (s.modHome h f).dirs = s.dirs := rfl
@[simp] theorem State.modHome_lqs (s : State) (h : Nat) (f : Home → Home) : (s.modHome h f).lqs = s.lqs := rfl
@[simp] theorem State.modHome_stage (s : State) (h : Nat) (f : Home → Home) : (s.modHome h f).stage = s.stage := rfl
@[simp] theorem State.modHome_pwr (s : State) (h : Nat) (f : Home → Home) : (s.modHome h f).pwr = s.pwr := rfl
@[simp] theorem State.modHome_capped (s : State) (h : Nat) (f : Home → Home) : (s.modHome h f).capped = s.capped := rfl
@[simp] theorem State.modHome_pwrlim (s : State) (h : Nat) (f : Home → Home) : (s.modHome h f).pwrlim = s.pwrlim := rfl
@[simp] theorem State.modHome_dropcnt (s : State) (h : Nat) (f : Home → Home) : (s.modHome h f).dropcnt = s.dropcnt := rfl
@[simp] theorem State.modHome_herr (s : State) (h : Nat) (f : Home → Home) : (s.modHome h f).herr = s.herr := rfl
@[simp] theorem State.modHome_images (s : State) (h : Nat) (f : Home → Home) : (s.modHome h f).images = s.images := rfl
@[simp] theorem State.modHome_keyDigest (s : State) (h : Nat) (f : Home → Home) : (s.modHome h f).keyDigest = s.keyDigest := rfl
@[simp] theorem State.modHome_fusedFloor (s : State) (h : Nat) (f : Home → Home) : (s.modHome h f).fusedFloor = s.fusedFloor := rfl
@[simp] theorem State.modHome_mirrors (s : State) (h : Nat) (f : Home → Home) : (s.modHome h f).mirrors = s.mirrors := rfl
@[simp] theorem State.modHome_attbox (s : State) (h : Nat) (f : Home → Home) : (s.modHome h f).attbox = s.attbox := rfl
@[simp] theorem State.modHome_hostMem (s : State) (h : Nat) (f : Home → Home) : (s.modHome h f).hostMem = s.hostMem := rfl
@[simp] theorem State.modHome_msi (s : State) (h : Nat) (f : Home → Home) : (s.modHome h f).msi = s.msi := rfl
@[simp] theorem State.modHome_crPorts (s : State) (h : Nat) (f : Home → Home) : (s.modHome h f).crPorts = s.crPorts := rfl
@[simp] theorem State.modHome_hostReply (s : State) (h : Nat) (f : Home → Home) : (s.modHome h f).hostReply = s.hostReply := rfl
@[simp] theorem State.modHome_saves (s : State) (h : Nat) (f : Home → Home) : (s.modHome h f).saves = s.saves := rfl
@[simp] theorem State.modHome_upsets (s : State) (h : Nat) (f : Home → Home) : (s.modHome h f).upsets = s.upsets := rfl
@[simp] theorem State.modHome_bar2 (s : State) (h : Nat) (f : Home → Home) : (s.modHome h f).bar2 = s.bar2 := rfl
@[simp] theorem State.modHome_cur (s : State) (h : Nat) (f : Home → Home) : (s.modHome h f).cur = s.cur := rfl
@[simp] theorem State.modHome_flight (s : State) (h : Nat) (f : Home → Home) : (s.modHome h f).flight = s.flight := rfl
@[simp] theorem State.modHome_posted (s : State) (h : Nat) (f : Home → Home) : (s.modHome h f).posted = s.posted := rfl
@[simp] theorem State.modHome_po (s : State) (h : Nat) (f : Home → Home) : (s.modHome h f).po = s.po := rfl
@[simp] theorem State.modHome_async (s : State) (h : Nat) (f : Home → Home) : (s.modHome h f).async = s.async := rfl
@[simp] theorem State.modHome_sched (s : State) (h : Nat) (f : Home → Home) : (s.modHome h f).sched = s.sched := rfl
@[simp] theorem State.modHome_free (s : State) (h : Nat) (f : Home → Home) : (s.modHome h f).free = s.free := rfl

/-! ## modLaunch changes launches alone -/

@[simp] theorem State.modLaunch_mem (s : State) (lid : Nat) (f : Launch → Launch) : (s.modLaunch lid f).mem = s.mem := rfl
@[simp] theorem State.modLaunch_units (s : State) (lid : Nat) (f : Launch → Launch) : (s.modLaunch lid f).units = s.units := rfl
@[simp] theorem State.modLaunch_homes (s : State) (lid : Nat) (f : Launch → Launch) : (s.modLaunch lid f).homes = s.homes := rfl
@[simp] theorem State.modLaunch_dies (s : State) (lid : Nat) (f : Launch → Launch) : (s.modLaunch lid f).dies = s.dies := rfl
@[simp] theorem State.modLaunch_gens (s : State) (lid : Nat) (f : Launch → Launch) : (s.modLaunch lid f).gens = s.gens := rfl
@[simp] theorem State.modLaunch_floors (s : State) (lid : Nat) (f : Launch → Launch) : (s.modLaunch lid f).floors = s.floors := rfl
@[simp] theorem State.modLaunch_advances (s : State) (lid : Nat) (f : Launch → Launch) : (s.modLaunch lid f).advances = s.advances := rfl
@[simp] theorem State.modLaunch_slices (s : State) (lid : Nat) (f : Launch → Launch) : (s.modLaunch lid f).slices = s.slices := rfl
@[simp] theorem State.modLaunch_rules (s : State) (lid : Nat) (f : Launch → Launch) : (s.modLaunch lid f).rules = s.rules := rfl
@[simp] theorem State.modLaunch_stale (s : State) (lid : Nat) (f : Launch → Launch) : (s.modLaunch lid f).stale = s.stale := rfl
@[simp] theorem State.modLaunch_recomputes (s : State) (lid : Nat) (f : Launch → Launch) : (s.modLaunch lid f).recomputes = s.recomputes := rfl
@[simp] theorem State.modLaunch_disabled (s : State) (lid : Nat) (f : Launch → Launch) : (s.modLaunch lid f).disabled = s.disabled := rfl
@[simp] theorem State.modLaunch_retired (s : State) (lid : Nat) (f : Launch → Launch) : (s.modLaunch lid f).retired = s.retired := rfl
@[simp] theorem State.modLaunch_dev (s : State) (lid : Nat) (f : Launch → Launch) : (s.modLaunch lid f).dev = s.dev := rfl
@[simp] theorem State.modLaunch_ports (s : State) (lid : Nat) (f : Launch → Launch) : (s.modLaunch lid f).ports = s.ports := rfl
@[simp] theorem State.modLaunch_routes (s : State) (lid : Nat) (f : Launch → Launch) : (s.modLaunch lid f).routes = s.routes := rfl
@[simp] theorem State.modLaunch_near (s : State) (lid : Nat) (f : Launch → Launch) : (s.modLaunch lid f).near = s.near := rfl
@[simp] theorem State.modLaunch_mgrant (s : State) (lid : Nat) (f : Launch → Launch) : (s.modLaunch lid f).mgrant = s.mgrant := rfl
@[simp] theorem State.modLaunch_dirs (s : State) (lid : Nat) (f : Launch → Launch) : (s.modLaunch lid f).dirs = s.dirs := rfl
@[simp] theorem State.modLaunch_lqs (s : State) (lid : Nat) (f : Launch → Launch) : (s.modLaunch lid f).lqs = s.lqs := rfl
@[simp] theorem State.modLaunch_stage (s : State) (lid : Nat) (f : Launch → Launch) : (s.modLaunch lid f).stage = s.stage := rfl
@[simp] theorem State.modLaunch_pwr (s : State) (lid : Nat) (f : Launch → Launch) : (s.modLaunch lid f).pwr = s.pwr := rfl
@[simp] theorem State.modLaunch_capped (s : State) (lid : Nat) (f : Launch → Launch) : (s.modLaunch lid f).capped = s.capped := rfl
@[simp] theorem State.modLaunch_pwrlim (s : State) (lid : Nat) (f : Launch → Launch) : (s.modLaunch lid f).pwrlim = s.pwrlim := rfl
@[simp] theorem State.modLaunch_dropcnt (s : State) (lid : Nat) (f : Launch → Launch) : (s.modLaunch lid f).dropcnt = s.dropcnt := rfl
@[simp] theorem State.modLaunch_herr (s : State) (lid : Nat) (f : Launch → Launch) : (s.modLaunch lid f).herr = s.herr := rfl
@[simp] theorem State.modLaunch_images (s : State) (lid : Nat) (f : Launch → Launch) : (s.modLaunch lid f).images = s.images := rfl
@[simp] theorem State.modLaunch_keyDigest (s : State) (lid : Nat) (f : Launch → Launch) : (s.modLaunch lid f).keyDigest = s.keyDigest := rfl
@[simp] theorem State.modLaunch_fusedFloor (s : State) (lid : Nat) (f : Launch → Launch) : (s.modLaunch lid f).fusedFloor = s.fusedFloor := rfl
@[simp] theorem State.modLaunch_mirrors (s : State) (lid : Nat) (f : Launch → Launch) : (s.modLaunch lid f).mirrors = s.mirrors := rfl
@[simp] theorem State.modLaunch_attbox (s : State) (lid : Nat) (f : Launch → Launch) : (s.modLaunch lid f).attbox = s.attbox := rfl
@[simp] theorem State.modLaunch_hostMem (s : State) (lid : Nat) (f : Launch → Launch) : (s.modLaunch lid f).hostMem = s.hostMem := rfl
@[simp] theorem State.modLaunch_msi (s : State) (lid : Nat) (f : Launch → Launch) : (s.modLaunch lid f).msi = s.msi := rfl
@[simp] theorem State.modLaunch_crPorts (s : State) (lid : Nat) (f : Launch → Launch) : (s.modLaunch lid f).crPorts = s.crPorts := rfl
@[simp] theorem State.modLaunch_hostReply (s : State) (lid : Nat) (f : Launch → Launch) : (s.modLaunch lid f).hostReply = s.hostReply := rfl
@[simp] theorem State.modLaunch_saves (s : State) (lid : Nat) (f : Launch → Launch) : (s.modLaunch lid f).saves = s.saves := rfl
@[simp] theorem State.modLaunch_upsets (s : State) (lid : Nat) (f : Launch → Launch) : (s.modLaunch lid f).upsets = s.upsets := rfl
@[simp] theorem State.modLaunch_bar2 (s : State) (lid : Nat) (f : Launch → Launch) : (s.modLaunch lid f).bar2 = s.bar2 := rfl
@[simp] theorem State.modLaunch_cur (s : State) (lid : Nat) (f : Launch → Launch) : (s.modLaunch lid f).cur = s.cur := rfl
@[simp] theorem State.modLaunch_flight (s : State) (lid : Nat) (f : Launch → Launch) : (s.modLaunch lid f).flight = s.flight := rfl
@[simp] theorem State.modLaunch_posted (s : State) (lid : Nat) (f : Launch → Launch) : (s.modLaunch lid f).posted = s.posted := rfl
@[simp] theorem State.modLaunch_po (s : State) (lid : Nat) (f : Launch → Launch) : (s.modLaunch lid f).po = s.po := rfl
@[simp] theorem State.modLaunch_async (s : State) (lid : Nat) (f : Launch → Launch) : (s.modLaunch lid f).async = s.async := rfl
@[simp] theorem State.modLaunch_sched (s : State) (lid : Nat) (f : Launch → Launch) : (s.modLaunch lid f).sched = s.sched := rfl
@[simp] theorem State.modLaunch_free (s : State) (lid : Nat) (f : Launch → Launch) : (s.modLaunch lid f).free = s.free := rfl

/-! ## modNear changes near alone -/

@[simp] theorem State.modNear_mem (s : State) (p : Nat) (f : Near → Near) : (s.modNear p f).mem = s.mem := rfl
@[simp] theorem State.modNear_units (s : State) (p : Nat) (f : Near → Near) : (s.modNear p f).units = s.units := rfl
@[simp] theorem State.modNear_homes (s : State) (p : Nat) (f : Near → Near) : (s.modNear p f).homes = s.homes := rfl
@[simp] theorem State.modNear_dies (s : State) (p : Nat) (f : Near → Near) : (s.modNear p f).dies = s.dies := rfl
@[simp] theorem State.modNear_gens (s : State) (p : Nat) (f : Near → Near) : (s.modNear p f).gens = s.gens := rfl
@[simp] theorem State.modNear_floors (s : State) (p : Nat) (f : Near → Near) : (s.modNear p f).floors = s.floors := rfl
@[simp] theorem State.modNear_advances (s : State) (p : Nat) (f : Near → Near) : (s.modNear p f).advances = s.advances := rfl
@[simp] theorem State.modNear_slices (s : State) (p : Nat) (f : Near → Near) : (s.modNear p f).slices = s.slices := rfl
@[simp] theorem State.modNear_rules (s : State) (p : Nat) (f : Near → Near) : (s.modNear p f).rules = s.rules := rfl
@[simp] theorem State.modNear_stale (s : State) (p : Nat) (f : Near → Near) : (s.modNear p f).stale = s.stale := rfl
@[simp] theorem State.modNear_recomputes (s : State) (p : Nat) (f : Near → Near) : (s.modNear p f).recomputes = s.recomputes := rfl
@[simp] theorem State.modNear_disabled (s : State) (p : Nat) (f : Near → Near) : (s.modNear p f).disabled = s.disabled := rfl
@[simp] theorem State.modNear_retired (s : State) (p : Nat) (f : Near → Near) : (s.modNear p f).retired = s.retired := rfl
@[simp] theorem State.modNear_dev (s : State) (p : Nat) (f : Near → Near) : (s.modNear p f).dev = s.dev := rfl
@[simp] theorem State.modNear_ports (s : State) (p : Nat) (f : Near → Near) : (s.modNear p f).ports = s.ports := rfl
@[simp] theorem State.modNear_routes (s : State) (p : Nat) (f : Near → Near) : (s.modNear p f).routes = s.routes := rfl
@[simp] theorem State.modNear_launches (s : State) (p : Nat) (f : Near → Near) : (s.modNear p f).launches = s.launches := rfl
@[simp] theorem State.modNear_mgrant (s : State) (p : Nat) (f : Near → Near) : (s.modNear p f).mgrant = s.mgrant := rfl
@[simp] theorem State.modNear_dirs (s : State) (p : Nat) (f : Near → Near) : (s.modNear p f).dirs = s.dirs := rfl
@[simp] theorem State.modNear_lqs (s : State) (p : Nat) (f : Near → Near) : (s.modNear p f).lqs = s.lqs := rfl
@[simp] theorem State.modNear_stage (s : State) (p : Nat) (f : Near → Near) : (s.modNear p f).stage = s.stage := rfl
@[simp] theorem State.modNear_pwr (s : State) (p : Nat) (f : Near → Near) : (s.modNear p f).pwr = s.pwr := rfl
@[simp] theorem State.modNear_capped (s : State) (p : Nat) (f : Near → Near) : (s.modNear p f).capped = s.capped := rfl
@[simp] theorem State.modNear_pwrlim (s : State) (p : Nat) (f : Near → Near) : (s.modNear p f).pwrlim = s.pwrlim := rfl
@[simp] theorem State.modNear_dropcnt (s : State) (p : Nat) (f : Near → Near) : (s.modNear p f).dropcnt = s.dropcnt := rfl
@[simp] theorem State.modNear_herr (s : State) (p : Nat) (f : Near → Near) : (s.modNear p f).herr = s.herr := rfl
@[simp] theorem State.modNear_images (s : State) (p : Nat) (f : Near → Near) : (s.modNear p f).images = s.images := rfl
@[simp] theorem State.modNear_keyDigest (s : State) (p : Nat) (f : Near → Near) : (s.modNear p f).keyDigest = s.keyDigest := rfl
@[simp] theorem State.modNear_fusedFloor (s : State) (p : Nat) (f : Near → Near) : (s.modNear p f).fusedFloor = s.fusedFloor := rfl
@[simp] theorem State.modNear_mirrors (s : State) (p : Nat) (f : Near → Near) : (s.modNear p f).mirrors = s.mirrors := rfl
@[simp] theorem State.modNear_attbox (s : State) (p : Nat) (f : Near → Near) : (s.modNear p f).attbox = s.attbox := rfl
@[simp] theorem State.modNear_hostMem (s : State) (p : Nat) (f : Near → Near) : (s.modNear p f).hostMem = s.hostMem := rfl
@[simp] theorem State.modNear_msi (s : State) (p : Nat) (f : Near → Near) : (s.modNear p f).msi = s.msi := rfl
@[simp] theorem State.modNear_crPorts (s : State) (p : Nat) (f : Near → Near) : (s.modNear p f).crPorts = s.crPorts := rfl
@[simp] theorem State.modNear_hostReply (s : State) (p : Nat) (f : Near → Near) : (s.modNear p f).hostReply = s.hostReply := rfl
@[simp] theorem State.modNear_saves (s : State) (p : Nat) (f : Near → Near) : (s.modNear p f).saves = s.saves := rfl
@[simp] theorem State.modNear_upsets (s : State) (p : Nat) (f : Near → Near) : (s.modNear p f).upsets = s.upsets := rfl
@[simp] theorem State.modNear_bar2 (s : State) (p : Nat) (f : Near → Near) : (s.modNear p f).bar2 = s.bar2 := rfl
@[simp] theorem State.modNear_cur (s : State) (p : Nat) (f : Near → Near) : (s.modNear p f).cur = s.cur := rfl
@[simp] theorem State.modNear_flight (s : State) (p : Nat) (f : Near → Near) : (s.modNear p f).flight = s.flight := rfl
@[simp] theorem State.modNear_posted (s : State) (p : Nat) (f : Near → Near) : (s.modNear p f).posted = s.posted := rfl
@[simp] theorem State.modNear_po (s : State) (p : Nat) (f : Near → Near) : (s.modNear p f).po = s.po := rfl
@[simp] theorem State.modNear_async (s : State) (p : Nat) (f : Near → Near) : (s.modNear p f).async = s.async := rfl
@[simp] theorem State.modNear_sched (s : State) (p : Nat) (f : Near → Near) : (s.modNear p f).sched = s.sched := rfl
@[simp] theorem State.modNear_free (s : State) (p : Nat) (f : Near → Near) : (s.modNear p f).free = s.free := rfl

/-! ## modSlice changes slices alone -/

@[simp] theorem State.modSlice_mem (s : State) (sl : Nat) (f : Slice → Slice) : (s.modSlice sl f).mem = s.mem := rfl
@[simp] theorem State.modSlice_units (s : State) (sl : Nat) (f : Slice → Slice) : (s.modSlice sl f).units = s.units := rfl
@[simp] theorem State.modSlice_homes (s : State) (sl : Nat) (f : Slice → Slice) : (s.modSlice sl f).homes = s.homes := rfl
@[simp] theorem State.modSlice_dies (s : State) (sl : Nat) (f : Slice → Slice) : (s.modSlice sl f).dies = s.dies := rfl
@[simp] theorem State.modSlice_gens (s : State) (sl : Nat) (f : Slice → Slice) : (s.modSlice sl f).gens = s.gens := rfl
@[simp] theorem State.modSlice_floors (s : State) (sl : Nat) (f : Slice → Slice) : (s.modSlice sl f).floors = s.floors := rfl
@[simp] theorem State.modSlice_advances (s : State) (sl : Nat) (f : Slice → Slice) : (s.modSlice sl f).advances = s.advances := rfl
@[simp] theorem State.modSlice_rules (s : State) (sl : Nat) (f : Slice → Slice) : (s.modSlice sl f).rules = s.rules := rfl
@[simp] theorem State.modSlice_stale (s : State) (sl : Nat) (f : Slice → Slice) : (s.modSlice sl f).stale = s.stale := rfl
@[simp] theorem State.modSlice_recomputes (s : State) (sl : Nat) (f : Slice → Slice) : (s.modSlice sl f).recomputes = s.recomputes := rfl
@[simp] theorem State.modSlice_disabled (s : State) (sl : Nat) (f : Slice → Slice) : (s.modSlice sl f).disabled = s.disabled := rfl
@[simp] theorem State.modSlice_retired (s : State) (sl : Nat) (f : Slice → Slice) : (s.modSlice sl f).retired = s.retired := rfl
@[simp] theorem State.modSlice_dev (s : State) (sl : Nat) (f : Slice → Slice) : (s.modSlice sl f).dev = s.dev := rfl
@[simp] theorem State.modSlice_ports (s : State) (sl : Nat) (f : Slice → Slice) : (s.modSlice sl f).ports = s.ports := rfl
@[simp] theorem State.modSlice_routes (s : State) (sl : Nat) (f : Slice → Slice) : (s.modSlice sl f).routes = s.routes := rfl
@[simp] theorem State.modSlice_launches (s : State) (sl : Nat) (f : Slice → Slice) : (s.modSlice sl f).launches = s.launches := rfl
@[simp] theorem State.modSlice_near (s : State) (sl : Nat) (f : Slice → Slice) : (s.modSlice sl f).near = s.near := rfl
@[simp] theorem State.modSlice_mgrant (s : State) (sl : Nat) (f : Slice → Slice) : (s.modSlice sl f).mgrant = s.mgrant := rfl
@[simp] theorem State.modSlice_dirs (s : State) (sl : Nat) (f : Slice → Slice) : (s.modSlice sl f).dirs = s.dirs := rfl
@[simp] theorem State.modSlice_lqs (s : State) (sl : Nat) (f : Slice → Slice) : (s.modSlice sl f).lqs = s.lqs := rfl
@[simp] theorem State.modSlice_stage (s : State) (sl : Nat) (f : Slice → Slice) : (s.modSlice sl f).stage = s.stage := rfl
@[simp] theorem State.modSlice_pwr (s : State) (sl : Nat) (f : Slice → Slice) : (s.modSlice sl f).pwr = s.pwr := rfl
@[simp] theorem State.modSlice_capped (s : State) (sl : Nat) (f : Slice → Slice) : (s.modSlice sl f).capped = s.capped := rfl
@[simp] theorem State.modSlice_pwrlim (s : State) (sl : Nat) (f : Slice → Slice) : (s.modSlice sl f).pwrlim = s.pwrlim := rfl
@[simp] theorem State.modSlice_dropcnt (s : State) (sl : Nat) (f : Slice → Slice) : (s.modSlice sl f).dropcnt = s.dropcnt := rfl
@[simp] theorem State.modSlice_herr (s : State) (sl : Nat) (f : Slice → Slice) : (s.modSlice sl f).herr = s.herr := rfl
@[simp] theorem State.modSlice_images (s : State) (sl : Nat) (f : Slice → Slice) : (s.modSlice sl f).images = s.images := rfl
@[simp] theorem State.modSlice_keyDigest (s : State) (sl : Nat) (f : Slice → Slice) : (s.modSlice sl f).keyDigest = s.keyDigest := rfl
@[simp] theorem State.modSlice_fusedFloor (s : State) (sl : Nat) (f : Slice → Slice) : (s.modSlice sl f).fusedFloor = s.fusedFloor := rfl
@[simp] theorem State.modSlice_mirrors (s : State) (sl : Nat) (f : Slice → Slice) : (s.modSlice sl f).mirrors = s.mirrors := rfl
@[simp] theorem State.modSlice_attbox (s : State) (sl : Nat) (f : Slice → Slice) : (s.modSlice sl f).attbox = s.attbox := rfl
@[simp] theorem State.modSlice_hostMem (s : State) (sl : Nat) (f : Slice → Slice) : (s.modSlice sl f).hostMem = s.hostMem := rfl
@[simp] theorem State.modSlice_msi (s : State) (sl : Nat) (f : Slice → Slice) : (s.modSlice sl f).msi = s.msi := rfl
@[simp] theorem State.modSlice_crPorts (s : State) (sl : Nat) (f : Slice → Slice) : (s.modSlice sl f).crPorts = s.crPorts := rfl
@[simp] theorem State.modSlice_hostReply (s : State) (sl : Nat) (f : Slice → Slice) : (s.modSlice sl f).hostReply = s.hostReply := rfl
@[simp] theorem State.modSlice_saves (s : State) (sl : Nat) (f : Slice → Slice) : (s.modSlice sl f).saves = s.saves := rfl
@[simp] theorem State.modSlice_upsets (s : State) (sl : Nat) (f : Slice → Slice) : (s.modSlice sl f).upsets = s.upsets := rfl
@[simp] theorem State.modSlice_bar2 (s : State) (sl : Nat) (f : Slice → Slice) : (s.modSlice sl f).bar2 = s.bar2 := rfl
@[simp] theorem State.modSlice_cur (s : State) (sl : Nat) (f : Slice → Slice) : (s.modSlice sl f).cur = s.cur := rfl
@[simp] theorem State.modSlice_flight (s : State) (sl : Nat) (f : Slice → Slice) : (s.modSlice sl f).flight = s.flight := rfl
@[simp] theorem State.modSlice_posted (s : State) (sl : Nat) (f : Slice → Slice) : (s.modSlice sl f).posted = s.posted := rfl
@[simp] theorem State.modSlice_po (s : State) (sl : Nat) (f : Slice → Slice) : (s.modSlice sl f).po = s.po := rfl
@[simp] theorem State.modSlice_async (s : State) (sl : Nat) (f : Slice → Slice) : (s.modSlice sl f).async = s.async := rfl
@[simp] theorem State.modSlice_sched (s : State) (sl : Nat) (f : Slice → Slice) : (s.modSlice sl f).sched = s.sched := rfl
@[simp] theorem State.modSlice_free (s : State) (sl : Nat) (f : Slice → Slice) : (s.modSlice sl f).free = s.free := rfl

/-! ## tick changes po alone -/

@[simp] theorem State.tick_mem (s : State) : (s.tick).mem = s.mem := rfl
@[simp] theorem State.tick_units (s : State) : (s.tick).units = s.units := rfl
@[simp] theorem State.tick_homes (s : State) : (s.tick).homes = s.homes := rfl
@[simp] theorem State.tick_dies (s : State) : (s.tick).dies = s.dies := rfl
@[simp] theorem State.tick_gens (s : State) : (s.tick).gens = s.gens := rfl
@[simp] theorem State.tick_floors (s : State) : (s.tick).floors = s.floors := rfl
@[simp] theorem State.tick_advances (s : State) : (s.tick).advances = s.advances := rfl
@[simp] theorem State.tick_slices (s : State) : (s.tick).slices = s.slices := rfl
@[simp] theorem State.tick_rules (s : State) : (s.tick).rules = s.rules := rfl
@[simp] theorem State.tick_stale (s : State) : (s.tick).stale = s.stale := rfl
@[simp] theorem State.tick_recomputes (s : State) : (s.tick).recomputes = s.recomputes := rfl
@[simp] theorem State.tick_disabled (s : State) : (s.tick).disabled = s.disabled := rfl
@[simp] theorem State.tick_retired (s : State) : (s.tick).retired = s.retired := rfl
@[simp] theorem State.tick_dev (s : State) : (s.tick).dev = s.dev := rfl
@[simp] theorem State.tick_ports (s : State) : (s.tick).ports = s.ports := rfl
@[simp] theorem State.tick_routes (s : State) : (s.tick).routes = s.routes := rfl
@[simp] theorem State.tick_launches (s : State) : (s.tick).launches = s.launches := rfl
@[simp] theorem State.tick_near (s : State) : (s.tick).near = s.near := rfl
@[simp] theorem State.tick_mgrant (s : State) : (s.tick).mgrant = s.mgrant := rfl
@[simp] theorem State.tick_dirs (s : State) : (s.tick).dirs = s.dirs := rfl
@[simp] theorem State.tick_lqs (s : State) : (s.tick).lqs = s.lqs := rfl
@[simp] theorem State.tick_stage (s : State) : (s.tick).stage = s.stage := rfl
@[simp] theorem State.tick_pwr (s : State) : (s.tick).pwr = s.pwr := rfl
@[simp] theorem State.tick_capped (s : State) : (s.tick).capped = s.capped := rfl
@[simp] theorem State.tick_pwrlim (s : State) : (s.tick).pwrlim = s.pwrlim := rfl
@[simp] theorem State.tick_dropcnt (s : State) : (s.tick).dropcnt = s.dropcnt := rfl
@[simp] theorem State.tick_herr (s : State) : (s.tick).herr = s.herr := rfl
@[simp] theorem State.tick_images (s : State) : (s.tick).images = s.images := rfl
@[simp] theorem State.tick_keyDigest (s : State) : (s.tick).keyDigest = s.keyDigest := rfl
@[simp] theorem State.tick_fusedFloor (s : State) : (s.tick).fusedFloor = s.fusedFloor := rfl
@[simp] theorem State.tick_mirrors (s : State) : (s.tick).mirrors = s.mirrors := rfl
@[simp] theorem State.tick_attbox (s : State) : (s.tick).attbox = s.attbox := rfl
@[simp] theorem State.tick_hostMem (s : State) : (s.tick).hostMem = s.hostMem := rfl
@[simp] theorem State.tick_msi (s : State) : (s.tick).msi = s.msi := rfl
@[simp] theorem State.tick_crPorts (s : State) : (s.tick).crPorts = s.crPorts := rfl
@[simp] theorem State.tick_hostReply (s : State) : (s.tick).hostReply = s.hostReply := rfl
@[simp] theorem State.tick_saves (s : State) : (s.tick).saves = s.saves := rfl
@[simp] theorem State.tick_upsets (s : State) : (s.tick).upsets = s.upsets := rfl
@[simp] theorem State.tick_bar2 (s : State) : (s.tick).bar2 = s.bar2 := rfl
@[simp] theorem State.tick_cur (s : State) : (s.tick).cur = s.cur := rfl
@[simp] theorem State.tick_flight (s : State) : (s.tick).flight = s.flight := rfl
@[simp] theorem State.tick_posted (s : State) : (s.tick).posted = s.posted := rfl
@[simp] theorem State.tick_async (s : State) : (s.tick).async = s.async := rfl
@[simp] theorem State.tick_sched (s : State) : (s.tick).sched = s.sched := rfl
@[simp] theorem State.tick_free (s : State) : (s.tick).free = s.free := rfl

/-! ## useFree changes free alone -/

@[simp] theorem State.useFree_mem (s : State) : (s.useFree).mem = s.mem := rfl
@[simp] theorem State.useFree_units (s : State) : (s.useFree).units = s.units := rfl
@[simp] theorem State.useFree_homes (s : State) : (s.useFree).homes = s.homes := rfl
@[simp] theorem State.useFree_dies (s : State) : (s.useFree).dies = s.dies := rfl
@[simp] theorem State.useFree_gens (s : State) : (s.useFree).gens = s.gens := rfl
@[simp] theorem State.useFree_floors (s : State) : (s.useFree).floors = s.floors := rfl
@[simp] theorem State.useFree_advances (s : State) : (s.useFree).advances = s.advances := rfl
@[simp] theorem State.useFree_slices (s : State) : (s.useFree).slices = s.slices := rfl
@[simp] theorem State.useFree_rules (s : State) : (s.useFree).rules = s.rules := rfl
@[simp] theorem State.useFree_stale (s : State) : (s.useFree).stale = s.stale := rfl
@[simp] theorem State.useFree_recomputes (s : State) : (s.useFree).recomputes = s.recomputes := rfl
@[simp] theorem State.useFree_disabled (s : State) : (s.useFree).disabled = s.disabled := rfl
@[simp] theorem State.useFree_retired (s : State) : (s.useFree).retired = s.retired := rfl
@[simp] theorem State.useFree_dev (s : State) : (s.useFree).dev = s.dev := rfl
@[simp] theorem State.useFree_ports (s : State) : (s.useFree).ports = s.ports := rfl
@[simp] theorem State.useFree_routes (s : State) : (s.useFree).routes = s.routes := rfl
@[simp] theorem State.useFree_launches (s : State) : (s.useFree).launches = s.launches := rfl
@[simp] theorem State.useFree_near (s : State) : (s.useFree).near = s.near := rfl
@[simp] theorem State.useFree_mgrant (s : State) : (s.useFree).mgrant = s.mgrant := rfl
@[simp] theorem State.useFree_dirs (s : State) : (s.useFree).dirs = s.dirs := rfl
@[simp] theorem State.useFree_lqs (s : State) : (s.useFree).lqs = s.lqs := rfl
@[simp] theorem State.useFree_stage (s : State) : (s.useFree).stage = s.stage := rfl
@[simp] theorem State.useFree_pwr (s : State) : (s.useFree).pwr = s.pwr := rfl
@[simp] theorem State.useFree_capped (s : State) : (s.useFree).capped = s.capped := rfl
@[simp] theorem State.useFree_pwrlim (s : State) : (s.useFree).pwrlim = s.pwrlim := rfl
@[simp] theorem State.useFree_dropcnt (s : State) : (s.useFree).dropcnt = s.dropcnt := rfl
@[simp] theorem State.useFree_herr (s : State) : (s.useFree).herr = s.herr := rfl
@[simp] theorem State.useFree_images (s : State) : (s.useFree).images = s.images := rfl
@[simp] theorem State.useFree_keyDigest (s : State) : (s.useFree).keyDigest = s.keyDigest := rfl
@[simp] theorem State.useFree_fusedFloor (s : State) : (s.useFree).fusedFloor = s.fusedFloor := rfl
@[simp] theorem State.useFree_mirrors (s : State) : (s.useFree).mirrors = s.mirrors := rfl
@[simp] theorem State.useFree_attbox (s : State) : (s.useFree).attbox = s.attbox := rfl
@[simp] theorem State.useFree_hostMem (s : State) : (s.useFree).hostMem = s.hostMem := rfl
@[simp] theorem State.useFree_msi (s : State) : (s.useFree).msi = s.msi := rfl
@[simp] theorem State.useFree_crPorts (s : State) : (s.useFree).crPorts = s.crPorts := rfl
@[simp] theorem State.useFree_hostReply (s : State) : (s.useFree).hostReply = s.hostReply := rfl
@[simp] theorem State.useFree_saves (s : State) : (s.useFree).saves = s.saves := rfl
@[simp] theorem State.useFree_upsets (s : State) : (s.useFree).upsets = s.upsets := rfl
@[simp] theorem State.useFree_bar2 (s : State) : (s.useFree).bar2 = s.bar2 := rfl
@[simp] theorem State.useFree_cur (s : State) : (s.useFree).cur = s.cur := rfl
@[simp] theorem State.useFree_flight (s : State) : (s.useFree).flight = s.flight := rfl
@[simp] theorem State.useFree_posted (s : State) : (s.useFree).posted = s.posted := rfl
@[simp] theorem State.useFree_po (s : State) : (s.useFree).po = s.po := rfl
@[simp] theorem State.useFree_async (s : State) : (s.useFree).async = s.async := rfl
@[simp] theorem State.useFree_sched (s : State) : (s.useFree).sched = s.sched := rfl

/-! ## defer changes units and po alone -/

@[simp] theorem State.defer_mem (s : State) (u c : Nat) (d : Reg) (src : DefSrc) : (s.defer u c d src).mem = s.mem := rfl
@[simp] theorem State.defer_homes (s : State) (u c : Nat) (d : Reg) (src : DefSrc) : (s.defer u c d src).homes = s.homes := rfl
@[simp] theorem State.defer_dies (s : State) (u c : Nat) (d : Reg) (src : DefSrc) : (s.defer u c d src).dies = s.dies := rfl
@[simp] theorem State.defer_gens (s : State) (u c : Nat) (d : Reg) (src : DefSrc) : (s.defer u c d src).gens = s.gens := rfl
@[simp] theorem State.defer_floors (s : State) (u c : Nat) (d : Reg) (src : DefSrc) : (s.defer u c d src).floors = s.floors := rfl
@[simp] theorem State.defer_advances (s : State) (u c : Nat) (d : Reg) (src : DefSrc) : (s.defer u c d src).advances = s.advances := rfl
@[simp] theorem State.defer_slices (s : State) (u c : Nat) (d : Reg) (src : DefSrc) : (s.defer u c d src).slices = s.slices := rfl
@[simp] theorem State.defer_rules (s : State) (u c : Nat) (d : Reg) (src : DefSrc) : (s.defer u c d src).rules = s.rules := rfl
@[simp] theorem State.defer_stale (s : State) (u c : Nat) (d : Reg) (src : DefSrc) : (s.defer u c d src).stale = s.stale := rfl
@[simp] theorem State.defer_recomputes (s : State) (u c : Nat) (d : Reg) (src : DefSrc) : (s.defer u c d src).recomputes = s.recomputes := rfl
@[simp] theorem State.defer_disabled (s : State) (u c : Nat) (d : Reg) (src : DefSrc) : (s.defer u c d src).disabled = s.disabled := rfl
@[simp] theorem State.defer_retired (s : State) (u c : Nat) (d : Reg) (src : DefSrc) : (s.defer u c d src).retired = s.retired := rfl
@[simp] theorem State.defer_dev (s : State) (u c : Nat) (d : Reg) (src : DefSrc) : (s.defer u c d src).dev = s.dev := rfl
@[simp] theorem State.defer_ports (s : State) (u c : Nat) (d : Reg) (src : DefSrc) : (s.defer u c d src).ports = s.ports := rfl
@[simp] theorem State.defer_routes (s : State) (u c : Nat) (d : Reg) (src : DefSrc) : (s.defer u c d src).routes = s.routes := rfl
@[simp] theorem State.defer_launches (s : State) (u c : Nat) (d : Reg) (src : DefSrc) : (s.defer u c d src).launches = s.launches := rfl
@[simp] theorem State.defer_near (s : State) (u c : Nat) (d : Reg) (src : DefSrc) : (s.defer u c d src).near = s.near := rfl
@[simp] theorem State.defer_mgrant (s : State) (u c : Nat) (d : Reg) (src : DefSrc) : (s.defer u c d src).mgrant = s.mgrant := rfl
@[simp] theorem State.defer_dirs (s : State) (u c : Nat) (d : Reg) (src : DefSrc) : (s.defer u c d src).dirs = s.dirs := rfl
@[simp] theorem State.defer_lqs (s : State) (u c : Nat) (d : Reg) (src : DefSrc) : (s.defer u c d src).lqs = s.lqs := rfl
@[simp] theorem State.defer_stage (s : State) (u c : Nat) (d : Reg) (src : DefSrc) : (s.defer u c d src).stage = s.stage := rfl
@[simp] theorem State.defer_pwr (s : State) (u c : Nat) (d : Reg) (src : DefSrc) : (s.defer u c d src).pwr = s.pwr := rfl
@[simp] theorem State.defer_capped (s : State) (u c : Nat) (d : Reg) (src : DefSrc) : (s.defer u c d src).capped = s.capped := rfl
@[simp] theorem State.defer_pwrlim (s : State) (u c : Nat) (d : Reg) (src : DefSrc) : (s.defer u c d src).pwrlim = s.pwrlim := rfl
@[simp] theorem State.defer_dropcnt (s : State) (u c : Nat) (d : Reg) (src : DefSrc) : (s.defer u c d src).dropcnt = s.dropcnt := rfl
@[simp] theorem State.defer_herr (s : State) (u c : Nat) (d : Reg) (src : DefSrc) : (s.defer u c d src).herr = s.herr := rfl
@[simp] theorem State.defer_images (s : State) (u c : Nat) (d : Reg) (src : DefSrc) : (s.defer u c d src).images = s.images := rfl
@[simp] theorem State.defer_keyDigest (s : State) (u c : Nat) (d : Reg) (src : DefSrc) : (s.defer u c d src).keyDigest = s.keyDigest := rfl
@[simp] theorem State.defer_fusedFloor (s : State) (u c : Nat) (d : Reg) (src : DefSrc) : (s.defer u c d src).fusedFloor = s.fusedFloor := rfl
@[simp] theorem State.defer_mirrors (s : State) (u c : Nat) (d : Reg) (src : DefSrc) : (s.defer u c d src).mirrors = s.mirrors := rfl
@[simp] theorem State.defer_attbox (s : State) (u c : Nat) (d : Reg) (src : DefSrc) : (s.defer u c d src).attbox = s.attbox := rfl
@[simp] theorem State.defer_hostMem (s : State) (u c : Nat) (d : Reg) (src : DefSrc) : (s.defer u c d src).hostMem = s.hostMem := rfl
@[simp] theorem State.defer_msi (s : State) (u c : Nat) (d : Reg) (src : DefSrc) : (s.defer u c d src).msi = s.msi := rfl
@[simp] theorem State.defer_crPorts (s : State) (u c : Nat) (d : Reg) (src : DefSrc) : (s.defer u c d src).crPorts = s.crPorts := rfl
@[simp] theorem State.defer_hostReply (s : State) (u c : Nat) (d : Reg) (src : DefSrc) : (s.defer u c d src).hostReply = s.hostReply := rfl
@[simp] theorem State.defer_saves (s : State) (u c : Nat) (d : Reg) (src : DefSrc) : (s.defer u c d src).saves = s.saves := rfl
@[simp] theorem State.defer_upsets (s : State) (u c : Nat) (d : Reg) (src : DefSrc) : (s.defer u c d src).upsets = s.upsets := rfl
@[simp] theorem State.defer_bar2 (s : State) (u c : Nat) (d : Reg) (src : DefSrc) : (s.defer u c d src).bar2 = s.bar2 := rfl
@[simp] theorem State.defer_cur (s : State) (u c : Nat) (d : Reg) (src : DefSrc) : (s.defer u c d src).cur = s.cur := rfl
@[simp] theorem State.defer_flight (s : State) (u c : Nat) (d : Reg) (src : DefSrc) : (s.defer u c d src).flight = s.flight := rfl
@[simp] theorem State.defer_posted (s : State) (u c : Nat) (d : Reg) (src : DefSrc) : (s.defer u c d src).posted = s.posted := rfl
@[simp] theorem State.defer_async (s : State) (u c : Nat) (d : Reg) (src : DefSrc) : (s.defer u c d src).async = s.async := rfl
@[simp] theorem State.defer_sched (s : State) (u c : Nat) (d : Reg) (src : DefSrc) : (s.defer u c d src).sched = s.sched := rfl
@[simp] theorem State.defer_free (s : State) (u c : Nat) (d : Reg) (src : DefSrc) : (s.defer u c d src).free = s.free := rfl

/-! ## deferG changes units and po alone -/

@[simp] theorem State.deferG_mem (s : State) (d : Reg) (w : Word) : (s.deferG d w).mem = s.mem := rfl
@[simp] theorem State.deferG_homes (s : State) (d : Reg) (w : Word) : (s.deferG d w).homes = s.homes := rfl
@[simp] theorem State.deferG_dies (s : State) (d : Reg) (w : Word) : (s.deferG d w).dies = s.dies := rfl
@[simp] theorem State.deferG_gens (s : State) (d : Reg) (w : Word) : (s.deferG d w).gens = s.gens := rfl
@[simp] theorem State.deferG_floors (s : State) (d : Reg) (w : Word) : (s.deferG d w).floors = s.floors := rfl
@[simp] theorem State.deferG_advances (s : State) (d : Reg) (w : Word) : (s.deferG d w).advances = s.advances := rfl
@[simp] theorem State.deferG_slices (s : State) (d : Reg) (w : Word) : (s.deferG d w).slices = s.slices := rfl
@[simp] theorem State.deferG_rules (s : State) (d : Reg) (w : Word) : (s.deferG d w).rules = s.rules := rfl
@[simp] theorem State.deferG_stale (s : State) (d : Reg) (w : Word) : (s.deferG d w).stale = s.stale := rfl
@[simp] theorem State.deferG_recomputes (s : State) (d : Reg) (w : Word) : (s.deferG d w).recomputes = s.recomputes := rfl
@[simp] theorem State.deferG_disabled (s : State) (d : Reg) (w : Word) : (s.deferG d w).disabled = s.disabled := rfl
@[simp] theorem State.deferG_retired (s : State) (d : Reg) (w : Word) : (s.deferG d w).retired = s.retired := rfl
@[simp] theorem State.deferG_dev (s : State) (d : Reg) (w : Word) : (s.deferG d w).dev = s.dev := rfl
@[simp] theorem State.deferG_ports (s : State) (d : Reg) (w : Word) : (s.deferG d w).ports = s.ports := rfl
@[simp] theorem State.deferG_routes (s : State) (d : Reg) (w : Word) : (s.deferG d w).routes = s.routes := rfl
@[simp] theorem State.deferG_launches (s : State) (d : Reg) (w : Word) : (s.deferG d w).launches = s.launches := rfl
@[simp] theorem State.deferG_near (s : State) (d : Reg) (w : Word) : (s.deferG d w).near = s.near := rfl
@[simp] theorem State.deferG_mgrant (s : State) (d : Reg) (w : Word) : (s.deferG d w).mgrant = s.mgrant := rfl
@[simp] theorem State.deferG_dirs (s : State) (d : Reg) (w : Word) : (s.deferG d w).dirs = s.dirs := rfl
@[simp] theorem State.deferG_lqs (s : State) (d : Reg) (w : Word) : (s.deferG d w).lqs = s.lqs := rfl
@[simp] theorem State.deferG_stage (s : State) (d : Reg) (w : Word) : (s.deferG d w).stage = s.stage := rfl
@[simp] theorem State.deferG_pwr (s : State) (d : Reg) (w : Word) : (s.deferG d w).pwr = s.pwr := rfl
@[simp] theorem State.deferG_capped (s : State) (d : Reg) (w : Word) : (s.deferG d w).capped = s.capped := rfl
@[simp] theorem State.deferG_pwrlim (s : State) (d : Reg) (w : Word) : (s.deferG d w).pwrlim = s.pwrlim := rfl
@[simp] theorem State.deferG_dropcnt (s : State) (d : Reg) (w : Word) : (s.deferG d w).dropcnt = s.dropcnt := rfl
@[simp] theorem State.deferG_herr (s : State) (d : Reg) (w : Word) : (s.deferG d w).herr = s.herr := rfl
@[simp] theorem State.deferG_images (s : State) (d : Reg) (w : Word) : (s.deferG d w).images = s.images := rfl
@[simp] theorem State.deferG_keyDigest (s : State) (d : Reg) (w : Word) : (s.deferG d w).keyDigest = s.keyDigest := rfl
@[simp] theorem State.deferG_fusedFloor (s : State) (d : Reg) (w : Word) : (s.deferG d w).fusedFloor = s.fusedFloor := rfl
@[simp] theorem State.deferG_mirrors (s : State) (d : Reg) (w : Word) : (s.deferG d w).mirrors = s.mirrors := rfl
@[simp] theorem State.deferG_attbox (s : State) (d : Reg) (w : Word) : (s.deferG d w).attbox = s.attbox := rfl
@[simp] theorem State.deferG_hostMem (s : State) (d : Reg) (w : Word) : (s.deferG d w).hostMem = s.hostMem := rfl
@[simp] theorem State.deferG_msi (s : State) (d : Reg) (w : Word) : (s.deferG d w).msi = s.msi := rfl
@[simp] theorem State.deferG_crPorts (s : State) (d : Reg) (w : Word) : (s.deferG d w).crPorts = s.crPorts := rfl
@[simp] theorem State.deferG_hostReply (s : State) (d : Reg) (w : Word) : (s.deferG d w).hostReply = s.hostReply := rfl
@[simp] theorem State.deferG_saves (s : State) (d : Reg) (w : Word) : (s.deferG d w).saves = s.saves := rfl
@[simp] theorem State.deferG_upsets (s : State) (d : Reg) (w : Word) : (s.deferG d w).upsets = s.upsets := rfl
@[simp] theorem State.deferG_bar2 (s : State) (d : Reg) (w : Word) : (s.deferG d w).bar2 = s.bar2 := rfl
@[simp] theorem State.deferG_cur (s : State) (d : Reg) (w : Word) : (s.deferG d w).cur = s.cur := rfl
@[simp] theorem State.deferG_flight (s : State) (d : Reg) (w : Word) : (s.deferG d w).flight = s.flight := rfl
@[simp] theorem State.deferG_posted (s : State) (d : Reg) (w : Word) : (s.deferG d w).posted = s.posted := rfl
@[simp] theorem State.deferG_async (s : State) (d : Reg) (w : Word) : (s.deferG d w).async = s.async := rfl
@[simp] theorem State.deferG_sched (s : State) (d : Reg) (w : Word) : (s.deferG d w).sched = s.sched := rfl
@[simp] theorem State.deferG_free (s : State) (d : Reg) (w : Word) : (s.deferG d w).free = s.free := rfl

/-! ## deferF changes units and po alone -/

@[simp] theorem State.deferF_mem (s : State) (d : Reg) (w : Word) (f : BitVec 5) : (s.deferF d w f).mem = s.mem := rfl
@[simp] theorem State.deferF_homes (s : State) (d : Reg) (w : Word) (f : BitVec 5) : (s.deferF d w f).homes = s.homes := rfl
@[simp] theorem State.deferF_dies (s : State) (d : Reg) (w : Word) (f : BitVec 5) : (s.deferF d w f).dies = s.dies := rfl
@[simp] theorem State.deferF_gens (s : State) (d : Reg) (w : Word) (f : BitVec 5) : (s.deferF d w f).gens = s.gens := rfl
@[simp] theorem State.deferF_floors (s : State) (d : Reg) (w : Word) (f : BitVec 5) : (s.deferF d w f).floors = s.floors := rfl
@[simp] theorem State.deferF_advances (s : State) (d : Reg) (w : Word) (f : BitVec 5) : (s.deferF d w f).advances = s.advances := rfl
@[simp] theorem State.deferF_slices (s : State) (d : Reg) (w : Word) (f : BitVec 5) : (s.deferF d w f).slices = s.slices := rfl
@[simp] theorem State.deferF_rules (s : State) (d : Reg) (w : Word) (f : BitVec 5) : (s.deferF d w f).rules = s.rules := rfl
@[simp] theorem State.deferF_stale (s : State) (d : Reg) (w : Word) (f : BitVec 5) : (s.deferF d w f).stale = s.stale := rfl
@[simp] theorem State.deferF_recomputes (s : State) (d : Reg) (w : Word) (f : BitVec 5) : (s.deferF d w f).recomputes = s.recomputes := rfl
@[simp] theorem State.deferF_disabled (s : State) (d : Reg) (w : Word) (f : BitVec 5) : (s.deferF d w f).disabled = s.disabled := rfl
@[simp] theorem State.deferF_retired (s : State) (d : Reg) (w : Word) (f : BitVec 5) : (s.deferF d w f).retired = s.retired := rfl
@[simp] theorem State.deferF_dev (s : State) (d : Reg) (w : Word) (f : BitVec 5) : (s.deferF d w f).dev = s.dev := rfl
@[simp] theorem State.deferF_ports (s : State) (d : Reg) (w : Word) (f : BitVec 5) : (s.deferF d w f).ports = s.ports := rfl
@[simp] theorem State.deferF_routes (s : State) (d : Reg) (w : Word) (f : BitVec 5) : (s.deferF d w f).routes = s.routes := rfl
@[simp] theorem State.deferF_launches (s : State) (d : Reg) (w : Word) (f : BitVec 5) : (s.deferF d w f).launches = s.launches := rfl
@[simp] theorem State.deferF_near (s : State) (d : Reg) (w : Word) (f : BitVec 5) : (s.deferF d w f).near = s.near := rfl
@[simp] theorem State.deferF_mgrant (s : State) (d : Reg) (w : Word) (f : BitVec 5) : (s.deferF d w f).mgrant = s.mgrant := rfl
@[simp] theorem State.deferF_dirs (s : State) (d : Reg) (w : Word) (f : BitVec 5) : (s.deferF d w f).dirs = s.dirs := rfl
@[simp] theorem State.deferF_lqs (s : State) (d : Reg) (w : Word) (f : BitVec 5) : (s.deferF d w f).lqs = s.lqs := rfl
@[simp] theorem State.deferF_stage (s : State) (d : Reg) (w : Word) (f : BitVec 5) : (s.deferF d w f).stage = s.stage := rfl
@[simp] theorem State.deferF_pwr (s : State) (d : Reg) (w : Word) (f : BitVec 5) : (s.deferF d w f).pwr = s.pwr := rfl
@[simp] theorem State.deferF_capped (s : State) (d : Reg) (w : Word) (f : BitVec 5) : (s.deferF d w f).capped = s.capped := rfl
@[simp] theorem State.deferF_pwrlim (s : State) (d : Reg) (w : Word) (f : BitVec 5) : (s.deferF d w f).pwrlim = s.pwrlim := rfl
@[simp] theorem State.deferF_dropcnt (s : State) (d : Reg) (w : Word) (f : BitVec 5) : (s.deferF d w f).dropcnt = s.dropcnt := rfl
@[simp] theorem State.deferF_herr (s : State) (d : Reg) (w : Word) (f : BitVec 5) : (s.deferF d w f).herr = s.herr := rfl
@[simp] theorem State.deferF_images (s : State) (d : Reg) (w : Word) (f : BitVec 5) : (s.deferF d w f).images = s.images := rfl
@[simp] theorem State.deferF_keyDigest (s : State) (d : Reg) (w : Word) (f : BitVec 5) : (s.deferF d w f).keyDigest = s.keyDigest := rfl
@[simp] theorem State.deferF_fusedFloor (s : State) (d : Reg) (w : Word) (f : BitVec 5) : (s.deferF d w f).fusedFloor = s.fusedFloor := rfl
@[simp] theorem State.deferF_mirrors (s : State) (d : Reg) (w : Word) (f : BitVec 5) : (s.deferF d w f).mirrors = s.mirrors := rfl
@[simp] theorem State.deferF_attbox (s : State) (d : Reg) (w : Word) (f : BitVec 5) : (s.deferF d w f).attbox = s.attbox := rfl
@[simp] theorem State.deferF_hostMem (s : State) (d : Reg) (w : Word) (f : BitVec 5) : (s.deferF d w f).hostMem = s.hostMem := rfl
@[simp] theorem State.deferF_msi (s : State) (d : Reg) (w : Word) (f : BitVec 5) : (s.deferF d w f).msi = s.msi := rfl
@[simp] theorem State.deferF_crPorts (s : State) (d : Reg) (w : Word) (f : BitVec 5) : (s.deferF d w f).crPorts = s.crPorts := rfl
@[simp] theorem State.deferF_hostReply (s : State) (d : Reg) (w : Word) (f : BitVec 5) : (s.deferF d w f).hostReply = s.hostReply := rfl
@[simp] theorem State.deferF_saves (s : State) (d : Reg) (w : Word) (f : BitVec 5) : (s.deferF d w f).saves = s.saves := rfl
@[simp] theorem State.deferF_upsets (s : State) (d : Reg) (w : Word) (f : BitVec 5) : (s.deferF d w f).upsets = s.upsets := rfl
@[simp] theorem State.deferF_bar2 (s : State) (d : Reg) (w : Word) (f : BitVec 5) : (s.deferF d w f).bar2 = s.bar2 := rfl
@[simp] theorem State.deferF_cur (s : State) (d : Reg) (w : Word) (f : BitVec 5) : (s.deferF d w f).cur = s.cur := rfl
@[simp] theorem State.deferF_flight (s : State) (d : Reg) (w : Word) (f : BitVec 5) : (s.deferF d w f).flight = s.flight := rfl
@[simp] theorem State.deferF_posted (s : State) (d : Reg) (w : Word) (f : BitVec 5) : (s.deferF d w f).posted = s.posted := rfl
@[simp] theorem State.deferF_async (s : State) (d : Reg) (w : Word) (f : BitVec 5) : (s.deferF d w f).async = s.async := rfl
@[simp] theorem State.deferF_sched (s : State) (d : Reg) (w : Word) (f : BitVec 5) : (s.deferF d w f).sched = s.sched := rfl
@[simp] theorem State.deferF_free (s : State) (d : Reg) (w : Word) (f : BitVec 5) : (s.deferF d w f).free = s.free := rfl

/-! ## answer changes units alone -/

@[simp] theorem State.answer_mem (s : State) (u c id : Nat) (src : DefSrc) : (s.answer u c id src).mem = s.mem := rfl
@[simp] theorem State.answer_homes (s : State) (u c id : Nat) (src : DefSrc) : (s.answer u c id src).homes = s.homes := rfl
@[simp] theorem State.answer_dies (s : State) (u c id : Nat) (src : DefSrc) : (s.answer u c id src).dies = s.dies := rfl
@[simp] theorem State.answer_gens (s : State) (u c id : Nat) (src : DefSrc) : (s.answer u c id src).gens = s.gens := rfl
@[simp] theorem State.answer_floors (s : State) (u c id : Nat) (src : DefSrc) : (s.answer u c id src).floors = s.floors := rfl
@[simp] theorem State.answer_advances (s : State) (u c id : Nat) (src : DefSrc) : (s.answer u c id src).advances = s.advances := rfl
@[simp] theorem State.answer_slices (s : State) (u c id : Nat) (src : DefSrc) : (s.answer u c id src).slices = s.slices := rfl
@[simp] theorem State.answer_rules (s : State) (u c id : Nat) (src : DefSrc) : (s.answer u c id src).rules = s.rules := rfl
@[simp] theorem State.answer_stale (s : State) (u c id : Nat) (src : DefSrc) : (s.answer u c id src).stale = s.stale := rfl
@[simp] theorem State.answer_recomputes (s : State) (u c id : Nat) (src : DefSrc) : (s.answer u c id src).recomputes = s.recomputes := rfl
@[simp] theorem State.answer_disabled (s : State) (u c id : Nat) (src : DefSrc) : (s.answer u c id src).disabled = s.disabled := rfl
@[simp] theorem State.answer_retired (s : State) (u c id : Nat) (src : DefSrc) : (s.answer u c id src).retired = s.retired := rfl
@[simp] theorem State.answer_dev (s : State) (u c id : Nat) (src : DefSrc) : (s.answer u c id src).dev = s.dev := rfl
@[simp] theorem State.answer_ports (s : State) (u c id : Nat) (src : DefSrc) : (s.answer u c id src).ports = s.ports := rfl
@[simp] theorem State.answer_routes (s : State) (u c id : Nat) (src : DefSrc) : (s.answer u c id src).routes = s.routes := rfl
@[simp] theorem State.answer_launches (s : State) (u c id : Nat) (src : DefSrc) : (s.answer u c id src).launches = s.launches := rfl
@[simp] theorem State.answer_near (s : State) (u c id : Nat) (src : DefSrc) : (s.answer u c id src).near = s.near := rfl
@[simp] theorem State.answer_mgrant (s : State) (u c id : Nat) (src : DefSrc) : (s.answer u c id src).mgrant = s.mgrant := rfl
@[simp] theorem State.answer_dirs (s : State) (u c id : Nat) (src : DefSrc) : (s.answer u c id src).dirs = s.dirs := rfl
@[simp] theorem State.answer_lqs (s : State) (u c id : Nat) (src : DefSrc) : (s.answer u c id src).lqs = s.lqs := rfl
@[simp] theorem State.answer_stage (s : State) (u c id : Nat) (src : DefSrc) : (s.answer u c id src).stage = s.stage := rfl
@[simp] theorem State.answer_pwr (s : State) (u c id : Nat) (src : DefSrc) : (s.answer u c id src).pwr = s.pwr := rfl
@[simp] theorem State.answer_capped (s : State) (u c id : Nat) (src : DefSrc) : (s.answer u c id src).capped = s.capped := rfl
@[simp] theorem State.answer_pwrlim (s : State) (u c id : Nat) (src : DefSrc) : (s.answer u c id src).pwrlim = s.pwrlim := rfl
@[simp] theorem State.answer_dropcnt (s : State) (u c id : Nat) (src : DefSrc) : (s.answer u c id src).dropcnt = s.dropcnt := rfl
@[simp] theorem State.answer_herr (s : State) (u c id : Nat) (src : DefSrc) : (s.answer u c id src).herr = s.herr := rfl
@[simp] theorem State.answer_images (s : State) (u c id : Nat) (src : DefSrc) : (s.answer u c id src).images = s.images := rfl
@[simp] theorem State.answer_keyDigest (s : State) (u c id : Nat) (src : DefSrc) : (s.answer u c id src).keyDigest = s.keyDigest := rfl
@[simp] theorem State.answer_fusedFloor (s : State) (u c id : Nat) (src : DefSrc) : (s.answer u c id src).fusedFloor = s.fusedFloor := rfl
@[simp] theorem State.answer_mirrors (s : State) (u c id : Nat) (src : DefSrc) : (s.answer u c id src).mirrors = s.mirrors := rfl
@[simp] theorem State.answer_attbox (s : State) (u c id : Nat) (src : DefSrc) : (s.answer u c id src).attbox = s.attbox := rfl
@[simp] theorem State.answer_hostMem (s : State) (u c id : Nat) (src : DefSrc) : (s.answer u c id src).hostMem = s.hostMem := rfl
@[simp] theorem State.answer_msi (s : State) (u c id : Nat) (src : DefSrc) : (s.answer u c id src).msi = s.msi := rfl
@[simp] theorem State.answer_crPorts (s : State) (u c id : Nat) (src : DefSrc) : (s.answer u c id src).crPorts = s.crPorts := rfl
@[simp] theorem State.answer_hostReply (s : State) (u c id : Nat) (src : DefSrc) : (s.answer u c id src).hostReply = s.hostReply := rfl
@[simp] theorem State.answer_saves (s : State) (u c id : Nat) (src : DefSrc) : (s.answer u c id src).saves = s.saves := rfl
@[simp] theorem State.answer_upsets (s : State) (u c id : Nat) (src : DefSrc) : (s.answer u c id src).upsets = s.upsets := rfl
@[simp] theorem State.answer_bar2 (s : State) (u c id : Nat) (src : DefSrc) : (s.answer u c id src).bar2 = s.bar2 := rfl
@[simp] theorem State.answer_cur (s : State) (u c id : Nat) (src : DefSrc) : (s.answer u c id src).cur = s.cur := rfl
@[simp] theorem State.answer_flight (s : State) (u c id : Nat) (src : DefSrc) : (s.answer u c id src).flight = s.flight := rfl
@[simp] theorem State.answer_posted (s : State) (u c id : Nat) (src : DefSrc) : (s.answer u c id src).posted = s.posted := rfl
@[simp] theorem State.answer_po (s : State) (u c id : Nat) (src : DefSrc) : (s.answer u c id src).po = s.po := rfl
@[simp] theorem State.answer_async (s : State) (u c id : Nat) (src : DefSrc) : (s.answer u c id src).async = s.async := rfl
@[simp] theorem State.answer_sched (s : State) (u c id : Nat) (src : DefSrc) : (s.answer u c id src).sched = s.sched := rfl
@[simp] theorem State.answer_free (s : State) (u c id : Nat) (src : DefSrc) : (s.answer u c id src).free = s.free := rfl

end Sys2Proof.Machine
end

