-- ==== Sys2Proof/Laws/Store.lean ====
section
/-! SUPPORT. Laws of the two stores: reading what was written, reading elsewhere, and the canonical form of memory. -/

namespace Sys2Proof.Machine

/-! ## Maps -/

@[simp] theorem SMap.get_nil {α : Type} (k : Nat) (d : α) : SMap.get [] k d = d := rfl

/-- The data just put is read back. -/
@[simp] theorem SMap.get_put_same {α : Type} (m : SMap α) (k : Nat) (v d : α) : SMap.get (SMap.put m k v) k d = v := by
  induction m with
  | nil => simp [SMap.put, SMap.get]
  | cons e rest ih =>
    obtain ⟨k', v'⟩ := e
    simp only [SMap.put]
    split
    · simp [SMap.get]
    · split
      · simp [SMap.get]
      · rename_i h1 h2
        simp [SMap.get, ih, Ne.symm h2]

/-- Data at another key is not changed. -/
theorem SMap.get_put_other {α : Type} (m : SMap α) {k j : Nat} (h : j ≠ k) (v d : α) :
    SMap.get (SMap.put m k v) j d = SMap.get m j d := by
  induction m with
  | nil => simp [SMap.put, SMap.get, Ne.symm h]
  | cons e rest ih =>
    obtain ⟨k', v'⟩ := e
    simp only [SMap.put]
    split
    · simp [SMap.get, Ne.symm h]
    · split
      · rename_i h1 h2
        subst h2
        simp [SMap.get, Ne.symm h]
      · simp [SMap.get, ih]

/-! ## The canonical form -/

/-- A lower bound can be lowered. -/
theorem Memory.wfFrom_mono {m : Memory} {lo hi : Nat} (h : lo ≤ hi) (hm : Memory.wfFrom hi m = true) :
    Memory.wfFrom lo m = true := by
  cases m with
  | nil => rfl
  | cons e rest =>
    obtain ⟨a, b⟩ := e
    simp only [Memory.wfFrom, Bool.and_eq_true, decide_eq_true_eq] at hm ⊢
    exact ⟨⟨h.trans hm.1.1, hm.1.2⟩, hm.2⟩

/-- An address below the listed ones reads as the default. -/
theorem Memory.read_below {m : Memory} {lo a : Nat} (h : a < lo) (hm : Memory.wfFrom lo m = true) :
    m.read a = Config.memDefault := by
  induction m generalizing lo with
  | nil => rfl
  | cons e rest ih =>
    obtain ⟨a', b'⟩ := e
    simp only [Memory.wfFrom, Bool.and_eq_true, decide_eq_true_eq] at hm
    have h1 : a' ≠ a := by omega
    have h2 := ih (lo := a' + 1) (by omega) hm.2
    simpa [Memory.read, SMap.get, h1] using h2

/-- Writing a byte keeps the canonical form from a bound that lies below the address. -/
theorem Memory.wfFrom_write {m : Memory} {lo a : Nat} (b : Byte) (h : lo ≤ a) (hm : Memory.wfFrom lo m = true) :
    Memory.wfFrom lo (m.write a b) = true := by
  induction m generalizing lo with
  | nil =>
    simp only [Memory.write]
    split
    · rfl
    · rename_i hb
      simp [Memory.wfFrom, h, hb]
  | cons e rest ih =>
    obtain ⟨a', b'⟩ := e
    simp only [Memory.wfFrom, Bool.and_eq_true, decide_eq_true_eq] at hm
    simp only [Memory.write]
    split
    · rename_i h1
      split
      · simp [Memory.wfFrom, hm.1.1, hm.2]
        simpa using hm.1.2
      · rename_i hb
        have : a + 1 ≤ a' := h1
        simp only [Memory.wfFrom, Bool.and_eq_true, decide_eq_true_eq]
        exact ⟨⟨h, by simp [hb]⟩, ⟨this, hm.1.2⟩, hm.2⟩
    · split
      · rename_i h1 h2
        split
        · exact Memory.wfFrom_mono (by omega) hm.2
        · rename_i hb
          simp only [Memory.wfFrom, Bool.and_eq_true, decide_eq_true_eq]
          exact ⟨⟨h, by simp [hb]⟩, h2 ▸ hm.2⟩
      · rename_i h1 h2
        simp only [Memory.wfFrom, Bool.and_eq_true, decide_eq_true_eq]
        exact ⟨hm.1, ih (by omega) hm.2⟩

/-- Every write of a byte keeps the canonical form. -/
@[simp] theorem Memory.wf_write {m : Memory} (a : Nat) (b : Byte) (hm : m.wf = true) : (m.write a b).wf = true :=
  Memory.wfFrom_write b (Nat.zero_le a) hm

/-- Every write of bytes keeps the canonical form. -/
@[simp] theorem Memory.wf_writeBytes {m : Memory} (a : Nat) (bs : List Byte) (hm : m.wf = true) :
    (m.writeBytes a bs).wf = true := by
  induction bs generalizing m a with
  | nil => exact hm
  | cons b rest ih => exact ih (a + 1) (Memory.wf_write a b hm)

/-- Every write of a doubleword keeps the canonical form. -/
@[simp] theorem Memory.wf_write64 {m : Memory} (a : Nat) (w : Word) (hm : m.wf = true) : (m.write64 a w).wf = true :=
  Memory.wf_writeBytes a _ hm

/-- Empty memory is in canonical form. -/
@[simp] theorem Memory.wf_nil : Memory.wf [] = true := rfl

/-! ## Reading and writing bytes -/

/-- Another address reads as before. -/
theorem Memory.read_write_other (m : Memory) {a j : Nat} (h : j ≠ a) (b : Byte) : (m.write a b).read j = m.read j := by
  induction m with
  | nil =>
    simp only [Memory.write]
    split <;> simp [Memory.read, SMap.get, Ne.symm h]
  | cons e rest ih =>
    obtain ⟨a', b'⟩ := e
    simp only [Memory.read] at ih ⊢
    simp only [Memory.write]
    split
    · split <;> simp [SMap.get, Ne.symm h]
    · split
      · rename_i h2
        subst h2
        split <;> simp [SMap.get, Ne.symm h]
      · simp [SMap.get, ih]

/-- The byte written is read back. -/
theorem Memory.read_write_same {m : Memory} (a : Nat) (b : Byte) (hm : m.wf = true) : (m.write a b).read a = b := by
  suffices ∀ lo, Memory.wfFrom lo m = true → (m.write a b).read a = b from this 0 hm
  intro lo hlo
  clear hm
  induction m generalizing lo with
  | nil =>
    simp only [Memory.write]
    split
    · rename_i hb; simp [Memory.read, SMap.get, hb]
    · simp [Memory.read, SMap.get]
  | cons e rest ih =>
    obtain ⟨a', b'⟩ := e
    simp only [Memory.wfFrom, Bool.and_eq_true, decide_eq_true_eq] at hlo
    simp only [Memory.write]
    split
    · rename_i h1
      split
      · rename_i hb
        have h2 := Memory.read_below (m := rest) (a := a) (lo := a' + 1) (by omega) hlo.2
        have h3 : a' ≠ a := by omega
        simp only [Memory.read, SMap.get, if_neg h3] at h2 ⊢
        rw [h2, hb]
      · simp [Memory.read, SMap.get]
    · split
      · rename_i h1 h2
        subst h2
        split
        · rename_i hb
          rw [Memory.read_below (m := rest) (a := a) (lo := a + 1) (by omega) hlo.2, hb]
        · simp [Memory.read, SMap.get]
      · rename_i h1 h2
        have := ih (a' + 1) hlo.2
        simp only [Memory.read, SMap.get, if_neg (Ne.symm h2)] at this ⊢
        exact this

/-- An address outside a run of bytes written reads as before. -/
theorem Memory.read_writeBytes_other (m : Memory) (a : Nat) (bs : List Byte) {j : Nat} (h : j < a ∨ a + bs.length ≤ j) :
    (m.writeBytes a bs).read j = m.read j := by
  induction bs generalizing m a with
  | nil => rfl
  | cons b rest ih =>
    simp only [List.length_cons] at h
    simp only [Memory.writeBytes]
    rw [ih _ _ (by omega), Memory.read_write_other _ (by omega)]

/-- The bytes written are read back. -/
theorem Memory.readBytes_writeBytes_same {m : Memory} (a : Nat) (bs : List Byte) (hm : m.wf = true) :
    (m.writeBytes a bs).readBytes a bs.length = bs := by
  induction bs generalizing m a with
  | nil => rfl
  | cons b rest ih =>
    simp only [Memory.writeBytes, List.length_cons, Memory.readBytes]
    rw [ih _ (Memory.wf_write a b hm), Memory.read_writeBytes_other _ _ _ (by omega), Memory.read_write_same _ _ hm]

/-- Bytes read apart from a run of bytes written are as before. -/
theorem Memory.readBytes_writeBytes_other (m : Memory) (a : Nat) (bs : List Byte) {j n : Nat}
    (h : j + n ≤ a ∨ a + bs.length ≤ j) : (m.writeBytes a bs).readBytes j n = m.readBytes j n := by
  induction n generalizing j with
  | zero => rfl
  | succ n ih =>
    simp only [Memory.readBytes]
    rw [ih (by omega)]
    by_cases hb : bs = []
    · subst hb; rfl
    · have : 0 < bs.length := List.length_pos_of_ne_nil hb
      rw [Memory.read_writeBytes_other _ _ _ (by omega)]

/-! ## Bytes of a doubleword -/

@[simp] theorem bytesOfNat_length (n x : Nat) : (bytesOfNat n x).length = n := by
  induction n generalizing x with
  | zero => rfl
  | succ n ih => simp [bytesOfNat, ih]

@[simp] theorem bytesOf_length (n : Nat) (w : Word) : (bytesOf n w).length = n := bytesOfNat_length n _

@[simp] theorem Memory.readBytes_length (m : Memory) (a n : Nat) : (m.readBytes a n).length = n := by
  induction n generalizing a with
  | zero => rfl
  | succ n ih => simp [Memory.readBytes, ih]

/-- The bytes of a number give it back, cut to their width. -/
theorem natOfBytes_bytesOfNat (n x : Nat) : natOfBytes (bytesOfNat n x) = x % 256 ^ n := by
  induction n generalizing x with
  | zero => simp [bytesOfNat, natOfBytes, Nat.mod_one]
  | succ n ih =>
    simp only [bytesOfNat, natOfBytes, ih]
    have h : x % 256 ^ (n + 1) = x % 256 + 256 * (x / 256 % 256 ^ n) := by rw [Nat.pow_succ', Nat.mod_mul]
    rw [h, BitVec.toNat_ofNat]

/-- The bytes of a doubleword give it back. -/
@[simp] theorem wordOf_bytesOf (w : Word) : wordOf (bytesOf 8 w) = w := by
  have h : (256 : Nat) ^ 8 = 2 ^ 64 := by norm_num
  simp only [wordOf, bytesOf, natOfBytes_bytesOfNat, h]
  rw [Nat.mod_eq_of_lt w.isLt, BitVec.ofNat_toNat, BitVec.setWidth_eq]

/-- The doubleword written is read back. -/
theorem Memory.read64_write64_same {m : Memory} (a : Nat) (w : Word) (hm : m.wf = true) : (m.write64 a w).read64 a = w := by
  have h := Memory.readBytes_writeBytes_same a (bytesOf 8 w) hm
  simp only [bytesOf_length] at h
  simp [Memory.read64, Memory.write64, h]

/-- A doubleword apart from the one written reads as before. -/
theorem Memory.read64_write64_other (m : Memory) {a j : Nat} (w : Word) (h : j + 8 ≤ a ∨ a + 8 ≤ j) :
    (m.write64 a w).read64 j = m.read64 j := by
  simp only [Memory.read64, Memory.write64]
  rw [Memory.readBytes_writeBytes_other _ _ _ (by simpa using h)]

/-- A byte apart from the doubleword written reads as before. -/
theorem Memory.read_write64_other (m : Memory) {a j : Nat} (w : Word) (h : j < a ∨ a + 8 ≤ j) :
    (m.write64 a w).read j = m.read j :=
  Memory.read_writeBytes_other _ _ _ (by simpa using h)

end Sys2Proof.Machine
end

