-- ==== Sys2Proof/Laws/Ops.lean ====
section
/-! SUPPORT. Laws of units, contexts and registers: what an update of one leaves of the others, and that the registers of a window lie
apart. -/

namespace Sys2Proof.Machine

/-! ## Units and contexts -/

@[simp] theorem State.unit_setUnit_same (s : State) (u : Nat) (x : UnitState) : (s.setUnit u x).unit u = x :=
  SMap.get_put_same _ _ _ _

theorem State.unit_setUnit_other (s : State) {u v : Nat} (h : v ≠ u) (x : UnitState) : (s.setUnit u x).unit v = s.unit v :=
  SMap.get_put_other _ h _ _

@[simp] theorem State.unit_modUnit_same (s : State) (u : Nat) (f : UnitState → UnitState) :
    (s.modUnit u f).unit u = f (s.unit u) := SMap.get_put_same _ _ _ _

theorem State.unit_modUnit_other (s : State) {u v : Nat} (h : v ≠ u) (f : UnitState → UnitState) :
    (s.modUnit u f).unit v = s.unit v := SMap.get_put_other _ h _ _

/-- The unit of a replaced context changes in its contexts alone. -/
theorem State.unit_setCtx_same (s : State) (u c : Nat) (x : Ctx) :
    (s.setCtx u c x).unit u = { s.unit u with ctxs := SMap.put (s.unit u).ctxs c x } := by
  simp [State.setCtx]

theorem State.unit_setCtx_other (s : State) {u v : Nat} (h : v ≠ u) (c : Nat) (x : Ctx) :
    (s.setCtx u c x).unit v = s.unit v := State.unit_modUnit_other s h _

@[simp] theorem State.ctx_setCtx_same (s : State) (u c : Nat) (x : Ctx) : (s.setCtx u c x).ctx u c = x := by
  simp [State.ctx, UnitState.ctx, State.unit_setCtx_same]

theorem State.ctx_setCtx_other (s : State) {u c v d : Nat} (h : ¬ (v = u ∧ d = c)) (x : Ctx) :
    (s.setCtx u c x).ctx v d = s.ctx v d := by
  by_cases hv : v = u
  · subst hv
    have hd : d ≠ c := fun e => h ⟨rfl, e⟩
    simp [State.ctx, UnitState.ctx, State.unit_setCtx_same, SMap.get_put_other _ hd]
  · simp [State.ctx, State.unit_setCtx_other s hv]

@[simp] theorem State.ctx_modCtx_same (s : State) (u c : Nat) (f : Ctx → Ctx) : (s.modCtx u c f).ctx u c = f (s.ctx u c) :=
  State.ctx_setCtx_same s u c _

theorem State.ctx_modCtx_other (s : State) {u c v d : Nat} (h : ¬ (v = u ∧ d = c)) (f : Ctx → Ctx) :
    (s.modCtx u c f).ctx v d = s.ctx v d := State.ctx_setCtx_other s h _

@[simp] theorem State.c_setCtx (s : State) (u c : Nat) (x : Ctx) : (s.setCtx u c x).c = s.c := by
  simp only [State.c, State.setCtx_cur]
  by_cases h : s.cur = u
  · subst h; simp [State.unit_setCtx_same]
  · rw [State.unit_setCtx_other s h]

@[simp] theorem State.c_modCtx (s : State) (u c : Nat) (f : Ctx → Ctx) : (s.modCtx u c f).c = s.c := State.c_setCtx s u c _

@[simp] theorem State.c_modC (s : State) (f : Ctx → Ctx) : (s.modC f).c = s.c := State.c_modCtx s _ _ f

@[simp] theorem State.cx_modC (s : State) (f : Ctx → Ctx) : (s.modC f).cx = f s.cx := by
  simp only [State.cx, State.c_modC, State.modC_cur]
  exact State.ctx_modCtx_same s s.cur s.c f

@[simp] theorem State.pc_setPc (s : State) (w : Word) : (s.setPc w).pc = w := by simp [State.pc, State.setPc]

@[simp] theorem State.pc_advance (s : State) : s.advance.pc = s.pc + 4#64 := State.pc_setPc s _

@[simp] theorem State.c_setPc (s : State) (w : Word) : (s.setPc w).c = s.c := State.c_modC s _

@[simp] theorem State.c_advance (s : State) : s.advance.c = s.c := State.c_setPc s _

/-! ## Registers -/

@[simp] theorem State.unit_setReg (s : State) (u c : Nat) (r : Reg) (w : Word) (v : Nat) : (s.setReg u c r w).unit v = s.unit v :=
  rfl

@[simp] theorem State.ctx_setReg (s : State) (u c : Nat) (r : Reg) (w : Word) (v d : Nat) :
    (s.setReg u c r w).ctx v d = s.ctx v d := rfl

@[simp] theorem State.c_setG (s : State) (r : Reg) (w : Word) : (s.setG r w).c = s.c := rfl

@[simp] theorem State.cx_setG (s : State) (r : Reg) (w : Word) : (s.setG r w).cx = s.cx := rfl

@[simp] theorem State.pc_setG (s : State) (r : Reg) (w : Word) : (s.setG r w).pc = s.pc := rfl

/-- A register just written is read back. -/
theorem State.reg_setReg_same {s : State} (h : s.memOk) (u c : Nat) (r : Reg) (w : Word) : (s.setReg u c r w).reg u c r = w :=
  Memory.read64_write64_same _ w h

/-- A change of a context that keeps its window's offsets keeps its registers. -/
theorem State.reg_setCtx {s : State} {u c : Nat} {x : Ctx} (h : ∀ n, x.regOff n = (s.ctx u c).regOff n) (v d : Nat) (r : Reg) :
    (s.setCtx u c x).reg v d r = s.reg v d r := by
  by_cases e : v = u ∧ d = c
  · obtain ⟨rfl, rfl⟩ := e
    simp [State.reg, regPa, h]
  · simp [State.reg, regPa, State.ctx_setCtx_other s e]

/-- The offsets of a window depend on WP, FRB, CAP and, for its linear forms, on the handlers that run. -/
theorem Ctx.regOff_congr {x y : Ctx} (hw : x.wp = y.wp) (hf : x.frb = y.frb) (hc : x.cap = y.cap) (hl : x.linear = y.linear)
    (n : Nat) : x.regOff n = y.regOff n := by
  simp only [Ctx.regOff, Ctx.ringAddr, Ctx.ring, Ctx.span, hw, hf, hc, hl]

/-- Whether a window is linear depends on WP, the ring, and the handlers that run. -/
theorem Ctx.linear_congr {x y : Ctx} (hw : x.wp = y.wp) (hf : x.frb = y.frb) (hc : x.cap = y.cap) (ht : x.twb = y.twb)
    (hn : x.nact = y.nact) (hh : x.nwin = y.nwin) (he : x.faults = y.faults) : x.linear = y.linear := by
  simp only [Ctx.linear, Ctx.act, Ctx.curEntry, Ctx.isSlot, hw, hf, hc, ht, hn, hh, he]

/-- Moving the PC keeps the offsets. -/
@[simp] theorem Ctx.regOff_pc (x : Ctx) (w : Word) (n : Nat) : Ctx.regOff { x with pc := w } n = x.regOff n :=
  Ctx.regOff_congr rfl rfl rfl (Ctx.linear_congr rfl rfl rfl rfl rfl rfl rfl) n

/-- Moving the PC keeps every register. -/
@[simp] theorem State.reg_setPc (s : State) (w : Word) (v d : Nat) (r : Reg) : (s.setPc w).reg v d r = s.reg v d r := by
  unfold State.setPc State.modC State.modCtx
  exact State.reg_setCtx (fun n => Ctx.regOff_pc _ w n) v d r

@[simp] theorem State.g_setPc (s : State) (w : Word) (r : Reg) : (s.setPc w).g r = s.g r := by
  simp [State.g]

@[simp] theorem State.g_advance (s : State) (r : Reg) : s.advance.g r = s.g r := State.g_setPc s _ r

/-! ## The registers of a window lie apart -/

/-- The span of a ring of at most 64 frames is small. -/
theorem Ctx.span_le {x : Ctx} (h : x.cap.toNat ≤ 64) : x.span ≤ 12288 := by
  simp only [Ctx.span]; omega

/-- The offset of a register of a linear window. -/
theorem Ctx.regOff_linear {x : Ctx} {n : Nat} (hl : x.linear = true) (hn : n < 32) (hw : x.wp.toNat + 256 < 2 ^ 64) :
    (x.regOff n).toNat = x.wp.toNat + 8 * n := by
  simp only [Ctx.regOff, hl, if_true, BitVec.toNat_add, BitVec.toNat_ofNat]
  omega

/-- The offset of a register of a window in the ring. -/
theorem Ctx.regOff_ring {x : Ctx} {n : Nat} (hl : x.linear = false) (hn : n < 32) (hc : x.cap.toNat ≤ 64)
    (hf : x.frb.toNat + x.span < 2 ^ 63) :
    (x.regOff n).toNat = x.frb.toNat + (x.wp.toNat - x.frb.toNat + 8 * n) % x.span := by
  have hs : x.isSlot x.wp = true := by
    simp only [Ctx.linear, Bool.or_eq_false_iff, Bool.not_eq_false'] at hl
    exact hl.2
  simp only [Ctx.isSlot, Bool.and_eq_true, decide_eq_true_eq] at hs
  obtain ⟨⟨h1, h2⟩, h3⟩ := hs
  have hsp := Ctx.span_le hc
  have hk : x.wp.toNat - x.frb.toNat < x.span := by simp only [Ctx.span]; omega
  have hd : (x.wp + BitVec.ofNat 64 (8 * n) - x.frb).toNat = x.wp.toNat - x.frb.toNat + 8 * n := by
    simp only [BitVec.toNat_sub, BitVec.toNat_add, BitVec.toNat_ofNat]
    omega
  have hi : (x.wp + BitVec.ofNat 64 (8 * n) - x.frb).toInt = ((x.wp.toNat - x.frb.toNat + 8 * n : Nat) : Int) := by
    rw [BitVec.toInt_eq_toNat_of_lt (by omega), hd]
  simp only [Ctx.regOff, hl, Bool.false_eq_true, if_false, Ctx.ringAddr, Ctx.ring, hi]
  rw [← Int.natCast_emod, BitVec.ofInt_natCast, BitVec.toNat_add, BitVec.toNat_ofNat]
  have hm : (x.wp.toNat - x.frb.toNat + 8 * n) % x.span < x.span := Nat.mod_lt _ (by omega)
  omega

/-- Two multiples of 8 less than `m` apart leave remainders at least 8 apart, `m` a multiple of 8. -/
theorem mod_apart {k m : Nat} {i j : Nat} (hm : m % 8 = 0) (hk : k % 8 = 0) (h : i < j) (hj : 8 * j < 8 * i + m) :
    (k + 8 * i) % m + 8 ≤ (k + 8 * j) % m ∨ (k + 8 * j) % m + 8 ≤ (k + 8 * i) % m := by
  obtain ⟨m', rfl⟩ : ∃ m', m = 8 * m' := ⟨m / 8, by omega⟩
  obtain ⟨k', rfl⟩ : ∃ k', k = 8 * k' := ⟨k / 8, by omega⟩
  rw [← Nat.mul_add, ← Nat.mul_add, Nat.mul_mod_mul_left, Nat.mul_mod_mul_left]
  suffices (k' + i) % m' ≠ (k' + j) % m' by omega
  intro e
  have h1 : (k' + j) ≡ (k' + i) [MOD m'] := e.symm
  have h2 := (Nat.modEq_iff_dvd' (by omega : k' + i ≤ k' + j)).mp h1.symm
  have h3 := Nat.le_of_dvd (by omega) h2
  omega

/-- Every register of a window in place lies in local memory. -/
theorem regOff_lt {u : Nat} {x : Ctx} (n : Nat) (hn : n < 32)
    (h : if x.linear then x.wp.toNat + 256 ≤ localSize (kindOf u)
      else 4 ≤ x.cap.toNat ∧ x.cap.toNat ≤ 64 ∧ x.frb.toNat + x.span ≤ localSize (kindOf u)) :
    (x.regOff n).toNat < localSize (kindOf u) := by
  have hz : localSize (kindOf u) ≤ 0x80000 := by cases kindOf u <;> simp [localSize]
  cases hl : x.linear
  · simp only [hl, Bool.false_eq_true, if_false] at h
    rw [Ctx.regOff_ring hl hn h.2.1 (by omega)]
    have : 0 < x.span := by simp only [Ctx.span]; omega
    have := Nat.mod_lt (x.wp.toNat - x.frb.toNat + 8 * n) this
    omega
  · simp only [hl, if_true] at h
    rw [Ctx.regOff_linear hl hn (by omega)]
    omega

/-- The registers of a window in place lie at least eight bytes apart. -/
theorem regPa_apart {u : Nat} {x : Ctx} {r q : Reg} (hr : r ≠ q)
    (h : if x.linear then x.wp.toNat + 256 ≤ localSize (kindOf u)
      else 4 ≤ x.cap.toNat ∧ x.cap.toNat ≤ 64 ∧ x.frb.toNat + x.span ≤ localSize (kindOf u)) :
    regPa u x r + 8 ≤ regPa u x q ∨ regPa u x q + 8 ≤ regPa u x r := by
  have hr32 := r.isLt
  have hq32 := q.isLt
  have hne : r.toNat ≠ q.toNat := fun e => hr (BitVec.eq_of_toNat_eq e)
  have hz : localSize (kindOf u) ≤ 0x80000 := by cases kindOf u <;> simp [localSize]
  simp only [regPa, localPa, Nat.mod_eq_of_lt (regOff_lt r.toNat hr32 h), Nat.mod_eq_of_lt (regOff_lt q.toNat hq32 h)]
  cases hl : x.linear
  · simp only [hl, Bool.false_eq_true, if_false] at h
    rw [Ctx.regOff_ring hl hr32 h.2.1 (by omega), Ctx.regOff_ring hl hq32 h.2.1 (by omega)]
    have hs : x.isSlot x.wp = true := by
      simp only [Ctx.linear, Bool.or_eq_false_iff, Bool.not_eq_false'] at hl
      exact hl.2
    simp only [Ctx.isSlot, Bool.and_eq_true, decide_eq_true_eq] at hs
    have hk : (x.wp.toNat - x.frb.toNat) % 8 = 0 := by omega
    have hm : x.span % 8 = 0 := by simp only [Ctx.span]; omega
    have hb : 768 ≤ x.span := by simp only [Ctx.span]; omega
    rcases Nat.lt_or_gt_of_ne hne with g | g
    · have := mod_apart (k := x.wp.toNat - x.frb.toNat) hm hk g (by omega)
      omega
    · have := mod_apart (k := x.wp.toNat - x.frb.toNat) hm hk g (by omega)
      omega
  · simp only [hl, if_true] at h
    rw [Ctx.regOff_linear hl hr32 (by omega), Ctx.regOff_linear hl hq32 (by omega)]
    omega

/-- Another register of a window in place reads as before. -/
theorem State.reg_setReg_other {s : State} {u c : Nat} (h : s.winOk u c) {r q : Reg} (hr : q ≠ r) (w : Word) :
    (s.setReg u c r w).reg u c q = s.reg u c q :=
  Memory.read64_write64_other _ w (regPa_apart hr h)

/-- A register just written by the issuing context is read back. -/
theorem State.g_setG_same {s : State} (h : s.memOk) (r : Reg) (w : Word) : (s.setG r w).g r = w :=
  State.reg_setReg_same h _ _ r w

/-- Another register of the issuing context reads as before. -/
theorem State.g_setG_other {s : State} (h : s.winOk s.cur s.c) {r q : Reg} (hr : q ≠ r) (w : Word) : (s.setG r w).g q = s.g q :=
  State.reg_setReg_other h hr w

end Sys2Proof.Machine
end

