-- ==== Sys2Proof/Laws/Parks.lean ====
section
/-! SUPPORT. One law per shared operation of the parks, the traps, the posted accesses and the checks: everything that each can do. -/

namespace Sys2Proof.Machine

/-- Everything that the park before a word can do: the word acts, its park made already or now; the park waits for what is outstanding
or refused; it diverts the context; or rotation gives the issue to another context. -/
theorem State.parkFirst_cases (s : State) (act : State → State) :
    (s.cx.parked = true ∧ s.parkFirst act = act s.beginFirst)
    ∨ (∃ s1, s.settle s.cur s.c = .waiting s1 ∧ s.parkFirst act = s1.parkBefore s.cur s.c)
    ∨ (∃ s1, s.settle s.cur s.c = .diverted s1 ∧ s.parkFirst act = s1.rotate s.cur s.c)
    ∨ ∃ s1, s.settle s.cur s.c = .clear s1 ∧
      (((s1.ctx s.cur s.c).blocked ≠ [] ∧ s.parkFirst act = s1.parkBefore s.cur s.c)
        ∨ ((s1.ctx s.cur s.c).blocked = [] ∧ (s1.parkedBefore s.cur s.c).nextCtx s.cur s.c = s.c
            ∧ s.parkFirst act = act (s1.parkedBefore s.cur s.c).beginFirst)
        ∨ ((s1.ctx s.cur s.c).blocked = [] ∧ s.parkFirst act = (s1.parkedBefore s.cur s.c).rotate s.cur s.c)) := by
  unfold State.parkFirst
  by_cases h : s.cx.parked = true
  · exact .inl ⟨h, by simp only [if_pos h]⟩
  · simp only [if_neg h]
    cases hs : s.settle s.cur s.c with
    | waiting s1 => exact .inr (.inl ⟨s1, rfl, rfl⟩)
    | diverted s1 => exact .inr (.inr (.inl ⟨s1, rfl, rfl⟩))
    | clear s1 =>
      refine .inr (.inr (.inr ⟨s1, rfl, ?_⟩))
      by_cases hb : (s1.ctx s.cur s.c).blocked = []
      · by_cases hn : (s1.parkedBefore s.cur s.c).nextCtx s.cur s.c = s.c
        · exact .inr (.inl ⟨hb, hn, by simp only [hb, hn, ne_eq, not_true_eq_false, if_false, if_true]⟩)
        · exact .inr (.inr ⟨hb, by simp only [hb, hn, ne_eq, not_true_eq_false, if_false]⟩)
      · exact .inl ⟨hb, by simp only [ne_eq, hb, not_false_eq_true, if_true]⟩

/-- Everything that a precise trap of the word being issued can do: it waits at its park, its cause kept; what the park takes first
diverts the context; or the trap is taken. -/
theorem State.trapAt_cases (s : State) (cause : Cause) (tval : Word) :
    (∃ s1, s.settleFaults s.cur s.c false = .waiting s1 ∧ s.trapAt cause tval =
        (s1.modCtx s.cur s.c fun x => { x with parking := true, why := .trap cause tval, holding := false }).rotate s.cur s.c)
    ∨ (∃ s1, s.settleFaults s.cur s.c false = .diverted s1 ∧ s.trapAt cause tval = s1.rotate s.cur s.c)
    ∨ ∃ s1, s.settleFaults s.cur s.c false = .clear s1
        ∧ s.trapAt cause tval = (s1.takeTrap s.cur s.c s.pc tval s.pc false 0 cause).rotate s.cur s.c := by
  simp only [State.trapAt]
  generalize s.settleFaults s.cur s.c false = r
  cases r with
  | waiting s1 => exact .inl ⟨s1, rfl, rfl⟩
  | diverted s1 => exact .inr (.inl ⟨s1, rfl, rfl⟩)
  | clear s1 => exact .inr (.inr ⟨s1, rfl, rfl⟩)

/-- Taking an exception where a handler runs or none is set is a double trap; it ends a near-mode sequence of the context first. -/
theorem State.enterTrap_double {s : State} {u c : Nat} (h : (s.ctx u c).act = true ∨ s.handlerPc u c = 0#64) (tpc tval fpc : Word)
    (deflt : Bool) (hlp : Nat) (cause : Cause) :
    s.enterTrap u c tpc tval fpc deflt hlp cause = (s.cancelSequence u c).doubleTrap u c tpc tval fpc deflt hlp cause := by
  unfold State.enterTrap
  rcases h with h | h <;> simp [h]

/-- Posting an access performs it at once, or adds it to those in flight. -/
theorem State.post_cases (s : State) (r : Req) :
    (s.async = false ∧ s.mayPerform (s.fencedReq r) = true ∧ s.post r = s.perform (s.fencedReq r))
    ∨ ((s.async = true ∨ s.mayPerform (s.fencedReq r) = false) ∧ s.post r = { s with flight := s.flight ++ [s.fencedReq r] }) := by
  unfold State.post
  cases ha : s.async <;> cases hm : s.mayPerform (s.fencedReq r) <;> simp

/-- Where accesses are posted, posting one adds it to those in flight. -/
theorem State.post_async {s : State} (h : s.async = true) (r : Req) : s.post r = { s with flight := s.flight ++ [s.fencedReq r] } := by
  simp [State.post, h]

/-- A FENCE rel adds no more to an access than that it waits. -/
theorem State.fencedReq_eq (s : State) (r : Req) : ∃ b, s.fencedReq r = { r with rel := r.rel || b } := ⟨_, rfl⟩

/-- Draining does nothing where accesses are posted, or where none is in flight. -/
theorem State.drain_eq {s : State} (h : s.async = true ∨ s.flight = []) (u c : Nat) : s.drain u c = s := by
  unfold State.drain State.drainNow
  rcases h with h | h <;> simp [h]

/-- A deferred result stands last among those outstanding, under the next number; memory and the rest of the context stay. -/
theorem State.defer_eq (s : State) (d : Reg) (src : DefSrc) :
    (s.defer s.cur s.c d src).cx = { s.cx with defs := s.cx.defs ++ [⟨d, s.po, src, 0#5⟩] } ∧ (s.defer s.cur s.c d src).po = s.po + 1
      ∧ (s.defer s.cur s.c d src).mem = s.mem := by
  exact ⟨State.cx_modC s fun x => { x with defs := x.defs ++ [⟨d, s.po, src, 0#5⟩] }, rfl, rfl⟩

/-- A privileged word acts at S and M level and traps PRIV at U level. -/
theorem State.privileged_cases (s : State) (act : Out) :
    (s.cx.priv = .u ∧ s.privileged act = s.trapWord .priv) ∨ (s.cx.priv ≠ .u ∧ s.privileged act = act) := by
  unfold State.privileged
  cases h : s.cx.priv <;> simp

/-- A word acts where its profile executes it, and traps PROFILE elsewhere. -/
theorem State.profile_cases (s : State) (ok : Bool) (act : Out) :
    (ok = true ∧ s.profile ok act = act) ∨ (ok = false ∧ s.profile ok act = s.trapWord .profile) := by
  cases ok <;> simp [State.profile]

/-- Keeping what a step has woken turns a next state into a next state, and nothing else into one. -/
theorem latched_next (o : Out) (t : State) : latched o = .next t ↔ ∃ s, o = .next s ∧ t = s.latchWakes := by
  cases o <;> simp [latched, eq_comm]

end Sys2Proof.Machine
end

