-- ==== Sys2Proof/Laws/Quiet.lean ====
section
/-! SUPPORT. One law per shared operation over errors of the hardware, stale tiles, the store queue, the holds of issue and what is on its way to
its home: what each does, and that it does nothing where there is nothing to do. -/

namespace Sys2Proof.Machine

/-! ## No error of the hardware stands -/

theorem State.logCorrected_eq {s : State} (h : s.upsets = []) (pa n : Nat) : s.logCorrected pa n = s := by
  simp [State.logCorrected, h]

theorem State.logLocal_eq {s : State} (h : s.upsets = []) (u : Nat) (l : List (Nat × Nat)) : s.logLocal u l = s := by
  simp [State.logLocal, h]

theorem State.badData_eq {s : State} (h : s.upsets = []) (pa n : Nat) : s.badData pa n = false := by
  simp [State.badData, h]

theorem State.readBad_eq {s : State} (h : s.upsets = []) (pa n : Nat) : s.readBad pa n = false := by
  simp [State.readBad, h]

theorem State.upsetAt_eq {s : State} (h : s.upsets = []) (src : ErrSrc) (a : Nat) : s.upsetAt src a = none := by
  simp [State.upsetAt, h]

theorem State.rowError_eq {s : State} (h : s.upsets = []) (sl : Nat) (k : ArrayCmd) : s.rowError sl k = none := by
  simp [State.rowError, h]

theorem State.rowLog_eq {s : State} (h : s.upsets = []) (sl : Nat) (k : ArrayCmd) (n : Nat) : s.rowLog sl k n = s := by
  simp [State.rowLog, h]

theorem State.macLog_eq {s : State} (h : s.upsets = []) (u : Nat) (k : MatCmd) : s.macLog u k = s := by
  simp [State.macLog, State.upsetAt_eq h]

theorem State.vchecked_eq {s : State} (h : s.upsetAt .vector s.cur = none) (act : State → Out) : s.vchecked act = act s := by
  simp [State.vchecked, h]

theorem State.checked_eq {s : State} (h : s.upsetAt .scalar s.cur = none) (barred : Bool) (act : State → Out) : s.checked barred act = act s := by
  cases barred <;> simp [State.checked, h]

/-! ## No tile is stale -/

theorem State.freshen_eq {s : State} (h : s.stale = []) (pa n : Nat) : s.freshen pa n = s := by
  simp [State.freshen, h]

/-- A read at a home inside the device, with no stale tile and no error, is of the bytes that stand there. -/
theorem State.readHome_eq {s : State} (ht : s.stale = []) (hu : s.upsets = []) {pa : Nat} (hp : ∀ d o, s.place pa ≠ .peer d o)
    (hc : s.place pa ≠ .control) (n : Nat) : s.readHome pa n = (s, s.physBytes pa n) := by
  have e : (s.freshen pa n).logCorrected pa n = s := by simp only [State.freshen_eq ht, State.logCorrected_eq hu]
  cases h : s.place pa <;> simp only [State.readHome, h, e]
  · exact absurd h (hp _ _)
  · exact absurd h hc

/-! ## The store queue and the holds -/

/-- A word that posts into the store queue acts where it has a place, and else holds issue. -/
theorem State.queued_cases (s : State) (act : Out) :
    (s.storesFull s.cur = false ∧ s.queued act = act) ∨ (s.storesFull s.cur = true ∧ s.queued act = .next s.hold) := by
  unfold State.queued
  cases s.storesFull s.cur <;> simp

/-- A word that reads local memory at issue acts where nothing is yet to write there, and else holds issue. -/
theorem State.reading_cases (s : State) (off n : Nat) (act : Out) :
    (s.ownPending off n = false ∧ s.reading off n act = act) ∨ (s.ownPending off n = true ∧ s.reading off n act = .next s.hold) := by
  unfold State.reading
  cases s.ownPending off n <;> simp

/-- A hold changes the issuing context's segment alone. -/
theorem State.hold_cx (s : State) : s.hold.cx = { s.cx with seg := s.cx.seg - 1, parking := s.cx.stopDue, holding := true } :=
  State.cx_modC s _

/-- A word that has parked first waits by a hold of the unit, or by another park. -/
theorem State.waitFor_cases (s : State) (refused : Bool) :
    (refused = false ∧ s.cx.blocked = [] ∧ s.waitFor refused = s.holdFirst)
    ∨ ((refused = true ∨ s.cx.blocked ≠ []) ∧ s.waitFor refused = s.parkAgain) := by
  unfold State.waitFor State.waitFirst
  cases refused <;> by_cases h : s.cx.blocked = [] <;> simp [h]

/-! ## What is on its way -/

/-- Something sent arrives where it is on its way, and is on its way once less. -/
theorem State.takeSent_some (s t : State) (p : Posted) :
    s.takeSent p = some t ↔ p ∈ s.posted ∧ t = { s with posted := s.posted.erase p } := by
  unfold State.takeSent
  by_cases h : p ∈ s.posted <;> simp [h, eq_comm]

theorem State.takeSent_sendOut (s : State) {p : Posted} (h : p ∉ s.posted) : (s.sendOut p).takeSent p = some s := by
  simp [State.takeSent, State.sendOut, List.erase_append_right _ h]

end Sys2Proof.Machine
end

