-- ==== Sys2Proof/Laws/Shapes.lean ====
section
/-! SUPPORT. One law per shared shape: what a word that writes a register, branches, or passes on does, in full. -/

namespace Sys2Proof.Machine

open Claims

/-- A register written and the word passed: the effect and its frame. -/
theorem State.wrote_setG {s : State} (h : s.regOk) (d : Reg) (v : Word) : Wrote s (s.setG d v).advance d v := by
  refine ⟨?_, fun r hr => ?_, fun a ha => ?_, ?_, ?_, rfl⟩
  · rw [State.g_advance, State.g_setG_same h.1]
  · rw [State.g_advance, State.g_setG_other h.2 hr]
  · exact Memory.read_write64_other _ v ha
  · exact Memory.wf_write64 _ v h.1
  · rw [State.pc_advance, State.pc_setG]

/-- A binary operation writes its result and passes on. -/
theorem State.bin_wrote {s : State} (h : s.regOk) (d a b : Reg) (f : Word → Word → Word) :
    ∃ t, s.bin d a b f = .next t ∧ Wrote s t d (f (s.g a) (s.g b)) := ⟨_, rfl, State.wrote_setG h d _⟩

/-- A binary W form writes its result, sign-extended, and passes on. -/
theorem State.binW_wrote {s : State} (h : s.regOk) (d a b : Reg) (f : Word32 → Word32 → Word32) :
    ∃ t, s.binW d a b f = .next t ∧ Wrote s t d (ext32 (f (lo32 (s.g a)) (lo32 (s.g b)))) :=
  ⟨_, rfl, State.wrote_setG h d _⟩

/-- A unary operation writes its result and passes on. -/
theorem State.un_wrote {s : State} (h : s.regOk) (d a : Reg) (f : Word → Word) :
    ∃ t, s.un d a f = .next t ∧ Wrote s t d (f (s.g a)) := ⟨_, rfl, State.wrote_setG h d _⟩

/-- A unary W form writes its result, sign-extended, and passes on. -/
theorem State.unW_wrote {s : State} (h : s.regOk) (d a : Reg) (f : Word32 → Word32) :
    ∃ t, s.unW d a f = .next t ∧ Wrote s t d (ext32 (f (lo32 (s.g a)))) := ⟨_, rfl, State.wrote_setG h d _⟩

/-- While no replay of the context runs, a transfer whose target has bits 63:58 clear, or that is not taken, moves the PC and nothing
else. -/
theorem State.branch_next {s : State} {taken : State → Bool} {target : Word} (hr : s.replaying s.cur s.c = false)
    (h : taken s = true → target.toNat < 2 ^ 58) :
    s.branch taken target = .next (s.setPc (if taken s then target else s.pc + 4#64)) := by
  simp only [State.branch, State.afterReplay, hr, State.branchTo]
  cases e : taken s with
  | false => rfl
  | true =>
    have h1 : target.extractLsb' 58 6 = 0#6 := by
      apply BitVec.eq_of_toNat_eq
      have := h e
      simp only [BitVec.extractLsb'_toNat, Nat.shiftRight_eq_div_pow, BitVec.toNat_ofNat]
      omega
    simp [h1]

/-- While no replay of the context runs, a taken transfer whose target has some of bits 63:58 set traps ACCESS with the target (R61). -/
theorem State.branch_trap {s : State} {taken : State → Bool} {target : Word} (hr : s.replaying s.cur s.c = false) (ht : taken s = true)
    (h : 2 ^ 58 ≤ target.toNat) : s.branch taken target = s.trap .access target := by
  have h1 : target.extractLsb' 58 6 ≠ 0#6 := by
    intro e
    have h2 := congrArg BitVec.toNat e
    have := target.isLt
    simp only [BitVec.extractLsb'_toNat, Nat.shiftRight_eq_div_pow, BitVec.toNat_ofNat] at h2
    omega
  simp [State.branch, State.afterReplay, State.branchTo, State.trap, hr, ht, h1]

/-- While a replay of the context runs, a transfer parks before it acts (R227). -/
theorem State.branch_replay {s : State} {taken : State → Bool} {target : Word} (hr : s.replaying s.cur s.c = true) :
    s.branch taken target = .next (s.parkFirst fun s1 => s1.branchTo (taken s1) target) := by
  simp [State.branch, State.afterReplay, hr]

end Sys2Proof.Machine
end

