-- ==== Sys2Proof/Tests/Slice0.lean ====
section
/-! SUPPORT. Tests of the model: ill-formed terms, words of every family written from the spec's encodings, single steps with results worked
by hand from the spec's tables, and the states that meet the hypotheses of the statements. -/

namespace Sys2Proof.Tests

open Machine Claims

set_option Elab.async false

/-! ## Ill-formed terms, one for each check of `Instr.wf`, and a well-formed one beside it -/

/-- R79, R397: helpers are 1 to 10. -/
theorem wf_helper : (Instr.start 0#4 1#5 2#5).wf = false ∧ (Instr.stoph 11#4).wf = false ∧ (Instr.cbswapSeal 15#4).wf = false
    ∧ (Instr.startRes 10#4).wf = true := by decide

/-- R88, R414: 0x00E, 0x04E and 0x073 are in no map. -/
theorem wf_register : (Instr.rdsr 1#5 0x00E#12).wf = false ∧ (Instr.wrsr 1#5 0x04E#12).wf = false ∧ (Instr.rdsr 1#5 0x073#12).wf = false
    ∧ (Instr.rdsr 1#5 0x072#12).wf = true := by decide

/-- R209: one format twice, two integers, OVF toward FP32, a small integer. -/
theorem wf_cvt : (Instr.cvt false .rne .fp32 .fp32 1#5 2#5).wf = false ∧ (Instr.cvt false .rne .s32 .u32 1#5 2#5).wf = false
    ∧ (Instr.cvt true .rne .fp32 .fp64 1#5 2#5).wf = false ∧ (Instr.cvt false .rne .s8 .fp32 1#5 2#5).wf = false
    ∧ (Instr.cvt true .rne .e4m3 .fp32 1#5 2#5).wf = true := by decide

/-- R239: the same of VCVT, which takes two integers where one is small. -/
theorem wf_vcvt : (Instr.vcvt false 0#5 .fp16 .fp16 1#4 2#4).wf = false ∧ (Instr.vcvt false 0#5 .s32 .u32 1#4 2#4).wf = false
    ∧ (Instr.vcvt true 0#5 .fp16 .fp32 1#4 2#4).wf = false ∧ (Instr.vcvt false 0#5 .s8 .s32 1#4 2#4).wf = true := by decide

/-- R231: a pair of registers begins below g31. -/
theorem wf_pair : (Instr.vlds .w32 1#4 31#5).wf = false ∧ (Instr.vsts .w32 1#4 31#5).wf = false ∧ (Instr.vstm .w32 1#4 31#5).wf = false
    ∧ (Instr.vlds .w32 1#4 30#5).wf = true := by decide

/-- R236: an index below the element count. -/
theorem wf_index : (Instr.vext .w32 1#5 2#4 4#4 0#4).wf = false ∧ (Instr.vins .d64 1#4 2#5 2#4 0#4).wf = false
    ∧ (Instr.vext .w32 1#5 2#4 3#4 15#4).wf = true := by decide

/-- R237: a floating reduction of 32 or 64 bits. -/
theorem wf_reduction : (Instr.vred .fmin .h16 1#4 2#4).wf = false ∧ (Instr.vred (.fadd .rne) .b8 1#4 2#4).wf = false
    ∧ (Instr.vred .fmax .d64 1#4 2#4).wf = true := by decide

/-- R280: modes 2 and 3 take no row, mode 4 is of ALDP alone. -/
theorem wf_latch : (Instr.aldp .zero 3#7).wf = false ∧ (Instr.aldc .one 1#7).wf = false ∧ (Instr.aldc .andRow 3#7).wf = false
    ∧ (Instr.aldp .andRow 3#7).wf = true := by decide

/-- R281: widths from 1 to 32. -/
theorem wf_width : (Instr.aadd 0#6 1#5 2#5 3#5).wf = false ∧ (Instr.aneg 33#6 1#5 2#5).wf = false
    ∧ (Instr.amul 32#6 1#5 2#5 3#5).wf = true := by decide

/-- An event has no encoding. -/
theorem wf_event : Instr.launchStart.wf = false ∧ (Instr.park 0 0).wf = false := by decide

/-! ## Words written field by field from the encoding tables (R48 to R54 and the tables of each chapter): marker, major, operands,
function code -/

theorem decode_int : decode (0#1 ++ 0x01#6 ++ 4#5 ++ 5#5 ++ 6#5 ++ 0x000#10) = some (false, .add 4#5 5#5 6#5)
    ∧ decode (1#1 ++ 0x01#6 ++ 5#5 ++ 2#5 ++ 4#5 ++ 0x00B#10) = some (true, .xor 5#5 2#5 4#5) := by decide

theorem decode_inti : decode (0#1 ++ 0x02#6 ++ 4#5 ++ 5#5 ++ 0#3 ++ 0xFFF#12) = some (false, .addi 4#5 5#5 0xFFF#12) := by decide

theorem decode_shi : decode (0#1 ++ 0x03#6 ++ 4#5 ++ 5#5 ++ 0#3 ++ 0#6 ++ 63#6) = some (false, .shli 4#5 5#5 63#6) := by decide

theorem decode_const : decode (0#1 ++ 0x04#6 ++ 4#5 ++ 0x12346#20) = some (false, .ldhi 4#5 0x12346#20)
    ∧ decode (0#1 ++ 0x05#6 ++ 4#5 ++ 0xFFFFF#20) = some (false, .addpc 4#5 0xFFFFF#20) := by decide

theorem decode_sel : decode (0#1 ++ 0x06#6 ++ 1#5 ++ 2#5 ++ 3#5 ++ 0#8 ++ 2#2) = some (false, .sel .ltz 1#5 2#5 3#5) := by decide

theorem decode_skip : decode (0#1 ++ 0x07#6 ++ 0#2 ++ 4#3 ++ 1#5 ++ 2#5 ++ 0#7 ++ 7#3) = some (false, .skip .standard .ltu 1#5 2#5 7#3) := by
  decide

theorem decode_branch : decode (0#1 ++ 0x08#6 ++ 0#2 ++ 6#3 ++ 1#5 ++ 2#5 ++ 4#10) = some (false, .bbs .standard 1#5 2#5 4#10)
    ∧ decode (0#1 ++ 0x09#6 ++ 1#2 ++ 1#3 ++ 5#5 ++ 0x7FFD#15) = some (false, .bnez .taken 5#5 0x7FFD#15) := by decide

theorem decode_jump : decode (0#1 ++ 0x0A#6 ++ 0x10#25) = some (false, .j 0x10#25)
    ∧ decode (0#1 ++ 0x0B#6 ++ 0x10#25) = some (false, .call 0x10#25) := by decide

theorem decode_system : decode 0x18002000#32 = some (false, .ret) ∧ decode 0x98002000#32 = some (true, .ret)
    ∧ decode (0#1 ++ 0x0C#6 ++ 4#5 ++ 0#5 ++ 6#3 ++ 0x005#12) = some (false, .rdsr 4#5 5#12)
    ∧ decode (0#1 ++ 0x0C#6 ++ 12#5 ++ 9#5 ++ 3#3 ++ 0#8 ++ 3#4) = some (false, .start 3#4 12#5 9#5) := by decide

theorem decode_load : decode (0#1 ++ 0x0D#6 ++ 8#5 ++ 25#5 ++ 2#3 ++ 0#12) = some (false, .ldw 8#5 25#5 0#12)
    ∧ decode 0x9B163000#32 = some (true, .ldd 17#5 12#5 0#12) := by decide

theorem decode_store : decode (0#1 ++ 0x0E#6 ++ 8#5 ++ 25#5 ++ 2#3 ++ 0#12) = some (false, .stw 8#5 25#5 0#12)
    ∧ decode 0x1C750000#32 = some (false, .stb 7#5 10#5 0#12) := by decide

theorem decode_indexed : decode (0#1 ++ 0x0F#6 ++ 1#5 ++ 2#5 ++ 3#5 ++ 0x002#10) = some (false, .ldxW 1#5 2#5 3#5)
    ∧ decode (0#1 ++ 0x0F#6 ++ 0#5 ++ 2#5 ++ 3#5 ++ 0x201#10) = some (false, .rcinvRange 2#5 3#5) := by decide

theorem decode_atomic : decode 0x20539880#32 = some (false, .amoadd true .none 5#5 7#5 6#5)
    ∧ decode 0x2041A469#32 = some (false, .amocas false .aqrl 4#5 3#5 9#5)
    ∧ decode 0x20039940#32 = some (false, .amoaddNr false true 7#5 6#5)
    ∧ decode 0x20C5220A#32 = some (false, .amergeFadd false 12#5 10#5 8#5) := by decide

theorem decode_ordering : decode (0#1 ++ 0x11#6 ++ 0#5 ++ 0#5 ++ 0#5 ++ 0x23#6 ++ 0#1 ++ 4#3) = some (false, .fenceFull .device)
    ∧ decode (0#1 ++ 0x11#6 ++ 4#5 ++ 5#5 ++ 0#12 ++ 3#3) = some (false, .lda .d64 4#5 5#5) := by decide

theorem decode_message : decode 0x2484D001#32 = some (false, .putc 8#5 9#5 20#5) ∧ decode 0x24019005#32 = some (false, .waitc 3#5 4#5)
    ∧ decode 0x24729806#32 = some (false, .wtarm 7#5 5#5 6#5) := by decide

theorem decode_float : decode 0x2684AA40#32 = some (false, .fadd true .rtz 8#5 9#5 10#5)
    ∧ decode 0x264281C4#32 = some (false, .fsqrt false .dyn 4#5 5#5) ∧ decode 0x26219208#32 = some (false, .feq true 2#5 3#5 4#5)
    ∧ decode 0x2863A200#32 = some (false, .fma true .rne 6#5 7#5 8#5)
    ∧ decode 0x2A42A214#32 = some (false, .cvt true .rne .e4m3 .fp32 4#5 5#5) := by decide

theorem decode_vector_memory : decode (0#1 ++ 0x18#6 ++ 3#4 ++ 0#8 ++ 7#5 ++ 2#2 ++ 2#6) = some (false, .vlds .w32 3#4 7#5)
    ∧ decode (0#1 ++ 0x18#6 ++ 3#4 ++ 0#4 ++ 5#4 ++ 7#5 ++ 3#2 ++ 5#6) = some (false, .vstx .d64 3#4 5#4 7#5) := by decide

theorem decode_vector_int : decode (0#1 ++ 0x19#6 ++ 1#4 ++ 2#4 ++ 3#4 ++ 7#5 ++ 2#2 ++ 0#6) = some (false, .vadd .w32 7#5 1#4 2#4 3#4)
    ∧ decode (0#1 ++ 0x19#6 ++ 1#4 ++ 2#4 ++ 0#4 ++ 0#5 ++ 0#2 ++ 0x11#6) = some (false, .vpopc .b8 0#5 1#4 2#4) := by decide

theorem decode_vector_float : decode 0x34810083#32 = some (false, .vfma false .rne 0#5 4#4 0#4 8#4)
    ∧ decode (0#1 ++ 0x1B#6 ++ 1#4 ++ 2#4 ++ 3#4 ++ 0#5 ++ 1#1 ++ 1#1 ++ 0#2 ++ 1#1 ++ 1#3) = some (false, .vfcmp .lt true 0#5 1#4 2#4 3#4) := by
  decide

theorem decode_vector_move : decode (0#1 ++ 0x1C#6 ++ 3#4 ++ 2#4 ++ 15#4 ++ 7#5 ++ 2#2 ++ 0x10#6) = some (false, .vext .w32 7#5 2#4 3#4 15#4)
    ∧ decode (0#1 ++ 0x1C#6 ++ 1#4 ++ 2#4 ++ 0#4 ++ 0#5 ++ 2#2 ++ 6#3 ++ 0#3) = some (false, .vred .add .w32 1#4 2#4) := by decide

theorem decode_vector_convert : decode 0x3A400090#32 = some (false, .vmxs .mxint8 2#4 0#4)
    ∧ decode (0#1 ++ 0x1D#6 ++ 1#4 ++ 2#4 ++ 3#4 ++ 0#5 ++ 1#1 ++ 0x20#7) = some (false, .vdot true 0#5 1#4 2#4 3#4)
    ∧ decode (0#1 ++ 0x1E#6 ++ 0#5 ++ 7#8 ++ 0#4 ++ 1#4 ++ 0#4) = some (false, .rpt 7#8 0#4 1#4) := by decide

theorem decode_matrix : decode 0x40020000#32 = some (false, .mfmt false 4#5) ∧ decode 0x40063432#32 = some (false, .mma true true 12#5 13#5)
    ∧ decode 0x40500009#32 = some (false, .mpop 5#5) := by decide

theorem decode_array : decode (0#1 ++ 0x24#6 ++ 8#4 ++ 1#7 ++ 2#7 ++ 3#7) = some (false, .afadd 1#7 2#7 3#7)
    ∧ decode (0#1 ++ 0x24#6 ++ 10#4 ++ 0#7 ++ 5#7 ++ 4#7) = some (false, .aldp .andRow 5#7)
    ∧ decode (0#1 ++ 0x25#6 ++ 1#5 ++ 2#5 ++ 3#5 ++ 16#6 ++ 0#4) = some (false, .aadd 16#6 1#5 2#5 3#5)
    ∧ decode (0#1 ++ 0x26#6 ++ 0#5 ++ 9#5 ++ 0#15) = some (false, .asel 9#5)
    ∧ decode (0#1 ++ 0x26#6 ++ 0#1 ++ 7#4 ++ 0#5 ++ 3#5 ++ 6#10) = some (false, .aout 7#4 3#5) := by decide

theorem decode_derive : decode 0x4E030000#32 = some (false, .dreg 6#5)
    ∧ decode (0#1 ++ 0x27#6 ++ 0#5 ++ 6#5 ++ 0#11 ++ 1#1 ++ 1#3) = some (false, .dunreg true 6#5) := by decide

theorem decode_task : decode 0x50621401#32 = some (false, .tkenqn 6#5 4#5 5#5)
    ∧ decode (0#1 ++ 0x28#6 ++ 0#5 ++ 3#5 ++ 0#7 ++ 1#1 ++ 4#3 ++ 7#4) = some (false, .lapv .sum true 3#5) := by decide

theorem decode_engine : decode (0#1 ++ 0x29#6 ++ 1#5 ++ 2#5 ++ 3#5 ++ 0#4 ++ 1#1 ++ 0#5) = some (false, .ecpy true 1#5 2#5 3#5)
    ∧ decode (0#1 ++ 0x29#6 ++ 4#5 ++ 0#10 ++ 9#10) = some (false, .epop 4#5) := by decide

theorem decode_near : decode (0#1 ++ 0x2A#6 ++ 0#5 ++ 6#5 ++ 0#5 ++ 1#10) = some (false, .nrrun 6#5)
    ∧ decode (0#1 ++ 0x2A#6 ++ 6#5 ++ 0#10 ++ 3#10) = some (false, .nrwait 6#5) := by decide

theorem decode_privileged : decode (0#1 ++ 0x3E#6 ++ 0#5 ++ 9#5 ++ 0#15) = some (false, .trap 9#5)
    ∧ decode (0#1 ++ 0x3E#6 ++ 0#5 ++ 9#5 ++ 3#5 ++ 4#10) = some (false, .cbswap 3#4 9#5)
    ∧ decode (0#1 ++ 0x3E#6 ++ 0#5 ++ 0#5 ++ 0#5 ++ 7#10) = some (false, .haltc) := by decide

/-! ## Small states -/

/-- One unit with one live context that issues, the PC at the base of the code that `withFetchWord` places. -/
def one (u c : Nat) (f : Ctx → Ctx) (g : UnitState → UnitState) : State :=
  { State.reset with
    cur := u
    units := [(u, { g (UnitState.reset u) with
      ctxs := [(c, f { Ctx.reset (kindOf u) c with live := true, pc := 0x4000000000#64 })], cur := c })] }

/-- A state with registers written. -/
def put (s : State) (l : List (Reg × Word)) : State := l.foldl (fun acc p => acc.setG p.1 p.2) s

/-- A state with doublewords of the issuing unit's local memory written. -/
def poke (s : State) (l : List (Nat × Word)) : State := l.foldl (fun acc p => acc.setLoc64 acc.cur p.1 p.2) s

/-- What holds of the next state. -/
def after (o : Out) (p : State → Bool) : Bool := match o with | .next t => p t | _ => false

/-- The control context of far core 0, and the same with its park made. -/
def far : State := one 0 0 id id
/-- The control context of far core 0, its park made. -/
def farParked : State := one 0 0 (fun x => { x with parked := true }) id
/-- The control context of slice near unit 0. -/
def slice : State := one Config.sliceUnit0 0 id id
/-- The control context of stack near unit 0. -/
def stack : State := one Config.stackUnit0 0 id id
/-- Helper 1 of far core 0 at U level. -/
def helper : State := one 0 1 (fun x => { x with priv := .u }) id

/-- Far core 0 with v2 set. -/
def vec : State := one 0 0 (fun x => { x with vregs := x.vregs.set 2 0x80000001FFFFFFFF#2048 }) id

/-- g5 = 7, g6 = −1, g7 = −2^63, g8 = −2^31. -/
def farG : State := put far [(5#5, 7#64), (6#5, 0xFFFFFFFFFFFFFFFF#64), (7#5, 0x8000000000000000#64), (8#5, 0xFFFFFFFF80000000#64)]

theorem farG_regOk : farG.regOk := by
  unfold State.regOk State.memOk State.winOk
  decide

/-! ## Single steps, each result worked by hand from the table of the rule named -/

/-- R96. -/
theorem test_add : after (exec (.add 4#5 5#5 6#5) farG) (fun t => t.g 4#5 == 6#64 && t.pc == 0x4000000004#64) = true := by decide
/-- R96: the destination may be a source. -/
theorem test_sub_self : after (exec (.sub 5#5 5#5 6#5) farG) (fun t => t.g 5#5 == 8#64) = true := by decide
/-- R96: −2^31 − 7 wraps to 2^31 − 7 at 32 bits. -/
theorem test_subw : after (exec (.subw 4#5 8#5 5#5) farG) (fun t => t.g 4#5 == 0x7FFFFFF9#64) = true := by decide
/-- R96: −2^63 × −1 has the high half 0. -/
theorem test_mulh : after (exec (.mulh 4#5 7#5 6#5) farG) (fun t => t.g 4#5 == 0#64) = true := by decide
/-- R96: the overflowing quotient is the dividend. -/
theorem test_div : after (exec (.div 4#5 7#5 6#5) farG) (fun t => t.g 4#5 == 0x8000000000000000#64) = true := by decide
/-- R96: a division by zero gives all ones, the remainder the dividend. -/
theorem test_rem_zero : after (exec (.divu 4#5 5#5 0#5) farG) (fun t => t.g 4#5 == 0xFFFFFFFFFFFFFFFF#64) = true
    ∧ after (exec (.rem 4#5 5#5 0#5) farG) (fun t => t.g 4#5 == 7#64) = true := by decide
/-- R96: −2^31 div −1 at 32 bits. -/
theorem test_divw : after (exec (.divw 4#5 8#5 6#5) farG) (fun t => t.g 4#5 == 0xFFFFFFFF80000000#64) = true := by decide
/-- R96: the count is taken modulo 64. -/
theorem test_sar : after (exec (.sar 4#5 7#5 6#5) farG) (fun t => t.g 4#5 == 0xFFFFFFFFFFFFFFFF#64) = true := by decide
/-- R96. -/
theorem test_clz : after (exec (.clz 4#5 0#5) farG) (fun t => t.g 4#5 == 64#64) = true
    ∧ after (exec (.ctzw 4#5 8#5) farG) (fun t => t.g 4#5 == 31#64) = true := by decide
/-- R96: 7 ⊗ 7 without carries is 0x15. -/
theorem test_clmul : after (exec (.clmul 4#5 5#5 5#5) farG) (fun t => t.g 4#5 == 0x15#64) = true := by decide
/-- R96. -/
theorem test_bswapw : after (exec (.bswapw 4#5 5#5) farG) (fun t => t.g 4#5 == 0x07000000#64) = true := by decide
/-- R97: the immediate is sign-extended, and compared unsigned. -/
theorem test_sltiu : after (exec (.sltiu 4#5 5#5 0xFFF#12) farG) (fun t => t.g 4#5 == 1#64) = true
    ∧ after (exec (.addi 4#5 5#5 0xFFF#12) farG) (fun t => t.g 4#5 == 6#64) = true := by decide
/-- R98: 7 shifted left by 31 at 32 bits. -/
theorem test_shliw : after (exec (.shliw 4#5 5#5 31#5) farG) (fun t => t.g 4#5 == 0xFFFFFFFF80000000#64) = true := by decide
/-- R99. -/
theorem test_ldhi : after (exec (.ldhi 4#5 0x80000#20) farG) (fun t => t.g 4#5 == 0xFFFFFFFF80000000#64) = true
    ∧ after (exec (.addpc 4#5 0xFFFFF#20) farG) (fun t => t.g 4#5 == 0x3FFFFFF000#64) = true := by decide
/-- R100: −1 < 0 selects; 7 does not. -/
theorem test_sel : after (exec (.sel .ltz 4#5 6#5 5#5) farG) (fun t => t.g 4#5 == 7#64) = true
    ∧ after (exec (.sel .ltz 6#5 5#5 7#5) farG) (fun t => t.g 6#5 == 0xFFFFFFFFFFFFFFFF#64) = true := by decide
/-- R102: two words are passed. -/
theorem test_skip : after (exec (.skip .standard .ltu 5#5 6#5 1#3) farG) (fun t => t.pc == 0x400000000C#64) = true := by decide
/-- R103: bit 64 + 2 modulo 64 of 7 is set; the offset is signed. -/
theorem test_bbs : after (exec (.bbs .standard 5#5 4#5 0x3FF#10) (put farG [(4#5, 66#64)])) (fun t => t.pc == 0x3FFFFFFFFC#64) = true := by decide
/-- R104. -/
theorem test_bgtz : after (exec (.bgtz .taken 6#5 4#15) farG) (fun t => t.pc == 0x4000000004#64) = true := by decide
/-- R105, through the fetch: `j` of 16 words. -/
theorem test_step_j : after (step (State.reset.withFetchWord 32 0x14000010)) (fun t => t.pc == 0x4000000040#64) = true := by decide
/-- R58: the all-zero word traps ILLEGAL (code 0x01) at its address. -/
theorem test_step_illegal : after (step (State.reset.withFetchWord 32 0)) (fun t => t.cx.cur.info.extractLsb' 0 8 == 1#8
    && t.cx.cur.tpc == 0x4000000000#64) = true := by decide
/-- R80: the return address, and g0 of the caller as g24. -/
theorem test_call : after (exec (.call 0x10#25) (put farParked [(0#5, 9#64)]))
    (fun t => t.g 21#5 == 0x4000000004#64 && t.g 24#5 == 9#64 && t.pc == 0x4000000040#64 && t.cx.res == 2#8) = true := by decide
/-- R81. -/
theorem test_jr : after (exec (.jr 5#5 0x001#12) farG) (fun t => t.pc == 8#64) = true := by decide
/-- R123: the byte 0x80 is deferred sign-extended; the register keeps its value until the park. -/
theorem test_ldb : after (exec (.ldb 4#5 5#5 0#12) (poke (put far [(5#5, 0x70001#64)]) [(0x70000, 0x8000#64)]))
    (fun t => t.cx.defs == [⟨4#5, 0, .value 0xFFFFFFFFFFFFFF80#64, 0#5⟩] && t.g 4#5 == 0#64) = true := by decide
/-- R124: the low half-word, least significant byte first. -/
theorem test_sth : after (exec (.sth 5#5 4#5 2#12) (put far [(4#5, 0x70000#64), (5#5, 0x123456#64)]))
    (fun t => t.loc64 0 0x70000 == 0x34560000#64) = true := by decide
/-- R107: a half-word at an odd address traps ALIGN (code 0x04). -/
theorem test_ldh_align : after (exec (.ldh 4#5 5#5 1#12) (put (one 0 0 id fun y => { y with tvec := 0x1000#64 }) [(5#5, 0x70000#64)]))
    (fun t => t.cx.cur.info.extractLsb' 0 8 == 4#8 && t.pc == 0x1000#64) = true := by decide
/-- R132: a CAS that matches stores, and gives the old value. -/
theorem test_amocas : after (exec (.amocas true .none 4#5 5#5 6#5) (poke (put far [(4#5, 3#64), (5#5, 0x70000#64), (6#5, 9#64)]) [(0x70000, 3#64)]))
    (fun t => t.loc64 0 0x70000 == 9#64 && t.cx.defs == [⟨4#5, 0, .value 3#64, 0#5⟩]) = true := by decide
/-- R169. -/
theorem test_cget : after (exec (.cget 4#5 5#5) (put (one 0 0 id fun y => { y with counters := [(3, 8#64)] }) [(5#5, 0x103#64)]))
    (fun t => t.cx.defs == [⟨4#5, 0, .value 8#64, 0#5⟩]) = true := by decide
/-- R203: 1.5 + 0.25 = 1.75 in FP32. -/
theorem test_fadd : after (exec (.fadd false .rne 4#5 5#5 6#5) (put far [(5#5, 0x3FC00000#64), (6#5, 0x3E800000#64)]))
    (fun t => t.g 4#5 == 0x3FE00000#64 && t.cx.fxs == 0#5) = true := by decide
/-- R203, R212: 1 / 0 is deferred as infinity with DZ. -/
theorem test_fdiv : after (exec (.fdiv true .rne 4#5 5#5 0#5) (put far [(5#5, 0x3FF0000000000000#64)]))
    (fun t => t.cx.defs.map (fun e => e.src) == [.value 0x7FF0000000000000#64] && t.cx.fxs == 0#5) = true := by decide
/-- R210: 448 is the largest finite E4M3. -/
theorem test_cvt : after (exec (.cvt false .rne .e4m3 .fp32 4#5 5#5) (put far [(5#5, 0x43E00000#64)])) (fun t => t.g 4#5 == 0x7E#64) = true := by
  decide
/-- R232: 32-bit lanes wrap apart. -/
theorem test_vadd : after (exec (.vadd .w32 0#5 1#4 2#4 2#4) vec) (fun t => ((t.v 0 0 1#4).toNat % 2 ^ 64 == 0x00000002FFFFFFFE)) = true := by
  decide +kernel
/-- R393, R398: SYSCALL (code 0x13) with the register in TVAL. -/
theorem test_trap : after (exec (.trap 5#5) (put (one 0 0 id fun y => { y with tvec := 0x1000#64 }) [(5#5, 77#64)]))
    (fun t => t.cx.cur.info.extractLsb' 0 8 == 0x13#8 && t.cx.cur.tval == 77#64 && t.cx.act && t.pc == 0x1000#64) = true := by decide
/-- R57: a privileged word at U level traps PRIV (code 0x03). -/
theorem test_priv : after (exec (.stoph 2#4) (one 0 1 (fun x => { x with priv := .u }) fun y => { y with tvec := 0x1000#64 }))
    (fun t => t.cx.cur.info.extractLsb' 0 8 == 3#8) = true := by decide
/-- R89: the context's number, and kind 1 of a near unit in bits 9:8. -/
theorem test_rdsr : after (exec (.rdsr 4#5 0x000#12) slice) (fun t => t.g 4#5 == 0x100#64) = true := by decide
/-- R285. -/
theorem test_asetrb : after (exec (.asetrb 5#5) (put slice [(5#5, 9#64)])) (fun t => t.cx.arb == 9#8) = true := by decide
/-- R338: the snapshot of a queue that is not enabled is 0. -/
theorem test_tkdepth : after (exec (.tkdepth 4#5 5#5) far) (fun t => t.cx.defs.map (fun e => e.src) == [.value 0#64]) = true := by decide
/-- R357: an idle engine. -/
theorem test_estat : after (exec (.estat 4#5) far) (fun t => t.cx.defs.map (fun e => e.src) == [.value 0#64]) = true := by decide
/-- R351: a command waits in the FIFO until the engine begins it. -/
theorem test_efill : after (exec (.efill false 4#5 5#5 6#5) (put far [(4#5, 0x70000#64), (6#5, 16#64)]))
    (fun t => t.ux.engine.infifo.map (fun k => (k.op, k.opd)) == [(4, 0x70000#64)]) = true := by decide
/-- R418: PWRLIM takes 400 and not 399. -/
theorem test_pwrlim : after (exec (.pwrlimWrite 400#64) State.reset) (fun t => t.pwrlim == 400#11) = true
    ∧ after (exec (.pwrlimWrite 399#64) State.reset) (fun t => t.pwrlim == 2000#11) = true := by decide
/-- R430. -/
theorem test_boot : after (exec (.bootStageAdvance true) State.reset) (fun t => t.stage == 1#4) = true := by decide
/-- R427. -/
theorem test_retrain : after (exec (.linkRetrainingEnd 3 2) { State.reset with ports := [(3, ⟨4, 0, true⟩)] })
    (fun t => (t.port 3).lanes == 2 && ! (t.port 3).retraining) = true := by decide

/-! ## States that meet the hypotheses of the statements, clause by clause -/

/-- A state in which the unit's TLB maps 16 KiB at a virtual address to a physical one, for every access at every level but M. -/
def mapped (s : State) (va pa : Nat) : State := s.modU fun y => { y with tlb := ⟨va, 0x4000, pa, 0#12, false, 0xD7#64⟩ :: y.tlb }

/-- Something holds of the state and the physical address that a check answers. -/
def checked (r : Except Cause (State × Target)) (p : State → Nat → Bool) : Bool :=
  match r with | .ok (s1, .home pa _) => p s1 pa | _ => false

/-- The same of the check of a message's remote address. -/
def remote (r : Except Cause (State × Nat)) (p : State → Nat → Bool) : Bool :=
  match r with | .ok (s1, pa) => p s1 pa | _ => false

/-- A state kept posted, with DRAM mapped: g5 holds the address of it, g6 a local offset. -/
def dram : State := { mapped (put far [(5#5, 0x100000008#64), (6#5, 0x7FF00#64), (4#5, 3#64)]) 0x100000000 0x4000 with async := true }

/-- An access of the control context of far core 0 to DRAM. -/
def reqOf (a : Action) : Req := ⟨⟨0, 0, 0#12, 0#16, .s⟩, 0, 0x4000000000#64, 0x100000008#64, 0x4008, a, false, false, false⟩

/-- It is in flight, and its result is awaited. -/
def flying (a : Action) : State :=
  { one 0 0 (fun x => { x with defs := [⟨4#5, 0, .pending, 0#5⟩] }) id with flight := [reqOf a], po := 1 }

/-- Plain propositions about a state, decided. -/
theorem far_regOk : far.regOk ∧ farParked.regOk := by
  unfold State.regOk State.memOk State.winOk
  decide

theorem meets_EncodedInstructionDecodes : (Instr.mma true true 12#5 13#5).wf = true := by decide

theorem meets_DecodedWordIsItsEncoding : decode 0x9ABCA00C#32 = some (true, .ldw 11#5 25#5 0xC#12) := by decide

/-- A word placed where the step fetches it, whether it decodes or not. -/
theorem meets_StepRunsDecodedInstruction (w : Nat) (h : w = 0x02846200 ∨ w = 0) :
    let s := State.reset.withFetchWord 32 w
    (s.sched = [.issue 0 0 false] ∧ State.issueReady { s with sched := [] } 0 0 = true
      ∧ State.redoDue (State.focus { s with sched := [] } 0 0 false) 0 0 = false
      ∧ State.resumeDue (State.focus { s with sched := [] } 0 0 false) 0 0 = false
      ∧ (match issueFetch (State.focus { s with sched := [] } 0 0 false) with | .word s1 v => v == BitVec.ofNat 32 w && (s1.upsetAt .scalar s1.cur).isNone | _ => false) = true)
      ∧ ∀ v ∈ far.units, ∀ x ∈ v.2.ctxs, ∀ d l r, x.2.wait ≠ some (.recv d l r) ∧ x.2.wait ≠ some (.lapw d) := by
  refine ⟨by rcases h with rfl | rfl <;> decide, fun v hv x hx d l r => ?_⟩
  rw [(by decide : ∀ v ∈ far.units, ∀ x ∈ v.2.ctxs, x.2.wait = none) v hv x hx]
  simp

/-- A PC that a resident overlay covers, its last word, and one that none covers. -/
theorem meets_FetchAndIllegalWords : decode 0#32 = none
    ∧ let s := State.reset.withFetchWord 32 0
      (s.overlayOf 0 0 0x4000000000#64).isSome = true ∧ (s.fetchAt 0 0 0x400000003C#64).isSome = true
        ∧ (s.overlayOf 0 0 0x4000000040#64).isNone = true := by decide

theorem meets_IntegerRegisterResults : farG.regOk ∧ intResult farG.g (.div 4#5 7#5 6#5) = some (4#5, 0x8000000000000000#64)
    ∧ intResult farG.g (.clz 31#5 0#5) = some (31#5, 64#64) := ⟨farG_regOk, by decide⟩

theorem meets_ImmediateAndSelectResults : farG.regOk ∧ immResult farG.g (.sltiu 4#5 5#5 0xFFF#12) = some (4#5, 1#64)
    ∧ constResult farG.g farG.pc (.sel .eqz 4#5 0#5 5#5) = some (4#5, 7#64)
    ∧ constResult farG.g farG.pc (.sel .nez 4#5 0#5 5#5) = none := ⟨farG_regOk, by decide⟩

/-- A replay of the control context that runs its second pass. -/
def replay8 : Replay := ⟨0, 4#64, 1, [⟨4#64, .vbcast .w32 1#4 2#5, 7#64, 0#64, .rne⟩], 2, 15, 1, 0⟩
/-- Far core 0 with it. -/
def replayed : State := one 0 0 id fun y => { y with replay := [replay8] }

/-- A branch that is made, one that is not, one that leaves the address range; no replay, and one that runs. -/
theorem meets_BranchResults : isBranch (.blt .standard 6#5 5#5 1#10) = true
    ∧ transfer farG.g farG.pc (.blt .standard 6#5 5#5 1#10) = some (true, 0x4000000004#64)
    ∧ transfer farG.g farG.pc (.bltu .standard 6#5 5#5 1#10) = some (false, 0x4000000004#64)
    ∧ transfer farG.g 0#64 (.bltz .standard 6#5 0x7FFF#15) = some (true, 0xFFFFFFFFFFFFFFFC#64)
    ∧ farG.replaying farG.cur farG.c = false ∧ replayed.replaying replayed.cur replayed.c = true := by decide

/-- The PC at the last word of the address range, for the transfers that leave it. -/
theorem meets_SkipAndJumpResults :
    transfer farG.g farG.pc (.skip .standard .ltu 5#5 6#5 7#3) = some (true, 0x4000000024#64)
    ∧ transfer farG.g farG.pc (.skip .standard .eq 5#5 6#5 7#3) = some (false, 0x4000000024#64)
    ∧ transfer farG.g 0x03FFFFFFFFFFFFFC#64 (.j 1#25) = some (true, 0x0400000000000000#64) := by decide

/-- A context with nothing under way. -/
theorem alone {s : State} (a : s.flight = []) (b : s.cx.blocked = []) (c : s.ux.vq = []) (d : s.cx.defs = []) : Alone s :=
  ⟨a, b, by simp [c], by simp [d]⟩

/-- The last doubleword of local memory. -/
def localTop : State := put far [(5#5, 0x7FFF8#64), (4#5, 3#64)]

theorem meets_LocalLoadResults : (∃ f, loadForm localTop.g (.ldd 4#5 5#5 0#12) = some f ∧ f.acq = false
      ∧ f.ea.toNat < 0x100000 ∧ f.ea.toNat % f.size = 0 ∧ InWindow localTop f.ea.toNat f.size
      ∧ localTop.guardedByOther localTop.cur (some localTop.c) f.ea.toNat f.size = false
      ∧ localTop.inBlock localTop.cur localTop.c f.ea.toNat f.size = false)
    ∧ (∃ f, loadForm localTop.g (.lda .d64 4#5 5#5) = some f ∧ f.acq = true ∧ f.ea = 0x7FFF8#64) ∧ Alone localTop
    ∧ localTop.upsets = [] := by
  unfold InWindow
  exact ⟨⟨_, rfl, by decide⟩, ⟨_, rfl, by decide⟩, alone (by decide) (by decide) (by decide) (by decide), rfl⟩

theorem meets_LocalStoreResults : (∃ f, storeForm localTop.g (.std 4#5 5#5 0#12) = some f
      ∧ f.ea.toNat < 0x100000 ∧ f.ea.toNat % f.size = 0 ∧ InWindow localTop f.ea.toNat f.size
      ∧ localTop.guardedByOther localTop.cur (some localTop.c) f.ea.toNat f.size = false
      ∧ localTop.inBlock localTop.cur localTop.c f.ea.toNat f.size = false) ∧ localTop.memOk ∧ Alone localTop := by
  unfold InWindow State.memOk
  exact ⟨⟨_, rfl, by decide⟩, by decide, alone (by decide) (by decide) (by decide) (by decide)⟩

/-- The first doubleword past local memory, for a load and a store; an address with bit 58, an odd one. -/
theorem meets_AddressChecks :
    (let s := put far [(5#5, 0x80000#64)]
     (∃ f, loadForm s.g (.ldd 4#5 5#5 0#12) = some f ∧ f.acq = false ∧ f.ea = 0x80000#64) ∧ (∃ f, storeForm s.g (.std 4#5 5#5 0#12) = some f
        ∧ f.ea.toNat < 0x100000 ∧ f.ea.toNat % f.size = 0 ∧ ¬ InWindow s f.ea.toNat f.size ∧ Unguarded s f.ea.toNat f.size) ∧ Alone s ∧ s.upsets = [])
    ∧ (let s := put far [(5#5, 0x400000000000000#64)]
       ∃ ea size, accessOf s.g (.std 4#5 5#5 0#12) = some (ea, size) ∧ 2 ^ 58 ≤ ea.toNat)
    ∧ (let s := put far [(5#5, 0x70001#64)]
       ∃ ea size, accessOf s.g (.amoadd true .none 4#5 5#5 6#5) = some (ea, size) ∧ ea.toNat < 2 ^ 58 ∧ ea.toNat % size ≠ 0) := by
  unfold InWindow Unguarded
  exact ⟨⟨⟨_, rfl, by decide⟩, ⟨_, rfl, by decide⟩, alone (by decide) (by decide) (by decide) (by decide), rfl⟩, ⟨_, _, rfl, by decide⟩,
    ⟨_, _, rfl, by decide⟩⟩

theorem meets_LocalAtomicResults : (∃ f, atomicForm localTop.g (.amocas true .none 4#5 5#5 6#5) = some f ∧ f.dbl = true
      ∧ f.ea.toNat < 0x100000 ∧ f.ea.toNat % 8 = 0 ∧ InWindow localTop f.ea.toNat 8 ∧ Unguarded localTop f.ea.toNat 8
      ∧ atomicResult 64 f.op (leNat 8 fun k => localTop.mem.read (localPa localTop.cur f.ea.toNat + k)) (f.v.toNat % 2 ^ 64) = some 0)
    ∧ localTop.memOk ∧ Alone localTop ∧ localTop.unitOn localTop.cur = true ∧ localTop.rules = [] ∧ localTop.stale = []
    ∧ localTop.upsets = [] := by
  unfold InWindow Unguarded State.memOk
  exact ⟨⟨_, rfl, by decide⟩, by decide, alone (by decide) (by decide) (by decide) (by decide), by decide⟩

/-- The same with the host window mapped instead of DRAM. -/
def hostMapped : State := { mapped (put far [(5#5, 0x100000008#64)]) 0x100000000 0xA00000000000 with async := true }

theorem meets_PostedAccessLeavesAtItsHome :
    checked (dram.checkEa dram.cur dram.c (dram.g 5#5) 8 .load) (fun s1 pa => s1.async && (s1.rcLine s1.cur pa).isNone) = true
    ∧ checked (dram.checkEa dram.cur dram.c (dram.g 5#5) 8 .store) (fun s1 pa => s1.async && ! s1.storesFull s1.cur && pa == 0x4008) = true
    ∧ checked (dram.checkEa dram.cur dram.c (dram.g 5#5) 8 .atomic) (fun s1 pa => s1.async && s1.place pa == .dram 4 8) = true
    ∧ checked (State.checkEa { dram with flight := List.replicate 32 (reqOf (.store 8 0#64)) } 0 0 (dram.g 5#5) 8 .store) (fun s1 _ => s1.storesFull s1.cur) = true
    ∧ checked (hostMapped.checkEa hostMapped.cur hostMapped.c (hostMapped.g 5#5) 8 .atomic) (fun s1 pa => s1.place pa == .host) = true
    ∧ (∃ f, loadForm dram.g (.ldd 4#5 5#5 0#12) = some f ∧ f.ea = dram.g 5#5 ∧ f.size = 8)
    ∧ (∃ f, storeForm dram.g (.std 4#5 5#5 0#12) = some f ∧ f.ea = dram.g 5#5 ∧ f.size = 8)
    ∧ (∃ f, atomicForm dram.g (.amoadd true .none 4#5 5#5 6#5) = some f ∧ f.ea = dram.g 5#5 ∧ f.dbl = true) := by
  exact ⟨by decide, by decide, by decide, by decide +kernel, by decide, ⟨_, rfl, by decide⟩, ⟨_, rfl, by decide⟩, ⟨_, rfl, by decide⟩⟩

theorem meets_AccessEventsPerformInOrder : reqOf (.load 8 false 0) ∈ (flying (.load 8 false 0)).flight
    ∧ (flying (.load 8 false 0)).mayPerform (reqOf (.load 8 false 0)) = true ∧ reqOf (.load 8 false 0) ∉ far.flight := by decide

/-- A load, a store and an atomic in flight to DRAM. -/
theorem meets_DramAccessResults (a : Action)
    (h : a ∈ [Action.load 8 true 0, .store 8 5#64, .atomic .add true 3#64 0#64 (some 0), .atomic .cas false 3#64 1#64 none]) :
    let s := flying a
    s.memOk ∧ reqOf a ∈ s.flight ∧ s.mayPerform (reqOf a) = true ∧ s.rules = [] ∧ s.stale = [] ∧ s.upsets = []
      ∧ (s.unit (reqOf a).who.unit).cache = [] ∧ (reqOf a).acq = false
      ∧ (reqOf a).pa + 8 ≤ s.dramSize ∧ ∀ k, (s.home k).trace.en = false ∧ s.isStaleGen k (reqOf a).who = false := by
  refine ⟨rfl, List.mem_singleton.2 rfl, ?_, rfl, rfl, rfl, rfl, rfl, by show 0x4008 + 8 ≤ 0x40000000 * 512; decide, fun k => ⟨rfl, ?_⟩⟩
  · revert a
    decide
  · exact (by decide : far.isStaleGen 0 ⟨0, 0, 0#12, 0#16, .s⟩ = false)

/-- A contribution in flight to DRAM, and a home whose merge table holds an entry, none, or sixteen of others. -/
theorem meets_DramAccessResults_merge :
    let entry : MergeEntry := ⟨0, 0x4008, true, true, 3, []⟩
    let s := fun (k : Nat) (l : List MergeEntry) => (flying (.merge true true 5#64 k)).modHome 516 fun h => { h with merges := l }
    let own := fun (l : List MergeEntry) => (l.filter fun e => e.lid == 0).find? fun e => e.target == 0x4008
    (s 3 [entry]).mayPerform (reqOf (.merge true true 5#64 3)) = true ∧ ((s 3 [entry]).place 0x4008).home = some 516
    ∧ ((s 3 [entry]).home 516).merges = [entry] ∧ own [entry] = some entry ∧ own [{ entry with target := 0 }] = none
    ∧ own [{ entry with fp := false }] = some { entry with fp := false } ∧ ((s 3 []).ctx 0 0).lid = 0
    ∧ 0x4008 + 8 ≤ (s 3 [entry]).dramSize := by decide +kernel

theorem meets_ParkLandsResultsInOrder :
    let s := one 0 0 (fun x => { x with defs := [⟨4#5, 0, .value 1#64, 1#5⟩, ⟨4#5, 1, .dropped, 0#5⟩, ⟨4#5, 2, .value 2#64, 2#5⟩] }) id
    s.memOk ∧ s.winOk 0 0 := by
  unfold State.memOk State.winOk
  decide

/-- A PREF of a local address, one that its check refuses, one of a line that is held, one that joins the cache, one that finds it full. -/
theorem meets_CacheAndFenceResults :
    let pref := fun (s : State) (p : State → Nat → TlbEntry → Bool) =>
      match s.checkEa s.cur s.c (eaOfM s.g 5#5 0#12) 1 .load with | .ok (s1, .home pa leaf) => p s1 pa leaf | _ => false
    let joins := fun (s1 : State) (pa : Nat) (leaf : TlbEntry) => s1.rcMay s1.cur pa leaf && (s1.rcLine s1.cur pa).isNone
      && (s1.lineFault (s1.issuer s1.cur s1.c) (some (s1.cur, s1.c)) pa).isNone && ! s1.accessWaits (pa / 64 * 64) 64 s1.po && s1.stale == []
    let held := fun (l : List CacheLine) => dram.modU fun y => { y with cache := l }
    pref localTop (fun _ _ _ => true) = false
    ∧ pref (put far [(5#5, 0x400000000000000#64)]) (fun _ _ _ => true) = false
    ∧ pref (held [⟨0x4000 / 64, 0, 0#12, []⟩]) (fun s1 pa _ => (s1.rcLine s1.cur pa).isSome) = true
    ∧ pref dram (fun s1 pa leaf => joins s1 pa leaf && decide (s1.ux.cache.length < 1024)) = true
    ∧ pref (held (List.replicate 1024 ⟨0, 0, 0#12, []⟩)) (fun s1 pa leaf => joins s1 pa leaf && decide (1024 ≤ s1.ux.cache.length)) = true := by
  decide +kernel

/-- FENCE and RCINV: a far core and a slice, nothing in flight and a load; lengths 0, 65,536 and 65,537; a store after a fence. -/
theorem meets_CacheAndFenceResults_fence :
    let s := { farParked with flight := [reqOf (.load 8 false 0)], po := 1 }
    farParked.cx.parked = true ∧ farParked.readsBefore 0 0 = false ∧ farParked.allPerformed 0 0 = true
    ∧ s.cx.parked = true ∧ s.readsBefore s.cur s.c = true ∧ s.allPerformed s.cur s.c = false ∧ far.kind = .far ∧ slice.kind ≠ .far
    ∧ far.g 6#5 = 0#64 ∧ ((put far [(6#5, 65536#64)]).g 6#5).toNat = 65536 ∧ 65536 < ((put far [(6#5, 65537#64)]).g 6#5).toNat
    ∧ (let r := { reqOf (.store 8 0#64) with po := 1 }
       let a := reqOf (.load 8 false 0)
       let t := s.modC fun x => { x with fenced := 1 }
       reqWrites r = true ∧ a ∈ t.flight ∧ a.who.unit = r.who.unit ∧ a.who.ctx = r.who.ctx
        ∧ a.po < (t.ctx r.who.unit r.who.ctx).fenced ∧ a.po < r.po) := by decide

theorem meets_CallResults : callTarget farParked.g farParked.pc (.call 0x1FFFFFF#25) = some 0x3FFFFFFFFC#64 ∧ farParked.cx.parked = true
    ∧ farParked.regOk ∧ farParked.cx.linear = false ∧ farParked.cx.act = false ∧ farParked.cx.nact = false
    ∧ farParked.cx.res ≠ farParked.cx.cap ∧ callTarget farParked.g farParked.pc (.callr 0#5 4#12) = some 4#64 :=
  ⟨by decide, by decide, far_regOk.2, by decide⟩

/-- A vector command of a context. -/
def vcmd (c : Nat) : VCmd := ⟨c, 0, 0#16, 0#64, .vbcast .w32 1#4 2#5, 7#64, 0#64, .rne, none, ⟨0, c, 0#12, 0#16, .s⟩⟩

/-- A control context at a RET with frames resident and spilled. -/
def returning (res : BitVec 8) (spilled : BitVec 32) : State :=
  put (one 0 0 (fun x => { x with parked := true, res := res, spilled := spilled }) id) [(21#5, 0x03FFFFFFFFFFFFFC#64)]

/-- Two resident frames with none spilled, three with one spilled. -/
theorem meets_ReturnResults (s : State) (h : s = returning 2#8 0#32 ∨ s = returning 3#8 1#32) : s.cx.parked = true ∧ s.regOk
    ∧ s.cx.linear = false ∧ s.cx.act = false ∧ s.cx.nact = false ∧ 2 ≤ s.cx.res.toNat ∧ (3 ≤ s.cx.res.toNat ∨ s.cx.spilled = 0#32)
    ∧ (s.g 21#5).toNat < 2 ^ 58 ∧ (s.g 21#5).toNat % 4 = 0 := by
  unfold State.regOk State.memOk State.winOk
  rcases h with rfl | rfl <;> decide

/-- A helper's last frame, with nothing queued and with a vector instruction. -/
theorem meets_ReturnResults_end (y : List VCmd) (h : y = [] ∨ y = [vcmd 10]) :
    let s := one 0 10 (fun x => { x with parked := true }) fun z => { z with vq := y }
    s.cx.parked = true ∧ s.cx.act = false ∧ s.cx.nact = false ∧ s.cx.res = 1#8 ∧ s.cx.spilled = 0#32 ∧ s.c ≠ 0 ∧ s.c < 11
      ∧ s.cx.tkhome.getLsbD 63 = false ∧ s.copQueued s.cur s.c = (y != []) := by
  rcases h with rfl | rfl <;> decide

/-- A row stream runs at a pseudo-channel. -/
def streamed (p : Nat) (s : State) : State :=
  s.modNear p fun x => { x with nm := true, stream := some ⟨0, 0, [], 0, false, ⟨Config.stackUnit0 + p, 0, 0#12, 0#16, .s⟩⟩ }

/-- A RET that fills from DRAM, from DRAM that a stream holds, and from an address that no page maps; one of a helper that holds a task. -/
theorem meets_ReturnResults_fill :
    let at_ := fun (va : Word) => mapped ((returning 1#8 1#32).modC fun x => { x with bsp := va }) 0x100000000 0x4000
    let s := at_ 0x100000000#64
    let above := fun (t : State) => t.beginFirst.modC fun y => { y with wp := y.ring (y.wp + 192#64), res := y.res - 1#8 }
    s.cx.parked = true ∧ s.cx.act = false ∧ s.cx.nact = false ∧ s.cx.spilled = 1#32 ∧ (s.g 21#5).toNat < 2 ^ 58 ∧ (s.g 21#5).toNat % 4 = 0
      ∧ (above (streamed 4 s)).fillWaits s.cur s.c 2 = true ∧ (above s).fillWaits s.cur s.c 2 = false
      ∧ ((above s).fillResident s.cur s.c 2).2 = none
      ∧ (above (at_ 0x0400000000000000#64)).fillWaits s.cur s.c 2 = false
      ∧ ((above (at_ 0x0400000000000000#64)).fillResident s.cur s.c 2).2.isSome = true
      ∧ (let t := one 0 10 (fun x => { x with parked := true, tkhome := 1#64 <<< 63 }) id
         t.cx.parked = true ∧ t.cx.act = false ∧ t.cx.nact = false ∧ t.cx.res = 1#8 ∧ t.cx.spilled = 0#32 ∧ t.c ≠ 0
          ∧ t.cx.tkhome.getLsbD 63 = true) := by
  decide +kernel

theorem meets_RegisterJumpResults : (eaOfM farG.g 5#5 1#12).toNat % 4 = 0 ∧ (eaOfM farG.g 5#5 1#12).toNat < 2 ^ 58
    ∧ (eaOfM farG.g 5#5 0#12).toNat % 4 ≠ 0 ∧ (eaOfM farG.g 7#5 0#12).toNat % 4 = 0 ∧ 2 ^ 58 ≤ (eaOfM farG.g 7#5 0#12).toNat
    ∧ farG.replaying farG.cur farG.c = false ∧ replayed.replaying replayed.cur replayed.c = true := by decide

/-- Helper 10, not live; its block sealed; helper 10 live. -/
def sealed : State := (farParked.modCtx 0 10 fun x => { x with ve := false, live := true }).saveCtx 0 10 false
/-- Helper 10 of far core 0 live beside the control context. -/
def two : State := farParked.modCtx 0 10 fun x => { x with live := true }

theorem meets_HelperStartResults :
    (let s := put farParked [(5#5, 0x03FFFFFFFFFFFFFC#64), (6#5, 2#64), (7#5, 0x0400000000000000#64)]
     s.cx.parked = true ∧ s.cx.priv ≠ .u ∧ (10#4).toNat ≤ helperCount s.kind ∧ (10#4).toNat ≠ s.c ∧ s.memOk
      ∧ (s.ctx s.cur 10).live = false ∧ (s.g 5#5).toNat % 4 = 0 ∧ (s.g 5#5).toNat < 2 ^ 58 ∧ s.allPerformed s.cur s.c = true
      ∧ (s.g 6#5).toNat % 4 ≠ 0 ∧ (s.g 7#5).toNat % 4 = 0 ∧ 2 ^ 58 ≤ (s.g 7#5).toNat
      ∧ State.allPerformed { s with flight := [reqOf (.load 8 false 0)], po := 1 } s.cur s.c = false)
    ∧ (two.ctx two.cur 10).live = true ∧ two.flight = [] ∧ two.copQueued two.cur 10 = false ∧ (two.ctx two.cur 10).defs = []
      ∧ (two.ctx two.cur 10).blocked = [] ∧ two.cx.priv ≠ .u ∧ two.cx.parked = true
    ∧ (let s := one 0 10 (fun x => { x with parked := true }) id
       s.cx.priv ≠ .u ∧ (10#4).toNat ≤ helperCount s.kind ∧ (s.ctx s.cur 10).live = true ∧ 10 = s.c ∧ s.cx.parked = true ∧ s.copQueued s.cur s.c = false) := by
  unfold State.memOk
  decide

set_option maxRecDepth 100000 in
theorem meets_HelperStartResults_restore : sealed.allPerformed sealed.cur sealed.c = true ∧ farParked.allPerformed farParked.cur farParked.c = true
    ∧ sealed.cx.parked = true ∧ sealed.cx.priv ≠ .u ∧ (sealed.ctx sealed.cur 10).live = false
    ∧ sealed.sealOk sealed.cur (sealed.cbOf sealed.cur 10) = true ∧ farParked.sealOk farParked.cur (farParked.cbOf farParked.cur 10) = false := by
  decide +kernel

/-- A shadow window at the top of local memory. -/
theorem meets_NoticeHandlerResults :
    (let s := put far [(5#5, 0x4000000000#64), (4#5, 0x7FF00#64), (6#5, 2#64), (7#5, 0x7FF40#64)]
     (s.g 5#5).toNat % 4 = 0 ∧ (s.g 4#5).toNat % 64 = 0 ∧ (s.g 4#5).toNat + 256 ≤ localSize s.kind ∧ s.cx.nact = false ∧ (s.g 6#5).toNat % 4 ≠ 0
      ∧ localSize s.kind < (s.g 7#5).toNat + 256)
    ∧ (∀ npend : Bool,
       let s := poke (one 0 0 (fun x => { x with parked := true, nact := true, nhpc := 4#64, nhwp := 0x7FE00#64, nwin := 0x7FF00#64, npend := npend }) id)
         [(0x7FFA8, 0x4000000000#64), (0x7FFA0, 0x60B40#64)]
       s.cx.parked = true ∧ s.cx.nact = true ∧ s.cx.npend = npend ∧ s.cx.nhpc ≠ 0#64 ∧ (s.loc64 s.cur (s.cx.nwin.toNat + 168)).toNat % 4 = 0
        ∧ (s.loc64 s.cur (s.cx.nwin.toNat + 168)).toNat < 2 ^ 58 ∧ s.cx.isSlot (s.loc64 s.cur (s.cx.nwin.toNat + 160)) = true)
    ∧ farParked.cx.nact = false ∧ farParked.cx.parked = true ∧ NothingPending far ∧ far.c = 0 := by
  unfold NothingPending
  decide

theorem meets_WordThatParksFirstActs : NothingPending far ∧ far.cx.parked = false
    ∧ ((far.land far.cur far.c).parkedBefore far.cur far.c).nextCtx far.cur far.c = far.c ∧ farParked.cx.parked = true := by
  unfold NothingPending
  decide

theorem meets_SavedContextIsRestored : far.memOk ∧ (far.cbOf 0 10).toNat + 0x1240 ≤ localSize (kindOf 0) ∧ (far.ctx 0 10).late = []
    ∧ (far.ctx 0 10).homeFaults = [] ∧ (far.ctx 0 10).kept = [] ∧ far.upsets = [] := by
  unfold State.memOk
  decide

/-- A far core with a handler set and the trap window at the top of local memory. -/
def handled : State := one 0 0 (fun x => { x with twb := 0x7FF00#64, parked := true }) fun y => { y with tvec := 0x4000001000#64 }

theorem meets_ExceptionEntry : MayEnter handled 0 0 := by
  unfold MayEnter State.memOk
  decide

/-- No handler, for the control context and a helper that has nothing queued or a vector instruction; a handler running. -/
theorem meets_DoubleTrap (y : List VCmd) (h : y = [] ∨ y = [vcmd 1]) : far.handlerPc 0 0 = 0#64
    ∧ (let s := one 0 1 (fun x => { x with priv := .u }) fun z => { z with vq := y }
       s.handlerPc 0 1 = 0#64 ∧ s.copQueued 0 1 = (y != []) ∧ (s.ctx 0 1).late = [] ∧ (s.ctx 0 1).homeFaults = []
        ∧ ∀ i : Fin 8, ((s.ctx 0 1).faults.get i).info.extractLsb' 32 16 ≠ (s.ctx 0 1).tseq + 2#16)
    ∧ (∀ i j : Fin 8, ((far.ctx 0 0).faults.get i).info.getLsbD 63 = true → ((far.ctx 0 0).faults.get j).info.getLsbD 63 = true → i = j)
    ∧ let s := handled.enterTrap 0 0 0#64 0#64 0#64 false 0 .bkpt
      (s.ctx 0 0).act = true ∧ ∀ i j : Fin 8, ((s.ctx 0 0).faults.get i).info.getLsbD 63 = true →
        ((s.ctx 0 0).faults.get j).info.getLsbD 63 = true → i = j := by
  rcases h with rfl | rfl <;> decide +kernel

theorem meets_TrapInstructions : NothingPending handled ∧ MayEnter handled handled.cur handled.c := by
  unfold NothingPending MayEnter State.memOk
  decide

theorem meets_LevelAndProfileChecks : executes far.kind (.asetrb 5#5) = false ∧ executes slice.kind (.start 4#4 1#5 2#5) = false
    ∧ (needsVector (.vadd .w32 0#5 1#4 2#4 3#4) = true ∧ (one 0 0 (fun x => { x with ve := false }) id).cx.ve = false)
    ∧ executes helper.kind (.stoph 10#4) = true ∧ isPrivileged (.stoph 10#4) = true ∧ helper.cx.priv = .u := by decide

/-- The handler running, its window untouched; a notice handler under it; no handler running. -/
theorem meets_ExceptionReturn :
    (let s := (handled.enterTrap 0 0 0x4000000004#64 0#64 0#64 false 0 .bkpt).modC fun x => { x with parked := true }
     s.cx.parked = true ∧ s.cx.priv ≠ .u ∧ s.cx.act = true ∧ (s.loc64 s.cur (s.cx.twb.toNat + 168)).toNat % 4 = 0
      ∧ (s.loc64 s.cur (s.cx.twb.toNat + 168)).toNat < 2 ^ 58 ∧ s.cx.isSlot (s.loc64 s.cur (s.cx.twb.toNat + 160)) = true
      ∧ ∀ i j : Fin 8, (s.cx.faults.get i).info.getLsbD 63 = true → (s.cx.faults.get j).info.getLsbD 63 = true → i = j)
    ∧ (let s := (State.enterTrap (handled.modC fun x => { x with nact := true, nwin := 0x7F000#64, wp := 0x7F000#64 }) 0 0 0x4000000004#64 0#64
          0#64 false 0 .bkpt).modC fun x => { x with parked := true }
       s.cx.act = true ∧ s.cx.nact = true ∧ s.loc64 s.cur (s.cx.twb.toNat + 160) = s.cx.nwin)
    ∧ handled.cx.act = false ∧ handled.cx.parked = true := by decide +kernel

/-- A handler running whose window holds a PC with bit 1 set, one past the address range, a window that is no slot. -/
theorem meets_ExceptionReturn_refused (p w : Word)
    (h : (p, w) ∈ [((2#64 : Word), (0x60B40#64 : Word)), (0x0400000000000000#64, 0x60B40#64), (4#64, 0x60B48#64)]) :
    let s := poke (one 0 0 (fun x => { x with
        parked := true, twb := 0x7FF00#64, faults := x.faults.set 0 ⟨0#64, 0#64, 0#64, 0xC000000000000000#64⟩ }) id) [(0x7FFA8, p), (0x7FFA0, w)]
    s.cx.parked = true ∧ s.cx.priv ≠ .u ∧ s.cx.act = true ∧ s.cx.nact = false ∧ s.loc64 s.cur (s.cx.twb.toNat + 168) = p
      ∧ s.loc64 s.cur (s.cx.twb.toNat + 160) = w ∧ s.cx.isSlot w = (w == 0x60B40#64) := by
  simp only [List.mem_cons, Prod.mk.injEq, List.not_mem_nil, or_false] at h
  rcases h with ⟨rfl, rfl⟩ | ⟨rfl, rfl⟩ | ⟨rfl, rfl⟩ <;> decide

/-- The launch 5 with far core 0 as its one voter. -/
def launch5 : Launch :=
  ⟨5, 0#12, 0#16, 0#64, 0#64, 4, 0x77#64, 0, [0], 1, 1, [], 0, false, [], [], 0, [], [], [], [], false, false, 0#64, 0, false⟩
/-- A context of far core 0 of that launch. -/
def inLaunch (f : Ctx → Ctx) (g : UnitState → UnitState) : State := { one 0 0 (fun x => { f x with lid := 5 }) g with launches := [launch5] }

theorem meets_WaitsEndAtTheirPark_issue : waitOf far.g (.waitc 1#5 2#5) = some (.waitc 0#64 0#64) ∧ far.kind = .far ∧ far.cx.priv ≠ .u ∧ far.c = 0
    ∧ (let s := inLaunch id id; s.c = 0 ∧ s.isVoter s.cur s.cx.lid = true)
    ∧ (let s := one 0 0 id fun y => { y with lapDone := some 9#64 }; s.c = 0 ∧ s.ux.lapDone ≠ none ∧ s.launch s.cx.lid = none)
    ∧ far.isVoter far.cur far.cx.lid = false ∧ far.ux.lapDone = none
    ∧ (let s := one 0 1 id id; s.cx.priv ≠ .u ∧ s.c ≠ 0) := by decide

/-- The control context at the park of a waiting word. -/
def waiting (w : Wait) (g : UnitState → UnitState) : State := one 0 0 (fun x => { x with wait := some w, parking := true }) g

/-- Each waiting word at its park, with and without what it waits for. -/
theorem meets_WaitsEndAtTheirPark :
    (∀ p ∈ [(Wait.waitc 0xFF#64 0#64, id), (.waitc 0xFF#64 1#64, id), (.recv 4#5 1#64 0#64, id), (.recv 4#5 0#64 0#64, id),
        (.lapw 4#5, fun y => { y with lapDone := some 9#64 }), (.lapw 4#5, id), (.haltc, fun y => { y with hend := 2#11 }), (.haltc, id)],
      AtWait (waiting p.1 p.2) p.1)
    ∧ reaches ((waiting (.waitc 0xFF#64 0#64) id).counter 0 255) 0#64 = true
    ∧ reaches ((waiting (.waitc 0xFF#64 1#64) id).counter 0 255) 1#64 = false ∧ far.loc64 0 (far.ringBlock 0 0 + 16) = 0#64
    ∧ (waiting (.lapw 4#5) id).ux.lapDone = none ∧ (waiting (.lapw 4#5) id).cx.woken = false ∧ (waiting (.waitc 0xFF#64 0#64) id).cx.woken = false ∧ (waiting (.lapw 4#5) id).workFor 0 0 = false
    ∧ State.workFor { waiting (.lapw 4#5) id with dirs := [(32, [⟨0, 7, 0, false⟩])] } 0 0 = true
    ∧ (waiting .haltc id).ux.hend = 0#11 ∧ (waiting .haltc id).ux.deposit = false := by
  refine ⟨?_, by decide⟩
  simp only [List.forall_mem_cons]
  unfold AtWait NothingPending State.regOk State.memOk State.winOk
  refine ⟨?_, ?_, ?_, ?_, ?_, ?_, ?_, ?_, fun p h => nomatch h⟩ <;> decide

theorem meets_SystemRegisterReads : (∀ r ∈ [0x000, 0x005, 0x043, 0x064, 0x072], (sysReg far r).isSome = true)
    ∧ Unheld far ∧ far.regOk := by
  unfold Unheld State.regOk State.memOk State.winOk
  decide

theorem meets_SystemRegisterWrites : Unheld far ∧ far.cx.priv ≠ .u ∧ helper.cx.priv = .u ∧ (srwWrite 0x060 (far.g 5#5) far).isSome = true
    ∧ readOnlyReg 0x070 = true
    ∧ (let s := put far [(5#5, 0x7FF00#64), (6#5, 0x7FF40#64)]
       (s.g 5#5).toNat % 64 = 0 ∧ (s.g 5#5).toNat + 256 ≤ localSize s.kind ∧ localSize s.kind < (s.g 6#5).toNat + 256)
    ∧ slice.kind = .slice ∧ (far.g 5#5).getLsbD 63 = false ∧ (farG.g 6#5).getLsbD 63 = true ∧ (farG.g 8#5).getLsbD 31 = true
    ∧ far.traceHome = some 0 ∧ (far.home 0).trace.en = false ∧ (far.modHome 0 fun h => { h with trace := { h.trace with en := true } }).traceHome = some 0
    ∧ State.traceHome (one 0 0 id fun y => { y with trsel := 0x3FF#64 }) = none := by
  unfold Unheld
  decide

/-- The ring of 64 frames that ends at the top of local memory, and one that ends past it. -/
theorem meets_WindowRegisterWrites :
    (let s := put farParked [(5#5, 0x60B40#64), (6#5, 0x7F400#64), (7#5, 0x7F440#64), (8#5, 0x0000000300000110#64), (9#5, 0x103#64), (10#5, 0x60000#64)]
     let fits := fun (frb : Word) (cap : Nat) => frb.toNat % 64 = 0 ∧ 4 ≤ cap ∧ cap ≤ 64 ∧ frb.toNat + cap * 192 ≤ localSize s.kind
     s.cx.parked = true ∧ s.cx.priv ≠ .u ∧ s.cx.isSlot (s.g 5#5) = true ∧ s.cx.isSlot (s.g 6#5) = false
      ∧ fits (s.g 6#5) s.cx.cap.toNat ∧ s.g 6#5 ≠ s.cx.frb ∧ ¬ fits (s.g 7#5) s.cx.cap.toNat
      ∧ fits s.cx.frb ((s.g 8#5).toNat % 256) ∧ (s.g 8#5).toNat % 256 = s.cx.cap.toNat ∧ (s.g 8#5).toNat / 2 ^ 8 % 256 = s.cx.res.toNat
      ∧ s.cx.res.toNat ≤ s.cx.cap.toNat ∧ ¬ fits s.cx.frb ((s.g 9#5).toNat % 256) ∧ fits (s.g 10#5) s.cx.cap.toNat ∧ s.g 10#5 = s.cx.frb)
    ∧ (let s := put (one 0 0 (fun x => { x with parked := true, res := 0#8 }) id) [(6#5, 0x7F400#64)]
       s.cx.parked = true ∧ s.cx.priv ≠ .u ∧ (s.g 6#5).toNat % 64 = 0 ∧ s.cx.cap.toNat = 16 ∧ (s.g 6#5).toNat + 16 * 192 = localSize s.kind
        ∧ s.g 6#5 ≠ s.cx.frb ∧ s.cx.res = 0#8)
    ∧ (one 0 1 (fun x => { x with parked := true, priv := .u }) id).cx.priv = .u
    ∧ (let s := mapped ((returning 1#8 1#32).modC fun x => { x with bsp := 0x1000000C0#64 }) 0x100000000 0x4000
       s.ringWaits 0 = false ∧ (streamed 4 s).ringWaits 0 = true ∧ s.ringWaits 2 = false ∧ (streamed 4 s).ringWaits 2 = true) := by
  decide +kernel

theorem meets_RegisterAccessEvents : far.kind = .far ∧ far.regOk ∧ far.cx.priv ≠ .u ∧ far.traceHome = some 0 ∧ (1#64).getLsbD 0 = true
    ∧ (far.home 0).trace.en = false ∧ slice.kind = .slice ∧ (slice.slice slice.ownSlice).plsel.toNat < 24
    ∧ { slice with async := true }.async = true ∧ State.plcfgChanges { slice with async := true } 1#64 = true ∧ slice.plcfgChanges 0#64 = false
    ∧ State.traceHome (one 0 0 id fun y => { y with trsel := 0x3FF#64 }) = none := ⟨by decide, far_regOk.1, by decide⟩

/-- A stack near unit with its channel's near mode changed. -/
def nearAt (f : Near → Near) : State := stack.modNear 0 f

theorem meets_NearModeSequence : stack.kind = .stack ∧ (stack.nearOf 0).nm = false
    ∧ (let s := nearAt fun x => { x with step := 1 }; (s.nearOf 0).step = 1 ∧ (s.nearOf 0).owner = s.c)
    ∧ (let s := nearAt fun x => { x with step := 2 }
       (s.nearOf 0).step = 2 ∧ (s.nearOf 0).owner = s.c ∧ (s.nearOf 0).nm = false ∧ s.channelQuiet 0 = true
        ∧ State.channelQuiet { s with flight := [{ reqOf (.load 8 false 0) with pa := 8 }] } 0 = false)
    ∧ (let s := nearAt fun x => { x with entering := some 5 }; (s.nearOf 0).entering = some 5 ∧ s.channelQuiet 0 = true)
    ∧ let s := nearAt fun x => { x with nm := true }
      (s.nearOf 0).nm = true ∧ (s.nearOf 0).stream = none ∧ (s.nearOf 0).lid = s.cx.lid := by decide

theorem meets_FloatingResults : farG.regOk ∧ (fpForm farG (.fadd false .rne 4#5 5#5 6#5)).isSome = true
    ∧ ((fpForm farG (.fdiv true .sr 4#5 5#5 6#5)).any fun f => f.deferred && f.draws) = true := ⟨farG_regOk, by decide +kernel⟩

/-- A signalling NaN, a quiet one and numbers, of FP32 and FP64; the zeros. -/
theorem meets_FloatingNaNsAndOrder : nanCode false 0x7F800001 = true ∧ sigCode false 0x7F800001 = true ∧ nanCode false 0xFFC00000 = true
    ∧ nanCode false 0x7F800000 = false ∧ nanCode true 0x7FF0000000000001 = true ∧ nanCode true 0x7FF0000000000000 = false
    ∧ ordKey false 0xBF800000 < ordKey false 0x3F800000 ∧ ordKey true 0x8000000000000000 = ordKey true 0 := by decide

theorem meets_RepresentableValuesAreDelivered : bE4M3 ∈ [bFP64, bFP32, bFP16, bE5M2, bE4M3] ∧ 0x7E < 2 ^ bE4M3.width
    ∧ (bE4M3.decode 0x7E).isNan = false ∧ (bE5M2.decode 0xFC).isNan = false
    ∧ (∀ rm ∈ [RM.rne, .rna, .rtz, .rdn, .rup], (bE4M3.deliver .ieee rm 0#32 (.fin true 17 16)).2.getLsbD 2 = false)
    ∧ isFinite (bE4M3.decode 0xB8) = true := by decide

/-- Control words with reserved bits clear and set; an ASID at its bounds; a floor as old, one newer, half the range newer. -/
theorem meets_TranslationAndGenerationRequests :
    (let s := put farParked [(5#5, 0x80000000000#64), (6#5, 4#64), (7#5, 0xFFF#64), (8#5, 0x1000#64), (9#5, 1#64), (10#5, 0x8000#64),
       (11#5, 2#64), (12#5, 0x0400000000000000#64)]
     s.cx.parked = true ∧ s.cx.priv ≠ .u ∧ s.allPerformed s.cur s.c = true ∧ s.tlbPending (s.g 5#5) = false
      ∧ State.allPerformed { s with flight := [reqOf (.load 8 false 0)], po := 1 } s.cur s.c = false
      ∧ (let t : State := { s with flight := [{ reqOf (.load 8 false 0) with who := ⟨0, 1, 0#12, 0#16, .s⟩ }] }
         t.allPerformed t.cur t.c = true ∧ t.tlbPending 0#64 = true)
      ∧ (s.g 9#5).toNat / 2 ^ 44 = 0 ∧ (s.g 9#5).toNat / 4 % 2 ^ 30 = 0 ∧ (s.g 9#5).toNat % 4 = 1 ∧ (s.g 11#5).toNat % 4 = 2
      ∧ (s.g 11#5).toNat / 4 = 0 ∧ 2 ^ 58 ≤ (s.g 12#5).toNat ∧ (s.g 5#5).toNat / 2 ^ 44 = 0 ∧ (s.g 5#5).toNat / 4 % 2 ^ 30 = 0
      ∧ (s.g 5#5).toNat % 4 < 2 ∧ (s.g 6#5).toNat / 4 % 2 ^ 30 ≠ 0 ∧ (s.g 7#5).toNat < 2 ^ 12 ∧ 2 ^ 12 ≤ (s.g 8#5).toNat
      ∧ (∀ p ∈ [(0#5, 0), (9#5, 1), (10#5, 2 ^ 15)],
          ((s.g p.1).toNat % 2 ^ 16 + 2 ^ 16 - (SMap.get s.gens ((s.g 7#5).toNat % 2 ^ 12) 0#16).toNat) % 2 ^ 16 = p.2))
    ∧ let s := { far with advances := [⟨3#12, 1#16, [], [0], 0, 0, 7⟩] }
      s.advances = [⟨3#12, 1#16, [], [0], 0, 0, 7⟩] ∧ s.olderWork 0 3#12 1#16 = false
        ∧ State.olderWork { s with flight := [{ reqOf (.load 8 false 0) with who := ⟨0, 0, 3#12, 0#16, .s⟩ }] } 0 3#12 1#16 = true := by decide

/-- A save area whose header passes its checks, for far core 0 and a stopped launch. -/
def area : State :=
  let head := bytesOfNat 8 (2 ^ 63 + 5 * 2 ^ 32 + 8) ++ List.replicate 48 0#8
  let s : State := { farParked with launches := [{ launch5 with stopped := true, away := [0] }] }
  State.setPhysBytes { s with saves := [s.unitState 0 5] } 0x4000 (bytesOf 8 (crc64 (head ++ bytesOfNat 8 0)) ++ head ++ bytesOfNat 8 0)

theorem meets_ContextSlotWords : farParked.cx.priv ≠ .u ∧ farParked.cx.parked = true ∧ farParked.memOk ∧ hasHelperN farParked.kind 10#4 = true
    ∧ (farParked.ctx farParked.cur 10).live = false ∧ farParked.blockFits farParked.cur 0x7EE00#64 = true
    ∧ farParked.blockFits farParked.cur 0x80000#64 = false
    ∧ (farParked.cbOf farParked.cur 10).toNat + 0x1240 ≤ localSize farParked.kind
    ∧ (two.ctx two.cur 10).live = true ∧ two.cx.parked = true ∧ farParked.g 5#5 = 0#64
    ∧ (put two [(5#5, 0x400#64)]).g 5#5 = BitVec.ofNat 64 (2 ^ 10)
    ∧ two.flight = [] ∧ (two.ctx two.cur 10).defs = [] ∧ (two.ctx two.cur 10).blocked = [] ∧ two.copQueued two.cur 10 = false ∧ farParked.upsets = []
    ∧ farParked.allPerformed farParked.cur farParked.c = true
    ∧ (let s := put farParked [(5#5, 0x0001000000000000#64), (6#5, 0xFFFF00040000#64), (7#5, 0x500020000#64)]
       2 ^ 48 ≤ (s.g 5#5).toNat ∧ s.g 6#5 = BitVec.ofNat 64 (2 ^ 18 + 0xFFFF * 2 ^ 32) ∧ s.g 7#5 = BitVec.ofNat 64 (2 ^ 17 + 5 * 2 ^ 32))
    ∧ ({ farParked with launches := [{ launch5 with lid := 0xFFFF, owing := [0] }] } : State).launch 0xFFFF
        = some { launch5 with lid := 0xFFFF, owing := [0] } := by
  unfold State.memOk
  decide

set_option maxRecDepth 100000 in
theorem meets_ContextSlotWords_unit : (area.beginFirst.checkArea area.cur 0x4000).isSome = true
    ∧ farParked.beginFirst.checkArea farParked.cur 0x4000 = none := by decide +kernel

/-- Far core 0, instructions performed apart from their issue. -/
def apart : State := { far with async := true }

theorem meets_VectorDispatch : (vectorForm apart.g (.vcmp .lt .w32 0#5 15#4 2#4 3#4)).isSome = true ∧ QuietCop apart ∧ apart.async = true
    ∧ apart.cx.ve = true ∧ apart.ux.vq.length < 16 ∧ apart.upsetAt .vector apart.cur = none := by
  unfold QuietCop
  decide

theorem meets_VectorLanes : laneWord (.vadd .b8 31#5 15#4 2#4 3#4) = some (.b8, 31#5, 15#4, 2#4, 3#4) ∧ VectorFree far
    ∧ (vfpWord (.vfma true .rup 31#5 15#4 2#4 3#4)).isSome = true := by
  unfold VectorFree QuietCop
  decide

/-- The last 256 bytes of local memory. -/
theorem meets_VectorMemoryLanes : let s := put far [(5#5, 0x7FF00#64)]
    VectorFree s ∧ s.memOk ∧ s.cur < 1536 ∧ (s.g 5#5).toNat + 256 ≤ localSize s.kind ∧ (s.g 5#5).toNat % (laneBitsOf .d64 / 8) = 0
      ∧ InWindow s (s.g 5#5).toNat 256 ∧ Unguarded s (s.g 5#5).toNat 256 := by
  unfold VectorFree QuietCop State.memOk InWindow Unguarded
  decide

theorem meets_MatrixAndArrayIssue : (matrixForm far.g (.mma true true 12#5 13#5)).isSome = true ∧ far.kind = .far ∧ QuietCop far
    ∧ far.ux.matrix.fifo.length < 8 ∧ (arrayForm slice.g (.axin 5#5 6#5)).isSome = true ∧ slice.kind = .slice ∧ QuietCop slice
    ∧ { slice with async := true }.async = true ∧ (slice.slice slice.ownSlice).fifo.length < 32 := by
  unfold QuietCop
  decide

/-- An RPT at the PC with one vector word after it. -/
def repeating : State :=
  let s := State.reset.withFetchWord 32 0x3C007000
  s.modUnit 0 fun y => { y with code := y.code.writeBytes 4 [0x83#8, 0x00#8, 0x81#8, 0x34#8] }

/-- A matrix command and an array command of context 0. -/
def mcmd (i : Instr) : MatCmd := ⟨0, false, 0, 0#16, 0#64, i, 0#64, 0#64, ⟨0, 0, 0#12, 0#16, .s⟩⟩
def acmd (i : Instr) (a : Word) : ArrayCmd := ⟨0, 0, 0#16, 0#64, i, a, 0#64, true, 0, 0, false, 0#24, 0⟩
/-- An array command in the FIFO of slice 0. -/
def sliceWith (k : ArrayCmd) : State := slice.modSlice 0 fun x => { x with fifo := [k] }

/-- Far core 0 with a command at the head of its FIFO, under a format word; its matrix state and doublewords of its memory given. -/
def granting (fmt : Word) (i : Instr) (a b : Word) (f : Matrix → Matrix) (l : List (Nat × Word)) : State :=
  poke (far.modUnit 0 fun y => { y with matrix := f { y.matrix with fmt := fmt, fifo := [{ mcmd i with opa := a, opb := b }] } }) l

/-- An MMA and an MMAS of 32 × 32 × 32 in E4M3, a load and a store whose rows touch, a recurrence of one step in INT32, a program, two formats. -/
theorem meets_MatrixGrantResults :
    (∀ p ∈ [(granting 0#64 (.mma false false 5#5 6#5) 0x70000#64 0x70400#64 id [], 0x70000#64, 0x70400#64, Instr.mma false false 5#5 6#5),
        (granting 0x400000#64 (.mmas false true 5#5 6#5) 0x0007080000070000#64 0x0007084000070400#64 id [], 0x0007080000070000#64, 0x0007084000070400#64, .mmas false true 5#5 6#5),
        (granting 0#64 (.mldc false true 5#5 6#5) 0x70000#64 0x80#64 id [], 0x70000#64, 0x80#64, .mldc false true 5#5 6#5),
        (granting 0#64 (.mstc false false 5#5 6#5) 0x70000#64 0x80#64 id [], 0x70000#64, 0x80#64, .mstc false false 5#5 6#5),
        (granting 0x2033#64 (.mrec false false 5#5 6#5) 0x70000#64 1#64 id [], 0x70000#64, 1#64, .mrec false false 5#5 6#5),
        (granting 0#64 (.mprog false false 5#5) 0#64 0#64 id [], 0#64, 0#64, .mprog false false 5#5),
        (granting 0#64 (.mfmt false 5#5) 0x2033#64 0#64 id [], 0x2033#64, 0#64, .mfmt false 5#5)],
      Granting p.1 0 0 { mcmd p.2.2.2 with opa := p.2.1, opb := p.2.2.1 } ∧ (p.1.mat 0).walk = none ∧ p.1.stage ≠ 3#4)
    ∧ matShape 0#64 = ⟨0, 0, 0, 32, 32, 32, 0⟩ ∧ matShape 0x400000#64 = ⟨0, 0, 0, 32, 32, 32, 1⟩ ∧ matShape 0x2033#64 = ⟨3, 3, 2, 32, 32, 32, 0⟩
    ∧ far.localFault 0 .s 64 [(0x70000, 1024), (0x70400, 1024), (0x70800, 32), (0x70840, 32)] = none
    ∧ far.localFault 0 .s 64 ((List.range 32).map fun i => (0x70000 + i * 0x80, 128)) = none ∧ far.localFault 0 .s 64 [(0x70000, 256)] = none
    ∧ progOk 0#64 = true ∧ matOk 0x2033#64 = true := by
  simp only [List.forall_mem_cons]
  unfold Granting State.memOk
  refine ⟨⟨?_, ?_, ?_, ?_, ?_, ?_, ?_, fun p h => nomatch h⟩, by decide +kernel⟩ <;> decide +kernel

/-- An exhausted list with TOUCHED 0 and 1, its C rows touching; an entry in hand of the current row block, the last of its list. -/
theorem meets_MatrixGrantResults_list :
    (∀ t : Fin 2,
      let s := granting 0#64 (.mtlist false false 5#5) 0x70000#64 0#64 id
        [(0x70010, BitVec.ofNat 64 (2 ^ 48 + t.val)), (0x70028, 0x71000#64), (0x70030, 0x80#64)]
      let dw := fun (i : Nat) => leNat 8 fun y => s.mem.read (localPa 0 (0x70000 + 8 * i + y))
      Granting s 0 0 { mcmd (.mtlist false false 5#5) with opa := 0x70000#64 } ∧ (s.mat 0).walk = none ∧ s.localFault 0 .s 64 [(0x70000, 64)] = none
        ∧ (∀ i ∈ [0, 1, 3, 4, 7], dw i = 0) ∧ dw 2 = 2 ^ 48 + t.val ∧ dw 5 = 0x71000 ∧ dw 6 = 0x80
        ∧ s.localFault 0 .s 64 ((List.range 32).map fun i => (0x71000 + i * 0x80, 128)) = none)
    ∧ (let w : Walk := ⟨0, 0, false, 0, some (0#64, 0x72000#64), [], [0#64, 0x100000000#64, 0x0001000000000000#64, 0x70000#64, 0x20#64, 0x71000#64, 0x80#64, 0#64]⟩
       let s := granting 0#64 (.mtlist false false 5#5) 0x70000#64 0#64 (fun x => { x with walk := some w }) []
       Granting s 0 0 { mcmd (.mtlist false false 5#5) with opa := 0x70000#64 } ∧ (s.mat 0).walk = some w ∧ (w.dw 1).toNat / 2 ^ 32 = w.next + 1
        ∧ w.cur < (w.dw 2).toNat / 2 ^ 48 ∧ s.localFault 0 .s 1 ((List.range 32).map fun j => (0x70000 + j * 0x20, 32)) = none
        ∧ s.localFault 0 .s 64 [(0x72000, 1024)] = none) := by
  unfold Granting State.memOk
  decide +kernel

theorem meets_CoprocessorEvents_vector : repeating.cx.ve = true ∧ QuietCop repeating
    ∧ repeating.checkBody repeating.cur repeating.c (repeating.pc + 4#64) 1 = .ok
    ∧ (let s := far.modUnit 0 fun y => { y with vq := [vcmd 0] }; (s.unit 0).vq = [vcmd 0] ∧ s.vready 0 (vcmd 0) = true)
    ∧ (let s := { far with flight := [reqOf (.load 8 false 0)] }; s.vready 0 { vcmd 0 with po := 1, instr := .vld .w32 1#4 2#5 } = false)
    ∧ replay8.len = 1 ∧ replay8.body = [⟨4#64, .vbcast .w32 1#4 2#5, 7#64, 0#64, .rne⟩] ∧ replay8.word = 0 ∧ replay8.count = replay8.pass + 1
      ∧ replayed.ux.vq = []
    ∧ (let x := (one 0 0 (fun x => { x with resuming := true, replay := ⟨true, 8#64, 1#11, 0#8, 0#4⟩ }) id).ctx 0 0
       x.live = true ∧ x.resuming = true ∧ x.act = false ∧ x.drply.getLsbD 63 = false ∧ x.replay.rv = true ∧ x.pc ≠ x.replay.pc)
    ∧ (let s := one 0 0 (fun x => { x with resuming := true, drply := 0x8000000000000000#64 }) id
       (s.ctx 0 0).live = true ∧ (s.ctx 0 0).resuming = true ∧ (s.ctx 0 0).act = false ∧ (s.ctx 0 0).drply.getLsbD 63 = true ∧ (s.ctx 0 0).redo = none
        ∧ (s.ctx 0 0).dring = [] ∧ (s.ctx 0 0).defs = [] ∧ (s.ctx 0 0).awaiting = false ∧ (s.unit 0).replay = []
        ∧ (s.ctx 0 0).replay.rv = false)
    ∧ (let w : Word32 := 0#1 ++ 0x19#6 ++ 1#4 ++ 2#4 ++ 3#4 ++ 7#5 ++ 2#2 ++ 0#6
       let e : DEntry := ⟨4#64, 0xFFFF#16, 0#8, 1#4, 2#4, w, 0#64, 0#64, 0#64⟩
       let s := one 0 0 (fun x => { x with drply := 0x800000000000FFFF#64, dring := [e], cseq := 0#16 }) id
       decodeCop e.word = some (.vadd .w32 7#5 1#4 2#4 3#4) ∧ (laneWord (.vadd .w32 7#5 1#4 2#4 3#4)).isSome = true
        ∧ e.seq.toNat = (s.ctx 0 0).drply.toNat % 2 ^ 16 ∧ e.seq ≠ (s.ctx 0 0).cseq ∧ (s.unit 0).vq.length < 16) := by
  unfold QuietCop
  exact ⟨by decide, by decide, by rfl, by decide⟩

theorem meets_CoprocessorEvents_queues :
    (let s := far.modUnit 0 fun y => { y with matrix := { y.matrix with fifo := [mcmd (.mzero false true)] } }
     s.matNext 0 = some (0, mcmd (.mzero false true)) ∧ (mcmd (.mzero false true)).k = false ∧ (s.mat 0).walk = none
      ∧ (s.ctx 0 0).late = [] ∧ far.matNext 0 = none)
    ∧ (let s := sliceWith (acmd (.asetrb 5#5) 255#64)
       s.arrayHead 0 = some (acmd (.asetrb 5#5) 255#64) ∧ (acmd (.asetrb 5#5) 255#64).opa.toNat < 256
        ∧ (acmd (.asetrb 5#5) 255#64).done = 0 ∧ s.upsets = [] ∧ (s.ctx (Config.sliceUnit0 + 0) 0).late = [] ∧ slice.arrayHead 0 = none)
    ∧ (let l := { launch5 with stopped := true, owing := [0, Config.sliceUnit0] }
       let s := { far.modUnit 0 (fun y => { y with matrix := { y.matrix with fifo := [mcmd (.mzero false true)] } }) with launches := [{ l with lid := 0 }] }
       s.launch 0 = some { l with lid := 0 } ∧ l.stopped = true ∧ 0 ∈ l.owing ∧ (∀ k ∈ (s.mat 0).fifo, (s.ctx 0 k.ctx).lid = 0) ∧ (s.mat 0).walk = none
        ∧ (s.mat 0).fifo ≠ [] ∧ Config.sliceUnit0 + 0 ∈ l.owing
        ∧ (let t := { sliceWith (acmd (.asetrb 5#5) 255#64) with launches := [{ l with lid := 0 }] }
           t.launch 0 = some { l with lid := 0 } ∧ ∀ k ∈ (t.slice 0).fifo, (t.ctx (Config.sliceUnit0 + 0) k.ctx).lid = 0))
    ∧ launch5.stopped = false ∧ 0 ∉ launch5.owing ∧ far.launch 5 = none := by decide +kernel

theorem meets_ArrayRowResults : let s := sliceWith (acmd (.afadd 127#7 0#7 1#7) 0#64)
    s.arrayHead 0 = some (acmd (.afadd 127#7 0#7 1#7) 0#64) ∧ rowNames (.afadd 127#7 0#7 1#7) = some (some 127#7, 0#7, 1#7)
      ∧ (s.ctx (Config.sliceUnit0 + 0) 0).late = [] ∧ (acmd (.afadd 127#7 0#7 1#7) 0#64).done = 0 ∧ s.upsets = [] ∧ s.rules = [] ∧ s.stale = [] ∧ s.memOk := by
  unfold State.memOk
  decide +kernel

/-- A macro whose bands lie apart, one in place; moves of the last array and of the last plot; ADOT, ABUF and AOUT of the last array. -/
theorem meets_ArrayRowResults_other :
    (∀ p ∈ [(Instr.amul 16#6 5#5 6#5 7#5, 0x40#64, 0x002030#64), (.aadd 32#6 5#5 6#5 7#5, 0#64, 0x0000E0#64), (.axin 5#5 6#5, 0x800#64, 0x4000005F#64),
        (.axout 5#5 6#5, 0x800#64, 0xA0FF0017#64), (.adot, 0#64, 0#64), (.abuf 3#4, 0#64, 0#64), (.aout 3#4 5#5, 0#64, 0xDF#64)],
      ArrayNext (sliceWith { acmd p.1 p.2.1 with opb := p.2.2 }) 0 { acmd p.1 p.2.1 with opb := p.2.2 })
    ∧ (macroWord (.amul 16#6 5#5 6#5 7#5)).isSome = true ∧ Apart 0 32 32 16 ∧ Apart 0 32 48 16 ∧ MoveOk 0x4000005F#64 ∧ MoveOk 0xA0FF0017#64
    ∧ slice.localFault Config.sliceUnit0 .s 64 [(0x800, 16384)] = none ∧ slice.localFault Config.sliceUnit0 .s 64 [(0x800, 256 * 32)] = none := by
  simp only [List.forall_mem_cons]
  unfold ArrayNext State.memOk Apart MoveOk
  refine ⟨⟨?_, ?_, ?_, ?_, ?_, ?_, ?_, fun p h => nomatch h⟩, by decide, fun i j _ _ => by omega, fun i j _ _ => by omega, by decide, by decide, by decide, by decide⟩ <;> decide +kernel

/-- A repetition of the one word after its RPT, recorded at that word and resumed there, by a context whose handler runs or does not. -/
theorem meets_CoprocessorEvents_resume (act : Bool) :
    let s := repeating.modC fun x => { x with
        resuming := true, pc := 0x4000000008#64, replay := ⟨true, 0x4000000008#64, 1#11, 7#8, 0#4⟩, faults := if act then x.faults.set 0 ⟨0#64, 0#64, 0#64, 0xC000000000000000#64⟩ else x.faults }
    let x := s.ctx 0 0
    x.live = true ∧ x.resuming = true ∧ x.act = act ∧ x.drply.getLsbD 63 = false ∧ x.replay.rv = true ∧ x.pc = x.replay.pc
      ∧ (s.fetchAt 0 0 0x4000000000#64).bind decodeCop = some (.rpt 7#8 0#4 0#4)
      ∧ (s.fetchAt 0 0 0x4000000004#64).bind decodeCop = some (.vfma false .rne 0#5 4#4 0#4 8#4) := by
  revert act
  decide +kernel

/-- A message from the top of local memory to the top of far core 1's, its payload of the greatest length; accesses posted. -/
def sending : State :=
  { mapped (put far [(4#5, 0xF#64), (5#5, 0x0000010000070000#64), (6#5, 0x100003F00#64), (7#5, 0x0000010100070000#64)]) 0x100000000
      0x9000000FC000 with async := true }

theorem meets_MessageResults : MsgOk sending 0x70000 256 0x100003F00#64 false true sending 0x9000000FFF00
    ∧ MsgOk sending 0x70000 256 0x100003F00#64 true false sending 0x9000000FFF00 ∧ MsgOk sending 0 0 0x100003F00#64 false true sending 0x9000000FFF00
    ∧ sending.g 6#5 = 0x100003F00#64 ∧ specOf (sending.g 5#5) = (0x70000, 256) ∧ sending.ux.maxmsg.toNat < (specOf (sending.g 7#5)).2
    ∧ (let s := put far [(5#5, 0x000001000007FF01#64), (6#5, 0x0400000000000000#64)]
       (specOf (s.g 5#5)).2 ≤ s.ux.maxmsg.toNat ∧ s.localRangeOk (specOf (s.g 5#5)).1 (specOf (s.g 5#5)).2 = false
        ∧ (specOf (s.g 0#5)).2 ≤ s.ux.maxmsg.toNat ∧ s.localRangeOk (specOf (s.g 0#5)).1 (specOf (s.g 0#5)).2 = true
        ∧ (match s.checkRemote (s.g 6#5) 0 false true with | .error _ => true | .ok _ => false) = true) := by
  unfold MsgOk
  exact ⟨⟨by decide, by decide, by decide +kernel, by decide, by rfl, by rfl, by rfl, by rfl, fun _ => rfl, fun _ => by decide +kernel⟩,
    ⟨by decide, by decide, by decide +kernel, by decide, by rfl, by rfl, by rfl, by rfl, fun _ => rfl, fun _ => by decide +kernel⟩,
    ⟨by decide, by decide, by decide +kernel, by decide, by rfl, by rfl, by rfl, by rfl, fun _ => rfl, fun _ => by decide +kernel⟩, by decide⟩

/-- A store queue that is full, a get to the payload's bytes, an acquire in flight. -/
theorem meets_MessageResults_holds :
    (let full := { sending with flight := List.replicate 32 (reqOf (.store 8 0#64)) }
     remote (full.checkRemote 0x100003F00#64 256 false true) (fun s1 _ => s1.storesFull s1.cur) = true)
    ∧ State.ownPending { far with flight := [reqOf (.get 0x70000 256 0)], po := 1 } 0x70000 256 = true
    ∧ State.ownAcquires { far with flight := [{ reqOf (.load 8 false 0) with acq := true }], po := 1 } = true ∧ far.ownAcquires = false
    ∧ far.kind = .far := by decide +kernel

/-- CANCEL; an armed entry; a misplaced descriptor; a threshold that the counter has not reached. -/
theorem meets_MessageResults_wtarm :
    let s := put (one 0 0 id fun y => { y with wtes := [(63, ⟨true, 0#8, 0#64, [], 0, false, 0⟩)] })
      [(4#5, 0x8000000000000000#64), (5#5, 63#64), (6#5, 1#64), (7#5, 0x7FFC0#64), (8#5, 0xFF00#64), (9#5, 0x80000#64)]
    s.kind = .far ∧ 2 ^ 63 ≤ (s.g 4#5).toNat ∧ (s.g 5#5).toNat < 2 ^ 63 ∧ (s.wte s.cur ((s.g 5#5).toNat % 64)).armed = true
      ∧ (s.g 8#5).toNat < 2 ^ 63 ∧ (s.wte s.cur ((s.g 8#5).toNat % 64)).armed = false ∧ (s.g 6#5).toNat % 64 ≠ 0 ∧ (s.g 7#5).toNat % 64 = 0
      ∧ s.localRangeOk (s.g 7#5).toNat 64 = true ∧ s.ownPending (s.g 7#5).toNat 64 = false ∧ s.flight = [] ∧ (∀ k ∈ s.ux.vq, k.ctx ≠ s.c) ∧ (s.g 9#5).toNat % 64 = 0 ∧ s.localRangeOk (s.g 9#5).toNat 64 = false
      ∧ (SMap.get s.ux.counters ((s.g 8#5).toNat / 2 ^ 8 % 256) 0#64 - s.g 0#5).toNat < 2 ^ 63
      ∧ 2 ^ 63 ≤ (SMap.get s.ux.counters ((s.g 8#5).toNat / 2 ^ 8 % 256) 0#64 - s.g 6#5).toNat := by decide

/-- Receive ring 0 of far core 0, two slots of 128 bytes at 0x70000. -/
def ringed (s : State) : State := poke s [(0, 0x8000000107070000#64)]

/-- A held hand-off of entry 63, and a held message. -/
def fired : State :=
  ringed (one 0 0 id fun y => { y with wtes := [(63, ⟨true, 0#8, 0#64, List.replicate 64 1#8, 0, true, 5⟩)], heldMsgs := [.handOff 63] })
def heldReq : Req := { reqOf (.send 0 ⟨false, 0, 1, .far, 0, 0, 9#32, [1#8]⟩) with pa := 0x900000000000 }
def holding : State := ringed (one 0 0 id fun y => { y with heldMsgs := [.msg heldReq] })
/-- The page table of the first 32 MiB, rooted where PTROOT says, and at M level where MROOT says. -/
def paged : State :=
  (((far.modC fun x => { x with ptroot := 0x4000#64 }).setPhys64 0x4000 0x8001#64).setPhys64 0x8000 0xC001#64).setPhys64 0xC000 0x17#64
def pagedM : State := (paged.modC fun x => { x with priv := .m, ptroot := 0#64 }).modU fun y => { y with mroot := 0x4000#64 }
/-- A refused contribution of index 2 to DRAM. -/
def mergeReq : Req := reqOf (.merge false true 1#64 2)
def refusedMerge : State := one 0 0 (fun x => { x with blocked := [mergeReq] }) id

theorem meets_MessageAndWalkEvents :
    (let r := { reqOf (.cinc 255 1#64) with pa := 0x900000000000 }
     let s := { far with flight := [r] }
     s.flight = [r] ∧ s.unitAt r.pa = some 0 ∧ s.mayPerform r = true ∧ r.acq = false ∧ s.homeFault r.who (reqTagged r) true none r.pa 1 = none)
    ∧ far.flight = [] ∧ (fired.unit 0).heldMsgs = [.handOff 63] ∧ (far.unit 0).heldMsgs = []
    ∧ (match fired.deposit 0 0 ⟨true, fired.dev, 0, .far, (fired.wte 0 63).ctx, 63, 0#32, (fired.wte 0 63).desc⟩ with
        | .done s1 => (s1.unit 0).heldMsgs == (fired.unit 0).heldMsgs | _ => false) = true
    ∧ (holding.unit 0).heldMsgs = [.msg heldReq]
    ∧ (match holding.depositReq heldReq 0 0 ⟨false, 0, 1, .far, 0, 0, 9#32, [1#8]⟩ with
        | some s1 => (s1.unit 0).heldMsgs == [.msg heldReq] | none => false) = true := by decide +kernel

/-- A contribution that its home accepts now, one that it refuses again, one whose channel a row stream holds, one that is not refused. -/
theorem meets_MessageAndWalkEvents_merge :
    let again := fun (s : State) => ((s.modCtx 0 0 fun y => y.unblocked mergeReq).perform mergeReq).ctx 0 0
    let full := refusedMerge.modHome 516 fun y => { y with merges := [⟨0, 0x4008, true, false, 0, List.replicate 64 (1, 0#64, mergeReq.who)⟩] }
    (refusedMerge.ctx 0 0).blocked.contains mergeReq = true ∧ refusedMerge.channelHeld mergeReq = false
    ∧ (again refusedMerge).blocked.contains mergeReq = false
    ∧ full.channelHeld mergeReq = false ∧ (full.ctx 0 0).blocked.contains mergeReq = true ∧ (again full).blocked.contains mergeReq = true
    ∧ (refusedMerge.modNear 4 fun x => { x with stream := some ⟨0, 0, [], 0, false, mergeReq.who⟩ }).channelHeld mergeReq = true
    ∧ (far.ctx 0 0).blocked.contains mergeReq = false := by decide +kernel

/-- A load that asks for its line; walks from PTROOT and from MROOT that find a leaf, and one past the table. -/
theorem meets_MessageAndWalkEvents_walk :
    (let r := { reqOf (.load 8 false 0) with line := true }
     let s := { far with flight := [r] }
     s.flight = [r] ∧ r.acq = false ∧ r.who.unit = 0 ∧ kindOf 0 = .far ∧ r.pa % 64 + 8 ≤ 64 ∧ s.mayPerform r = true
      ∧ s.homeFault r.who true false (some (r.who.unit, r.who.ctx)) r.pa 8 = none
      ∧ s.lineFault r.who (some (r.who.unit, r.who.ctx)) r.pa = none ∧ 0x100000 ≤ r.ea.toNat ∧ s.place r.pa = .dram 4 8 ∧ s.stale = [])
    ∧ (paged.ctx 0 0).priv ≠ .m ∧ (pagedM.ctx 0 0).priv = .m
    ∧ (paged.walkFrom 0x1FFFFFF (ptePa (paged.ctx 0 0).ptroot) 0 4).toOption.isSome = true
    ∧ (pagedM.walkFrom 0x1FFFFFF (ptePa (pagedM.unit 0).mroot) 0 4).toOption.isSome = true
    ∧ (paged.walkFrom 0x2000000 (ptePa (paged.ctx 0 0).ptroot) 0 4).toOption = none := by decide +kernel

/-- A transpose rule of one element of eight bits, from tile 0x100000 to tile 0x100001, with plot 0 of slice 0 a plane plot of width 8. -/
def deriving8 : State :=
  let s := poke (mapped (put farParked [(5#5, 0x70000#64), (6#5, 0x70040#64), (7#5, 1#64), (8#5, 0x100001000#64), (9#5, 0x1000001#64),
    (10#5, 0x1800#64)]) 0x100000000 0x800000000000)
    [(0x70000, 0xCC00#64), (0x70008, 0x100000000#64), (0x70010, 0x0000000100010001#64), (0x70018, 0x100001000#64), (0x70020, 1#64)]
  s.modSlice 0 fun x => { x with plots := [(0, ⟨true, 3#3⟩)] }

/-- The rule, its tiles bound. -/
def rule8 : Rule :=
  ⟨0#12, .transpose, .rne, .s8, .s8, 0x100000000, 1, 1, 1, 0x100001000, 1, [(0x100000, 0x800000000)], [(0x100001, 0x800000001)], true⟩

/-- The rule is registered and its derived tile stale. -/
def derived8 : State := { deriving8 with rules := [rule8], stale := [0x800000001] }

/-- A descriptor that passes, one that is misplaced, one of zeros; the first where the plot is in word layout, and where its base is not mapped. -/
theorem meets_DerivationResults_dreg : let s := deriving8.beginFirst
    deriving8.cx.parked = true ∧ (s.g 5#5).toNat % 64 = 0 ∧ s.localRangeOk (s.g 5#5).toNat 64 = true ∧ (s.g 7#5).toNat % 64 ≠ 0
      ∧ s.ownPending 0x70000 64 = false ∧ s.ownPending 0x70040 64 = false ∧ ruleOf (asidOf deriving8) (s.ownBytes 0x70040 64) = none
      ∧ (match ruleOf (asidOf deriving8) (s.ownBytes 0x70000 64) with
          | some r => (match s.bindRule 0 0 r with
              | .ok (s1, r1) => r1 == rule8 && s1.ruleCheck r1 == none
              | .error _ => false)
              && (match State.bindRule { s with slices := [] } 0 0 r with
                  | .ok (s1, r1) => (s1.ruleCheck r1).isSome
                  | .error _ => false)
              && (match State.bindRule { s with units := farParked.units } 0 0 r with | .error _ => true | .ok _ => false)
          | none => false) = true := by decide +kernel

/-- The derived tile stale, with an accepted command on its arrays. -/
def held8 : State :=
  { farParked with
    rules := [rule8], stale := [0x800000001], po := 1
    units := farParked.units ++ [(512, { UnitState.reset 512 with ctxs := [(0, { Ctx.reset .slice 0 with sel := 0xFFFFFF#24 })] })]
    slices := [(0, { Slice.reset with plots := [(0, ⟨true, 3#3⟩)], fifo := [acmd (.afadd 0#7 0#7 0#7) 0#64] })] }

/-- The rule's watch removed, as DUNREG leaves it while it waits. -/
def unwatched (s : State) : State := { s with rules := s.rules.map fun q => if q = rule8 then { q with watched := false } else q }

/-- An accepted command on the array of a tile's first bit holds the tile's recompute back; a recompute in progress. -/
theorem meets_DerivationResults_waits : (unwatched held8.beginFirst).isStale 0x800000001 = true
    ∧ (unwatched held8.beginFirst).tileArrays 5 0x800000001 = true
    ∧ (unwatched { derived8.beginFirst with recomputes := [⟨0x800000001, [], false, []⟩] }).inProgress 0x800000001 = true := by
  decide +kernel

theorem meets_DerivationResults :
    (∀ r ∈ far.rules, ¬ (r.asid = asidOf far ∧ r.dva = 0)) ∧ derived8.cx.parked = true ∧ rule8 ∈ derived8.rules
    ∧ (∀ q ∈ derived8.rules, (q.asid = asidOf derived8 ∧ q.dva = (derived8.g 8#5).toNat) ↔ q = rule8)
    ∧ (∀ d ∈ rule8.dtiles, (unwatched derived8.beginFirst).inProgress d.2 = false ∧ (unwatched derived8.beginFirst).tileArrays 5 d.2 = false)
    ∧ held8.cx.parked = true ∧ (∀ q ∈ held8.rules, (q.asid = asidOf held8 ∧ q.dva = 0x100001000) ↔ q = rule8)
    ∧ deriving8.beginFirst.ownPending 0x70000 64 = false
    ∧ State.ownPending { deriving8.beginFirst with flight := [reqOf (.get 0x70000 64 0)], po := 1 } 0x70000 64 = true
    ∧ checked (derived8.checkEa 0 0 (derived8.g 8#5) 1 .load) (fun s1 pa => s1.place pa == .silt 0 0x1000) = true
    ∧ checked (dram.checkEa 0 0 (dram.g 5#5) 1 .load) (fun s1 pa => s1.place pa == .dram 4 8) = true
    ∧ (match far.checkEa 0 0 0x70000#64 1 .load with | .ok (_, .own _ _) => true | _ => false) = true
    ∧ (match far.checkEa 0 0 0x0400000000000000#64 1 .load with | .error _ => true | .ok _ => false) = true
    ∧ derived8.g 0#5 = 0#64 ∧ 2 ^ 24 < (derived8.g 9#5).toNat ∧ derived8.g 10#5 ≠ 0#64 ∧ (derived8.g 10#5).toNat ≤ 2 ^ 24
    ∧ (match derived8.checkTiles 0 0 0x100001 2 with | .ok _ => true | .error _ => false) = true
    ∧ (match far.checkTiles 0 0 0x200000 2 with | .ok _ => false | .error _ => true) = true := by decide +kernel

/-- Marks and recomputes of the rule's derived tile and of its base; a walk whose leaf stands in a derived tile. -/
theorem meets_DerivationResults_events :
    (derived8.isDerived (0x800000001 * 4096) = true ∧ derived8.isDerived (0x800000000 * 4096) = false
      ∧ derived8.isStale 0x800000000 = false ∧ derived8.stale = [0x800000001] ∧ derived8.rules = [rule8] ∧ derived8.upsets = []
      ∧ (0x100001, 0x800000001) ∈ rule8.dtiles ∧ (∀ b ∈ rule8.btiles, b.2 ≠ 0x800000001)
      ∧ (match State.walkFrom { paged with rules := [{ rule8 with dtiles := [(0, 12)] }] } 0x1FFFFFF (ptePa (paged.ctx 0 0).ptroot) 0 4 with
          | .ok (s0, at_, _, _) => s0.isDerived at_
          | .error _ => false) = true
      ∧ (let asked := { derived8 with flight := [{ reqOf (.load 1 false 0) with pa := 0x800000001000 }] }
         derived8.recomputes = [] ∧ derived8.tileAsked 0x800000001 = false ∧ asked.recomputes = [] ∧ asked.isStale 0x800000001 = true
          ∧ asked.tileAsked 0x800000001 = true ∧ asked.upsets = [])
      ∧ derived8.flight = [])
    ∧ ∀ sl, (derived8.slice sl).fifo = [] := by
  refine ⟨by decide +kernel, fun sl => ?_⟩
  have h : derived8.slices = [(0, { Slice.reset with plots := [(0, ⟨true, 3#3⟩)] })] := by decide +kernel
  unfold State.slice
  rw [h]
  cases sl <;> rfl

/-- A descriptor at 0x70000 whose anchor is one byte of DRAM; accesses posted. -/
def tasking : State :=
  { poke (mapped (put far [(5#5, 0x70000#64), (6#5, 7#64)]) 0x100000000 0x4000) [(0x70010, 0x100000000#64), (0x70018, 1#64)] with async := true }

/-- A task of ticket 9, and a queue that holds it. -/
def task9 : QTask := ⟨9#32, List.replicate 64 0#8, false⟩
def queue9 : Queue := { Queue.reset with en := true, t := 1, resident := [task9] }
/-- The task with body PCs that are no multiple of 4. -/
def bad9 : QTask := ⟨9#32, bytesOf 8 1#64 ++ bytesOf 8 1#64 ++ List.replicate 48 0#8, false⟩
/-- A state in which queue 7 of home 0 is the given one. -/
def queued (s : State) (q : Queue) : State := s.setQueue 0 7 q

theorem meets_TaskWordResults_enqueue :
    (match tasking.enqueueCheck (tasking.g 5#5) with | .ok (s1, _, pa) => pa == 0x4000 && s1.async | .error _ => false) = true
    ∧ tasking.ownPending (tasking.g 5#5).toNat 64 = false ∧ tasking.ownPending 1 64 = false
    ∧ (match tasking.enqueueCheck 1#64 with | .ok _ => false | .error _ => true) = true
    ∧ tasking.cx.tkhome.toNat / 2 ^ 62 ≠ 3 ∧ (tasking.modC fun x => { x with tkhome := 0xC000000000000000#64 }).cx.tkhome.toNat / 2 ^ 62 = 3 := by
  decide +kernel

/-- Bind words of the last helper; a queue with a task that can begin or whose PCs are bad, and none. -/
theorem meets_TaskWordResults_grant (k : QTask) (ok : Bool) (h : (k, ok) = (task9, true) ∨ (k, ok) = (bad9, false)) :
    (let s := queued (put slice [(5#5, 0x0000000300004000#64)]) { queue9 with resident := [k] }
     s.kind ≠ .far ∧ s.cx.priv ≠ .u ∧ s.badBind (s.g 5#5) = false ∧ s.popDecision 0 s.cx.lid = .ok (7, k) ∧ (s.queue 0 7).spilled = 0
      ∧ (checkTarget (descWord k.desc 0)).isNone = ok ∧ slice.popDecision 0 slice.cx.lid = .error (1, 0))
    ∧ (let s := queued (put far [(5#5, 0x0000000A00070000#64), (6#5, 7#64)]) { queue9 with resident := [k] }
       s.kind = .far ∧ s.badBind (s.g 5#5) = false ∧ s.selOk (s.g 6#5) false = true ∧ selHome (s.g 6#5) = (0, 7)
        ∧ s.stealDecision 0 7 s.cx.lid (asidOf s) = .ok k ∧ (checkTarget (descWord k.desc 1)).isNone = ok
        ∧ far.stealDecision 0 7 far.cx.lid (asidOf far) = .error 3) := by
  rcases h with h | h <;> obtain ⟨rfl, rfl⟩ := Prod.mk.inj h <;> decide +kernel

theorem meets_TaskWordResults :
    (let s := one 0 10 (fun x => { x with parked := true, tkhome := 0x8000000000000000#64 }) id
     s.cx.parked = true ∧ 2 ^ 63 ≤ s.cx.tkhome.toNat ∧ s.allPerformed s.cur s.c = true ∧ s.copBusy s.cur s.c = false ∧ s.cx.homeFaults = [] ∧ s.cx.late = []
      ∧ State.copBusy (s.modU fun y => { y with vq := [vcmd 10] }) s.cur s.c = true ∧ farParked.cx.tkhome.toNat < 2 ^ 63)
    ∧ (let s := queued (put far [(5#5, 0x4000#64), (6#5, 7#64)]) queue9
       s.selOk (s.g 5#5) false = false ∧ s.selOk (s.g 6#5) false = true ∧ selHome (s.g 6#5) = (0, 7) ∧ (s.queue 0 7).en = true ∧ (s.queue 0 6).en = false)
    ∧ (let s := queued (poke (put far [(5#5, 7#64), (6#5, 0x70000#64)]) [(0x70000, 0x8000000000000002#64), (0x70030, 1#64)]) queue9
       (s.g 6#5).toNat % 32 = 0 ∧ s.localRangeOk (s.g 6#5).toNat 32 = true ∧ s.ownPending (s.g 6#5).toNat 32 = false ∧ s.badQueue 0x8000000000000002#64 0#64 0#64 0#64 = false
        ∧ s.badQueue 0x8000000000000002#64 0#64 1#64 0#64 = true ∧ (s.queue 0 7).holds = true
        ∧ (s.queue 0 7).changes ((s.queue 0 7).configure 0x8000000000000002#64 0#64) = false
        ∧ (s.queue 0 7).changes ((s.queue 0 7).configure 0#64 0#64) = true ∧ nearUnit 0 ≠ s.cur)
    ∧ (let s := inLaunch id id
       s.launch 5 = some launch5 ∧ launch5.asid = 0#12 ∧ (s.ctx (nearUnit 0) 0).live = false
        ∧ ((s.queue 0 7).configure 0x8000500000000002#64 0#64).lid = 5 ∧ ((s.queue 0 7).configure 0x8000500000000002#64 0#64).asid = 0#12)
    ∧ (let s := inLaunch id id
       s.c = 0 ∧ s.isVoter s.cur s.cx.lid = true ∧ s.launch s.cx.lid = some launch5 ∧ far.isVoter far.cur far.cx.lid = false) := by decide +kernel

theorem meets_TaskEvents :
    slice.popDecision (512 - Config.sliceUnit0) (slice.ctx 512 0).lid = .error (1, 0)
    ∧ far.stealDecision (selHome 7#64).1 (selHome 7#64).2 (far.ctx 0 0).lid ((far.ctx 0 0).asr.extractLsb' 32 12) = .error 3
    ∧ (let s := queued far { queue9 with log2n := 8, pa := 0x4000, spilled := 1, next := 10#32 }
       0 < (s.queue 0 7).spilled ∧ (s.queue 0 7).resident.length < 256 ∧ s.chanBusy 0x4000 = false ∧ s.flight = [] ∧ (far.queue 0 7).spilled = 0
        ∧ (s.modNear 4 fun x => { x with stream := some ⟨0, 0, [], 0, false, mergeReq.who⟩ }).chanBusy 0x4000 = true)
    ∧ (let w := Wait.tkenq 0x100000000#64 0x4000 7 task9.desc
       let s := one 0 0 (fun x => { x with wait := some w, asleep := true }) id
       (s.ctx 0 0).wait = some w ∧ (s.ctx 0 0).asleep = true ∧ ((s.setQueue 516 7 { Queue.reset with en := true }).waitDone 0 0 w).isSome = true
        ∧ (s.setQueue 516 7 { Queue.reset with en := true, resident := List.replicate 256 task9 }).waitDone 0 0 w = none)
    ∧ (∀ q < 8, (far.queue 0 q).beacon = false)
    ∧ (let s := queued far { queue9 with beacon := true }
       (s.queue 0 7).beacon = true ∧ (∀ k < 8, k ≠ 7 → (s.queue 0 k).beacon = false) ∧ 32 ∈ beaconDirs 0 ∧ (s.dir 32).length < 64)
    ∧ (let s := inLaunch id id
       s.isVoter 0 5 = true ∧ s.isVoter 1 5 = false ∧ s.launch 5 = some launch5 ∧ s.lapReady launch5 = false)
    ∧ (∀ e, let l := { launch5 with votes := [(0, ⟨.sum, e, 3#64⟩)] }
        let s := { inLaunch id id with launches := [l] }
        s.launch 5 = some l ∧ s.lapReady l = true) := by decide +kernel

/-- A pop and a steal on their way to a home that grants the task, cannot begin it, or has none; a completion; votes. -/
theorem meets_TaskEvents_posted (k : QTask) (ok : Bool) (h : (k, ok) = (task9, true) ∨ (k, ok) = (bad9, false)) :
    (let p : Posted := .pop 512 0 0x0000000300004000#64 0
     let s := { queued slice { queue9 with resident := [k] } with posted := [p] }
     p ∈ s.posted ∧ s.popDecision (512 - Config.sliceUnit0) (s.ctx 512 0).lid = .ok (7, k) ∧ (s.queue 0 7).spilled = 0
      ∧ (checkTarget (descWord k.desc 0)).isNone = ok
      ∧ State.popDecision { slice with posted := [p] } (512 - Config.sliceUnit0) (slice.ctx 512 0).lid = .error (1, 0) ∧ p ∉ slice.posted)
    ∧ (let p : Posted := .steal 0 0 7#64 0x0000000A00070000#64 0
       let s := { queued far { queue9 with resident := [k] } with posted := [p] }
       p ∈ s.posted ∧ (7#64).toNat < 2 ^ 63 ∧ selHome 7#64 = (0, 7)
        ∧ s.stealDecision 0 7 (s.ctx 0 0).lid ((s.ctx 0 0).asr.extractLsb' 32 12) = .ok k ∧ (s.queue 0 7).spilled = 0
        ∧ (checkTarget (descWord k.desc 1)).isNone = ok
        ∧ State.stealDecision { far with posted := [p] } 0 7 (far.ctx 0 0).lid ((far.ctx 0 0).asr.extractLsb' 32 12) = .error 3 ∧ p ∉ far.posted)
    ∧ (let s := { queued far { queue9 with resident := [], started := [task9] } with posted := [.complete 0 7 9#32] }
       Posted.complete 0 7 9#32 ∈ s.posted ∧ Posted.complete 0 7 9#32 ∉ far.posted)
    ∧ (let p : Posted := .vote 5 0 ⟨.sum, true, 3#64⟩
       let s := { inLaunch id id with posted := [p] }
       (s.votesSent 5 0).head? = some p ∧ s.isVoter 0 5 = true ∧ s.launch 5 = some launch5 ∧ (far.votesSent 5 0).head? ≠ some p
        ∧ State.isVoter { far with posted := [p] } 0 5 = false ∧ (State.votesSent { far with posted := [p] } 5 0).head? = some p) := by
  rcases h with h | h <;> obtain ⟨rfl, rfl⟩ := Prod.mk.inj h <;> decide +kernel

/-- A TKDONE whose completion is still to be sent, is on its way, or has been made; one with a fault to take. -/
theorem meets_TaskWordResults_done :
    let s := queued (one 0 10 (fun x => { x with parked := true, tkhome := 0xC000000000090007#64 }) id) { queue9 with resident := [], started := [task9] }
    let sent : State := { s with async := true, posted := [.complete 0 7 9#32] }
    let made : State := { queued s { queue9 with resident := [] } with async := true }
    s.cx.parked = true ∧ s.cx.tkhome.toNat / 2 ^ 62 = 3 ∧ selHome s.cx.tkhome = (0, 7) ∧ s.cx.tkhome.extractLsb' 16 32 = 9#32
      ∧ s.allPerformed s.cur s.c = true ∧ s.copBusy s.cur s.c = false ∧ s.cx.act = false ∧ s.cx.homeFaults = [] ∧ s.cx.late = [] ∧ s.async = false
      ∧ Posted.complete 0 7 9#32 ∉ s.posted ∧ (∃ k ∈ (State.queue { s with async := true } 0 7).started, k.ticket = 9#32)
      ∧ Posted.complete 0 7 9#32 ∈ sent.posted ∧ (∀ k ∈ (made.queue 0 7).started, k.ticket ≠ 9#32) ∧ Posted.complete 0 7 9#32 ∉ made.posted
      ∧ ((s.modC fun x => { x with late := [(0#64, 0#64)] }).cx.late != []) = true
      ∧ slice.badBind 0x0000000300004000#64 = false ∧ far.badBind 0x0000000A00070000#64 = false ∧ far.selOk 7#64 true = true := by
  decide +kernel

/-- An engine command of far core 0's control context. -/
def ecmd (op : Nat) (opd opa opb : Word) (block : List Word) : EngCmd :=
  ⟨op, false, 0, 0, 0#64, opa, opb, opd, block, ⟨0, 0, 0#12, 0#16, .s⟩, 0⟩
/-- Far core 0 with an engine. -/
def engineAt (e : Engine) : State := mapped (one 0 0 id fun y => { y with engine := e }) 0x100000000 0x4000

theorem meets_EngineResults :
    (let s := put far [(4#5, 0x70000#64), (5#5, 0x7FFE0#64), (6#5, 16#64), (7#5, 1#64)]
     (engineForm s.g (.ecpy2 true 5#5 0#5)).isSome = true ∧ s.ux.engine.infifo.length < 16 ∧ (s.g 5#5).toNat % 32 = 0
      ∧ s.localRangeOk (s.g 5#5).toNat 32 = true ∧ s.ownPending (s.g 5#5).toNat 32 = false ∧ (s.g 7#5).toNat % 32 ≠ 0)
    ∧ (∃ i : Fin 16, (1#64).getLsbD i.val = true ∧ ¬ ((far.ux.overlays.get i).valid = true ∧ (far.ux.overlays.get i).asid = asidOf far))
    ∧ pinBytes far.ux.overlays 0#64 ≤ pinLimit far.kind
    ∧ (let y := { far.ux with overlays := far.ux.overlays.set 0 ⟨true, 0#64, 0x20000, 0, 0#12, 0#16, true⟩ }
       let k := ecmd 5 0#64 0x4000#64 0#64 []
       y.overlayPinned k.opb = true ∧ far.ux.overlayPinned k.opb = false)
    ∧ (let s := one 0 0 id fun y => { y with overlays := y.overlays.set 0 ⟨true, 0#64, 0x20000, 0, 0#12, 0#16, false⟩ }
       pinLimit s.kind < pinBytes s.ux.overlays 1#64
        ∧ ∀ i : Fin 16, (1#64).getLsbD i.val = true → (s.ux.overlays.get i).valid = true ∧ (s.ux.overlays.get i).asid = asidOf s)
    ∧ (let k := ecmd 4 0x70000#64 0#64 16#64 []
       let s := engineAt ⟨[k], none, [], false⟩
       s.engMayBegin 0 = some k ∧ k.badFields (kindOf 0) = none ∧ far.engMayBegin 0 = none)
    ∧ (let k := ecmd 4 0x70000#64 0#64 0x100000010#64 []
       (engineAt ⟨[k], none, [], false⟩).engMayBegin 0 = some k ∧ k.badFields (kindOf 0) = some 0x10)
    ∧ (far.unit 0).engine.begun = none := by decide +kernel

/-- An EBULK whose granules stand in one stack, and one whose granules no page maps; an engine suspended, and one that a stop has reached. -/
theorem meets_EngineResults_bulk :
    (let k := ecmd 8 0#64 0#64 0#64 [0x100000000#64, 0x100001000#64, 0x1000#64, 0#64]
     let s := engineAt ⟨[k], none, [], false⟩
     let t := one 0 0 id fun y => { y with engine := ⟨[k], none, [], false⟩ }
     let next := fun (x : State) => x.modUnit 0 fun y => { y with engine := { y.engine with infifo := y.engine.infifo.drop 1 } }
     s.engMayBegin 0 = some k ∧ k.badFields (kindOf 0) = none ∧ t.engMayBegin 0 = some k
      ∧ (match (next s).bulkCheck k with | .ok _ => true | .error _ => false) = true
      ∧ (match (next t).bulkCheck k with | .ok _ => false | .error _ => true) = true)
    ∧ (engineAt ⟨[], none, [], true⟩).engStill 0 = true
    ∧ State.engStill { far with launches := [{ launch5 with stopped := true, owing := [0] }] } 0 = true := by decide +kernel

/-- A fill that ends with its first chunk, one that goes on, one of an unmapped range, and a comparison of granules that differ. -/
theorem meets_EngineResults_chunks :
    (let k := ecmd 4 0x100000000#64 0#64 0x1000#64 []
     let s := engineAt ⟨[], some (k, 0), [], false⟩
     (s.unit 0).engine.begun = some (k, 0) ∧ s.engStill 0 = false ∧ k.ended 0 = false ∧ k.ended 1 = true
      ∧ (match s.chunk 0 k 0 with | .done _ _ => true | _ => false) = true ∧ s.chunkWaits k 0 = false
      ∧ (s.modNear 4 fun x => { x with stream := some ⟨0, 0, [], 0, false, mergeReq.who⟩ }).chunkWaits k 0 = true)
    ∧ (let k := ecmd 4 0x100000000#64 0#64 0x1010#64 []
       k.ended 0 = false ∧ k.ended 1 = false ∧ (match (engineAt ⟨[], some (k, 0), [], false⟩).chunk 0 k 0 with | .done _ _ => true | _ => false) = true
        ∧ (match far.chunk 0 k 0 with | .fault _ => true | _ => false) = true)
    ∧ (let k := ecmd 8 0#64 0#64 0#64 [0x100000000#64, 0x100001000#64, 0x1000#64, 2#64]
       k.ended 0 = false ∧ (match State.chunk { engineAt ⟨[], some (k, 0), [], false⟩ with mem := [(0x5000, 1#8)] } 0 k 0 with
          | .differs _ => true | _ => false) = true)
    ∧ (let l := { launch5 with stopped := true, owing := [0] }
       State.launch { far with launches := [l] } 5 = some l ∧ l.lid = 5 ∧ l.stopped = true ∧ 0 ∈ l.owing
        ∧ ∀ k ∈ (inLaunch id id).launches, (inLaunch id id).stopReaches 0 k.lid = false) := by decide +kernel

/-- A program of one addition, A0 := A0 + RX, loaded, near mode entered. -/
def nearMode (f : Near → Near) : State :=
  nearAt fun x => f { x with nm := true, prog := some (0, 0#32, 0#32, [0x22000000#64]) }
/-- A row stream over one row, as NRRUN would start it. -/
def stream8 (count next : Nat) : Stream :=
  ⟨0x4000, 0, [0x100000000#64, 0#64, 0#64, 0#64, BitVec.ofNat 64 (count * 2 ^ 32), 0#64, 0#64, 0#64], next, false, ⟨1024, 0, 0#12, 0#16, .s⟩⟩

/-- A block that is a program, one that is none, a stream block; no near mode; a running stream. -/
theorem meets_NearResults_words :
    (let s := poke (put stack [(5#5, 0x4000#64)]) [(0x4040, 0x0000000022000000#64)]
     s.kind = .stack ∧ (0x4020#64).toNat % 64 ≠ 0 ∧ s.localRangeOk 0x7FFC0 128 = false ∧ (s.g 5#5).toNat % 64 = 0 ∧ s.localRangeOk (s.g 5#5).toNat 128 = true ∧ (s.nearOf 0).run = false ∧ (s.nearOf 0).nm = false
      ∧ s.ownPending (s.g 5#5).toNat 128 = false ∧ programOk (s.ownWords (s.g 5#5).toNat 16) = true
      ∧ programOk (s.ownWords 0x4008 16) = false)
    ∧ ((nearMode fun x => { x with stream := some (stream8 2 0) }).nearOf 0).run = true
    ∧ (let s := poke (nearMode id) [(0x4020, 0x0000000200000001#64)]
       let x := s.nearOf 0
       x.nm = true ∧ x.lid = s.cx.lid ∧ x.run = false ∧ x.done = none ∧ x.prog ≠ none
        ∧ s.ownPending 0x4000 64 = false ∧ s.streamOk x (s.ownWords 0x4000 8) = true
        ∧ s.streamOk x (s.ownWords 0x4080 8) = false)
    ∧ ((nearMode fun x => { x with done := some 1#64 }).nearOf 0).done ≠ none ∧ ((nearMode fun x => { x with prog := none }).nearOf 0).prog = none
    ∧ ((nearMode fun x => { x with lid := 3 }).nearOf 0).lid ≠ (nearMode id).cx.lid := by decide +kernel

/-- A slot whose row lies at the channel; one whose row has no translation; windows with no access held and with one. -/
theorem meets_NearResults_slots :
    (let s := mapped (nearMode fun x => { x with stream := some (stream8 2 0) }) 0x100000000 0
     s.slotReady 0 = some (stream8 2 0) ∧ (match s.slotRows (s.nearOf 0) (stream8 2 0) 0 with | .ok _ => true | .error _ => false) = true
      ∧ (s.nearOf 0).uses.2.2 = false ∧ (stream8 2 0).next + 1 < ((stream8 2 0).block.getD 4 0#64).toNat / 2 ^ 32)
    ∧ (let s := nearMode fun x => { x with stream := some (stream8 2 0) }
       s.slotReady 0 = some (stream8 2 0) ∧ (match s.slotRows (s.nearOf 0) (stream8 2 0) 0 with | .ok _ => false | .error _ => true) = true)
    ∧ stack.slotReady 0 = none ∧ (stack.nearOf 0).due = false
    ∧ (let s := nearMode fun x => { x with due := true, stream := some (stream8 2 0) }
       (s.nearOf 0).due = true ∧ s.queuedAt 0 = []
        ∧ (let r := { reqOf (.load 8 false 0) with pa := 8, po := 1 }
           let t := { s with flight := [r] }
           t.queuedAt 0 = [r] ∧ t.orderFree r = true
            ∧ State.queuedAt { s with flight := [r, { reqOf (.load 8 false 1) with po := 0, acq := true, pa := 0x20000 }] } 0 = [r]
            ∧ State.orderFree { s with flight := [r, { reqOf (.load 8 false 1) with po := 0, acq := true, pa := 0x20000 }] } r = false))
    ∧ (let l := { launch5 with stopped := true, owing := [1024] }
       let s := { (nearMode fun x => { x with lid := 5, stream := some (stream8 2 0) }) with launches := [l] }
       s.stopReaches (Config.stackUnit0 + 0) (s.nearOf 0).lid = true ∧ s.launch (s.nearOf 0).lid = some l ∧ l.stopped = true ∧ Config.stackUnit0 + 0 ∈ l.owing ∧ (s.nearOf 0).stream = some (stream8 2 0)
        ∧ ¬ (launch5.stopped = true ∧ 1024 ∈ launch5.owing) ∧ stack.launch (stack.nearOf 0).lid = none) := by decide +kernel

/-- Launch queue 3, enabled, its ring of 16 records at 0x10000. -/
def lq3 (records : List LRecord) (held : List Completion) : LQueue :=
  ⟨#v[0x8000000000000000#64, 0x4000#64, 0x20000#64, 0#64, 0x10000#64, 4#64, 0#64, 0#64], records, held⟩
/-- A device at full service with that queue. -/
def serving (records : List LRecord) (held : List Completion) : State :=
  { far with stage := 4#4, lqs := [(3, lq3 records held)] }
/-- A record for queue 3 of one core, as its sixteen doublewords: the root descriptor at address 0, launch number 9. -/
def words9 : List Word := [0#64, 0x0000000100090003#64, 0#64, 0#64, 0#64, 0#64, 0x77#64] ++ List.replicate 9 0#64
def bytes9 : List Byte := words9.flatMap fun w => bytesOf 8 w
/-- The record as the queue holds it, and a device in which it can start: its core table names core 0, its root lies in the page table's
first page. -/
def record9 : LRecord := ⟨9, words9, 0, 0⟩
def starting : State :=
  (((serving [record9] []).setPhys64 0x4000 0x8001#64).setPhys64 0x8000 0xC001#64).setPhys64 0xC000 0x17#64

theorem meets_LaunchEvents_parks :
    (let s := one 0 0 (fun x => { x with parking := true, seg := 256 }) id
     NothingPending s ∧ s.cx.live = true ∧ s.cx.held = false ∧ s.ux.halted = false ∧ s.cx.parking = true ∧ s.cx.asleep = false ∧ s.cx.wait = none
      ∧ s.cx.why = .segment ∧ s.cx.act = false ∧ s.cx.firmware = false ∧ s.cx.redo = none ∧ 256 ≤ s.cx.seg)
    ∧ (one 0 0 (fun x => { x with parking := true, seg := 255 }) id).cx.seg < 256
    ∧ two.ready 0 10 = true ∧ (two.ctx 0 10).parking = false ∧ (two.ctx 0 10).asleep = false ∧ two.fetchAt 0 10 (two.ctx 0 10).pc = none
    ∧ (two.ctx 0 10).defs = [] ∧ two.flight = [] ∧ (two.ctx 0 10).blocked = [] ∧ two.advances = [] ∧ two.copQueued 0 10 = false ∧ two.replaying 0 10 = false
    ∧ (two.ctx 0 10).lid = 0 ∧ (two.ctx 0 10).live = true
    ∧ (let s := two.modCtx 0 10 fun x => { x with asleep := true }; (s.ctx 0 10).asleep = true ∧ (s.ctx 0 10).live = true ∧ (s.ctx 0 10).lid = 0) := by
  unfold NothingPending
  decide

/-- A launch that owes an acknowledgement, one to resume, one that has work, one that sleeps in a WAITC. -/
theorem meets_LaunchEvents_launches :
    (let l := { launch5 with owing := [0] }
     State.launch { far with launches := [l] } 5 = some l ∧ l.owing.contains 0 = true ∧ launch5.owing.contains 0 = false
      ∧ 5 ∈ (inLaunch id id).launchesOf 0 ∧ (inLaunch id id).launch 5 = some launch5 ∧ 5 ∉ far.launchesOf 0)
    ∧ (let l := { launch5 with stopped := true }
       State.launch { far with launches := [l] } 5 = some l ∧ l.stopped = true ∧ l.cancel = false ∧ l.owing = [] ∧ l.away = []
        ∧ ¬ (launch5.stopped = true ∧ launch5.cancel = false ∧ launch5.owing = [] ∧ launch5.away = []))
    ∧ (inLaunch id id).quiescent launch5 = false
    ∧ (let s := { inLaunch (fun x => { x with wait := some (.waitc 0#64 1#64), asleep := true, parking := true }) id with
          lqs := [(0, lq3 [] [])] }
       s.launch 5 = some launch5 ∧ launch5.stopped = false ∧ launch5.stalled = false ∧ s.quiescent launch5 = true ∧ launch5.stallva = 0#64
        ∧ RingTakes s launch5.queue) := by
  unfold RingTakes
  decide +kernel

/-- A record that is taken, the same with a launch number that is held, and no service; a start; a hand of completions. -/
theorem meets_LaunchEvents_records :
    (let s := serving [] []
     bytes9.length = 128 ∧ (wordOf ((bytes9.drop 8).take 8)).toNat % 64 = 3 ∧ s.serving = true ∧ (s.lq 3).enabled = true
      ∧ (s.lq 3).records.length < 16 ∧ s.badRecord ⟨0, recordWords bytes9, 0, s.po⟩ = false ∧ far.serving = false ∧ s.headRecord = none)
    ∧ (let s := { serving [] [] with launches := [{ launch5 with lid := 9 }] }
       s.badRecord ⟨0, recordWords bytes9, 0, s.po⟩ = true ∧ RingTakes s 3)
    ∧ (starting.serving = true ∧ starting.headRecord = some (3, record9) ∧ starting.recordCores 3 record9 = [0]
      ∧ starting.on (.farCore 0) = true ∧ starting.tableBad 3 record9 = false
      ∧ starting.namesRetired (starting.launchOf 3 record9 (starting.recordCores 3 record9)) = false
      ∧ (match starting.rootDesc 3 record9 with
          | .ok (s1, d) => s1.coresFree 0 [0] && ! s1.resumesFirst record9.prio [0] && (checkTarget (descWord d 1)).isNone
          | .error _ => false) = true)
    ∧ (let s := serving [] [⟨7#64, 0, 0, 5, 1, 0#64, 0⟩]
       (s.lq 3).held = [⟨7#64, 0, 0, 5, 1, 0#64, 0⟩] ∧ (s.lq 3).ringFull = false ∧ (far.lq 3).held = [] ∧ far.cancelDone 3 = none
        ∧ (let t := serving [] (List.replicate 1 ⟨7#64, 0, 0, 5, 1, 0#64, 0⟩)
           let u := t.setLq 3 { t.lq 3 with cfg := (t.lq 3).cfg.set 7 16#64 }
           (u.lq 3).held ≠ [] ∧ (u.lq 3).ringFull = true)
        ∧ (let l := { launch5 with queue := 3, stopped := true, cancel := true }
           ({ far with launches := [l] } : State).cancelDone 3 = some l))
    ∧ (serving [record9] []).lqBusy 3 = true ∧ far.lqBusy 3 = false
    ∧ far.launch (0x0005#16).toNat = none ∧ (inLaunch id id).launch (0x0005#16).toNat = some launch5
    ∧ ((9 : Nat) ≠ 0 ∧ (serving [] []).lidHeld 9 = false) := by
  unfold RingTakes
  decide +kernel

/-- A core in launch 5 whose ring 0 holds a message at its head, from launch 5. -/
def heading (kind : Word) : State :=
  { poke (ringed (one 0 0 (fun x => { x with lid := 5 }) fun y => { y with fires := [5] })) [(16, 1#64), (0x70000, kind), (0x70018, 0x4000000000#64)] with
    launches := [launch5] }

/-- A record of a launch of one core; a hand-off and a SEND at the head of ring 0 with a helper free; a bind word of near mode. -/
theorem meets_LaunchEvents_bodies : ([0#64, 0x100000000#64].getD 1 0#64 = 0x100000000#64)
    ∧ (∀ x ∈ [PartUnit.farCore 3], far.names (far.launchOf 0 ⟨9, [0#64, 0x100000000#64], 0, 0⟩ []) x = false)
    ∧ (match (heading 0x10040#64).handOffAt 0 with | some (some d) => (checkTarget (descWord d 1)).isNone | _ => false) = true
    ∧ (heading 0x10040#64).launch (((heading 0x10040#64).unit 0).fires.headD 0) = some launch5 ∧ (heading 0x10040#64).freeHelper 0 = some 1
    ∧ (heading 0x40#64).handOffAt 0 = some none ∧ far.handOffAt 0 = none
    ∧ (let bind : Word := 0x0000000300004000#64
       let s := poke stack [((stack.cbOf 1024 3).toNat + 0x78, 0x8000000000000000#64)]
       (s.ctx 1024 (bindHelper bind)).live = false ∧ (s.loc64 1024 ((s.cbOf 1024 (bindHelper bind)).toNat + 0x78)).getLsbD 63 = true
        ∧ s.loc64 1024 (s.cbOf 1024 (bindHelper bind)).toNat = 0#64
        ∧ (descWord (s.getLocal 1024 (bindOff bind) 64) 7).toNat < 2 ^ 63 ∧ stack.granted 1024 (bindHelper bind) = false) := by decide +kernel

/-- A core whose helpers all run, with a hand-off at its head. -/
theorem meets_LaunchEvents_bodies_full :
    (State.freeHelper { far with units := [(0, { UnitState.reset 0 with
        ctxs := (List.range 11).map fun c => (c, { Ctx.reset .far c with live := true }) })] } 0) = none := by decide +kernel

theorem meets_DeviceEvents :
    (400#64).toNat % 2048 = 400 ∧ (2000#64).toNat % 2048 = 2000 ∧ ¬ ((2001#64).toNat % 2048 ≤ 2000) ∧ (List.replicate 64 0#8).length = 64
    ∧ State.reset.attbox.wf = true ∧ State.reset.attbox.readBytes 0x40 4 ≠ [1#8, 0#8, 0#8, 0#8]
    ∧ (let m := State.reset.attbox.writeBytes 0x40 [1#8]; m.wf = true ∧ m.readBytes 0x40 4 = [1#8, 0#8, 0#8, 0#8])
    ∧ State.reset.serving = false
    ∧ (let r := { reqOf (.load 8 false 0) with pa := 0xA00000000000 }
       let s := { far with flight := [r] }
       r ∈ s.flight ∧ s.place r.pa = .host ∧ r ∉ far.flight)
    ∧ (let s := { far with ports := [(1, ⟨4, 64, false⟩), (2, ⟨4, 63, true⟩)] }
       64 ≤ (s.port 1).fails ∧ (s.port 2).fails < 64 ∧ (s.port 2).retraining = true ∧ (s.port 1).retraining = false ∧ 1 ∈ [4, 2, 1])
    ∧ (let s := { far with ports := [(1, ⟨4, 0, false⟩), (2, ⟨4, 0, true⟩)] }
       (s.port 0).lanes = 0 ∧ (s.port 2).retraining = true ∧ 0 < (s.port 1).lanes ∧ (s.port 1).retraining = false
        ∧ (peerPa 0).isSome ∧ s.accessWaits 0 8 s.po = false
        ∧ State.accessWaits { s with near := [(0, { Near.reset with stream := some ⟨0, 0, [], 0, false, hostIssuer⟩ })] } 0 8 s.po = true)
    ∧ State.reset.stage.toNat < 3 ∧ ({ far with stage := 3#4 } : State).stage = 3#4
    ∧ (∀ l ∈ [{ launch5 with stopped := true }], l.stopped = true ∧ l.owing = []) ∧ (∃ l ∈ [launch5], l.stopped = false)
    ∧ State.reset.pwrlim.toNat < (2001#16).toNat ∧ (State.reset.unit 0).errlog.toNat < 2 ^ 63
    ∧ State.reset.retired = [] ∧ (∀ u ∈ State.reset.units, ∀ x ∈ u.2.ctxs, x.2.live = false)
    ∧ (let y := { UnitState.reset 0 with errlog := 0x8000000000000000#64 }; 2 ^ 63 ≤ y.errlog.toNat) ∧ State.reset.capped = false
    ∧ (inLaunch id id).launchesOf 0 = [5] ∧ (inLaunch id id).names launch5 (.farCore 0) = true := by decide +kernel

/-- Stage 0 loads nothing; in stage 1 a security version lies below the floor. -/
theorem meets_DeviceEvents_boot : State.reset.stageAccepted = true
    ∧ State.stageAccepted { State.reset with stage := 1#4, fusedFloor := 1#16 } = false := by
  refine ⟨by decide, ?_⟩
  have h : State.accepts { State.reset with stage := 1#4, fusedFloor := 1#16 } 0 = false := Bool.and_false _
  simp [State.stageAccepted, h, List.range_succ]

/-- A state that steps; the reset state's memory is canonical too. -/
theorem meets_MemoryStaysCanonical : State.reset.memOk ∧ farG.memOk
    ∧ after (step (farG.withFetchWord 32 0x02846200)) (fun t => t.mem.wf) = true := by
  unfold State.memOk
  decide +kernel

end Sys2Proof.Tests
end

section
/-! SUPPORT. Fields of a word as numbers, the levels that write a register of S level, and what a change of the issuing context, of its unit
or of a home leaves. -/

namespace Sys2Proof.Machine

/-! ## Words and levels -/

theorem extractLsb'_eq_ofNat {w : Nat} (x : BitVec w) (i n : Nat) : x.extractLsb' i n = BitVec.ofNat n (x.toNat / 2 ^ i) := by
  rw [BitVec.extractLsb', Nat.shiftRight_eq_div_pow]

theorem toNat_append_eq {m n : Nat} (x : BitVec m) (y : BitVec n) : (x ++ y).toNat = x.toNat * 2 ^ n + y.toNat := by
  rw [BitVec.toNat_append, ← Nat.shiftLeft_add_eq_or_of_lt y.isLt, Nat.shiftLeft_eq]

/-- The low six bits of a multiple of 64. -/
theorem low6_eq_zero_iff (w : Word) : w.extractLsb' 0 6 = 0#6 ↔ w.toNat % 64 = 0 := by
  rw [extractLsb'_eq_ofNat, ← BitVec.toNat_inj]
  simp

/-- S and M level write the registers of S level (R7). -/
theorem levelWrites_iff (l : Level) : levelWrites l = true ↔ l ≠ .u := by cases l <;> decide

/-! ## Changes of the issuing context, its unit and a home -/

/-- What a change of a context comes to depends on the changed context alone. -/
theorem State.modC_congr {s : State} {f g : Ctx → Ctx} (h : f s.cx = g s.cx) : s.modC f = s.modC g :=
  congrArg (s.setCtx s.cur s.c) h

/-- A change of the issuing context that keeps its window's offsets keeps its registers. -/
theorem State.g_modC {s : State} {f : Ctx → Ctx} (h : ∀ n, (f s.cx).regOff n = s.cx.regOff n) (r : Reg) : (s.modC f).g r = s.g r := by
  simp only [State.g, State.c_modC, State.modC_cur]
  exact State.reg_setCtx h _ _ r

theorem State.modHome_congr {s : State} {h : Nat} {f g : Home → Home} (e : f (s.home h) = g (s.home h)) : s.modHome h f = s.modHome h g := by
  simp only [State.modHome, e]

theorem State.ux_modC (s : State) (f : Ctx → Ctx) : (s.modC f).ux = { s.ux with ctxs := SMap.put s.ux.ctxs s.c (f s.cx) } :=
  State.unit_setCtx_same s s.cur s.c _

theorem State.ctx_modC_other (s : State) (f : Ctx → Ctx) {v d : Nat} (h : ¬ (v = s.cur ∧ d = s.c)) : (s.modC f).ctx v d = s.ctx v d :=
  State.ctx_modCtx_other s h f

theorem State.pc_modC {s : State} {f : Ctx → Ctx} (h : (f s.cx).pc = s.cx.pc) : (s.modC f).pc = s.pc := by
  rw [State.pc, State.cx_modC, h, State.pc]

/-- A word passes after a change of the issuing context that keeps the PC. -/
theorem State.advance_modC {s : State} {f : Ctx → Ctx} (h : (f s.cx).pc = s.cx.pc) : (s.modC f).advance = (s.modC f).setPc (s.pc + 4#64) := by
  rw [State.advance, State.pc_modC h]

theorem State.pc_modU {s : State} {f : UnitState → UnitState} (hc : (f s.ux).cur = s.ux.cur) (hx : (f s.ux).ctxs = s.ux.ctxs) :
    (s.modU f).pc = s.pc := by
  have hu : (s.modU f).unit s.cur = f s.ux := State.unit_modUnit_same s s.cur f
  simp only [State.pc, State.cx, State.c, State.ctx, UnitState.ctx, State.modU_cur, hu, hc, hx]
  rfl

/-- A word passes from a state with the PC that it was issued at. -/
theorem State.done_eq {s t : State} (h : t.pc = s.pc) : t.done = .next (t.setPc (s.pc + 4#64)) := by
  rw [State.done, State.advance, h]

end Sys2Proof.Machine
end

section
/-! Saving a context and taking it back (O27): reading parts of a run of bytes, the words of a block and of its seal record, what a save
leaves in local memory, and what a load finds there. -/

namespace Sys2Proof.Machine

open Claims

/-! ## Parts of a run of bytes -/

theorem Memory.readBytes_add (m : Memory) (a i n : Nat) : m.readBytes a (i + n) = m.readBytes a i ++ m.readBytes (a + i) n := by
  induction i generalizing a with
  | zero => simp [Memory.readBytes]
  | succ i ih =>
    rw [Nat.add_right_comm]
    simp only [Memory.readBytes, List.cons_append, ih]
    rw [Nat.add_right_comm, Nat.add_assoc a i 1]

/-- Bytes read inside a longer run are the part of that run. -/
theorem Memory.readBytes_part (m : Memory) (a : Nat) {i n N : Nat} (h : i + n ≤ N) :
    m.readBytes (a + i) n = ((m.readBytes a N).drop i).take n := by
  obtain ⟨k, rfl⟩ := Nat.exists_eq_add_of_le h
  rw [Memory.readBytes_add, Memory.readBytes_add, List.append_assoc, List.drop_left' (by simp), List.take_left' (by simp)]

theorem localPa_add {u off i : Nat} (h : off + i < localSize (kindOf u)) : localPa u (off + i) = localPa u off + i := by
  simp only [localPa, Nat.mod_eq_of_lt h, Nat.mod_eq_of_lt (show off < localSize (kindOf u) by omega)]
  omega

@[simp] theorem State.getLocal_length (s : State) (u off n : Nat) : (s.getLocal u off n).length = n := Memory.readBytes_length _ _ _

theorem State.getLocal_part (s : State) {u off i n N : Nat} (h : i + n ≤ N) (hn : 0 < n) (hl : off + N ≤ localSize (kindOf u)) :
    s.getLocal u (off + i) n = ((s.getLocal u off N).drop i).take n := by
  simp only [State.getLocal, localPa_add (show off + i < localSize (kindOf u) by omega)]
  exact Memory.readBytes_part _ _ h

theorem State.loc64_eq (s : State) (u off : Nat) : s.loc64 u off = wordOf (s.getLocal u off 8) := rfl

/-- Item `i` of a list whose items each give `n` bytes begins at byte `n * i`. -/
theorem take_drop_flatMap {α β : Type} {f : α → List β} {n : Nat} (hf : ∀ x, (f x).length = n) (l : List α) (tail : List β) (i : Nat)
    (h : i < l.length) : (((l.flatMap f) ++ tail).drop (n * i)).take n = f l[i] := by
  induction l generalizing i with
  | nil => simp at h
  | cons x xs ih =>
    cases i with
    | zero => simp [List.take_left' (hf x)]
    | succ i =>
      rw [List.flatMap_cons, List.append_assoc, Nat.mul_succ, Nat.add_comm, ← List.drop_drop, List.drop_left' (hf x)]
      exact ih i (by simpa using h)

theorem length_flatMap_uniform {α β : Type} {f : α → List β} {n : Nat} (hf : ∀ x, (f x).length = n) (l : List α) :
    (l.flatMap f).length = n * l.length := by
  simp [List.length_flatMap, hf, Nat.mul_comm]

/-- A doubleword inside a run of doublewords in local memory. -/
theorem State.loc64_words {s : State} {u off N : Nat} {ws : List Word} {tail : List Byte} {i : Nat} {w : Word}
    (h : s.getLocal u off N = (ws.flatMap fun w => bytesOf 8 w) ++ tail) (hl : off + N ≤ localSize (kindOf u))
    (hw : ws[i]? = some w) : s.loc64 u (off + 8 * i) = w := by
  obtain ⟨hi, rfl⟩ := List.getElem?_eq_some_iff.mp hw
  have hN : 8 * ws.length ≤ N := by
    have := congrArg List.length h
    simp only [State.getLocal_length, List.length_append, length_flatMap_uniform (bytesOf_length 8)] at this
    omega
  rw [State.loc64_eq, State.getLocal_part s (N := N) (by omega) (by omega) hl, h, take_drop_flatMap (bytesOf_length 8), wordOf_bytesOf]

/-! ## Fields of the words of a block -/

section
variable (x : Ctx)

theorem Ctx.frs_cap : x.frs.extractLsb' 0 8 = x.cap := by
  rw [Ctx.frs, BitVec.extractLsb'_append_eq_of_add_le (by decide), BitVec.extractLsb'_eq_self]

theorem Ctx.frs_res : x.frs.extractLsb' 8 8 = x.res := by
  rw [Ctx.frs, BitVec.extractLsb'_append_eq_of_le (by decide)]
  simp (disch := decide) only [BitVec.extractLsb'_append_eq_of_add_le, Nat.reduceSub, BitVec.extractLsb'_eq_self]

theorem Ctx.frs_spilled : x.frs.extractLsb' 32 32 = x.spilled := by
  rw [Ctx.frs, BitVec.extractLsb'_append_eq_of_le (by decide)]
  simp (disch := decide) only [BitVec.extractLsb'_append_eq_of_le, Nat.reduceSub, BitVec.extractLsb'_eq_self]

theorem Ctx.ctlw_nact : x.ctlw.getLsbD 23 = x.nact := by
  rw [Ctx.ctlw, BitVec.getLsbD_append]
  simp only [BitVec.getLsbD_append, Nat.reduceLT, Nat.reduceSub, if_false, if_true, BitVec.getLsbD_ofBool]
  simp

theorem Ctx.ctlw_npend : x.ctlw.getLsbD 22 = x.npend := by
  rw [Ctx.ctlw, BitVec.getLsbD_append]
  simp only [BitVec.getLsbD_append, Nat.reduceLT, Nat.reduceSub, if_false, if_true, BitVec.getLsbD_ofBool]
  simp

theorem Ctx.ctlw_ve : x.ctlw.getLsbD 4 = x.ve := by
  rw [Ctx.ctlw, BitVec.getLsbD_append]
  simp only [BitVec.getLsbD_append, Nat.reduceLT, Nat.reduceSub, if_false, if_true, BitVec.getLsbD_ofBool]
  simp

theorem Ctx.ctlw_fxs : x.ctlw.extractLsb' 8 5 = x.fxs := by
  rw [Ctx.ctlw, BitVec.extractLsb'_append_eq_of_le (by decide)]
  simp (disch := decide) only [BitVec.extractLsb'_append_eq_of_le, BitVec.extractLsb'_append_eq_of_add_le, Nat.reduceSub,
    BitVec.extractLsb'_eq_self]

theorem Ctx.ctlw_frm : x.ctlw.extractLsb' 5 3 = x.frm := by
  rw [Ctx.ctlw, BitVec.extractLsb'_append_eq_of_le (by decide)]
  simp (disch := decide) only [BitVec.extractLsb'_append_eq_of_le, BitVec.extractLsb'_append_eq_of_add_le, Nat.reduceSub,
    BitVec.extractLsb'_eq_self]

theorem Ctx.ctlw_priv : levelOfCode (x.ctlw.extractLsb' 0 2) = x.priv := by
  rw [Ctx.ctlw, BitVec.extractLsb'_append_eq_of_add_le (by decide), BitVec.extractLsb'_eq_self]
  cases x.priv <;> rfl

theorem Ctx.cseqWord_rv : x.cseqWord.getLsbD 63 = x.replay.rv := by
  rw [Ctx.cseqWord, BitVec.getLsbD_append]
  simp only [BitVec.getLsbD_append, Nat.reduceLT, Nat.reduceSub, if_false, BitVec.getLsbD_ofBool]
  simp

theorem Ctx.cseqWord_dist : x.cseqWord.extractLsb' 52 11 = x.replay.dist := by
  rw [Ctx.cseqWord, BitVec.extractLsb'_append_eq_of_le (by decide)]
  simp (disch := decide) only [BitVec.extractLsb'_append_eq_of_le, BitVec.extractLsb'_append_eq_of_add_le, Nat.reduceSub,
    BitVec.extractLsb'_eq_self]

theorem Ctx.cseqWord_pass : x.cseqWord.extractLsb' 44 8 = x.replay.pass := by
  rw [Ctx.cseqWord, BitVec.extractLsb'_append_eq_of_le (by decide)]
  simp (disch := decide) only [BitVec.extractLsb'_append_eq_of_le, BitVec.extractLsb'_append_eq_of_add_le, Nat.reduceSub,
    BitVec.extractLsb'_eq_self]

theorem Ctx.cseqWord_word : x.cseqWord.extractLsb' 40 4 = x.replay.word := by
  rw [Ctx.cseqWord, BitVec.extractLsb'_append_eq_of_le (by decide)]
  simp (disch := decide) only [BitVec.extractLsb'_append_eq_of_le, BitVec.extractLsb'_append_eq_of_add_le, Nat.reduceSub,
    BitVec.extractLsb'_eq_self]

theorem Ctx.cseqWord_cseq : x.cseqWord.extractLsb' 0 16 = x.cseq := by
  rw [Ctx.cseqWord, BitVec.extractLsb'_append_eq_of_add_le (by decide), BitVec.extractLsb'_eq_self]

end

/-- The first word of a seal record (R409): SV, DEF and the fields of ASR. -/
def asrWord (sv deflt : Bool) (asr : Word) : Word :=
  BitVec.ofBool sv ++ BitVec.ofBool deflt ++ 0#18 ++ asr.extractLsb' 32 12 ++ 0#16 ++ asr.extractLsb' 0 16

theorem asrWord_sv (sv deflt : Bool) (asr : Word) : (asrWord sv deflt asr).getLsbD 63 = sv := by
  rw [asrWord, BitVec.getLsbD_append]
  simp only [BitVec.getLsbD_append, Nat.reduceLT, Nat.reduceSub, if_false, BitVec.getLsbD_ofBool]
  simp

theorem asrWord_def (sv deflt : Bool) (asr : Word) : (asrWord sv deflt asr).getLsbD 62 = deflt := by
  rw [asrWord, BitVec.getLsbD_append]
  simp only [BitVec.getLsbD_append, Nat.reduceLT, Nat.reduceSub, if_false, if_true, BitVec.getLsbD_ofBool]
  simp

/-- The bits that ASR holds. -/
theorem getLsbD_asrMask : ∀ i < 64, (0x00000FFF0000FFFF#64).getLsbD i = decide (i < 16 ∨ 32 ≤ i ∧ i < 44) := by decide

theorem asrWord_asr (sv deflt : Bool) (asr : Word) :
    asrWord sv deflt asr &&& 0x00000FFF0000FFFF#64 = asr &&& 0x00000FFF0000FFFF#64 := by
  apply BitVec.eq_of_getLsbD_eq
  intro i hi
  rw [BitVec.getLsbD_and, BitVec.getLsbD_and, getLsbD_asrMask i hi]
  by_cases h : i < 16 ∨ 32 ≤ i ∧ i < 44
  · have e : (asrWord sv deflt asr).getLsbD i = asr.getLsbD i := by
      rw [asrWord, BitVec.getLsbD_append]
      rcases h with h | ⟨h1, h2⟩
      · rw [if_pos h, BitVec.getLsbD_extractLsb', decide_eq_true h, Bool.true_and, Nat.zero_add]
      · rw [if_neg (by omega), BitVec.getLsbD_append, if_neg (by omega), BitVec.getLsbD_append, if_pos (by omega),
          BitVec.getLsbD_extractLsb', decide_eq_true (by omega), Bool.true_and]
        congr 1
        omega
    rw [e]
  · simp [h]

/-! ## The fault ring of a block -/

/-- A fault entry as a block gives it back: the reserved bits of INFO zero (R6, R391). -/
def FaultEntry.unreserved (e : FaultEntry) : FaultEntry := { e with info := e.info &&& 0xFC00FFFF00000FFF#64 }

@[simp] theorem FaultEntry.unreserved_cur (e : FaultEntry) : e.unreserved.info.getLsbD 63 = e.info.getLsbD 63 := by
  simp [FaultEntry.unreserved]

@[simp] theorem FaultEntry.unreserved_tseq (e : FaultEntry) :
    e.unreserved.info.extractLsb' 32 16 = e.info.extractLsb' 32 16 := by
  have h : (0xFC00FFFF00000FFF#64).extractLsb' 32 16 = BitVec.allOnes 16 := by decide
  rw [FaultEntry.unreserved, BitVec.extractLsb'_and, h, BitVec.and_allOnes]

@[simp] theorem FaultEntry.unreserved_kept (e : FaultEntry) (t : BitVec 16) : e.unreserved.kept t = e.kept t := by
  simp only [FaultEntry.kept, FaultEntry.unreserved_tseq, FaultEntry.unreserved_cur]
  simp [FaultEntry.unreserved]

/-- The entry of the fault ring of the trap that comes next keeps a fault, or none is kept. -/
theorem Ctx.kept_eq_nil (x : Ctx) :
    x.kept = [] ↔ ((x.faults[(x.keptSlot 0).toNat % 8]?).getD .zero).kept (x.keptSlot 0) = false := by
  simp only [Ctx.kept, List.map_eq_nil_iff, show List.range 7 = 0 :: (List.range 6).map Nat.succ from rfl, List.map_cons,
    List.takeWhile_cons]
  cases ((x.faults[(x.keptSlot 0).toNat % 8]?).getD .zero).kept (x.keptSlot 0) <;> simp

section
variable {x y : Ctx} (h : ∀ i : Fin 8, y.faults.get i = (x.faults.get i).unreserved)
include h

theorem Ctx.curEntry_unreserved : y.curEntry = x.curEntry := by
  simp only [Ctx.curEntry, h, FaultEntry.unreserved_cur]

theorem Ctx.keptSlot_unreserved (k : Nat) : y.keptSlot k = x.keptSlot k := by
  simp only [Ctx.keptSlot, Ctx.tseq, Ctx.curEntry_unreserved h]
  cases x.curEntry <;> simp [h]

/-- A fault ring that keeps no fault keeps none without its reserved bits. -/
theorem Ctx.kept_unreserved (hx : x.kept = []) : y.kept = [] := by
  rw [Ctx.kept_eq_nil] at hx ⊢
  have hk : (x.keptSlot 0).toNat % 8 < 8 := Nat.mod_lt _ (by decide)
  have e : y.faults[(x.keptSlot 0).toNat % 8] = (x.faults[(x.keptSlot 0).toNat % 8]).unreserved := h ⟨_, hk⟩
  simpa [Ctx.keptSlot_unreserved h, hk, e] using hx

end

/-- A context with no fault pending and none kept saves its fault ring as it stands. -/
theorem Ctx.recordLate_eq {x : Ctx} (hl : x.late = []) (hf : x.homeFaults = []) (hk : x.kept = []) : x.recordLate = x := by
  have hp : x.pending = [] := by simp [Ctx.pending, hl, hf]
  rw [Ctx.kept_eq_nil] at hk
  simp only [Ctx.recordLate, hp, List.length_nil, List.zipIdx_nil, List.foldl_nil, hk]
  cases x
  simp_all

theorem Ctx.faultsTaken_eq {x : Ctx} (hk : x.kept = []) : x.faultsTaken = x.faults := by
  simp [Ctx.faultsTaken, hk]

/-! ## The bytes of a block and of its seal record -/

@[simp] theorem vbytes_length (v : BitVec 2048) : (vbytes v).length = 256 := bytesOfNat_length _ _

/-- The bytes of a number below `2 ^ (8 * n)` give it back. -/
theorem ofNat_bytesOfNat {w n : Nat} (h : w = 8 * n) (v : BitVec w) : BitVec.ofNat w (natOfBytes (bytesOfNat n v.toNat)) = v := by
  have h256 : (256 : Nat) ^ n = 2 ^ w := by rw [h, Nat.pow_mul]
  rw [natOfBytes_bytesOfNat, h256, Nat.mod_eq_of_lt v.isLt, BitVec.ofNat_toNat, BitVec.setWidth_eq]

/-- The words of a fault entry, in the order of a block. -/
def FaultEntry.words (e : FaultEntry) : List Word := [e.tpc, e.tval, e.fpc, e.info]

theorem Ctx.length_blockWords (x : Ctx) : x.blockWords.length = 64 := by
  have h : (x.faults.toList.flatMap FaultEntry.words).length = 4 * x.faults.toList.length :=
    length_flatMap_uniform (f := FaultEntry.words) (fun _ => rfl) _
  simp only [Ctx.blockWords, List.length_append, List.length_cons, List.length_nil, List.length_replicate]
  rw [show (x.faults.toList.flatMap fun e => [e.tpc, e.tval, e.fpc, e.info]).length = 32 from h.trans (by simp)]

theorem Ctx.length_blockBytes (x : Ctx) : x.blockBytes.length = x.blockSize := by
  rw [Ctx.blockBytes, List.length_append, length_flatMap_uniform (bytesOf_length 8), x.length_blockWords, Ctx.blockSize]
  cases x.ve
  · rfl
  · simp [length_flatMap_uniform vbytes_length]

/-- The words of entry `i` of the fault ring begin at word 32 + 4 * i of a block (R391). -/
theorem Ctx.blockWords_fault (x : Ctx) (i : Fin 8) (j : Nat) (hj : j < 4) :
    x.blockWords[32 + 4 * i.val + j]? = (x.faults.get i).words[j]? := by
  have hd : x.blockWords.drop 32 = x.faults.toList.flatMap FaultEntry.words := rfl
  have h := take_drop_flatMap (f := FaultEntry.words) (n := 4) (fun _ => rfl) x.faults.toList [] i.val (by simp)
  have he : x.faults.toList[i.val] = x.faults.get i := by simp [Vector.get]
  rw [List.append_nil, ← hd, List.drop_drop, he] at h
  rw [← h, List.getElem?_take, if_pos hj, List.getElem?_drop]

/-- Words 1 to 7 of the seal record of a context, as bytes (R409). -/
def Ctx.sealRest (x : Ctx) (deflt : Bool) : List Byte := (sealWords true deflt x.asr x.ptroot x.twb).flatMap fun w => bytesOf 8 w

/-- The seal record of a context: the CRC over its block and the rest of the record, then that rest (R409). -/
def Ctx.sealBytes (x : Ctx) (deflt : Bool) : List Byte :=
  bytesOf 8 (crc64 (x.blockBytes ++ x.sealRest deflt)) ++ x.sealRest deflt

@[simp] theorem Ctx.length_sealRest (x : Ctx) (deflt : Bool) : (x.sealRest deflt).length = 56 := by
  rw [Ctx.sealRest, length_flatMap_uniform (bytesOf_length 8)]
  rfl

@[simp] theorem Ctx.length_sealBytes (x : Ctx) (deflt : Bool) : (x.sealBytes deflt).length = 64 := by
  simp [Ctx.sealBytes]

/-! ## A block and its seal in local memory -/

/-- Local memory holds the block of a context at an offset and its seal record behind it, all of it in local memory. -/
structure State.HoldsBlock (s : State) (u off : Nat) (x : Ctx) (deflt : Bool) : Prop where
  fits : off + x.blockSize + 64 ≤ localSize (kindOf u)
  block : s.getLocal u off x.blockSize = x.blockBytes
  record : s.getLocal u (off + x.blockSize) 64 = x.sealBytes deflt

section
variable {s : State} {u : Nat} {cb : Word} {x : Ctx} {deflt : Bool}

/-- A word of a block in local memory. -/
theorem State.loc64_of_block {off : Nat} (hl : off + x.blockSize ≤ localSize (kindOf u)) (h : s.getLocal u off x.blockSize = x.blockBytes)
    {i : Nat} {w : Word} (hw : x.blockWords[i]? = some w) : s.loc64 u (off + 8 * i) = w :=
  State.loc64_words h hl hw

/-- The seal record of a block in local memory stands behind it. -/
theorem State.sealOff_of_block (hl : cb.toNat + x.blockSize ≤ localSize (kindOf u)) (h : s.getLocal u cb.toNat x.blockSize = x.blockBytes) :
    s.sealOff u cb = cb.toNat + x.blockSize := by
  have hc : s.loc64 u (cb.toNat + 0x28) = x.ctlw := State.loc64_of_block hl h (i := 5) rfl
  rw [State.sealOff, hc, x.ctlw_ve, Ctx.blockSize]
  cases x.ve <;> rfl

theorem State.getLocal_setLocal_same (hm : s.memOk) (u off : Nat) (bs : List Byte) :
    (s.setLocal u off bs).getLocal u off bs.length = bs :=
  Memory.readBytes_writeBytes_same _ bs hm

theorem State.memOk_setLocal (hm : s.memOk) (u off : Nat) (bs : List Byte) : (s.setLocal u off bs).memOk :=
  Memory.wf_writeBytes _ bs hm

theorem State.HoldsBlock.of_mem {t : State} {off : Nat} (h : s.HoldsBlock u off x deflt) (e : t.mem = s.mem) :
    t.HoldsBlock u off x deflt := by
  obtain ⟨hf, hb, hs⟩ := h
  simp only [State.getLocal, ← e] at hb hs
  exact ⟨hf, hb, hs⟩

theorem State.getLocal_setLocal_before (s : State) {u off n o : Nat} {bs : List Byte} (hb : off + n ≤ o) (ho : o < localSize (kindOf u)) :
    (s.setLocal u o bs).getLocal u off n = s.getLocal u off n := by
  apply Memory.readBytes_writeBytes_other
  left
  simp only [localPa, Nat.mod_eq_of_lt ho, Nat.mod_eq_of_lt (show off < localSize (kindOf u) by omega)]
  omega

/-- Sealing a block in local memory leaves the block and its seal record there. -/
theorem State.holdsBlock_writeSeal (hm : s.memOk) (hl : cb.toNat + x.blockSize + 64 ≤ localSize (kindOf u))
    (h : s.getLocal u cb.toNat x.blockSize = x.blockBytes) :
    (s.writeSeal u cb true deflt x.asr x.ptroot x.twb).HoldsBlock u cb.toNat x deflt := by
  have he : s.writeSeal u cb true deflt x.asr x.ptroot x.twb = s.setLocal u (cb.toNat + x.blockSize) (x.sealBytes deflt) := by
    rw [State.writeSeal, State.sealOff_of_block (by omega) h, Nat.add_sub_cancel_left, h]
    rfl
  rw [he]
  refine ⟨hl, ?_, ?_⟩
  · rw [State.getLocal_setLocal_before s (Nat.le_refl _) (by omega), h]
  · simpa using State.getLocal_setLocal_same hm u (cb.toNat + x.blockSize) (x.sealBytes deflt)

/-- A saved context with no fault pending and none kept stands in its block, sealed (R84, R409). -/
theorem State.holdsBlock_saveCtx {c : Nat} (hm : s.memOk) (hl : (s.cbOf u c).toNat + (s.ctx u c).blockSize + 64 ≤ localSize (kindOf u))
    (hr : (s.ctx u c).recordLate = s.ctx u c) : (s.saveCtx u c deflt).HoldsBlock u (s.cbOf u c).toNat (s.ctx u c) deflt := by
  have h1 := State.getLocal_setLocal_same hm u (s.cbOf u c).toNat (s.ctx u c).blockBytes
  rw [Ctx.length_blockBytes] at h1
  rw [State.saveCtx, hr]
  exact (State.holdsBlock_writeSeal (State.memOk_setLocal hm _ _ _) hl h1).of_mem (State.setCtx_mem _ _ _ _)

theorem State.ctx_saveCtx (s : State) (u c : Nat) (deflt : Bool) : (s.saveCtx u c deflt).ctx u c = (s.ctx u c).recordLate.retired :=
  State.ctx_setCtx_same _ _ _ _

@[simp] theorem State.upsets_saveCtx (s : State) (u c : Nat) (deflt : Bool) : (s.saveCtx u c deflt).upsets = s.upsets := by
  simp only [State.saveCtx, State.writeSeal, State.setCtx_upsets, State.setLocal_upsets]

section
variable (h : s.HoldsBlock u cb.toNat x deflt)
include h

theorem State.HoldsBlock.sealOff : s.sealOff u cb = cb.toNat + x.blockSize :=
  State.sealOff_of_block (by have := h.fits; omega) h.block

theorem State.HoldsBlock.word {o i : Nat} {w : Word} (ho : o = 8 * i) (hw : x.blockWords[i]? = some w) :
    s.loc64 u (cb.toNat + o) = w := ho ▸ State.loc64_of_block (by have := h.fits; omega) h.block hw

/-- A word of the seal record, the CRC being word 0. -/
theorem State.HoldsBlock.sealWord {o i : Nat} {w : Word} (ho : o = 8 * i)
    (hw : (crc64 (x.blockBytes ++ x.sealRest deflt) :: sealWords true deflt x.asr x.ptroot x.twb)[i]? = some w) :
    s.loc64 u (cb.toNat + x.blockSize + o) = w := by
  subst ho
  exact State.loc64_words (tail := []) (by rw [h.record, List.append_nil]; rfl) h.fits hw

theorem State.HoldsBlock.getLocal_sealRest : s.getLocal u (cb.toNat + x.blockSize + 8) 56 = x.sealRest deflt := by
  rw [State.getLocal_part s (N := 64) (by omega) (by omega) h.fits, h.record, Ctx.sealBytes, List.drop_left' (by simp),
    List.take_of_length_le (by simp)]

/-- A block saved without default passes the check of START.RES where no error stands (R410). -/
theorem State.HoldsBlock.sealOk (hd : deflt = false) (hu : s.upsets = []) : s.sealOk u cb = true := by
  subst hd
  have hc : s.loc64 u (cb.toNat + x.blockSize) = crc64 (x.blockBytes ++ x.sealRest false) := h.sealWord (o := 0) (i := 0) rfl rfl
  have h1 : s.loc64 u (cb.toNat + x.blockSize + 8) = asrWord true false x.asr := h.sealWord (i := 1) rfl rfl
  simp only [State.sealOk, h.sealOff, Nat.add_sub_cancel_left, hc, h1, asrWord_sv, asrWord_def, State.badData_eq hu, h.block,
    h.getLocal_sealRest]
  simp

/-- An entry of the fault ring read from a block (R391). -/
theorem State.HoldsBlock.readEntry (i : Fin 8) : s.readEntry u (cb.toNat + 0x100 + 32 * i.val) = (x.faults.get i).unreserved := by
  have hw : ∀ j w, j < 4 → (x.faults.get i).words[j]? = some w → s.loc64 u (cb.toNat + (0x100 + 32 * i.val + 8 * j)) = w :=
    fun j w hj e => h.word (i := 32 + 4 * i.val + j) (by omega) ((x.blockWords_fault i j hj).trans e)
  have h0 := hw 0 _ (by decide) rfl
  have h1 := hw 1 _ (by decide) rfl
  have h2 := hw 2 _ (by decide) rfl
  have h3 := hw 3 _ (by decide) rfl
  simp only [← Nat.add_assoc] at h0 h1 h2 h3
  simp only [State.readEntry, h1, h2, h3, FaultEntry.unreserved]
  rw [show s.loc64 u (cb.toNat + 0x100 + 32 * i.val) = _ from h0]

/-- The bytes of a vector register read from a block with VE = 1 (R74). -/
theorem State.HoldsBlock.getLocal_vreg (hv : x.ve = true) (i : Fin 16) :
    s.getLocal u (cb.toNat + 0x200 + 256 * i.val) 256 = vbytes (x.vregs.get i) := by
  have hs : x.blockSize = 0x1200 := by simp [Ctx.blockSize, hv]
  have hf := h.fits
  have hl : (x.blockWords.flatMap fun w => bytesOf 8 w).length = 0x200 := by
    rw [length_flatMap_uniform (bytesOf_length 8), x.length_blockWords]
  rw [Nat.add_assoc, State.getLocal_part s (N := x.blockSize) (by omega) (by omega) (by omega), h.block, Ctx.blockBytes, if_pos hv,
    ← List.drop_drop, List.drop_left' hl]
  have := take_drop_flatMap vbytes_length x.vregs.toList [] i.val (by simp)
  rw [List.append_nil] at this
  rw [this]
  simp [Vector.get]

/-- The fault ring read from a block is the context's, the reserved bits zero. -/
theorem State.HoldsBlock.blockCtx_faults (old : Ctx) (i : Fin 8) :
    (s.blockCtx u cb old).faults.get i = (x.faults.get i).unreserved := by
  rw [← h.readEntry i]
  simp only [State.blockCtx, Vector.get_ofFn]

/-- The vector registers read from a block with VE = 1 are the context's; with VE = 0 they stay in the slot (R74). -/
theorem State.HoldsBlock.blockCtx_vregs {old : Ctx} (ho : old.vregs = x.vregs) : (s.blockCtx u cb old).vregs = x.vregs := by
  have hc : s.loc64 u (cb.toNat + 0x28) = x.ctlw := h.word (i := 5) rfl rfl
  simp only [State.blockCtx, hc, x.ctlw_ve]
  cases hv : x.ve with
  | false => exact ho
  | true =>
    apply Vector.ext
    intro i hi
    have hb := h.getLocal_vreg hv ⟨i, hi⟩
    rw [if_pos rfl, Vector.getElem_ofFn, hb, vbytes, ofNat_bytesOfNat (n := 256) (by decide)]
    rfl

/-- START.RES reads from a block and its seal record the context that they describe (R74, R83, R409). -/
theorem State.HoldsBlock.sameSaved_loadCtx {old : Ctx} (hk : x.kept = []) (hn : old.npend = false) (ho : old.vregs = x.vregs) :
    SameSaved x (s.loadCtx u cb old) := by
  have w0 : s.loc64 u (cb.toNat + 0x00) = x.pc := h.word (i := 0) rfl rfl
  have w1 : s.loc64 u (cb.toNat + 0x08) = x.wp := h.word (i := 1) rfl rfl
  have w2 : s.loc64 u (cb.toNat + 0x10) = x.frb := h.word (i := 2) rfl rfl
  have w3 : s.loc64 u (cb.toNat + 0x18) = x.frs := h.word (i := 3) rfl rfl
  have w4 : s.loc64 u (cb.toNat + 0x20) = x.bsp := h.word (i := 4) rfl rfl
  have w5 : s.loc64 u (cb.toNat + 0x28) = x.ctlw := h.word (i := 5) rfl rfl
  have w6 : s.loc64 u (cb.toNat + 0x30) = x.lmoor := h.word (i := 6) rfl rfl
  have w7 : s.loc64 u (cb.toNat + 0x38) = x.nhpc := h.word (i := 7) rfl rfl
  have w8 : s.loc64 u (cb.toNat + 0x40) = x.nhwp := h.word (i := 8) rfl rfl
  have w9 : s.loc64 u (cb.toNat + 0x48) = x.cseqWord := h.word (i := 9) rfl rfl
  have w10 : s.loc64 u (cb.toNat + 0x50) = x.msp := h.word (i := 10) rfl rfl
  have w11 : s.loc64 u (cb.toNat + 0x58) = x.srseed.setWidth 64 := h.word (i := 11) rfl rfl
  have w12 : s.loc64 u (cb.toNat + 0x60) = x.tkanc := h.word (i := 12) rfl rfl
  have w13 : s.loc64 u (cb.toNat + 0x68) = x.tkd3 := h.word (i := 13) rfl rfl
  have w14 : s.loc64 u (cb.toNat + 0x70) = x.tkslc := h.word (i := 14) rfl rfl
  have w15 : s.loc64 u (cb.toNat + 0x78) = x.tkhome := h.word (i := 15) rfl rfl
  have r1 : s.loc64 u (s.sealOff u cb + 8) = asrWord true deflt x.asr := h.sealOff ▸ h.sealWord (i := 1) rfl rfl
  have r2 : s.loc64 u (s.sealOff u cb + 16) = x.ptroot := h.sealOff ▸ h.sealWord (i := 2) rfl rfl
  have r3 : s.loc64 u (s.sealOff u cb + 24) = x.twb := h.sealOff ▸ h.sealWord (i := 3) rfl rfl
  have hs : (x.srseed.setWidth 64).extractLsb' 0 32 = x.srseed := by
    apply BitVec.eq_of_toNat_eq
    simpa using x.srseed.isLt
  have hf := h.blockCtx_faults old
  have ht := Ctx.faultsTaken_eq (Ctx.kept_unreserved hf hk)
  simp only [SameSaved, State.loadCtx, ht, hf, h.blockCtx_vregs ho, r1, r2, r3, asrWord_asr]
  simp only [State.blockCtx, w0, w1, w2, w3, w4, w5, w6, w7, w8, w9, w10, w11, w12, w13, w14, w15, hs, x.frs_cap, x.frs_res, x.frs_spilled,
    x.ctlw_nact, x.ctlw_npend, x.ctlw_fxs, x.ctlw_frm, x.ctlw_ve, x.ctlw_priv, x.cseqWord_rv, x.cseqWord_dist, x.cseqWord_pass,
    x.cseqWord_word, x.cseqWord_cseq, hn, Bool.or_false, pcOf, lmoorOf, tkhomeOf, ptrootOf, FaultEntry.unreserved, implies_true, and_self]

end

end

/-- Settles O27: a save leaves the block and its seal record in local memory, and every field read from them is the one that was written. -/
theorem savedContextIsRestored : Obligations.SavedContextIsRestored := by
  intro s u c hm hfit hl hf hk hu
  have hr : (s.ctx u c).recordLate = s.ctx u c := Ctx.recordLate_eq hl hf hk
  have hsize : (s.ctx u c).blockSize ≤ 0x1200 := by
    rw [Ctx.blockSize]
    split <;> decide
  have hb := State.holdsBlock_saveCtx (deflt := false) hm (by omega) hr
  have hx : (s.saveCtx u c false).ctx u c = (s.ctx u c).retired := by rw [State.ctx_saveCtx, hr]
  refine ⟨hb.sealOk rfl (by rw [State.upsets_saveCtx, hu]), by rw [hx]; rfl, ?_⟩
  rw [hx]
  exact hb.sameSaved_loadCtx hk rfl rfl

end Sys2Proof.Machine
end

section
/-! The writes of the window registers (O36): what a word that has parked finds, and what a write of WP, FRB and FRS comes to. -/

namespace Sys2Proof.Machine

open Claims

/-! ## The state that begins a segment -/

theorem State.cx_beginFirst (s : State) :
    s.beginFirst.cx = { s.cx with parked := false, seg := 1, parking := s.ux.word.getLsbD 31, why := .segment } := State.cx_modC s _

@[simp] theorem State.pc_beginFirst (s : State) : s.beginFirst.pc = s.pc := by
  simp only [State.pc, State.cx_beginFirst]

/-- Beginning a segment keeps the offsets of the window. -/
theorem Ctx.regOff_begun (x : Ctx) (p : Bool) (n : Nat) :
    Ctx.regOff { x with parked := false, seg := 1, parking := p, why := .segment } n = x.regOff n :=
  Ctx.regOff_congr rfl rfl rfl (Ctx.linear_congr rfl rfl rfl rfl rfl rfl rfl) n

/-- The registers of a context that begins a segment are as they were. -/
@[simp] theorem State.g_beginFirst (s : State) (r : Reg) : s.beginFirst.g r = s.g r := by
  refine State.g_modC ?_ r
  intro n
  exact Ctx.regOff_begun s.cx _ n

theorem State.advance_beginFirst (s : State) : s.beginFirst.advance = s.beginFirst.setPc (s.pc + 4#64) := State.advance_modC rfl

theorem State.advance_modC_beginFirst {s : State} {f : Ctx → Ctx} (h : (f s.beginFirst.cx).pc = s.beginFirst.cx.pc) :
    (s.beginFirst.modC f).advance = (s.beginFirst.modC f).setPc (s.pc + 4#64) := by
  rw [State.advance_modC h, State.pc_beginFirst]

/-! ## A write that parks first, with its park made (R90) -/

theorem State.parkFirst_parked {s : State} (h : s.cx.parked = true) (act : State → State) : s.parkFirst act = act s.beginFirst := by
  simp only [State.parkFirst, h, if_true]

/-- At U level it passes. -/
theorem State.parkedWrite_u {s : State} (hp : s.cx.parked = true) (hu : s.cx.priv = .u) (waits : State → Bool) (act : State → Seq) :
    s.parkedWrite waits act = .next (s.beginFirst.setPc (s.pc + 4#64)) := by
  simp [State.parkedWrite, State.parkFirst_parked hp, State.cx_beginFirst, hu, levelWrites, State.advance_beginFirst]

/-- At S or M level it waits, or its write is made and it passes. -/
theorem State.parkedWrite_eq {s : State} (hp : s.cx.parked = true) (hu : s.cx.priv ≠ .u) (waits : State → Bool) (act : State → Seq) :
    s.parkedWrite waits act =
      .next (if waits s.beginFirst then s.beginFirst.waitFirst else seqThen (act s.beginFirst) State.advance) := by
  have hl : levelWrites s.cx.priv = true := (levelWrites_iff _).mpr hu
  simp [State.parkedWrite, State.parkFirst_parked hp, State.cx_beginFirst, hl]

/-! ## The ring and its frames (R71, R72, R90) -/

/-- The ring at a base with a capacity is in place. -/
theorem State.ringOk_iff (s : State) (frb : Word) (cap : Nat) :
    s.ringOk frb cap = true ↔ frb.toNat % 64 = 0 ∧ 4 ≤ cap ∧ cap ≤ 64 ∧ frb.toNat + cap * 192 ≤ localSize s.kind := by
  simp only [State.ringOk, Bool.and_eq_true, decide_eq_true_eq, beq_iff_eq, low6_eq_zero_iff, and_assoc]

theorem frsTarget_eq (v : Word) : frsTarget v = min (v.toNat / 2 ^ 8 % 256) (v.toNat % 256) := by
  simp [frsTarget, Nat.shiftRight_eq_div_pow]

/-- Nothing is spilled where no more frames are resident than asked for. -/
theorem State.spillTo_done {s : State} {u c target : Nat} (h : (s.ctx u c).res.toNat ≤ target) (fuel : Nat) :
    s.spillTo u c target fuel = (s, none) := by
  cases fuel <;> simp [State.spillTo, h]

/-- Nothing is filled where as many frames are resident as asked for. -/
theorem State.fillTo_done {s : State} {u c target : Nat} (h : target ≤ (s.ctx u c).res.toNat) (fuel : Nat) :
    s.fillTo u c target fuel = (s, none) := by
  cases fuel <;> simp [State.fillTo, h]

theorem State.moveRing_eq (s : State) (frb : Word) (cap : BitVec 8) :
    s.moveRing frb cap = Seq.andThen (s.spillTo s.cur s.c 0 256) fun y =>
      (y.modC fun z => { z with frb := frb, cap := cap, wp := frb + BitVec.ofNat 64 ((cap.toNat - 1) * 192) }, none) := by
  rw [State.moveRing]
  obtain ⟨t, e⟩ := s.spillTo s.cur s.c 0 256
  cases e <;> rfl

/-- With no frame resident the ring moves at once. -/
theorem State.moveRing_empty {s : State} (h : s.cx.res = 0#8) (frb : Word) (cap : BitVec 8) :
    s.moveRing frb cap =
      (s.modC fun z => { z with frb := frb, cap := cap, wp := frb + BitVec.ofNat 64 ((cap.toNat - 1) * 192) }, none) := by
  have h0 : (s.ctx s.cur s.c).res.toNat ≤ 0 := by
    rw [show (s.ctx s.cur s.c).res = 0#8 from h]
    decide
  rw [State.moveRing_eq, State.spillTo_done h0]
  rfl

/-! ## Writes of FRB and FRS (R90) -/

theorem State.frbWrite_refused {s : State} {v : Word} (h : s.ringOk v s.cx.cap.toNat = false) : s.frbWrite v = (s, some (.access, v)) := by
  simp [State.frbWrite, h]

theorem State.frbWrite_same {s : State} {v : Word} (h : s.ringOk v s.cx.cap.toNat = true) (hv : v = s.cx.frb) : s.frbWrite v = (s, none) := by
  rw [State.frbWrite, h, if_neg (by decide), if_pos hv]

theorem State.frbWrite_moves {s : State} {v : Word} (h : s.ringOk v s.cx.cap.toNat = true) (hv : v ≠ s.cx.frb) :
    s.frbWrite v = s.moveRing v s.cx.cap := by
  rw [State.frbWrite, h, if_neg (by decide), if_neg hv]

/-- A write of FRB with no frame resident moves the ring, WP at its top slot. -/
theorem State.frbWrite_empty {s : State} {v : Word} (h : s.ringOk v s.cx.cap.toNat = true) (hv : v ≠ s.cx.frb) (hr : s.cx.res = 0#8) :
    s.frbWrite v =
      (s.modC fun x => { x with frb := v, cap := x.cap, wp := v + BitVec.ofNat 64 ((x.cap.toNat - 1) * 192) }, none) := by
  rw [State.frbWrite_moves h hv, State.moveRing_empty hr]
  exact congrArg (·, none) (State.modC_congr rfl)

theorem State.frsWrite_refused {s : State} {v : Word} (h : s.ringOk s.cx.frb (v.toNat % 256) = false) :
    s.frsWrite v = (s, some (.access, v)) := by
  have e : (v.extractLsb' 0 8).toNat = v.toNat % 256 := by simp
  rw [State.frsWrite, e, h]
  rfl

/-- A write of FRS whose ring is in place: SPILLED, the ring where its capacity changes, then frames spilled or filled. -/
theorem State.frsWrite_eq {s : State} {v : Word} (h : s.ringOk s.cx.frb (v.toNat % 256) = true) :
    s.frsWrite v =
      Seq.andThen
        (if v.toNat % 256 = s.cx.cap.toNat then (s.modC fun x => { x with spilled := BitVec.ofNat 32 (v.toNat / 2 ^ 32) }, none)
         else (s.modC fun x => { x with spilled := BitVec.ofNat 32 (v.toNat / 2 ^ 32) }).moveRing s.cx.frb (BitVec.ofNat 8 v.toNat))
        fun y => Seq.andThen (y.spillTo y.cur y.c (frsTarget v) 256) fun z => z.fillTo z.cur z.c (frsTarget v) 256 := by
  have e : v.extractLsb' 0 8 = BitVec.ofNat 8 v.toNat := by rw [extractLsb'_eq_ofNat, Nat.pow_zero, Nat.div_one]
  have hc : BitVec.ofNat 8 v.toNat = s.cx.cap ↔ v.toNat % 256 = s.cx.cap.toNat := by
    rw [← BitVec.toNat_inj, BitVec.toNat_ofNat]
  have hr : s.ringOk s.cx.frb (BitVec.ofNat 8 v.toNat).toNat = true := by rwa [BitVec.toNat_ofNat]
  simp only [State.frsWrite, e, hr, Bool.not_true, Bool.false_eq_true, if_false, extractLsb'_eq_ofNat v 32 32, hc]

/-- A write of FRS with the capacity and the resident count that stand sets SPILLED alone. -/
theorem State.frsWrite_spilled {s : State} {v : Word} (h : s.ringOk s.cx.frb (v.toNat % 256) = true) (hc : v.toNat % 256 = s.cx.cap.toNat)
    (hr : v.toNat / 2 ^ 8 % 256 = s.cx.res.toNat) (hle : s.cx.res.toNat ≤ s.cx.cap.toNat) :
    s.frsWrite v = (s.modC fun x => { x with spilled := BitVec.ofNat 32 (v.toNat / 2 ^ 32) }, none) := by
  have ht : frsTarget v = s.cx.res.toNat := by rw [frsTarget_eq, hr, hc, Nat.min_eq_left hle]
  have hx : ∀ t : State, t.cx.res = s.cx.res → (t.ctx t.cur t.c).res.toNat = frsTarget v := fun t e => by rw [ht, ← e]; rfl
  rw [State.frsWrite_eq h, if_pos hc]
  simp only [Seq.andThen]
  rw [State.spillTo_done (hx _ (by rw [State.cx_modC])).le]
  simp only
  rw [State.fillTo_done (hx _ (by rw [State.cx_modC])).ge]

/-! ## The words, with their park made, at S or M level -/

section
variable (s : State)

@[simp] theorem State.isSlot_beginFirst (w : Word) : s.beginFirst.cx.isSlot w = s.cx.isSlot w := by
  rw [State.cx_beginFirst]
  rfl

@[simp] theorem State.cap_beginFirst : s.beginFirst.cx.cap = s.cx.cap := by rw [State.cx_beginFirst]
@[simp] theorem State.frb_beginFirst : s.beginFirst.cx.frb = s.cx.frb := by rw [State.cx_beginFirst]
@[simp] theorem State.res_beginFirst : s.beginFirst.cx.res = s.cx.res := by rw [State.cx_beginFirst]
@[simp] theorem State.ringOk_beginFirst (frb : Word) (cap : Nat) : s.beginFirst.ringOk frb cap = s.ringOk frb cap := rfl

end

section
variable {s : State} {a : Reg} (hp : s.cx.parked = true) (hu : s.cx.priv ≠ .u)
include hp hu

theorem exec_wrsr_wp : exec (.wrsr a 0x001#12) s = .next (seqThen (s.beginFirst.wpWrite (s.g a)) State.advance) := by
  refine (State.parkedWrite_eq hp hu (fun _ => false) fun s1 => s1.wpWrite (s1.g a)).trans ?_
  simp

theorem exec_wrsr_wp_slot (h : s.cx.isSlot (s.g a) = true) :
    exec (.wrsr a 0x001#12) s = .next ((s.beginFirst.modC fun x => { x with wp := s.g a }).setPc (s.pc + 4#64)) := by
  rw [exec_wrsr_wp hp hu, State.wpWrite, State.isSlot_beginFirst, if_pos h, seqThen, State.advance_modC_beginFirst rfl]

theorem exec_wrsr_wp_refused (h : s.cx.isSlot (s.g a) = false) :
    exec (.wrsr a 0x001#12) s = .next (s.beginFirst.trapAt .access (s.g a)) := by
  rw [exec_wrsr_wp hp hu, State.wpWrite, State.isSlot_beginFirst, h, if_neg (by decide), seqThen]

theorem exec_wrsr_bsp : exec (.wrsr a 0x004#12) s =
    .next ((s.beginFirst.modC fun x => { x with bsp := s.g a }).setPc (s.pc + 4#64)) := by
  refine (State.parkedWrite_eq hp hu (fun _ => false) fun s1 => (s1.putSrw 0x004 (s1.g a), none)).trans ?_
  rw [State.g_beginFirst, ← State.advance_modC_beginFirst rfl]
  rfl

theorem exec_wrsr_frb : exec (.wrsr a 0x002#12) s =
    .next (if s.beginFirst.ringWaits 0 then s.beginFirst.waitFirst else seqThen (s.beginFirst.frbWrite (s.g a)) State.advance) := by
  refine (State.parkedWrite_eq hp hu (fun s1 => s1.ringWaits 0) fun s1 => s1.frbWrite (s1.g a)).trans ?_
  simp

theorem exec_wrsr_frs : exec (.wrsr a 0x003#12) s =
    .next (if s.beginFirst.ringWaits (frsTarget (s.g a)) then s.beginFirst.waitFirst
      else seqThen (s.beginFirst.frsWrite (s.g a)) State.advance) := by
  refine (State.parkedWrite_eq hp hu (fun s1 => s1.ringWaits (frsTarget (s1.g a))) fun s1 => s1.frsWrite (s1.g a)).trans ?_
  simp

section
variable (hw : s.beginFirst.ringWaits 0 = false)
include hw

theorem exec_wrsr_frb_go : exec (.wrsr a 0x002#12) s = .next (seqThen (s.beginFirst.frbWrite (s.g a)) State.advance) := by
  rw [exec_wrsr_frb hp hu, hw, if_neg (by decide)]

theorem exec_wrsr_frb_refused (h : s.ringOk (s.g a) s.cx.cap.toNat = false) :
    exec (.wrsr a 0x002#12) s = .next (s.beginFirst.trapAt .access (s.g a)) := by
  rw [exec_wrsr_frb_go hp hu hw, State.frbWrite_refused (by simpa using h), seqThen]

theorem exec_wrsr_frb_same (h : s.ringOk (s.g a) s.cx.cap.toNat = true) (hv : s.g a = s.cx.frb) :
    exec (.wrsr a 0x002#12) s = .next (s.beginFirst.setPc (s.pc + 4#64)) := by
  rw [exec_wrsr_frb_go hp hu hw, State.frbWrite_same (by simpa using h) (by simpa using hv), seqThen, State.advance_beginFirst]

theorem exec_wrsr_frb_moves (h : s.ringOk (s.g a) s.cx.cap.toNat = true) (hv : s.g a ≠ s.cx.frb) :
    exec (.wrsr a 0x002#12) s = .next (seqThen (s.beginFirst.moveRing (s.g a) s.cx.cap) State.advance) := by
  rw [exec_wrsr_frb_go hp hu hw, State.frbWrite_moves (by simpa using h) (by simpa using hv), State.cap_beginFirst]

theorem exec_wrsr_frb_empty (h : s.ringOk (s.g a) s.cx.cap.toNat = true) (hv : s.g a ≠ s.cx.frb) (hr : s.cx.res = 0#8) :
    exec (.wrsr a 0x002#12) s = .next ((s.beginFirst.modC fun x => { x with
      frb := s.g a, cap := x.cap, wp := s.g a + BitVec.ofNat 64 ((x.cap.toNat - 1) * 192) }).setPc (s.pc + 4#64)) := by
  rw [exec_wrsr_frb_go hp hu hw, State.frbWrite_empty (by simpa using h) (by simpa using hv) (by simpa using hr), seqThen,
    State.advance_modC_beginFirst rfl]

end

section
variable (hw : s.beginFirst.ringWaits (frsTarget (s.g a)) = false)
include hw

theorem exec_wrsr_frs_go : exec (.wrsr a 0x003#12) s = .next (seqThen (s.beginFirst.frsWrite (s.g a)) State.advance) := by
  rw [exec_wrsr_frs hp hu, hw, if_neg (by decide)]

theorem exec_wrsr_frs_refused (h : s.ringOk s.cx.frb ((s.g a).toNat % 256) = false) :
    exec (.wrsr a 0x003#12) s = .next (s.beginFirst.trapAt .access (s.g a)) := by
  rw [exec_wrsr_frs_go hp hu hw, State.frsWrite_refused (by simpa using h), seqThen]

theorem exec_wrsr_frs_spilled (h : s.ringOk s.cx.frb ((s.g a).toNat % 256) = true) (hc : (s.g a).toNat % 256 = s.cx.cap.toNat)
    (hr : (s.g a).toNat / 2 ^ 8 % 256 = s.cx.res.toNat) (hle : s.cx.res.toNat ≤ s.cx.cap.toNat) :
    exec (.wrsr a 0x003#12) s = .next ((s.beginFirst.modC fun x => { x with
      spilled := BitVec.ofNat 32 ((s.g a).toNat / 2 ^ 32) }).setPc (s.pc + 4#64)) := by
  rw [exec_wrsr_frs_go hp hu hw, State.frsWrite_spilled (by simpa using h) (by simpa using hc) (by simpa using hr) (by simpa using hle),
    seqThen, State.advance_modC_beginFirst rfl]

end

end

theorem exec_wrsr_window_u {s : State} (hp : s.cx.parked = true) (hu : s.cx.priv = .u) (a : Reg) {r : BitVec 12} (h1 : 0x001#12 ≤ r)
    (h4 : r ≤ 0x004#12) : exec (.wrsr a r) s = .next (s.beginFirst.setPc (s.pc + 4#64)) := by
  have hr : r = 0x001#12 ∨ r = 0x002#12 ∨ r = 0x003#12 ∨ r = 0x004#12 := by bv_omega
  rcases hr with rfl | rfl | rfl | rfl <;> exact State.parkedWrite_u hp hu _ _

/-! ## The events -/

theorem State.ringEvent_none {s : State} {waits : Bool} (h : s.cx.priv = .u ∨ waits = true) (r : Seq) : s.ringEvent waits r = .next s := by
  rcases h with h | h <;> simp [State.ringEvent, h, levelWrites]

theorem State.ringEvent_eq {s : State} {waits : Bool} (hu : s.cx.priv ≠ .u) (hw : waits = false) (r : Seq) :
    s.ringEvent waits r = .next (seqThen r id) := by
  simp [State.ringEvent, (levelWrites_iff _).mpr hu, hw]
  rfl

theorem exec_frsWrite_go {s : State} {v : Word} (hu : s.cx.priv ≠ .u) (hw : s.ringWaits (frsTarget v) = false) :
    exec (.frsWrite v) s = .next (seqThen (s.frsWrite v) id) := State.ringEvent_eq hu hw _

theorem exec_frbWrite_go {s : State} {v : Word} (hu : s.cx.priv ≠ .u) (hw : s.ringWaits 0 = false) :
    exec (.frbWrite v) s = .next (seqThen (s.frbWrite v) id) := State.ringEvent_eq hu hw _

/-- Settles O36: with its park made a word of a window register acts at the state that begins its segment, whose ring is the issuing
context's, and each write comes to its sequence of spills and fills; the events come to the same sequences at the state as it stands. -/
theorem windowRegisterWrites : Obligations.WindowRegisterWrites := by
  intro a s v n fits ends stays moved toFrs
  have hn : frsTarget v = n := frsTarget_eq v
  have hfit : ∀ {frb cap}, fits frb cap → s.ringOk frb cap = true := (State.ringOk_iff s _ _).mpr
  have hunfit : ∀ {frb cap}, ¬ fits frb cap → s.ringOk frb cap = false := fun h =>
    Bool.eq_false_iff.mpr fun e => h ((State.ringOk_iff s _ _).mp e)
  have hends : ∀ r, ends r (seqThen r State.advance) := by
    rintro ⟨t, _ | e⟩ <;> rfl
  have hstays : ∀ r, stays r (seqThen r id) := by
    rintro ⟨t, _ | e⟩ <;> rfl
  have hmoved : ∀ (x : State) frb cap, x.moveRing frb cap = moved x frb cap := State.moveRing_eq
  have hfrs : ∀ x : State, x.cx.frb = s.cx.frb → x.cx.cap = s.cx.cap → x.ringOk s.cx.frb (v.toNat % 256) = true →
      x.frsWrite v = toFrs x := fun x hf hc h => by
    rw [State.frsWrite_eq (by rw [hf, h]), State.moveRing_eq, hf, hc, hn]
  clear_value ends stays toFrs moved fits
  refine ⟨fun hp => ⟨fun hu r h1 h4 => exec_wrsr_window_u hp hu a h1 h4, fun hu => ⟨exec_wrsr_wp_slot hp hu, exec_wrsr_wp_refused hp hu,
      exec_wrsr_bsp hp hu, fun h => ?_, fun h => ⟨fun hf => exec_wrsr_frb_empty hp hu h (hfit hf), fun hf => exec_wrsr_frb_same hp hu h (hfit hf), fun hf hv => ?_,
        fun hf => exec_wrsr_frb_refused hp hu h (hunfit hf)⟩,
      fun h => ?_, fun h => ⟨fun hf => exec_wrsr_frs_spilled hp hu (hn ▸ h) (hfit hf), fun hf => ?_,
        fun hf => exec_wrsr_frs_refused hp hu (hn ▸ h) (hunfit hf)⟩⟩⟩, fun h => ?_, fun hu h => ?_, fun h => ?_, fun hu h => ?_⟩
  · rw [exec_wrsr_frb hp hu, if_pos h]
  · rw [exec_wrsr_frb_moves hp hu h (hfit hf) hv, hmoved]
    exact ⟨_, rfl, hends _⟩
  · rw [exec_wrsr_frs hp hu, hn, if_pos h]
  · rw [exec_wrsr_frs_go hp hu (hn ▸ h), hfrs s.beginFirst (by simp) (by simp) (by simpa using hfit hf)]
    exact ⟨_, rfl, hends _⟩
  · exact State.ringEvent_none (hn ▸ h) _
  · rw [exec_frsWrite_go hu (hn ▸ h)]
    refine ⟨fun hf => ?_, fun hf hc hr hle => ?_, fun hf => ?_⟩
    · rw [State.frsWrite_refused (hunfit hf), seqThen]
    · rw [State.frsWrite_spilled (hfit hf) hc hr hle, seqThen, id]
    · rw [hfrs s rfl rfl (hfit hf)]
      exact ⟨_, rfl, hstays _⟩
  · exact State.ringEvent_none h _
  · rw [exec_frbWrite_go hu h]
    refine ⟨fun hf hv => ?_, fun hf hv hr => ?_, fun hf hv => ?_, fun hf => ?_⟩
    · rw [State.frbWrite_same (hfit hf) hv, seqThen, id]
    · rw [State.frbWrite_empty (hfit hf) hv hr, seqThen, id]
    · rw [State.frbWrite_moves (hfit hf) hv, hmoved]
      exact ⟨_, rfl, hstays _⟩
    · rw [State.frbWrite_refused (hunfit hf), seqThen]

end Sys2Proof.Machine
end

section
/-! SUPPORT, then O35: the arm of WRSR that needs no park and no FIFO, what it does at each level, and each register whose write is more than
one field. -/

namespace Sys2Proof.Machine

open Claims

/-! ## A write that needs no park and no FIFO (R7, R89) -/

/-- No write is held where no instruction stands before the access. -/
theorem vectorBusy_of_unheld {s : State} (h : Unheld s) (n : Nat) : s.vectorBusy n = false := by
  obtain ⟨hq, hr, -⟩ := h
  have h1 : (s.ux.vq.any fun k => k.ctx == s.c) = false := by
    simpa [List.any_eq_false] using hq
  have h2 : s.replaying s.cur s.c = false := by
    have : (s.unit s.cur).replay = [] := hr
    simp [State.replaying, State.replayOf, this]
  simp [State.vectorBusy, h1, h2]

/-- The registers whose write has an arm of its own in WRSR: those that park, TWB, NMCTL and PLCFG. -/
def ownArm : List Nat := [0x001, 0x002, 0x003, 0x004, 0x045, 0x067, 0x069]

theorem exec_wrsr_sys {a : Reg} {r : BitVec 12} {s : State} (h : Unheld s) (hr : r.toNat ∉ ownArm) :
    exec (.wrsr a r) s = (s.sysWrite r.toNat (s.g a)).done := by
  simp only [ownArm, List.mem_cons, List.not_mem_nil, or_false, not_or] at hr
  obtain ⟨h1, h2, h3, h4, h5, h6, h7⟩ := hr
  dsimp only [exec]
  unfold execWrsr
  dsimp only
  split
  case h_8 => rw [vectorBusy_of_unheld h, if_neg (by decide)]
  all_goals contradiction

/-- The registers that every level writes: FCTL, SRSEED and the W1C bit of TRCTL. -/
def everyLevel : List Nat := [0x006, 0x00C, 0x06B]

/-- The registers of M level: MROOT and MTVEC. -/
def mLevel : List Nat := [0x071, 0x072]

theorem State.putAny_eq (s : State) {n : Nat} (h : n ∉ everyLevel) (v : Word) : s.putAny n v = s := by
  simp only [everyLevel, List.mem_cons, List.not_mem_nil, or_false, not_or] at h
  obtain ⟨h1, h2, h3⟩ := h
  unfold State.putAny
  split
  case h_4 => rfl
  all_goals contradiction

theorem State.putMrw_eq {s : State} {n : Nat} (h : s.cx.priv ≠ .m ∨ n ∉ mLevel) (v : Word) : s.putMrw n v = s := by
  unfold State.putMrw
  split
  case h_3 => rfl
  all_goals simp_all [mLevel]

/-- The registers that S level writes, and those without effect. -/
theorem State.sysWrite_srw {s : State} {n : Nat} (hu : s.cx.priv ≠ .u) (he : n ∉ everyLevel) (hm : n ∉ mLevel) (v : Word) :
    s.sysWrite n v = s.putSrw n v := by
  simp only [State.sysWrite, State.putAny_eq s he, State.putMrw_eq (.inr hm), (levelWrites_iff _).mpr hu, if_true]

theorem State.sysWrite_u {s : State} {n : Nat} (hu : s.cx.priv = .u) (he : n ∉ everyLevel) (v : Word) : s.sysWrite n v = s := by
  have hm : s.cx.priv ≠ .m := by rw [hu]; decide
  simp only [State.sysWrite, State.putAny_eq s he, State.putMrw_eq (.inl hm), hu, levelWrites, Bool.false_eq_true, if_false]

section
variable {a : Reg} {r : BitVec 12} {n : Nat} {s t : State} (h : Unheld s) (hr : r.toNat = n) (ho : n ∉ ownArm)
include h hr ho

/-- The write of a register without an arm of its own, and the word passed. -/
theorem exec_wrsr_sys_eq (ht : s.sysWrite n (s.g a) = t) (hp : t.pc = s.pc) : exec (.wrsr a r) s = .next (t.setPc (s.pc + 4#64)) := by
  subst hr ht
  rw [exec_wrsr_sys h ho, State.done_eq hp]

theorem exec_wrsr_srw (he : n ∉ everyLevel) (hm : n ∉ mLevel) (hu : s.cx.priv ≠ .u) (ht : s.putSrw n (s.g a) = t) (hp : t.pc = s.pc) :
    exec (.wrsr a r) s = .next (t.setPc (s.pc + 4#64)) :=
  exec_wrsr_sys_eq h hr ho ((State.sysWrite_srw hu he hm _).trans ht) hp

theorem exec_wrsr_u (he : n ∉ everyLevel) (hu : s.cx.priv = .u) : exec (.wrsr a r) s = .next (s.setPc (s.pc + 4#64)) :=
  exec_wrsr_sys_eq h hr ho (State.sysWrite_u hu he _) rfl

end

/-! ## Registers of one field -/

theorem frmAfter_eq (old : BitVec 3) (v : Word) :
    frmAfter old (v.extractLsb' 5 3) = if v.toNat / 2 ^ 5 % 2 ^ 3 ≤ 5 then BitVec.ofNat 3 (v.toNat / 2 ^ 5) else old := by
  simp only [frmAfter, extractLsb'_eq_ofNat, BitVec.toNat_ofNat]

theorem privAfter_eq (old : Level) (v : Word) :
    privAfter old (v.extractLsb' 0 2) = if v.toNat % 4 = 3 ∧ old = .m then .m else if v.toNat % 4 = 1 ∧ old ≠ .u then .s
      else if v.toNat % 4 = 0 then .u else old := by
  have key : ∀ code : BitVec 2, privAfter old code = if code.toNat = 3 ∧ old = .m then .m else if code.toNat = 1 ∧ old ≠ .u then .s
      else if code.toNat = 0 then .u else old := by
    cases old <;> decide
  have hc : (v.extractLsb' 0 2).toNat = v.toNat % 4 := by simp
  rw [key, hc]

theorem Ctx.putCtlw_eq (x : Ctx) (v : Word) : x.putCtlw v = { x with
    fxs := BitVec.ofNat 5 (v.toNat / 2 ^ 8)
    frm := if v.toNat / 2 ^ 5 % 2 ^ 3 ≤ 5 then BitVec.ofNat 3 (v.toNat / 2 ^ 5) else x.frm
    ve := v.getLsbD 4
    priv := if v.toNat % 4 = 3 ∧ x.priv = .m then .m else if v.toNat % 4 = 1 ∧ x.priv ≠ .u then .s
      else if v.toNat % 4 = 0 then .u else x.priv } := by
  rw [Ctx.putCtlw, frmAfter_eq, privAfter_eq, extractLsb'_eq_ofNat v 8 5]

theorem Ctx.putFctl_eq (x : Ctx) (v : Word) : x.putFctl v = { x with
    fxs := BitVec.ofNat 5 v.toNat
    frm := if v.toNat / 2 ^ 5 % 2 ^ 3 ≤ 5 then BitVec.ofNat 3 (v.toNat / 2 ^ 5) else x.frm } := by
  rw [Ctx.putFctl, frmAfter_eq, extractLsb'_eq_ofNat v 0 5, Nat.pow_zero, Nat.div_one]

theorem Ctx.putSeed_eq (x : Ctx) (v : Word) : x.putSeed v = { x with
    srseed := if v.toNat % 2 ^ 32 = 0 then 1#32 else BitVec.ofNat 32 v.toNat } := by
  have h0 : BitVec.ofNat 32 v.toNat = 0#32 ↔ v.toNat % 2 ^ 32 = 0 := by
    rw [← BitVec.toNat_inj, BitVec.toNat_ofNat]
    rfl
  simp only [Ctx.putSeed, extractLsb'_eq_ofNat v 0 32, Nat.pow_zero, Nat.div_one, h0]

/-- A register of one field is written by S and M level as its map gives it, and the PC stays. -/
theorem srwWrite_spec {n : Nat} {v : Word} {s t : State} (h : srwWrite n v s = some t) :
    s.putSrw n v = t ∧ t.pc = s.pc ∧ n ∉ ownArm ∧ n ∉ everyLevel ∧ n ∉ mLevel := by
  unfold srwWrite at h
  split at h
  case h_16 => cases h
  all_goals
    obtain rfl := Option.some.inj h
    refine ⟨?_, ?_, by decide, by decide, by decide⟩
  case h_1.refine_1 => exact State.modC_congr (Ctx.putCtlw_eq _ _)
  case h_11.refine_1 | h_12.refine_1 | h_13.refine_1 => simp only [State.putSrw, extractLsb'_eq_ofNat, Nat.pow_zero, Nat.div_one]
  case h_12.refine_2 =>
    split
    · exact State.pc_modU rfl rfl
    · rfl
  case h_13.refine_2 => split <;> rfl
  case h_10.refine_2 | h_11.refine_2 | h_14.refine_2 | h_15.refine_2 => exact State.pc_modU rfl rfl
  case h_1.refine_2 | h_2.refine_2 | h_3.refine_2 | h_4.refine_2 | h_5.refine_2 | h_6.refine_2 | h_7.refine_2 | h_8.refine_2
      | h_9.refine_2 => exact State.pc_modC rfl
  all_goals rfl

/-! ## TSTAT (R391) -/

theorem pprivAfter_toNat (old code : BitVec 2) (w : Level) :
    (pprivAfter old code w).toNat = if code.toNat = 2 ∨ privCode w < code.toNat then old.toNat else code.toNat := by
  revert old code
  cases w <;> decide

theorem getLsbD_setBit (w : Word) {k i : Nat} (b : Bool) (hk : k < 64) (hi : i < 64) :
    (setBit w k b).getLsbD i = if i = k then b else w.getLsbD i := by
  have h1 : (1#64 <<< k).getLsbD i = decide (i = k) := by
    rw [← BitVec.twoPow_eq, BitVec.getLsbD_twoPow]
    simp [hk, eq_comm]
  cases b with
  | true =>
    rw [setBit, if_pos rfl, BitVec.getLsbD_or, h1]
    by_cases e : i = k <;> simp [e]
  | false =>
    rw [setBit, if_neg (by decide), BitVec.getLsbD_and, BitVec.getLsbD_not, h1]
    by_cases e : i = k <;> simp [e, hi]

/-- INFO with ACT and PPRIV replaced, field by field. -/
theorem infoReplaced_eq (info : Word) (act : Bool) (p : BitVec 2) :
    (setBit info 62 act &&& 0xF3FFFFFFFFFFFFFF#64) ||| (p.setWidth 64 <<< 58)
      = info.extractLsb' 63 1 ++ BitVec.ofBool act ++ info.extractLsb' 60 2 ++ p ++ info.extractLsb' 0 58 := by
  have hm : ∀ i < 64, (0xF3FFFFFFFFFFFFFF#64).getLsbD i = (decide (i < 58) || decide (60 ≤ i)) := by decide
  apply BitVec.eq_of_getLsbD_eq
  intro i hi
  rw [BitVec.getLsbD_or, BitVec.getLsbD_and, getLsbD_setBit _ _ (by decide) hi, hm i hi, BitVec.getLsbD_shiftLeft, BitVec.getLsbD_setWidth,
    BitVec.getLsbD_append]
  simp only [BitVec.getLsbD_append, BitVec.getLsbD_extractLsb', BitVec.getLsbD_ofBool]
  by_cases h : i < 58
  · have h62 : i ≠ 62 := by omega
    simp [h, h62]
  · have : i = 58 ∨ i = 59 ∨ i = 60 ∨ i = 61 ∨ i = 62 ∨ i = 63 := by omega
    rcases this with rfl | rfl | rfl | rfl | rfl | rfl <;> simp

theorem tstatInfo_eq (info v : Word) (writer : Level) :
    (setBit info 62 (v.getLsbD 62) &&& 0xF3FFFFFFFFFFFFFF#64)
      ||| ((pprivAfter (info.extractLsb' 58 2) (v.extractLsb' 58 2) writer).setWidth 64 <<< 58) = tstatInfo info v writer := by
  have hb : (v.getLsbD 62).toNat = v.toNat / 2 ^ 62 % 2 := by
    rw [BitVec.getLsbD, Nat.testBit_eq_decide_div_mod_eq]
    rcases Nat.mod_two_eq_zero_or_one (v.toNat / 2 ^ 62) with h | h <;> rw [h] <;> rfl
  rw [infoReplaced_eq]
  apply BitVec.eq_of_toNat_eq
  rw [toNat_append_eq]
  simp only [toNat_append_eq, pprivAfter_toNat, extractLsb'_eq_ofNat, BitVec.toNat_ofNat, BitVec.toNat_ofBool, hb, tstatInfo]
  have hi := info.isLt
  simp only [Nat.reducePow, Nat.reduceAdd, Nat.div_one] at hi ⊢
  split_ifs <;> omega

theorem Ctx.putTstat_eq (x : Ctx) (v : Word) : x.putTstat v = { x with faults := (x.putTstat v).faults } := by
  unfold Ctx.putTstat
  split <;> rfl

/-- A write of TSTAT changes INFO of the current entry alone (R391). -/
theorem Ctx.faults_putTstat (x : Ctx) (v : Word) (i : Fin 8) : (x.putTstat v).faults.get i =
    if x.curEntry = some i then { x.faults.get i with info := tstatInfo (x.faults.get i).info v x.priv } else x.faults.get i := by
  unfold Ctx.putTstat
  split
  · next h => simp [h]
  · next j h =>
    dsimp only
    rw [tstatInfo_eq, h]
    by_cases e : j = i
    · subst e
      rw [if_pos rfl, Vector.get_eq_getElem, Vector.getElem_set_self]
    · have hne : j.val ≠ i.val := fun h => e (Fin.ext h)
      rw [if_neg (by simpa using e), Vector.get_eq_getElem, Vector.getElem_set_ne _ _ hne, Vector.get_eq_getElem]

/-- A STOP that waits for the control context's handler makes its park due once no handler runs (R399, R407). -/
theorem State.cx_stopAfter (s : State) : (s.stopAfter s.cur s.c).cx =
    { s.cx with parking := s.cx.parking || (decide (s.c = 0) && s.ux.stopPend != [] && ! s.cx.act) } := by
  have hb : (decide (s.c = 0) && s.ux.stopPend != [] && ! s.cx.act) = true ↔
      s.c = 0 ∧ (s.unit s.cur).stopPend ≠ [] ∧ ¬ (s.ctx s.cur s.c).act = true := by
    simp [State.ux, State.cx, and_assoc]
  unfold State.stopAfter
  split
  · next h =>
    rw [hb.mpr h, Bool.or_true]
    exact State.cx_modC s _
  · next h =>
    rw [Bool.eq_false_iff.mpr (hb.not.mpr h), Bool.or_false]

theorem pc_stopAfter_putTstat (s : State) (v : Word) : ((s.modC fun x => x.putTstat v).stopAfter s.cur s.c).pc = s.pc := by
  have h := State.cx_stopAfter (s.modC fun x => x.putTstat v)
  rw [State.modC_cur, State.c_modC, State.cx_modC] at h
  rw [State.pc, h]
  dsimp only
  rw [Ctx.putTstat_eq]
  rfl

theorem State.mem_stopAfter (s : State) (u c : Nat) : (s.stopAfter u c).mem = s.mem := by
  unfold State.stopAfter
  split <;> rfl

theorem State.ctx_stopAfter_other (s : State) {u c v d : Nat} (h : ¬ (v = u ∧ d = c)) : (s.stopAfter u c).ctx v d = s.ctx v d := by
  unfold State.stopAfter
  split
  · exact State.ctx_modCtx_other s h _
  · rfl

@[simp] theorem State.cur_stopAfter (s : State) (u c : Nat) : (s.stopAfter u c).cur = s.cur := by
  unfold State.stopAfter
  split <;> rfl

@[simp] theorem State.c_stopAfter (s : State) (u c : Nat) : (s.stopAfter u c).c = s.c := by
  unfold State.stopAfter
  split
  · exact State.c_modCtx s u c _
  · rfl

/-- The state after a write of TSTAT by S or M level. -/
def afterTstat (s : State) (v : Word) : State := ((s.modC fun x => x.putTstat v).stopAfter s.cur s.c).setPc (s.pc + 4#64)

theorem cx_afterTstat (s : State) (v : Word) : (afterTstat s v).cx = { s.cx with
    pc := s.pc + 4#64, faults := (s.cx.putTstat v).faults
    parking := s.cx.parking || (decide (s.c = 0) && s.ux.stopPend != [] && ! (s.cx.putTstat v).act) } := by
  have h := State.cx_stopAfter (s.modC fun x => x.putTstat v)
  rw [State.modC_cur, State.c_modC, State.cx_modC, State.ux_modC] at h
  have hp : (s.cx.putTstat v).parking = s.cx.parking := by rw [Ctx.putTstat_eq]
  rw [afterTstat, State.setPc, State.cx_modC, h, hp]
  generalize (s.cx.parking || _) = b
  rw [Ctx.putTstat_eq]

theorem act_afterTstat (s : State) (v : Word) : (afterTstat s v).cx.act = (s.cx.putTstat v).act := by
  rw [cx_afterTstat]
  rfl

theorem mem_afterTstat (s : State) (v : Word) : (afterTstat s v).mem = s.mem :=
  State.mem_stopAfter _ _ _

theorem ctx_afterTstat_other (s : State) (w : Word) {v d : Nat} (h : ¬ (v = s.cur ∧ d = s.c)) : (afterTstat s w).ctx v d = s.ctx v d := by
  rw [afterTstat, State.setPc, State.ctx_modC_other _ _ (by simpa using h), State.ctx_stopAfter_other _ h, State.ctx_modC_other _ _ h]

/-! ## DRPLY (R222, R223) -/

/-- The issuing context with DRPLY written. -/
def afterDrply (s : State) (v : Word) : State := s.modC fun x =>
  { x with drply := v &&& 0x800000000000FFFF#64, redo := none, replay := { x.replay with rv := x.replay.rv && v.getLsbD 63 } }

theorem pc_afterDrply (s : State) (v : Word) : (afterDrply s v).pc = s.pc := State.pc_modC rfl

theorem State.putDrply_keeps {s : State} {v : Word} (h : s.kind ≠ .slice ∨ v.getLsbD 63 = true) : s.putDrply v = afterDrply s v := by
  unfold State.putDrply
  split
  · next hk =>
    have hv : v.getLsbD 63 = true := h.resolve_left fun e => e hk
    simp only [hv, if_true]
    rw [afterDrply, hv]
  · rfl

theorem State.putDrply_drops {s : State} {v : Word} (hk : s.kind = .slice) (hv : v.getLsbD 63 = false) :
    s.putDrply v = (afterDrply s v).modSlice s.ownSlice fun y =>
      { y with fifo := y.fifo.filter fun k => ! (k.ctx == s.c && k.lid == s.cx.lid && k.halted) } := by
  unfold State.putDrply
  rw [hk, hv]
  simp only [Bool.false_eq_true, if_false]
  rw [afterDrply, hv]
  rfl

/-! ## MSGCTL (R164) -/

/-- Two states with the same memory, issuing unit, contexts and MAXMSG: they differ in what concerns messages alone. -/
structure State.SameButMessages (s t : State) : Prop where
  mem : t.mem = s.mem
  cur : t.cur = s.cur
  ctxs : ∀ u, (t.unit u).ctxs = (s.unit u).ctxs
  issuing : ∀ u, (t.unit u).cur = (s.unit u).cur
  maxmsg : ∀ u, (t.unit u).maxmsg = (s.unit u).maxmsg

theorem State.SameButMessages.refl (s : State) : s.SameButMessages s := ⟨rfl, rfl, fun _ => rfl, fun _ => rfl, fun _ => rfl⟩

theorem State.SameButMessages.trans {s t w : State} (h : s.SameButMessages t) (k : t.SameButMessages w) : s.SameButMessages w :=
  ⟨k.mem.trans h.mem, k.cur.trans h.cur, fun u => (k.ctxs u).trans (h.ctxs u), fun u => (k.issuing u).trans (h.issuing u),
    fun u => (k.maxmsg u).trans (h.maxmsg u)⟩

/-- A change of a unit that keeps its contexts and MAXMSG. -/
theorem State.sameButMessages_modUnit (s : State) (u : Nat) {f : UnitState → UnitState}
    (h : ∀ y, (f y).ctxs = y.ctxs ∧ (f y).cur = y.cur ∧ (f y).maxmsg = y.maxmsg) : s.SameButMessages (s.modUnit u f) := by
  have key : ∀ v, ((s.modUnit u f).unit v).ctxs = (s.unit v).ctxs ∧ ((s.modUnit u f).unit v).cur = (s.unit v).cur
      ∧ ((s.modUnit u f).unit v).maxmsg = (s.unit v).maxmsg := fun v => by
    by_cases e : v = u
    · subst e
      rw [State.unit_modUnit_same]
      exact h _
    · rw [State.unit_modUnit_other s e]
      exact ⟨rfl, rfl, rfl⟩
  exact ⟨rfl, rfl, fun v => (key v).1, fun v => (key v).2.1, fun v => (key v).2.2⟩

theorem State.sameButMessages_freeWte (s : State) (core e : Nat) : s.SameButMessages (s.freeWte core e) := by
  have h1 : s.SameButMessages (s.setWte core e Wte.free) := State.sameButMessages_modUnit s core fun _ => ⟨rfl, rfl, rfl⟩
  unfold State.freeWte
  dsimp only
  split
  · have h2 : (s.setWte core e Wte.free).SameButMessages
        ((s.setWte core e Wte.free).modLaunch (s.wte core e).lid fun l => { l with running := l.running - 1 }) :=
      ⟨rfl, rfl, fun _ => rfl, fun _ => rfl, fun _ => rfl⟩
    exact (h1.trans h2).trans (State.sameButMessages_modUnit _ core fun _ => ⟨rfl, rfl, rfl⟩)
  · exact h1

/-- Clearing the counters keeps memory, contexts and MAXMSG. -/
theorem State.sameButMessages_clearCounters (s : State) (core : Nat) : s.SameButMessages (s.clearCounters core) := by
  have hfold : ∀ (l : List Nat) (t : State), t.SameButMessages (l.foldl (fun acc e => acc.freeWte core e) t) := by
    intro l
    induction l with
    | nil => exact State.SameButMessages.refl
    | cons e l ih => exact fun t => (State.sameButMessages_freeWte t core e).trans (ih _)
  exact (hfold _ s).trans (State.sameButMessages_modUnit _ core fun _ => ⟨rfl, rfl, rfl⟩)

theorem State.SameButMessages.pc {s t : State} (h : s.SameButMessages t) : t.pc = s.pc := by
  simp only [State.pc, State.cx, State.c, State.ctx, UnitState.ctx, h.cur, h.ctxs, h.issuing]

theorem State.counters_clearCounters (s : State) (core : Nat) : ((s.clearCounters core).unit core).counters = [] := by
  rw [State.clearCounters, State.unit_modUnit_same]

theorem State.wtes_clearCounters (s : State) (core : Nat) : ((s.clearCounters core).unit core).wtes = [] := by
  rw [State.clearCounters, State.unit_modUnit_same]

/-- The state with MAXMSG taken from a write of MSGCTL, where it is in range (R164). -/
def State.takeMaxmsg (s : State) (v : Word) : State :=
  if 64 ≤ v.toNat % 2 ^ 11 ∧ v.toNat % 2 ^ 11 ≤ 1024 ∧ v.toNat % 2 ^ 11 % 8 = 0 then
    s.modU fun y => { y with maxmsg := BitVec.ofNat 11 (v.toNat % 2 ^ 11) }
  else s

/-- A write of MSGCTL clears a far core's counters where bit 31 is set, and takes MAXMSG. -/
theorem State.putMsgctl_eq (s : State) (v : Word) :
    s.putMsgctl v = (if v.getLsbD 31 = true ∧ s.kind = .far then s.clearCounters s.cur else s).takeMaxmsg v := by
  have hn : v.extractLsb' 0 11 = BitVec.ofNat 11 (v.toNat % 2 ^ 11) := by
    apply BitVec.eq_of_toNat_eq
    simp
  have ht : (v.extractLsb' 0 11).toNat = v.toNat % 2 ^ 11 := by simp
  simp only [State.putMsgctl, ht, State.takeMaxmsg]
  rw [hn]

theorem State.ux_takeMaxmsg (s : State) (v : Word) : (s.takeMaxmsg v).ux = { s.ux with
    maxmsg := if 64 ≤ v.toNat % 2 ^ 11 ∧ v.toNat % 2 ^ 11 ≤ 1024 ∧ v.toNat % 2 ^ 11 % 8 = 0 then BitVec.ofNat 11 (v.toNat % 2 ^ 11)
      else s.ux.maxmsg } := by
  unfold State.takeMaxmsg
  split
  · exact State.unit_modUnit_same s s.cur _
  · rfl

theorem State.mem_takeMaxmsg (s : State) (v : Word) : (s.takeMaxmsg v).mem = s.mem := by
  unfold State.takeMaxmsg
  split <;> rfl

theorem State.pc_takeMaxmsg (s : State) (v : Word) : (s.takeMaxmsg v).pc = s.pc := by
  unfold State.takeMaxmsg
  split
  · exact State.pc_modU rfl rfl
  · rfl

@[simp] theorem State.cur_takeMaxmsg (s : State) (v : Word) : (s.takeMaxmsg v).cur = s.cur := by
  unfold State.takeMaxmsg
  split <;> rfl

/-- The state after a write of MSGCTL by S or M level that clears a far core's counters. -/
def afterMsgctlClear (s : State) (v : Word) : State := ((s.clearCounters s.cur).takeMaxmsg v).setPc (s.pc + 4#64)

/-- What the counters' clearing and a write of MAXMSG leave of the unit. -/
theorem ux_afterMsgctlClear (s : State) (v : Word) :
    (afterMsgctlClear s v).ux.counters = [] ∧ (afterMsgctlClear s v).ux.wtes = []
      ∧ (afterMsgctlClear s v).ux.maxmsg =
        (if 64 ≤ v.toNat % 2 ^ 11 ∧ v.toNat % 2 ^ 11 ≤ 1024 ∧ v.toNat % 2 ^ 11 % 8 = 0 then BitVec.ofNat 11 (v.toNat % 2 ^ 11)
          else s.ux.maxmsg) := by
  have h := State.sameButMessages_clearCounters s s.cur
  have hu : (s.clearCounters s.cur).ux = (s.clearCounters s.cur).unit s.cur := by rw [State.ux, h.cur]
  rw [afterMsgctlClear, State.setPc, State.ux_modC, State.ux_takeMaxmsg, hu]
  dsimp only
  refine ⟨State.counters_clearCounters s s.cur, State.wtes_clearCounters s s.cur, ?_⟩
  rw [h.maxmsg]
  rfl

theorem cur_afterMsgctlClear (s : State) (v : Word) : (afterMsgctlClear s v).cur = s.cur :=
  (State.cur_takeMaxmsg _ v).trans (State.sameButMessages_clearCounters s s.cur).cur

theorem mem_afterMsgctlClear (s : State) (v : Word) : (afterMsgctlClear s v).mem = s.mem :=
  (State.mem_takeMaxmsg _ v).trans (State.sameButMessages_clearCounters s s.cur).mem

theorem counter_afterMsgctlClear (s : State) (v : Word) (k : Nat) : (afterMsgctlClear s v).counter s.cur k = 0#64 := by
  obtain ⟨hc, -, -⟩ := ux_afterMsgctlClear s v
  rw [State.ux, cur_afterMsgctlClear] at hc
  rw [State.counter, hc, SMap.get_nil]

theorem wte_afterMsgctlClear (s : State) (v : Word) (e : Nat) : (afterMsgctlClear s v).wte s.cur e = Wte.free := by
  obtain ⟨-, hw, -⟩ := ux_afterMsgctlClear s v
  rw [State.ux, cur_afterMsgctlClear] at hw
  rw [State.wte, hw, SMap.get_nil]

/-! ## TRBASE (R147) -/

theorem State.putTrbase_none {s : State} (h : s.traceHome = none) (v : Word) : s.putTrbase v = s := by
  rw [State.putTrbase, h]

/-- A write of TRBASE while the home's EN is 1 leaves every home as it was. -/
theorem State.home_putTrbase_enabled {s : State} {h : Nat} (hs : s.traceHome = some h) (he : (s.home h).trace.en = true) (v : Word) (k : Nat) :
    (s.putTrbase v).home k = s.home k := by
  rw [State.putTrbase, hs]
  by_cases e : k = h
  · subst e
    have hk : ∀ f, (s.modHome k f).home k = f (s.home k) := fun f => SMap.get_put_same _ _ _ _
    dsimp only
    rw [hk, if_pos he]
  · exact SMap.get_put_other _ e _ _

theorem State.putTrbase_eq {s : State} {h : Nat} (hs : s.traceHome = some h) (he : (s.home h).trace.en = false) (v : Word) :
    s.putTrbase v = s.modHome h fun y => { y with trace := { y.trace with base := (v &&& 0x000FFFFFFFFFF000#64).toNat } } := by
  rw [State.putTrbase, hs]
  exact State.modHome_congr (by rw [he, if_neg (by decide)])

theorem State.mem_putTrbase (s : State) (v : Word) : (s.putTrbase v).mem = s.mem := by
  unfold State.putTrbase
  split <;> rfl

theorem State.pc_putTrbase (s : State) (v : Word) : (s.putTrbase v).pc = s.pc := by
  unfold State.putTrbase
  split <;> rfl

/-! ## Each register's write -/

/-- A write of FCTL at any level. -/
theorem State.sysWrite_fctl (s : State) (v : Word) : s.sysWrite 0x006 v = s.modC fun x => { x with
    fxs := BitVec.ofNat 5 v.toNat
    frm := if v.toNat / 2 ^ 5 % 2 ^ 3 ≤ 5 then BitVec.ofNat 3 (v.toNat / 2 ^ 5) else x.frm } := by
  have hw : s.sysWrite 0x006 v = s.modC fun x => x.putFctl v := by
    unfold State.sysWrite
    rw [State.putMrw_eq (.inr (by decide))]
    split <;> rfl
  exact hw.trans (State.modC_congr (Ctx.putFctl_eq s.cx v))

/-- A write of SRSEED at any level. -/
theorem State.sysWrite_seed (s : State) (v : Word) : s.sysWrite 0x00C v = s.modC fun x => { x with
    srseed := if v.toNat % 2 ^ 32 = 0 then 1#32 else BitVec.ofNat 32 v.toNat } := by
  have hw : s.sysWrite 0x00C v = s.modC fun x => x.putSeed v := by
    unfold State.sysWrite
    rw [State.putMrw_eq (.inr (by decide))]
    split <;> rfl
  exact hw.trans (State.modC_congr (Ctx.putSeed_eq s.cx v))

/-- A register of M level at S or U level. -/
theorem State.sysWrite_mrw_other {s : State} {n : Nat} (hn : n = 0x071 ∨ n = 0x072) (hm : s.cx.priv ≠ .m) (v : Word) : s.sysWrite n v = s := by
  unfold State.sysWrite
  rcases hn with rfl | rfl <;> rw [State.putAny_eq s (by decide), State.putMrw_eq (.inl hm)] <;> split <;> rfl

theorem State.sysWrite_mroot {s : State} (hm : s.cx.priv = .m) (v : Word) :
    s.sysWrite 0x071 v = s.modU fun y => { y with mroot := v &&& 0x000FFFFFFFFFC000#64 } := by
  simp only [State.sysWrite, State.putAny_eq s (n := 0x071) (by decide), State.putMrw, hm, levelWrites, if_true]
  rfl

theorem State.sysWrite_mtvec {s : State} (hm : s.cx.priv = .m) (v : Word) : s.sysWrite 0x072 v = s.modU fun y => { y with mtvec := v } := by
  simp only [State.sysWrite, State.putAny_eq s (n := 0x072) (by decide), State.putMrw, hm, levelWrites, if_true]
  rfl

/-- A write of TWB by S or M level (R414). -/
theorem State.twbWrite_eq {s : State} (hu : s.cx.priv ≠ .u) (v : Word) : s.twbWrite v =
    if v.toNat % 64 ≠ 0 ∨ localSize s.kind < v.toNat + 256 then s.trap .access v
    else .next ((s.modC fun x => { x with twb := v }).setPc (s.pc + 4#64)) := by
  have hd : (s.modC fun x => { x with twb := v }).done = .next ((s.modC fun x => { x with twb := v }).setPc (s.pc + 4#64)) :=
    State.done_eq (State.pc_modC rfl)
  simp only [State.twbWrite, (levelWrites_iff _).mpr hu, Bool.not_true, Bool.false_eq_true, if_false, ne_eq, low6_eq_zero_iff, hd]

section
variable {a : Reg} {s : State} (h : Unheld s)
include h

/-- A write of a register that is only read passes, at every level. -/
theorem exec_wrsr_readOnly {r : BitVec 12} (hr : readOnlyReg r.toNat = true) : exec (.wrsr a r) s = .next (s.setPc (s.pc + 4#64)) := by
  have key : ∀ n, readOnlyReg n = true → n ∉ ownArm ∧ n ∉ everyLevel ∧ n ∉ mLevel ∧ s.putSrw n (s.g a) = s := by
    intro n hn
    simp only [readOnlyReg, List.contains_iff_mem, List.mem_cons, List.not_mem_nil, or_false] at hn
    rcases hn with rfl | rfl | rfl | rfl | rfl | rfl | rfl | rfl | rfl | rfl | rfl | rfl | rfl | rfl | rfl | rfl <;>
      exact ⟨by decide, by decide, by decide, rfl⟩
  obtain ⟨ho, he, hm, hp⟩ := key _ hr
  by_cases hu : s.cx.priv = .u
  · exact exec_wrsr_u h rfl ho he hu
  · exact exec_wrsr_srw h rfl ho he hm hu hp rfl

theorem exec_wrsr_mrw_other {r : BitVec 12} (hr : r = 0x071#12 ∨ r = 0x072#12) (hm : s.cx.priv ≠ .m) :
    exec (.wrsr a r) s = .next (s.setPc (s.pc + 4#64)) := by
  rcases hr with rfl | rfl
  · exact exec_wrsr_sys_eq h (n := 0x071) rfl (by decide) (State.sysWrite_mrw_other (.inl rfl) hm _) rfl
  · exact exec_wrsr_sys_eq h (n := 0x072) rfl (by decide) (State.sysWrite_mrw_other (.inr rfl) hm _) rfl

theorem exec_wrsr_mroot (hm : s.cx.priv = .m) : exec (.wrsr a 0x071#12) s =
    .next ((s.modU fun y => { y with mroot := s.g a &&& 0x000FFFFFFFFFC000#64 }).setPc (s.pc + 4#64)) :=
  exec_wrsr_sys_eq h (n := 0x071) rfl (by decide) (State.sysWrite_mroot hm _) (State.pc_modU rfl rfl)

theorem exec_wrsr_mtvec (hm : s.cx.priv = .m) : exec (.wrsr a 0x072#12) s =
    .next ((s.modU fun y => { y with mtvec := s.g a }).setPc (s.pc + 4#64)) :=
  exec_wrsr_sys_eq h (n := 0x072) rfl (by decide) (State.sysWrite_mtvec hm _) (State.pc_modU rfl rfl)

theorem exec_wrsr_fctl : exec (.wrsr a 0x006#12) s = .next ((s.modC fun x => { x with
    fxs := BitVec.ofNat 5 (s.g a).toNat
    frm := if (s.g a).toNat / 2 ^ 5 % 2 ^ 3 ≤ 5 then BitVec.ofNat 3 ((s.g a).toNat / 2 ^ 5) else x.frm }).setPc (s.pc + 4#64)) :=
  exec_wrsr_sys_eq h (n := 0x006) rfl (by decide) (State.sysWrite_fctl s _) (State.pc_modC rfl)

theorem exec_wrsr_seed : exec (.wrsr a 0x00C#12) s = .next ((s.modC fun x => { x with
    srseed := if (s.g a).toNat % 2 ^ 32 = 0 then 1#32 else BitVec.ofNat 32 (s.g a).toNat }).setPc (s.pc + 4#64)) :=
  exec_wrsr_sys_eq h (n := 0x00C) rfl (by decide) (State.sysWrite_seed s _) (State.pc_modC rfl)

section
variable (hu : s.cx.priv ≠ .u)
include hu

theorem exec_wrsr_tstat : exec (.wrsr a 0x044#12) s = .next (afterTstat s (s.g a)) := by
  refine exec_wrsr_srw h (n := 0x044) rfl (by decide) (by decide) (by decide) hu rfl ?_
  exact pc_stopAfter_putTstat s _

theorem exec_wrsr_drply_keeps (hk : s.kind ≠ .slice ∨ (s.g a).getLsbD 63 = true) :
    exec (.wrsr a 0x04B#12) s = .next ((afterDrply s (s.g a)).setPc (s.pc + 4#64)) :=
  exec_wrsr_srw h (n := 0x04B) rfl (by decide) (by decide) (by decide) hu (State.putDrply_keeps hk) (pc_afterDrply s _)

theorem exec_wrsr_drply_drops (hk : s.kind = .slice) (hv : (s.g a).getLsbD 63 = false) :
    exec (.wrsr a 0x04B#12) s = .next (((afterDrply s (s.g a)).modSlice s.ownSlice fun y =>
      { y with fifo := y.fifo.filter fun k => ! (k.ctx == s.c && k.lid == s.cx.lid && k.halted) }).setPc (s.pc + 4#64)) :=
  exec_wrsr_srw h (n := 0x04B) rfl (by decide) (by decide) (by decide) hu (State.putDrply_drops hk hv) (pc_afterDrply s _)

theorem exec_wrsr_msgctl (hk : (s.g a).getLsbD 31 = false ∨ s.kind ≠ .far) :
    exec (.wrsr a 0x062#12) s = .next ((s.takeMaxmsg (s.g a)).setPc (s.pc + 4#64)) := by
  have hn : ¬ ((s.g a).getLsbD 31 = true ∧ s.kind = .far) := by
    rintro ⟨hb, hf⟩
    rcases hk with hk | hk
    · rw [hk] at hb
      exact absurd hb (by decide)
    · exact hk hf
  have hp : s.putMsgctl (s.g a) = s.takeMaxmsg (s.g a) := by rw [State.putMsgctl_eq, if_neg hn]
  exact exec_wrsr_srw h (n := 0x062) rfl (by decide) (by decide) (by decide) hu hp (State.pc_takeMaxmsg _ _)

theorem exec_wrsr_msgctl_clear (hb : (s.g a).getLsbD 31 = true) (hk : s.kind = .far) :
    exec (.wrsr a 0x062#12) s = .next (afterMsgctlClear s (s.g a)) := by
  have hp : s.putMsgctl (s.g a) = (s.clearCounters s.cur).takeMaxmsg (s.g a) := by rw [State.putMsgctl_eq, if_pos ⟨hb, hk⟩]
  exact exec_wrsr_srw h (n := 0x062) rfl (by decide) (by decide) (by decide) hu hp
    ((State.pc_takeMaxmsg _ _).trans (State.sameButMessages_clearCounters s s.cur).pc)

theorem exec_wrsr_trbase : exec (.wrsr a 0x06C#12) s = .next ((s.putTrbase (s.g a)).setPc (s.pc + 4#64)) :=
  exec_wrsr_srw h (n := 0x06C) rfl (by decide) (by decide) (by decide) hu rfl (State.pc_putTrbase _ _)

end

end

/-- Settles O35: each register by its arm of the write, the level deciding which writes act. -/
theorem systemRegisterWrites : Obligations.SystemRegisterWrites := by
  intro a r s h
  refine ⟨fun t ht => ?_, exec_wrsr_mrw_other h, fun hr hm => ?_, fun hr hm => ?_, exec_wrsr_readOnly h, fun hr => ?_,
    fun hr => ?_, fun hr hu => ?_, fun hr hu => ?_, fun hr hu => ?_, fun hr hu => ?_, fun hr hu => ?_, fun hr hu => ?_⟩
  · obtain ⟨hp, hpc, ho, he, hm⟩ := srwWrite_spec ht
    exact ⟨fun hu => exec_wrsr_srw h rfl ho he hm hu hp hpc, fun hu => exec_wrsr_u h rfl ho he hu⟩
  · rw [hr, exec_wrsr_mroot h hm]
  · rw [hr, exec_wrsr_mtvec h hm]
  · rw [hr, exec_wrsr_fctl h]
  · rw [hr, exec_wrsr_seed h]
  · subst hr
    have he : exec (.wrsr a 0x045#12) s = s.twbWrite (s.g a) := rfl
    rw [he, State.twbWrite_eq hu]
    exact ⟨fun h0 hl => if_neg (by omega), fun hn => if_pos hn⟩
  · simp only [List.mem_cons, List.not_mem_nil, or_false] at hr
    rcases hr with rfl | rfl | rfl | rfl <;> exact exec_wrsr_u h rfl (by decide) (by decide) hu
  · subst hr
    refine ⟨afterTstat s (s.g a), exec_wrsr_tstat h hu, fun i => ?_, ?_, mem_afterTstat s _, fun v d hv => ctx_afterTstat_other s _ hv⟩
    · rw [cx_afterTstat]
      exact Ctx.faults_putTstat s.cx _ i
    · rw [act_afterTstat, cx_afterTstat]
  · subst hr
    exact ⟨exec_wrsr_drply_keeps h hu, exec_wrsr_drply_drops h hu⟩
  · subst hr
    intro n takes
    refine ⟨fun hk => ?_, fun hb hk => ?_⟩
    · rw [exec_wrsr_msgctl h hu hk]
      exact ⟨fun ht => by rw [State.takeMaxmsg, if_pos ht], fun ht => by rw [State.takeMaxmsg, if_neg ht]⟩
    · exact ⟨afterMsgctlClear s (s.g a), exec_wrsr_msgctl_clear h hu hb hk, fun k _ => counter_afterMsgctlClear s _ k,
        fun e _ => wte_afterMsgctlClear s _ e, (ux_afterMsgctlClear s _).2.2, mem_afterMsgctlClear s _, State.pc_setPc _ _⟩
  · subst hr
    rw [exec_wrsr_trbase h hu]
    refine ⟨fun hs => by rw [State.putTrbase_none hs], fun k hs => ⟨fun hen => ?_, fun hen => by rw [State.putTrbase_eq hs hen]⟩⟩
    exact ⟨_, rfl, State.pc_setPc _ _, State.mem_putTrbase s _, State.home_putTrbase_enabled hs hen _⟩

end Sys2Proof.Machine
end

section
/-! SUPPORT, then O60: the memory stays in its canonical form (log entry 1).

Only the writes of Store.lean change the memory, and `Memory.wf_write` and its kin say that they keep the form. Every other operation
is made of operations that come before it, so there is one lemma per operation that returns a state, in the order of the model's files,
and its proof names the operations of its last update, from the outside in: `State.memOk.f` for an operation `State.f`, `Out.memOk.f`
for one whose result is an outcome. An operation that does not touch the field `mem` at all keeps the form by definition, so there the
proof is the hypothesis. An instruction whose `exec` is no more than one such operation has no lemma of its own: its arm in
`Out.memOk.execOf` names the operation. -/

namespace Sys2Proof.Machine

/-! ## Results that carry a state, and the rules that do not speak of one operation -/

/-- An update of fields other than the memory keeps the form. -/
theorem State.memOk.mk {s : State}
    {units homes dies gens floors advances slices rules stale recomputes disabled retired dev ports routes launches near mgrant dirs lqs
    stage pwr capped pwrlim dropcnt herr images keyDigest fusedFloor mirrors attbox hostMem msi crPorts hostReply saves upsets bar2 cur
    flight posted po async sched free} (hs : s.memOk) :
    State.memOk ⟨s.mem, units, homes, dies, gens, floors, advances, slices, rules, stale, recomputes, disabled, retired, dev, ports, routes,
      launches, near, mgrant, dirs, lqs, stage, pwr, capped, pwrlim, dropcnt, herr, images, keyDigest, fusedFloor, mirrors, attbox, hostMem,
      msi, crPorts, hostReply, saves, upsets, bar2, cur, flight, posted, po, async, sched, free⟩ := hs

/-- The state that an outcome leaves, where it leaves one, has its memory in the form. -/
inductive Out.memOk : Out → Prop where
  | next {t : State} (hs : t.memOk) : Out.memOk (.next t)
  | fault {r} : Out.memOk (.fault r)
  | refused {r} : Out.memOk (.refused r)

theorem State.memOk.of_out_next {r : Out} {t : State} (he : r = .next t) (hr : r.memOk) : t.memOk := by
  subst he
  cases hr with
  | next ht => exact ht

/-- The same of a vector word's access to memory. -/
inductive VMem.memOk : VMem → Prop where
  | done {s : State} {xs} (hs : s.memOk) : VMem.memOk (.done s xs)
  | fault {s : State} {i} {ea} {cause} (hs : s.memOk) : VMem.memOk (.fault s i ea cause)

theorem State.memOk.of_vMem_done {r : VMem} {t : State} {xs} (he : r = .done t xs) (hr : r.memOk) : t.memOk := by
  subst he
  cases hr with
  | done ht => exact ht

theorem State.memOk.of_vMem_fault {r : VMem} {t : State} {i} {ea} {cause} (he : r = .fault t i ea cause) (hr : r.memOk) : t.memOk := by
  subst he
  cases hr with
  | fault ht => exact ht

/-- The same of a vector word. -/
inductive VOut.memOk : VOut → Prop where
  | done {s : State} {res} (hs : s.memOk) : VOut.memOk (.done s res)
  | fault {s : State} {i} {ea} {cause} (hs : s.memOk) : VOut.memOk (.fault s i ea cause)

theorem State.memOk.of_vOut_done {r : VOut} {t : State} {res} (he : r = .done t res) (hr : r.memOk) : t.memOk := by
  subst he
  cases hr with
  | done ht => exact ht

theorem State.memOk.of_vOut_fault {r : VOut} {t : State} {i} {ea} {cause} (he : r = .fault t i ea cause) (hr : r.memOk) : t.memOk := by
  subst he
  cases hr with
  | fault ht => exact ht

/-- The same of a matrix grant. -/
inductive Grant.memOk : Grant → Prop where
  | done {s : State} {count} (hs : s.memOk) : Grant.memOk (.done s count)
  | more {s : State} {w} (hs : s.memOk) : Grant.memOk (.more s w)
  | fault {s : State} {index} {sub} {fva} (hs : s.memOk) : Grant.memOk (.fault s index sub fva)

theorem State.memOk.of_grant_done {r : Grant} {t : State} {count} (he : r = .done t count) (hr : r.memOk) : t.memOk := by
  subst he
  cases hr with
  | done ht => exact ht

theorem State.memOk.of_grant_more {r : Grant} {t : State} {w} (he : r = .more t w) (hr : r.memOk) : t.memOk := by
  subst he
  cases hr with
  | more ht => exact ht

theorem State.memOk.of_grant_fault {r : Grant} {t : State} {index} {sub} {fva} (he : r = .fault t index sub fva) (hr : r.memOk) :
    t.memOk := by
  subst he
  cases hr with
  | fault ht => exact ht

/-- The same of an engine's chunk. -/
inductive Chunk.memOk : Chunk → Prop where
  | done {s : State} {k} (hs : s.memOk) : Chunk.memOk (.done s k)
  | fault {e} : Chunk.memOk (.fault e)
  | differs {s : State} (hs : s.memOk) : Chunk.memOk (.differs s)

theorem State.memOk.of_chunk_done {r : Chunk} {t : State} {k} (he : r = .done t k) (hr : r.memOk) : t.memOk := by
  subst he
  cases hr with
  | done ht => exact ht

theorem State.memOk.of_chunk_differs {r : Chunk} {t : State} (he : r = .differs t) (hr : r.memOk) : t.memOk := by
  subst he
  cases hr with
  | differs ht => exact ht

/-- The same of the steps of R67. -/
inductive Settled.memOk : Settled → Prop where
  | waiting {s : State} (hs : s.memOk) : Settled.memOk (.waiting s)
  | diverted {s : State} (hs : s.memOk) : Settled.memOk (.diverted s)
  | clear {s : State} (hs : s.memOk) : Settled.memOk (.clear s)

theorem State.memOk.of_settled_waiting {r : Settled} {t : State} (he : r = .waiting t) (hr : r.memOk) : t.memOk := by
  subst he
  cases hr with
  | waiting ht => exact ht

theorem State.memOk.of_settled_diverted {r : Settled} {t : State} (he : r = .diverted t) (hr : r.memOk) : t.memOk := by
  subst he
  cases hr with
  | diverted ht => exact ht

theorem State.memOk.of_settled_clear {r : Settled} {t : State} (he : r = .clear t) (hr : r.memOk) : t.memOk := by
  subst he
  cases hr with
  | clear ht => exact ht

/-- The same of a fetch. -/
inductive Fetched.memOk : Fetched → Prop where
  | done {s : State} (hs : s.memOk) : Fetched.memOk (.done s)
  | word {s : State} {w} (hs : s.memOk) : Fetched.memOk (.word s w)

theorem State.memOk.of_fetched_done {r : Fetched} {t : State} (he : r = .done t) (hr : r.memOk) : t.memOk := by
  subst he
  cases hr with
  | done ht => exact ht

theorem State.memOk.of_fetched_word {r : Fetched} {t : State} {w} (he : r = .word t w) (hr : r.memOk) : t.memOk := by
  subst he
  cases hr with
  | word ht => exact ht

theorem State.memOk.ite {c : Prop} [Decidable c] {a b : State} (ha : a.memOk) (hb : b.memOk) : State.memOk (if c then a else b) := by
  split
  · exact ha
  · exact hb

theorem Out.memOk.ite {c : Prop} [Decidable c] {a b : Out} (ha : a.memOk) (hb : b.memOk) : Out.memOk (if c then a else b) := by
  split
  · exact ha
  · exact hb

theorem Settled.memOk.ite {c : Prop} [Decidable c] {a b : Settled} (ha : a.memOk) (hb : b.memOk) : Settled.memOk (if c then a else b) := by
  split
  · exact ha
  · exact hb

theorem VOut.memOk.ite {c : Prop} [Decidable c] {a b : VOut} (ha : a.memOk) (hb : b.memOk) : VOut.memOk (if c then a else b) := by
  split
  · exact ha
  · exact hb

theorem Grant.memOk.ite {c : Prop} [Decidable c] {a b : Grant} (ha : a.memOk) (hb : b.memOk) : Grant.memOk (if c then a else b) := by
  split
  · exact ha
  · exact hb

theorem Chunk.memOk.ite {c : Prop} [Decidable c] {a b : Chunk} (ha : a.memOk) (hb : b.memOk) : Chunk.memOk (if c then a else b) := by
  split
  · exact ha
  · exact hb

theorem Fetched.memOk.ite {c : Prop} [Decidable c] {a b : Fetched} (ha : a.memOk) (hb : b.memOk) : Fetched.memOk (if c then a else b) := by
  split
  · exact ha
  · exact hb

theorem exists_of_map_eq_ok {ε α β : Type} {f : α → β} {r : Except ε α} {b : β} (h : r.map f = .ok b) : ∃ a, r = .ok a ∧ f a = b := by
  cases r with
  | error e => cases h
  | ok a => exact ⟨a, rfl, by injection h⟩

theorem State.memOk.foldl {α : Type} {s : State} {l : List α} {f : State → α → State} (hf : ∀ t x, t.memOk → (f t x).memOk) (hs : s.memOk) :
    (l.foldl f s).memOk := by
  induction l generalizing s with
  | nil => exact hs
  | cons x l ih => exact ih (hf s x hs)

theorem eq_ok_of_toOption_eq_some {ε α : Type} {r : Except ε α} {a : α} (h : r.toOption = some a) : r = .ok a := by
  cases r with
  | error e => cases h
  | ok b => exact congrArg Except.ok (Option.some.inj h)

/-! ## The operations of Machine/Ops.lean -/

theorem State.memOk.modSlice {s : State} {sl : Nat} {f : Slice → Slice} (hs : s.memOk) : (s.modSlice sl f).memOk := hs

theorem State.memOk.setUnit {s : State} {u : Nat} {x : UnitState} (hs : s.memOk) : (s.setUnit u x).memOk := hs

theorem State.memOk.modUnit {s : State} {u : Nat} {f : UnitState → UnitState} (hs : s.memOk) : (s.modUnit u f).memOk := .setUnit hs

theorem State.memOk.setCtx {s : State} {u c : Nat} {x : Ctx} (hs : s.memOk) : (s.setCtx u c x).memOk := .modUnit hs

theorem State.memOk.modCtx {s : State} {u c : Nat} {f : Ctx → Ctx} (hs : s.memOk) : (s.modCtx u c f).memOk := .setCtx hs

theorem State.memOk.modHome {s : State} {h : Nat} {f : Home → Home} (hs : s.memOk) : (s.modHome h f).memOk := hs

theorem State.memOk.modLaunch {s : State} {lid : Nat} {f : Launch → Launch} (hs : s.memOk) : (s.modLaunch lid f).memOk := hs

theorem State.memOk.modC {s : State} {f : Ctx → Ctx} (hs : s.memOk) : (s.modC f).memOk := .modCtx hs

theorem State.memOk.modU {s : State} {f : UnitState → UnitState} (hs : s.memOk) : (s.modU f).memOk := .modUnit hs

theorem State.memOk.setLoc64 {s : State} {u off : Nat} {w : Word} (hs : s.memOk) : (s.setLoc64 u off w).memOk := Memory.wf_write64 _ _ hs

theorem State.memOk.setReg {s : State} {u c : Nat} {r : Reg} {w : Word} (hs : s.memOk) : (s.setReg u c r w).memOk :=
  Memory.wf_write64 _ _ hs

theorem State.memOk.setG {s : State} {r : Reg} {w : Word} (hs : s.memOk) : (s.setG r w).memOk := .setReg hs

theorem State.memOk.setPc {s : State} {w : Word} (hs : s.memOk) : (s.setPc w).memOk := .modC hs

theorem State.memOk.advance {s : State} (hs : s.memOk) : s.advance.memOk := .setPc hs

theorem Out.memOk.done {s : State} (hs : s.memOk) : Out.memOk s.done := .next (.advance hs)

theorem State.memOk.tick {s : State} (hs : s.memOk) : s.tick.memOk := hs

theorem State.memOk.useFree {s : State} (hs : s.memOk) : s.useFree.memOk := hs

theorem State.memOk.defer {s : State} {u c : Nat} {d : Reg} {src : DefSrc} (hs : s.memOk) : (s.defer u c d src).memOk := .mk (.modCtx hs)

theorem State.memOk.deferG {s : State} {d : Reg} {w : Word} (hs : s.memOk) : (s.deferG d w).memOk := .defer hs

theorem State.memOk.deferF {s : State} {d : Reg} {w : Word} {f : BitVec 5} (hs : s.memOk) : (s.deferF d w f).memOk := .mk (.modC hs)

theorem State.memOk.answer {s : State} {u c id : Nat} {src : DefSrc} (hs : s.memOk) : (s.answer u c id src).memOk := .modCtx hs

theorem State.memOk.setLocal {s : State} {u off : Nat} {bs : List Byte} (hs : s.memOk) : (s.setLocal u off bs).memOk :=
  State.memOk_setLocal hs u off bs

theorem State.memOk.writeSeal {s : State} {u : Nat} {cb : Word} {sv deflt : Bool} {asr ptroot twb : Word} (hs : s.memOk) :
    (s.writeSeal u cb sv deflt asr ptroot twb).memOk := .setLocal hs

theorem State.memOk.saveCtx {s : State} {u c : Nat} {deflt : Bool} (hs : s.memOk) : (s.saveCtx u c deflt).memOk :=
  .setCtx (.writeSeal (.setLocal hs))

theorem State.memOk.land {s : State} {u c : Nat} (hs : s.memOk) : (s.land u c).memOk := by
  unfold State.land
  refine .modCtx (.foldl (fun _ _ ht => ?_) hs)
  split
  · exact .setReg ht
  · exact ht

theorem State.memOk.logErr {s : State} {u : Nat} {src : ErrSrc} {addr : BitVec 52} {corrected : Bool} (hs : s.memOk) :
    (s.logErr u src addr corrected).memOk := .modUnit hs

theorem State.memOk.setHend {s : State} {u n : Nat} (hs : s.memOk) : (s.setHend u n).memOk := .modUnit hs

theorem State.memOk.setHdead {s : State} {u n : Nat} (hs : s.memOk) : (s.setHdead u n).memOk := .modUnit hs

theorem State.memOk.cancelPops {s : State} {u c : Nat} (hs : s.memOk) : (s.cancelPops u c).memOk := by
  unfold State.cancelPops
  split
  · exact hs
  · exact .modCtx hs

theorem State.memOk.cancelBlocked {s : State} {u c : Nat} (hs : s.memOk) : (s.cancelBlocked u c).memOk := by
  unfold State.cancelBlocked
  dsimp only
  split
  · exact hs
  · exact .foldl (fun _ _ ht => .ite ht (.modUnit ht)) (.modCtx hs)

theorem State.memOk.dropReplay {s : State} {u c : Nat} (hs : s.memOk) : (s.dropReplay u c).memOk := .modUnit hs

theorem State.memOk.haltReplay {s : State} {u c : Nat} (hs : s.memOk) : (s.haltReplay u c).memOk := by
  unfold State.haltReplay
  split
  · exact hs
  · exact .modCtx (.dropReplay hs)

theorem State.memOk.stopHelper {s : State} {u n : Nat} {deflt : Bool} (hs : s.memOk) : (s.stopHelper u n deflt).memOk :=
  .saveCtx (.land (.haltReplay (.cancelBlocked (.cancelPops hs))))

theorem State.memOk.modNear {s : State} {p : Nat} {f : Near → Near} (hs : s.memOk) : (s.modNear p f).memOk := hs

theorem State.memOk.cancelSequence {s : State} {u c : Nat} (hs : s.memOk) : (s.cancelSequence u c).memOk := by
  unfold State.cancelSequence
  split
  · exact .ite (.modNear hs) hs
  · exact hs

theorem State.memOk.stopDefunct {s : State} {u n : Nat} (hs : s.memOk) : (s.stopDefunct u n).memOk := .setHdead (.setHend (.stopHelper hs))

theorem State.memOk.doubleTrap {s : State} {u c : Nat} {tpc tval fpc : Word} {deflt : Bool} {hlp : Nat} {cause : Cause} (hs : s.memOk) :
    (s.doubleTrap u c tpc tval fpc deflt hlp cause).memOk :=
  .ite (.modUnit (.modCtx hs)) (.ite (.modCtx (.modCtx hs)) (.stopDefunct (.modCtx hs)))

theorem State.memOk.windowStore {s : State} {u off : Nat} {w : Word} (hs : s.memOk) : (s.windowStore u off w).memOk :=
  .foldl (fun _ _ ht => .ite (.setCtx ht) ht) (.setLoc64 hs)

theorem State.memOk.windowStores {s : State} {u t : Nat} {wp pc g22 g23 : Word} (hs : s.memOk) : (s.windowStores u t wp pc g22 g23).memOk :=
  .windowStore (.windowStore (.windowStore (.windowStore hs)))

theorem State.memOk.enterTrap {s : State} {u c : Nat} {tpc tval fpc : Word} {deflt : Bool} {hlp : Nat} {cause : Cause} (hs : s.memOk) :
    (s.enterTrap u c tpc tval fpc deflt hlp cause).memOk :=
  .ite (.doubleTrap (.cancelSequence hs)) (.modCtx (.windowStores (.modCtx (.cancelSequence hs))))

/-! ## The operations of Machine/Places.lean -/

theorem State.memOk.setSiltBit {s : State} {sl m k : Nat} {b : Bool} (hs : s.memOk) : (s.setSiltBit sl m k b).memOk :=
  Memory.wf_write _ _ hs

theorem State.memOk.setSiltByte {s : State} {sl off : Nat} {b : Byte} (hs : s.memOk) : (s.setSiltByte sl off b).memOk := by
  unfold State.setSiltByte
  dsimp only
  split
  · exact .foldl (fun _ _ ht => .setSiltBit ht) hs
  · exact Memory.wf_write _ _ hs

theorem State.memOk.setPhysByte {s : State} {pa : Nat} {b : Byte} (hs : s.memOk) : (s.setPhysByte pa b).memOk := by
  unfold State.setPhysByte
  split
  · exact .setSiltByte hs
  · exact hs
  · exact hs
  · exact hs
  · exact Memory.wf_write _ _ hs

theorem State.memOk.setPhysBytes {s : State} {pa : Nat} {bs : List Byte} (hs : s.memOk) : (s.setPhysBytes pa bs).memOk := by
  induction bs generalizing s pa with
  | nil =>
    unfold State.setPhysBytes
    exact hs
  | cons y l ih =>
    unfold State.setPhysBytes
    exact ih (.setPhysByte hs)

theorem State.memOk.setPhys64 {s : State} {pa : Nat} {w : Word} (hs : s.memOk) : (s.setPhys64 pa w).memOk := .setPhysBytes hs

theorem State.memOk.remark {s : State} {ptile : Nat} (hs : s.memOk) : (s.remark ptile).memOk := .ite hs hs

theorem State.memOk.markTile {s : State} {ptile : Nat} (hs : s.memOk) : (s.markTile ptile).memOk := .remark (.ite hs hs)

theorem State.memOk.markFrom {s : State} {n n1 : Nat} (hs : s.memOk) : (s.markFrom n n1).memOk := by
  induction n generalizing s n1 with
  | zero =>
    unfold State.markFrom
    exact hs
  | succ n ih =>
    unfold State.markFrom
    exact .foldl (fun _ _ ht => ih (.markTile ht)) hs

theorem State.memOk.readBefore {s : State} {pa n : Nat} (hs : s.memOk) : (s.readBefore pa n).memOk := .ite hs hs

theorem State.memOk.markWrite {s : State} {pa n : Nat} (hs : s.memOk) : (s.markWrite pa n).memOk := .ite hs (.markFrom (.readBefore hs))

theorem State.memOk.setElemBits {s : State} {vtile ptile bit w v : Nat} (hs : s.memOk) : (s.setElemBits vtile ptile bit w v).memOk :=
  .foldl (fun _ _ ht => .ite (.setPhysByte ht) ht) hs

theorem State.memOk.recomputeTile {s : State} {read : List (Nat × Word)} {r : Rule} {d : Nat × Nat} (hs : s.memOk) :
    (s.recomputeTile read r d).memOk := .markFrom (.mk (.foldl (fun _ _ ht => .setElemBits ht) (.readBefore hs)))

theorem State.memOk.finishTile {s : State} {r : Rule} {d : Nat × Nat} {x : Recompute} (hs : s.memOk) : (s.finishTile r d x).memOk :=
  .ite (.markTile (.recomputeTile hs)) (.recomputeTile hs)

theorem State.memOk.freshenTile {s : State} {n n1 : Nat} (hs : s.memOk) : (s.freshenTile n n1).memOk := by
  induction n generalizing s n1 with
  | zero =>
    unfold State.freshenTile
    exact hs
  | succ n ih =>
    unfold State.freshenTile
    refine .ite ?_ hs
    split
    · exact hs
    · split
      · exact hs
      · refine .ite (.recomputeTile ?_) ?_
        · split
          · exact .finishTile (.foldl (fun _ _ ht => ih ht) hs)
          · exact .foldl (fun _ _ ht => ih ht) hs
        · split
          · exact .finishTile (.foldl (fun _ _ ht => ih ht) hs)
          · exact .foldl (fun _ _ ht => ih ht) hs

theorem State.memOk.freshen {s : State} {pa n : Nat} (hs : s.memOk) : (s.freshen pa n).memOk :=
  .ite hs (.ite (.freshenTile hs) (.freshenTile (.freshenTile hs)))

/-! ## The operations of Machine/Access.lean -/

theorem State.memOk.traceWrite {s : State} {h : Nat} {k : TraceKind} {w : Issuer} {tagged : Bool} {pa n : Nat} (hs : s.memOk) :
    (s.traceWrite h k w tagged pa n).memOk := .ite (.modHome (.setPhys64 (.setPhys64 hs))) hs

theorem State.memOk.traceWrites {s : State} {h : Nat} {k : TraceKind} {w : Issuer} {tagged : Bool} {pa n n1 : Nat} (hs : s.memOk) :
    (s.traceWrites h k w tagged pa n n1).memOk := by
  induction n1 generalizing s h k w tagged pa n with
  | zero =>
    unfold State.traceWrites
    exact hs
  | succ n ih =>
    unfold State.traceWrites
    exact .ite (.traceWrite hs) (ih (.traceWrite hs))

theorem State.memOk.logCorrected {s : State} {pa n : Nat} (hs : s.memOk) : (s.logCorrected pa n).memOk := by
  unfold State.logCorrected
  split
  · exact hs
  · exact .foldl (fun _ _ ht => .logErr ht) hs

theorem State.memOk.readHome {s : State} {pa n : Nat} {t : State} {x} (hf : s.readHome pa n = (t, x)) (hs : s.memOk) : t.memOk := by
  unfold State.readHome at hf
  split at hf
  · cases hf
    exact hs
  · cases hf
    exact hs
  · dsimp only at hf
    cases hf
    exact .logCorrected (.freshen hs)

theorem State.memOk.writeHome {s : State} {k : TraceKind} {w : Issuer} {tagged : Bool} {pa : Nat} {bs : List Byte} (hs : s.memOk) :
    (s.writeHome k w tagged pa bs).memOk := by
  unfold State.writeHome
  dsimp only
  split
  · exact .traceWrites (.setPhysBytes (.markWrite hs))
  · exact .setPhysBytes (.markWrite hs)

theorem State.memOk.walkFrom {s : State} {va table level n : Nat} {t : State} {x} (hf : s.walkFrom va table level n = .ok (t, x))
    (hs : s.memOk) : t.memOk := by
  induction n generalizing s va table level t x with
  | zero =>
    unfold State.walkFrom at hf
    cases hf
  | succ n ih =>
    unfold State.walkFrom at hf
    dsimp only at hf
    split at hf
    · cases hf
    · split at hf
      · cases hf
      · split at hf
        · split at hf
          · cases hf
          · cases hf
            exact .readHome rfl hs
        · split at hf
          · cases hf
          · split at hf
            · cases hf
            · exact ih hf (.readHome rfl hs)

theorem State.memOk.setEntry {s : State} {at_ : Nat} {p : Word} (hs : s.memOk) : (s.setEntry at_ p).memOk :=
  .ite hs (.setPhys64 (.markWrite hs))

theorem State.memOk.walk {s : State} {u c va : Nat} {store : Bool} {t : State} {x} (hf : s.walk u c va store = .ok (t, x)) (hs : s.memOk) :
    t.memOk := by
  unfold State.walk at hf
  dsimp only at hf
  split at hf
  · cases hf
  · rename_i he
    cases hf
    exact .ite (.mk (.modUnit (.ite (.walkFrom he hs) (.setEntry (.walkFrom he hs)))))
      (.useFree (.mk (.modUnit (.ite (.walkFrom he hs) (.setEntry (.walkFrom he hs))))))

theorem State.memOk.leafOf {s : State} {u c va : Nat} {store : Bool} {t : State} {x} (hf : s.leafOf u c va store = .ok (t, x))
    (hs : s.memOk) : t.memOk := by
  unfold State.leafOf at hf
  dsimp only at hf
  split at hf
  · cases hf
    exact hs
  · split at hf
    · cases hf
      exact .ite (.modUnit hs) (.useFree (.modUnit hs))
    · exact .walk hf hs

theorem State.memOk.translate {s : State} {u c : Nat} {va : Word} {need : Need} {t : State} {x} (hf : s.translate u c va need = .ok (t, x))
    (hs : s.memOk) : t.memOk := by
  unfold State.translate at hf
  split at hf
  · cases hf
  · rename_i he
    dsimp only at hf
    split at hf
    · cases hf
      exact .leafOf he hs
    · cases hf

theorem State.memOk.rcClear {s : State} {u : Nat} (hs : s.memOk) : (s.rcClear u).memOk := .modUnit hs

theorem State.memOk.acquire {s : State} {u : Nat} (hs : s.memOk) : (s.acquire u).memOk := by
  unfold State.acquire
  split
  · exact .rcClear hs
  · exact hs

theorem State.memOk.rcStore {s : State} {u pa : Nat} {bs : List Byte} (hs : s.memOk) : (s.rcStore u pa bs).memOk := by
  unfold State.rcStore
  split
  · exact hs
  · exact .modUnit hs

theorem State.memOk.rcFill {s : State} {u : Nat} {asid : BitVec 12} {va pa : Nat} (hs : s.memOk) : (s.rcFill u asid va pa).memOk :=
  .ite (.modUnit (.readHome rfl hs)) (.useFree (.modUnit (.readHome rfl hs)))

theorem State.memOk.rcEvict {s : State} {u pa n : Nat} (hs : s.memOk) : (s.rcEvict u pa n).memOk := by
  unfold State.rcEvict
  split
  · exact .ite (.modUnit hs) hs
  · exact hs

theorem State.memOk.rcSync {s : State} {u pa n : Nat} (hs : s.memOk) : (s.rcSync u pa n).memOk := .ite hs (.ite hs (.rcEvict hs))

theorem State.memOk.recordOor {s : State} {u c off n : Nat} {store : Bool} (hs : s.memOk) : (s.recordOor u c off n store).memOk :=
  .modCtx hs

theorem State.memOk.localLoad {s : State} {u c off n : Nat} {window : Bool} {t : State} {x} (hf : s.localLoad u c off n window = .ok (t, x))
    (hs : s.memOk) : t.memOk := by
  unfold State.localLoad at hf
  dsimp only at hf
  split at hf
  · cases hf
  · split at hf
    · cases hf
      exact hs
    · split at hf
      · cases hf
        exact hs
      · cases hf
        exact .recordOor hs

theorem State.memOk.localStore {s : State} {u c off : Nat} {bs : List Byte} {window : Bool} {t : State}
    (hf : s.localStore u c off bs window = .ok t) (hs : s.memOk) : t.memOk := by
  unfold State.localStore at hf
  dsimp only at hf
  split at hf
  · cases hf
  · split at hf
    · split at hf
      · cases hf
      · cases hf
        exact .modCtx hs
    · split at hf
      · cases hf
        exact .setLocal hs
      · cases hf
        exact .recordOor hs

/-! ## The operations of Machine/Homes.lean -/

theorem State.memOk.returnFault {s : State} {r : Req} {id : Option Nat} {cause : Cause} (hs : s.memOk) :
    (s.returnFault r id cause).memOk := by
  unfold State.returnFault
  refine .modCtx ?_
  split
  · exact .answer hs
  · exact hs

theorem State.memOk.doLoad {s : State} {r : Req} {size : Nat} {signed : Bool} {id : Nat} (hs : s.memOk) :
    (s.doLoad r size signed id).memOk := by
  unfold State.doLoad
  split
  · exact .returnFault hs
  · exact .answer (.rcSync (.readHome rfl hs))

theorem State.memOk.doStore {s : State} {r : Req} {size : Nat} {data : Word} (hs : s.memOk) : (s.doStore r size data).memOk := by
  unfold State.doStore
  split
  · exact .rcSync (.returnFault hs)
  · exact .rcSync (.writeHome hs)

theorem State.memOk.atomicAt {s : State} {k : TraceKind} {w : Issuer} {tagged : Bool} {pa : Nat} {op : AmoOp} {dbl : Bool}
    {v expected : Nat} {t : State} {x} (hf : s.atomicAt k w tagged pa op dbl v expected = (t, x)) (hs : s.memOk) : t.memOk := by
  unfold State.atomicAt at hf
  dsimp only at hf
  split at hf
  · cases hf
    exact .writeHome (.readHome rfl hs)
  · cases hf
    exact .readHome rfl hs

theorem State.memOk.doAtomic {s : State} {r : Req} {op : AmoOp} {dbl : Bool} {v expected : Word} {id : Option Nat} (hs : s.memOk) :
    (s.doAtomic r op dbl v expected id).memOk := by
  unfold State.doAtomic
  split
  · exact .returnFault hs
  · dsimp only
    split
    · exact .answer (.rcSync (.atomicAt rfl hs))
    · exact .rcSync (.atomicAt rfl hs)

theorem State.memOk.applyMerge {s : State} {w : Issuer} {pa : Nat} {fp dbl : Bool} {operand : Word} (hs : s.memOk) :
    (s.applyMerge w pa fp dbl operand).memOk := .rcSync (.atomicAt rfl hs)

theorem State.memOk.mergeRun {s : State} {e : MergeEntry} {n : Nat} {t : State} {x} (hf : s.mergeRun e n = (t, x)) (hs : s.memOk) :
    t.memOk := by
  induction n generalizing s e t x with
  | zero =>
    unfold State.mergeRun at hf
    cases hf
    exact hs
  | succ n ih =>
    unfold State.mergeRun at hf
    dsimp only at hf
    split at hf
    · cases hf
      exact hs
    · exact ih hf (.foldl (fun _ _ ht => .applyMerge ht) hs)

theorem State.memOk.mergeAccept {s : State} {w : Issuer} {h : Nat} {e : MergeEntry} {k : Nat} {operand : Word} {t : State}
    (hf : s.mergeAccept w h e k operand = .done t) (hs : s.memOk) : t.memOk := by
  unfold State.mergeAccept at hf
  split at hf
  · cases hf
    exact .modHome (.applyMerge hs)
  · split at hf
    · dsimp only at hf
      cases hf
      exact .modHome (.mergeRun rfl (.applyMerge hs))
    · split at hf
      · cases hf
      · cases hf
        exact .modHome hs

theorem State.memOk.mergeAt {s : State} {w : Issuer} {h lid pa : Nat} {fp dbl : Bool} {operand : Word} {k : Nat} {t : State}
    (hf : s.mergeAt w h lid pa fp dbl operand k = .done t) (hs : s.memOk) : t.memOk := by
  unfold State.mergeAt at hf
  dsimp only at hf
  split at hf
  · split at hf
    · cases hf
    · exact .mergeAccept hf hs
  · split at hf
    · cases hf
    · exact .mergeAccept hf hs

theorem State.memOk.doMerge {s : State} {r : Req} {fp dbl : Bool} {operand : Word} {k : Nat} (hs : s.memOk) :
    (s.doMerge r fp dbl operand k).memOk := by
  unfold State.doMerge
  split
  · exact .returnFault hs
  · split
    · exact .returnFault hs
    · split
      · rename_i he2
        exact .mergeAt he2 hs
      · exact .returnFault hs
      · exact .modCtx hs

theorem State.memOk.drainMerges {s : State} {lid : Nat} (hs : s.memOk) : (s.drainMerges lid).memOk :=
  .foldl (fun _ _ ht => .modHome (.foldl (fun _ _ ht1 => .foldl (fun _ _ ht2 => .applyMerge ht2) ht1) ht)) hs

/-! ## The operations of Machine/Messages.lean -/

theorem State.memOk.setWte {s : State} {core e : Nat} {x : Wte} (hs : s.memOk) : (s.setWte core e x).memOk := .modUnit hs

theorem State.memOk.overflowWrite {s : State} {core : Nat} {va : Word} {bs : List Byte} {t : State}
    (hf : s.overflowWrite core va bs = some t) (hs : s.memOk) : t.memOk := by
  unfold State.overflowWrite at hf
  split at hf
  · cases hf
  · split at hf
    · replace hf := eq_ok_of_toOption_eq_some hf
      exact .localStore hf hs
    · split at hf
      · cases hf
      · rename_i he
        dsimp only at hf
        split at hf
        · cases hf
        · split at hf
          · cases hf
          · cases hf
            exact .writeHome (.translate he hs)

theorem State.memOk.latchTail {s : State} {u c : Nat} (hs : s.memOk) : (s.latchTail u c).memOk := by
  unfold State.latchTail
  dsimp only
  split
  · exact .ite (.modCtx hs) hs
  · exact hs

theorem State.memOk.latchTails {s : State} {u : Nat} (hs : s.memOk) : (s.latchTails u).memOk := .foldl (fun _ _ ht => .latchTail ht) hs

theorem State.memOk.deposit {s t : State} {core ring : Nat} {m : Message} (hf : s.deposit core ring m = .done t) (hs : s.memOk) :
    t.memOk := by
  unfold State.deposit at hf
  extract_lets o cfg head tail ova ohead otail f valid slot cnt bs at hf
  generalize (if valid = true then slot else 64) = room at hf
  split at hf
  · cases hf
  split at hf
  · split at hf <;> cases hf
  split at hf
  · obtain rfl := Deposit.done.inj hf
    exact .latchTails (.modUnit (.setLoc64 (.setLocal hs)))
  split at hf
  · split at hf
    · cases hf
    · rename_i s1 he
      have h1 := State.memOk.overflowWrite he hs
      obtain rfl := Deposit.done.inj hf
      split
      · exact .modUnit (.setLoc64 h1)
      · exact .setLoc64 h1
  · cases hf

theorem State.memOk.handOff {s : State} {core e : Nat} {t : State} (hf : s.handOff core e = some t) (hs : s.memOk) : t.memOk := by
  unfold State.handOff at hf
  dsimp only at hf
  split at hf
  · rename_i he
    cases hf
    exact .modUnit (.setWte (.deposit he hs))
  · cases hf

theorem State.memOk.fire {s : State} {core e : Nat} (hs : s.memOk) : (s.fire core e).memOk := by
  unfold State.fire
  dsimp only
  split
  · rename_i he
    split at he
    · cases he
    · exact .handOff he (.modLaunch hs)
  · exact .modUnit (.setWte (.modLaunch hs))

theorem State.memOk.freeWte {s : State} {core e : Nat} (hs : s.memOk) : (s.freeWte core e).memOk :=
  .ite (.modUnit (.modLaunch (.setWte hs))) (.setWte hs)

theorem State.memOk.fireReached {s : State} {core cnt : Nat} (hs : s.memOk) : (s.fireReached core cnt).memOk :=
  .foldl (fun _ _ ht => .ite (.fire ht) ht) hs

theorem State.memOk.wakeWaiters {s : State} {core cnt : Nat} (hs : s.memOk) : (s.wakeWaiters core cnt).memOk := by
  unfold State.wakeWaiters
  refine .foldl (fun _ _ ht => ?_) hs
  dsimp only
  split
  · exact .ite (.modCtx ht) ht
  · exact ht

theorem State.memOk.increment {s : State} {core cnt : Nat} {amount : Word} (hs : s.memOk) : (s.increment core cnt amount).memOk :=
  .fireReached (.wakeWaiters (.modUnit hs))

theorem State.memOk.clearCounters {s : State} {core : Nat} (hs : s.memOk) : (s.clearCounters core).memOk :=
  .modUnit (.foldl (fun _ _ ht => .freeWte ht) hs)

theorem State.memOk.doPut {s : State} {r : Req} {bs : List Byte} {cnt : Option Nat} (hs : s.memOk) : (s.doPut r bs cnt).memOk := by
  unfold State.doPut
  split
  · exact .returnFault hs
  · dsimp only
    split
    · exact .increment (.ite hs (.rcEvict (.writeHome hs)))
    · exact .ite hs (.rcEvict (.writeHome hs))

theorem State.memOk.doGet {s : State} {r : Req} {lo n id : Nat} (hs : s.memOk) : (s.doGet r lo n id).memOk := by
  unfold State.doGet
  split
  · exact .returnFault hs
  · exact .answer (.setLocal (.rcEvict (.readHome rfl hs)))

theorem State.memOk.doCinc {s : State} {r : Req} {cnt : Nat} {amount : Word} (hs : s.memOk) : (s.doCinc r cnt amount).memOk := by
  unfold State.doCinc
  split
  · exact .returnFault hs
  · split
    · exact .increment hs
    · exact hs

theorem State.memOk.depositReq {s : State} {r : Req} {core ring : Nat} {m : Message} {t : State} (hf : s.depositReq r core ring m = some t)
    (hs : s.memOk) : t.memOk := by
  unfold State.depositReq at hf
  split at hf
  · rename_i he
    cases hf
    exact .deposit he hs
  · cases hf
    exact .returnFault hs
  · cases hf

theorem State.memOk.doSend {s : State} {r : Req} {ring : Nat} {m : Message} (hs : s.memOk) : (s.doSend r ring m).memOk := by
  unfold State.doSend
  split
  · exact .returnFault hs
  · split
    · exact hs
    · split
      · rename_i he2
        split at he2
        · cases he2
        · exact .depositReq he2 hs
      · exact .modCtx (.modUnit hs)

theorem State.memOk.offer {s : State} {core : Nat} {y : Held} {t : State} (hf : s.offer core y = some t) (hs : s.memOk) : t.memOk := by
  unfold State.offer at hf
  split at hf
  · split at hf
    · obtain ⟨r, hr, rfl⟩ := Option.map_eq_some_iff.1 hf
      exact .modCtx (.depositReq hr hs)
    · cases hf
  · exact .handOff hf hs

theorem State.memOk.retryHeld {s : State} {core : Nat} {kind : Held → Bool} (hs : s.memOk) : (s.retryHeld core kind).memOk := by
  unfold State.retryHeld
  refine .foldl (fun _ _ ht => .ite ht ?_) hs
  split
  · exact ht
  · rename_i he
    exact .modUnit (.offer he ht)

/-! ## The operations of Machine/Tasks.lean -/

theorem State.memOk.setQueue {s : State} {h q : Nat} {x : Queue} (hs : s.memOk) : (s.setQueue h q x).memOk := .modHome hs

theorem State.memOk.beaconArrive {s : State} {d : Nat} {b : Beacon} {retract : Bool} (hs : s.memOk) : (s.beaconArrive d b retract).memOk :=
  hs

theorem State.memOk.beaconSend {s : State} {h : Nat} {b : Beacon} {retract : Bool} (hs : s.memOk) : (s.beaconSend h b retract).memOk :=
  .foldl (fun _ _ ht => .beaconArrive ht) hs

theorem State.memOk.putQueue {s : State} {h q : Nat} {x : Queue} (hs : s.memOk) : (s.putQueue h q x).memOk :=
  .ite (.beaconSend (.setQueue hs)) (.ite (.beaconSend (.setQueue hs)) (.setQueue hs))

theorem State.memOk.spillWrite {s : State} {h at_ : Nat} {desc : List Byte} (hs : s.memOk) : (s.spillWrite h at_ desc).memOk :=
  .writeHome hs

theorem State.memOk.spillPost {s : State} {h at_ : Nat} {desc : List Byte} (hs : s.memOk) : (s.spillPost h at_ desc).memOk :=
  .ite hs (.spillWrite hs)

theorem State.memOk.enqueueAt {s : State} {h q : Nat} {desc : List Byte} {t : State} {x} (hf : s.enqueueAt h q desc = (t, x))
    (hs : s.memOk) : t.memOk := by
  unfold State.enqueueAt at hf
  dsimp only at hf
  split at hf
  · cases hf
    exact .putQueue hs
  · split at hf
    · cases hf
      exact .putQueue (.spillPost hs)
    · cases hf
      exact hs

theorem State.memOk.refill {s : State} {h q : Nat} (hs : s.memOk) : (s.refill h q).memOk := .ite hs (.ite hs (.putQueue (.readHome rfl hs)))

theorem State.memOk.enqueueReqGo {s t : State} {r : Req} {q : Nat} {desc : List Byte} {lid x : Nat}
    (hf : State.enqueueReq.go s r q desc lid = .ok (t, x))
    (hs : s.memOk) : t.memOk := by
  unfold State.enqueueReq.go at hf
  split at hf
  · cases hf
  · dsimp only at hf
    split at hf
    · cases hf
    · exact .enqueueAt (Except.ok.inj hf) hs

theorem State.memOk.enqueueReq {s : State} {r : Req} {q : Nat} {desc : List Byte} {lid : Nat} {t : State} {x}
    (hf : s.enqueueReq r q desc lid = .ok (t, x)) (hs : s.memOk) : t.memOk := by
  unfold State.enqueueReq at hf
  split at hf
  · exact .enqueueReqGo hf hs
  · cases hf
  · exact .enqueueReqGo hf hs

theorem State.memOk.doEnqueue {s : State} {r : Req} {q : Nat} {desc : List Byte} {lid : Nat} {id : Option Nat} (hs : s.memOk) :
    (s.doEnqueue r q desc lid id).memOk := by
  unfold State.doEnqueue
  split
  · exact .returnFault hs
  · rename_i he
    exact .answer (.enqueueReq he hs)
  · rename_i he
    exact .modCtx (.enqueueReq he hs)

theorem State.memOk.writeTaskInfo {s : State} {u n : Nat} {desc : List Byte} {live queued far : Bool} {ticket : Word32} {sel : Nat}
    (hs : s.memOk) : (s.writeTaskInfo u n desc live queued far ticket sel).memOk := .setLoc64 (.setLoc64 (.setLoc64 (.setLoc64 hs)))

theorem State.memOk.grant {s : State} {u h q : Nat} {t0 : QTask} {far : Bool} {bind : Word} {t : State} {x}
    (hf : s.grant u h q t0 far bind = (t, x)) (hs : s.memOk) : t.memOk := by
  unfold State.grant at hf
  dsimp only at hf
  split at hf
  · cases hf
    exact .modLaunch (.putQueue (.setLocal hs))
  · cases hf
    exact .acquire (.modLaunch (.writeTaskInfo (.putQueue (.setLocal hs))))

theorem State.memOk.popAt {s : State} {u h lid : Nat} {bind : Word} {t : State} {x} (hf : s.popAt u h lid bind = (t, x)) (hs : s.memOk) :
    t.memOk := by
  unfold State.popAt at hf
  split at hf
  · cases hf
    exact hs
  · dsimp only at hf
    cases hf
    exact .refill (.modHome (.grant rfl hs))

theorem State.memOk.stealAt {s : State} {u h q lid : Nat} {asid : BitVec 12} {bind : Word} {t : State} {x}
    (hf : s.stealAt u h q lid asid bind = .ok (t, x)) (hs : s.memOk) : t.memOk := by
  unfold State.stealAt at hf
  split at hf
  · cases hf
  · dsimp only at hf
    cases hf
    exact .refill (.grant rfl hs)

theorem State.memOk.stealAny {s : State} {u lid : Nat} {asid : BitVec 12} {bind : Word} {bs : List Beacon} {t : State} {x : Word}
    (hf : s.stealAny u lid asid bind bs = (t, x)) (hs : s.memOk) : t.memOk := by
  induction bs with
  | nil => cases hf; exact hs
  | cons b rest ih =>
    cases rest with
    | nil =>
      unfold State.stealAny at hf
      split at hf
      · rename_i he
        exact .stealAt (he.trans (congrArg Except.ok hf)) hs
      · cases hf
        exact hs
    | cons b' rest =>
      unfold State.stealAny at hf
      split at hf
      · rename_i he
        exact .stealAt (he.trans (congrArg Except.ok hf)) hs
      · exact ih hf

theorem State.memOk.steal {s : State} {u lid : Nat} {asid : BitVec 12} {sel bind : Word} {t : State} {x : Word}
    (hf : s.steal u lid asid sel bind = (t, x)) (hs : s.memOk) : t.memOk := by
  unfold State.steal at hf
  split at hf
  · exact .stealAny hf hs
  · dsimp only at hf
    split at hf
    · rename_i he
      exact .stealAt (he.trans (congrArg Except.ok hf)) hs
    · cases hf
      exact hs

theorem State.memOk.completeAt {s : State} {h q : Nat} {ticket : Word32} (hs : s.memOk) : (s.completeAt h q ticket).memOk := .putQueue hs

theorem State.memOk.ageTask {s : State} {h q : Nat} {ticket : Word32} (hs : s.memOk) : (s.ageTask h q ticket).memOk := .putQueue hs

theorem State.memOk.sendOut {s : State} {p : Posted} (hs : s.memOk) : (s.sendOut p).memOk := hs

theorem State.memOk.takeSent {s : State} {p : Posted} {t : State} (hf : s.takeSent p = some t) (hs : s.memOk) : t.memOk := by
  unfold State.takeSent at hf
  split at hf
  · cases hf
    exact hs
  · cases hf

theorem State.memOk.castVote {s : State} {lid u : Nat} {v : Vote} (hs : s.memOk) : (s.castVote lid u v).memOk := .modLaunch hs

/-! ## The operations of Machine/Hub.lean -/

theorem State.memOk.setLq {s : State} {q : Nat} {x : LQueue} (hs : s.memOk) : (s.setLq q x).memOk := hs

theorem State.memOk.writeCompletion {s : State} {q : Nat} {c : Completion} (hs : s.memOk) : (s.writeCompletion q c).memOk :=
  .ite (.mk (.setLq (.mk hs))) (.setLq (.mk hs))

theorem State.memOk.postCompletion {s : State} {q : Nat} {c : Completion} (hs : s.memOk) : (s.postCompletion q c).memOk :=
  .ite (.setLq hs) (.writeCompletion hs)

theorem State.memOk.releaseHeld {s : State} {q : Nat} (hs : s.memOk) : (s.releaseHeld q).memOk := by
  unfold State.releaseHeld
  dsimp only
  split
  · exact hs
  · exact .ite hs (.writeCompletion (.setLq hs))

theorem State.memOk.holdLaunch {s : State} {lid : Nat} {but : Option Nat} (hs : s.memOk) : (s.holdLaunch lid but).memOk :=
  .foldl (fun _ _ ht => .ite ht (.foldl (fun _ _ ht1 => .ite (.modCtx ht1) ht1) ht)) hs

theorem State.memOk.leaveNear {s : State} {lid : Nat} (hs : s.memOk) : (s.leaveNear lid).memOk := .foldl (fun _ _ ht => .modNear ht) hs

theorem State.memOk.dropWork {s : State} {lid : Nat} (hs : s.memOk) : (s.dropWork lid).memOk := .mk (.foldl (fun _ _ ht => .modUnit ht) hs)

theorem State.memOk.endLaunchBut {s : State} {but : Option Nat} {lid kind cause : Nat} {value : Word} (hs : s.memOk) :
    (s.endLaunchBut but lid kind cause value).memOk := by
  unfold State.endLaunchBut
  split
  · exact hs
  · exact .postCompletion (.mk (.leaveNear (.ite (.dropWork (.ite hs (.holdLaunch hs))) (.ite hs (.holdLaunch hs)))))

theorem State.memOk.endLaunch {s : State} {lid kind cause : Nat} {value : Word} (hs : s.memOk) : (s.endLaunch lid kind cause value).memOk :=
  .endLaunchBut hs

theorem State.memOk.failLaunch {s : State} {lid cause : Nat} (hs : s.memOk) : (s.failLaunch lid cause).memOk := .endLaunch hs

theorem State.memOk.failUnit {s : State} {u cause : Nat} (hs : s.memOk) : (s.failUnit u cause).memOk :=
  .foldl (fun _ _ ht => .failLaunch ht) hs

theorem State.memOk.failRetired {s : State} (hs : s.memOk) : s.failRetired.memOk := .foldl (fun _ _ ht => .failLaunch ht) hs

theorem State.memOk.stopCtx {s : State} {u c : Nat} (hs : s.memOk) : (s.stopCtx u c).memOk :=
  .modCtx (.ite (.cancelBlocked (.cancelPops hs)) hs)

theorem State.memOk.cancelFor {s : State} {u lid : Nat} (hs : s.memOk) : (s.cancelFor u lid).memOk := by
  unfold State.cancelFor
  split
  · exact .ite (.modNear hs) hs
  · exact hs

theorem State.memOk.stopArrive {s : State} {u lid : Nat} (hs : s.memOk) : (s.stopArrive u lid).memOk := by
  unfold State.stopArrive
  exact .modUnit (.foldl (fun _ _ ht => .ite (.stopCtx ht) ht) (.cancelFor hs))

theorem State.memOk.sendStop {s : State} {lid : Nat} (hs : s.memOk) : (s.sendStop lid).memOk :=
  .foldl (fun _ _ ht => .stopArrive ht) (.modLaunch hs)

theorem State.memOk.takeTrap {s : State} {u c : Nat} {tpc tval fpc : Word} {deflt : Bool} {hlp : Nat} {cause : Cause} (hs : s.memOk) :
    (s.takeTrap u c tpc tval fpc deflt hlp cause).memOk := .ite (.failUnit (.enterTrap hs)) (.enterTrap hs)

/-! ## The operations of Machine/Park.lean -/

theorem State.memOk.performAt {s : State} {r : Req} (hs : s.memOk) : (s.performAt r).memOk := by
  unfold State.performAt
  split
  · exact .doLoad hs
  · exact .doStore hs
  · exact .doAtomic hs
  · exact .doMerge hs
  · exact .doPut hs
  · exact .doGet hs
  · exact .doCinc hs
  · exact .doSend hs
  · exact .doEnqueue hs
  · exact .spillWrite hs

theorem State.memOk.perform {s : State} {r : Req} (hs : s.memOk) : (s.perform r).memOk := .ite (.acquire (.performAt hs)) (.performAt hs)

theorem State.memOk.performNow {s : State} {r : Req} (hs : s.memOk) : (s.performNow r).memOk := .perform hs

theorem State.memOk.post {s : State} {r : Req} (hs : s.memOk) : (s.post r).memOk := .ite (.perform hs) hs

theorem State.memOk.drainNow {s : State} {u c : Nat} (hs : s.memOk) : (s.drainNow u c).memOk :=
  .ite hs (.foldl (fun _ _ ht => .ite (.performNow ht) ht) hs)

theorem State.memOk.drain {s : State} {u c : Nat} (hs : s.memOk) : (s.drain u c).memOk := .ite hs (.drainNow hs)

theorem State.memOk.takeSource {s : State} {u : Nat} {src : DefSrc} {t : State} {x} (hf : s.takeSource u src = some (t, x)) (hs : s.memOk) :
    t.memOk := by
  unfold State.takeSource at hf
  split at hf
  · split at hf
    · cases hf
      exact .acquire (.modUnit hs)
    · split at hf
      · cases hf
      · cases hf
        exact hs
  · split at hf
    · cases hf
      exact .acquire (.modUnit hs)
    · split at hf
      · cases hf
      · cases hf
        exact hs
  · split at hf
    · cases hf
      exact .modNear hs
    · split at hf
      · cases hf
      · cases hf
        exact hs
  · cases hf

theorem State.memOk.resolve {s : State} {u c : Nat} (hs : s.memOk) : (s.resolve u c).memOk := by
  unfold State.resolve
  refine .foldl (fun _ _ ht => ?_) hs
  split
  · rename_i he
    exact .answer (.takeSource he ht)
  · exact ht

theorem State.memOk.divertNotice {s : State} {u c : Nat} {resume : Word} (hs : s.memOk) : (s.divertNotice u c resume).memOk := by
  unfold State.divertNotice
  exact .modCtx (.windowStores hs)

theorem State.memOk.controlTrap {s : State} {u : Nat} {resume : Word} {t : State} (hf : s.controlTrap u resume = some t) (hs : s.memOk) :
    t.memOk := by
  unfold State.controlTrap at hf
  split at hf
  · cases hf
    exact .takeTrap (.modUnit hs)
  · cases hf
    exact .takeTrap (.modUnit hs)
  · cases hf

theorem State.memOk.newestGen {s : State} {u c : Nat} {asid : BitVec 12} (hs : s.memOk) : (s.newestGen u c asid).memOk :=
  .ite (.modCtx hs) hs

theorem State.memOk.adoptGen {s : State} {u c : Nat} (hs : s.memOk) : (s.adoptGen u c).memOk :=
  .foldl (fun _ _ ht => .ite (.mk (.newestGen ht)) ht) hs

theorem State.memOk.bring {s : State} {u c : Nat} (hs : s.memOk) : (s.bring u c).memOk := .drain (.resolve (.drain hs))

theorem State.memOk.markStuck {s : State} {u c : Nat} (hs : s.memOk) : (s.markStuck u c).memOk := .ite hs (.modCtx hs)

theorem State.memOk.cancelSleeps {s : State} {u c : Nat} (hs : s.memOk) : (s.cancelSleeps u c).memOk :=
  .ite (.cancelBlocked (.cancelPops hs)) hs

theorem State.memOk.awaitAgain {s : State} {u c : Nat} (hs : s.memOk) : (s.awaitAgain u c).memOk := .ite (.modCtx hs) hs

theorem State.memOk.discardQueued {s : State} {u c : Nat} (hs : s.memOk) : (s.discardQueued u c).memOk := by
  unfold State.discardQueued
  refine .ite hs (.ite hs (.modCtx ?_))
  split
  · exact .modSlice (.modUnit hs)
  · exact .modUnit hs

theorem Settled.memOk.settleFaults {s : State} {u c : Nat} {stop : Bool} (hs : s.memOk) : Settled.memOk (s.settleFaults u c stop) := by
  unfold State.settleFaults
  extract_lets s0 s1 s2 resume x
  have h0 : s0.memOk := .bring (.adoptGen hs)
  have h1 : s1.memOk := .markStuck (.ite (.cancelSleeps h0) h0)
  have h2 : s2.memOk := .land (.awaitAgain h1)
  refine .ite (.waiting h1) (.ite (.clear h2) ?_)
  split
  · exact .diverted (.takeTrap (.modCtx h2))
  · split
    · exact .diverted (.takeTrap (.modCtx (.discardQueued (.haltReplay h2))))
    · refine .ite ?_ (.clear h2)
      split
      · rename_i htrap
        exact .diverted (.controlTrap htrap h2)
      · exact .clear h2

theorem Settled.memOk.settle {s : State} {u c : Nat} (hs : s.memOk) : Settled.memOk (s.settle u c) := by
  have hfaults := Settled.memOk.settleFaults (u := u) (c := c) (stop := true) hs
  unfold State.settle
  split
  · rename_i he
    exact .waiting (.of_settled_waiting he hfaults)
  · rename_i he
    exact .diverted (.of_settled_diverted he hfaults)
  · rename_i s1 he
    have h1 : s1.memOk := .of_settled_clear he hfaults
    refine .ite (.diverted (.modCtx (.haltReplay h1))) ?_
    split
    · exact .diverted (.takeTrap (.modUnit (.haltReplay h1)))
    · exact .ite (.diverted (.divertNotice h1)) (.clear h1)

theorem State.memOk.freshRange {s : State} {u c lo n : Nat} (hs : s.memOk) : (s.freshRange u c lo n).memOk := by
  induction n generalizing s u c lo with
  | zero =>
    unfold State.freshRange
    exact hs
  | succ n ih =>
    unfold State.freshRange
    refine .ite (ih hs) ?_
    split
    · exact ih hs
    · rename_i he
      exact ih (.freshen (.translate he hs))

theorem State.memOk.waitDone {s : State} {u c : Nat} {w : Wait} {t : State} (hf : s.waitDone u c w = some t) (hs : s.memOk) : t.memOk := by
  unfold State.waitDone at hf
  dsimp only at hf
  split at hf
  · split at hf
    · cases hf
    · cases hf
      exact hs
  · split at hf
    · cases hf
      exact .acquire hs
    · cases hf
  · split at hf
    · obtain ⟨r, hr, rfl⟩ := Option.map_eq_some_iff.1 hf
      exact .acquire (.setReg hs)
    · split at hf
      · cases hf
      · cases hf
        exact .acquire (.setReg hs)
  · split at hf
    · cases hf
      exact .acquire (.setReg (.modUnit hs))
    · split at hf
      · cases hf
        exact .setReg hs
      · cases hf
  · split at hf
    · cases hf
      exact .modUnit hs
    · cases hf
  · split at hf
    · split at hf
      · cases hf
      · split at hf
        · cases hf
          exact .modCtx (.acquire (.freshRange hs))
        · cases hf
          exact .acquire (.freshRange hs)
    · split at hf
      · cases hf
      · split at hf
        · cases hf
          exact .modCtx (.acquire (.freshRange hs))
        · cases hf
          exact .acquire (.freshRange hs)
  · split at hf
    · cases hf
      exact hs
    · split at hf
      · cases hf
      · split at hf
        · cases hf
          exact .returnFault hs
        · rename_i he
          split at hf
          · cases hf
          · cases hf
            exact .mk (.enqueueReq he hs)

theorem State.memOk.latchWake {s : State} {u c : Nat} (hs : s.memOk) : (s.latchWake u c).memOk := by
  unfold State.latchWake
  dsimp only
  split
  · exact .ite (.modCtx hs) hs
  · exact .latchTail hs

theorem State.memOk.latchWakes {s : State} (hs : s.memOk) : s.latchWakes.memOk :=
  .foldl (fun _ _ ht => .foldl (fun _ _ ht1 => .latchWake ht1) ht) hs

theorem Out.memOk.latchedOf {o : Out} (ho : Out.memOk o) : Out.memOk (latched o) := by
  unfold latched
  split
  · exact .next (.latchWakes (.of_out_next rfl ho))
  · exact ho

theorem State.memOk.rotate {s : State} {u c : Nat} (hs : s.memOk) : (s.rotate u c).memOk := .ite hs (.modUnit hs)

theorem State.memOk.endSegment {s : State} {u c : Nat} (hs : s.memOk) : (s.endSegment u c).memOk := .modCtx hs

theorem State.memOk.parkedBefore {s : State} {u c : Nat} (hs : s.memOk) : (s.parkedBefore u c).memOk := .modCtx hs

theorem State.memOk.stopAfter {s : State} {u c : Nat} (hs : s.memOk) : (s.stopAfter u c).memOk := .ite (.modCtx hs) hs

theorem State.memOk.passWait {s : State} {u c : Nat} (hs : s.memOk) : (s.passWait u c).memOk := .stopAfter (.modCtx hs)

theorem State.memOk.unsleep {s : State} {u c : Nat} (hs : s.memOk) : (s.unsleep u c).memOk := .modCtx hs

theorem State.memOk.wake {s : State} {u c : Nat} (hs : s.memOk) : (s.wake u c).memOk := by
  unfold State.wake
  dsimp only
  split
  · exact .unsleep hs
  · refine .ite (.unsleep hs) ?_
    split
    · rename_i he1
      exact .passWait (.waitDone he1 hs)
    · exact hs

theorem State.memOk.stopPark {s : State} {u c : Nat} {stop : State → State} (hstop : ∀ t, t.memOk → (stop t).memOk) (hs : s.memOk) :
    (s.stopPark u c stop).memOk := by
  have h1 : (((s.haltReplay u c).adoptGen u c).bring u c).memOk := .bring (.adoptGen (.haltReplay hs))
  unfold State.stopPark
  dsimp only
  split
  · exact .rotate h1
  · exact .rotate (hstop _ (.land h1))

theorem State.memOk.reportAbsent {s : State} {u c : Nat} {pc : Word} (hs : s.memOk) : (s.reportAbsent u c pc).memOk :=
  .modUnit (.saveCtx hs)

theorem State.memOk.endHelper {s : State} {u n : Nat} (hs : s.memOk) : (s.endHelper u n).memOk :=
  .setHend (.modCtx (.setLocal (.modCtx hs)))

theorem State.memOk.parkClear {s : State} {u c : Nat} (hs : s.memOk) : (s.parkClear u c).memOk := by
  unfold State.parkClear
  refine .ite hs ?_
  split
  · split
    · exact .parkedBefore hs
    · exact .endSegment hs
  · split
    · rename_i he1
      exact .passWait (.waitDone he1 hs)
    · exact .modCtx hs

theorem State.memOk.parkSettled {s : State} {u c : Nat} (hs : s.memOk) : (s.parkSettled u c).memOk := by
  unfold State.parkSettled
  split
  · rename_i he
    exact .of_settled_waiting he (.settle hs)
  · rename_i he
    exact .of_settled_diverted he (.settle hs)
  · rename_i he
    exact .parkClear (.of_settled_clear he (.settle hs))

theorem State.memOk.parkTrap {s : State} {u c : Nat} {cause : Cause} {tval : Word} (hs : s.memOk) : (s.parkTrap u c cause tval).memOk := by
  unfold State.parkTrap
  split
  · rename_i he
    exact .of_settled_waiting he (.settleFaults hs)
  · rename_i he
    exact .of_settled_diverted he (.settleFaults hs)
  · rename_i he
    exact .takeTrap (.of_settled_clear he (.settleFaults hs))

theorem State.memOk.parkNow {s : State} {u c : Nat} (hs : s.memOk) : (s.parkNow u c).memOk := by
  have h0 : ((s.bring u c).cancelSleeps u c).memOk := .cancelSleeps (.bring hs)
  unfold State.parkNow
  refine .ite (.wake hs) ?_
  cases (s.ctx u c).why with
  | absent pc => exact .stopPark (fun _ ht => .reportAbsent ht) hs
  | defunct => exact .stopPark (fun _ ht => .stopDefunct ht) hs
  | ending => exact .stopPark (fun _ ht => .endHelper ht) hs
  | trap cause tval =>
    refine .rotate ?_
    split
    · exact .parkTrap h0
    · exact .parkSettled h0
  | _ => exact .rotate (.parkSettled hs)

theorem State.memOk.parkBefore {s : State} {u c : Nat} (hs : s.memOk) : (s.parkBefore u c).memOk := .rotate (.modCtx hs)

theorem State.memOk.beginFirst {s : State} (hs : s.memOk) : s.beginFirst.memOk := .modC hs

theorem State.memOk.parkFirst {s : State} {act : State → State} (hact : ∀ t, t.memOk → (act t).memOk) (hs : s.memOk) :
    (s.parkFirst act).memOk := by
  unfold State.parkFirst
  refine .ite (hact _ (.beginFirst hs)) ?_
  split
  · rename_i he
    exact .parkBefore (.of_settled_waiting he (.settle hs))
  · rename_i he
    exact .rotate (.of_settled_diverted he (.settle hs))
  · rename_i s1 he
    have h1 : s1.memOk := .of_settled_clear he (.settle hs)
    exact .ite (.parkBefore h1) (.ite (hact _ (.beginFirst (.parkedBefore h1))) (.rotate (.parkedBefore h1)))

theorem State.memOk.trapAt {s : State} {cause : Cause} {tval : Word} (hs : s.memOk) : (s.trapAt cause tval).memOk := by
  unfold State.trapAt
  dsimp only
  split
  · rename_i he
    exact .rotate (.modCtx (.of_settled_waiting he (.settleFaults hs)))
  · rename_i he
    exact .rotate (.of_settled_diverted he (.settleFaults hs))
  · rename_i he
    exact .rotate (.takeTrap (.of_settled_clear he (.settleFaults hs)))

theorem Out.memOk.trap {s : State} {cause : Cause} {tval : Word} (hs : s.memOk) : Out.memOk (s.trap cause tval) := .next (.trapAt hs)

theorem Out.memOk.trapWord {s : State} {cause : Cause} (hs : s.memOk) : Out.memOk (s.trapWord cause) := .trap hs

theorem Out.memOk.privileged {s : State} {act : Out} (hact : Out.memOk act) (hs : s.memOk) : Out.memOk (s.privileged act) := by
  unfold State.privileged
  split
  · exact .trapWord hs
  · exact hact

theorem Out.memOk.profile {s : State} {ok : Bool} {act : Out} (hact : Out.memOk act) (hs : s.memOk) : Out.memOk (s.profile ok act) :=
  .ite hact (.trapWord hs)

/-! ## The operations of Machine/Scalar.lean -/

theorem State.memOk.checkEa {s : State} {u c : Nat} {ea : Word} {size : Nat} {need : Need} {t : State} {x}
    (hf : s.checkEa u c ea size need = .ok (t, x)) (hs : s.memOk) : t.memOk := by
  unfold State.checkEa at hf
  split at hf
  · cases hf
  · split at hf
    · cases hf
    · split at hf
      · cases hf
        exact hs
      · split at hf
        · cases hf
        · rename_i he
          split at hf
          · split at hf
            · cases hf
              exact .translate he hs
            · cases hf
              exact .translate he hs
          · cases hf
            exact .translate he hs

theorem State.memOk.vstore64 {s : State} {u c : Nat} {va w : Word} {t : State} (hf : s.vstore64 u c va w = .ok t) (hs : s.memOk) :
    t.memOk := by
  unfold State.vstore64 at hf
  split at hf
  · cases hf
  · rename_i he
    split at hf
    · cases hf
    · exact .localStore hf (.checkEa he hs)
  · rename_i he
    dsimp only at hf
    split at hf
    · cases hf
    · cases hf
      exact .rcStore (.writeHome (.checkEa he hs))

theorem State.memOk.vload64 {s : State} {u c : Nat} {va : Word} {t : State} {x} (hf : s.vload64 u c va = .ok (t, x)) (hs : s.memOk) :
    t.memOk := by
  unfold State.vload64 at hf
  split at hf
  · cases hf
  · rename_i he
    split at hf
    · cases hf
    · split at hf
      · cases hf
      · obtain ⟨r, hr, ⟨⟩⟩ := exists_of_map_eq_ok hf
        exact .logCorrected (.localLoad hr (.checkEa he hs))
  · rename_i he
    dsimp only at hf
    split at hf
    · cases hf
    · cases hf
      exact .rcSync (.readHome rfl (.checkEa he hs))

theorem State.memOk.spillFrom {s : State} {u c old : Nat} {bsp : Word} {i n : Nat} {t : State} {x}
    (hf : s.spillFrom u c old bsp i n = (t, x)) (hs : s.memOk) : t.memOk := by
  induction n generalizing s u c old bsp i t x with
  | zero =>
    unfold State.spillFrom at hf
    cases hf
    exact hs
  | succ n ih =>
    unfold State.spillFrom at hf
    dsimp only at hf
    split at hf
    · cases hf
      exact hs
    · rename_i he
      exact ih hf (.vstore64 he hs)

theorem State.memOk.spill {s : State} {u c : Nat} {t : State} {x} (hf : s.spill u c = (t, x)) (hs : s.memOk) : t.memOk := by
  unfold State.spill at hf
  dsimp only at hf
  split at hf
  · cases hf
    exact hs
  · split at hf
    · rename_i he
      cases hf
      exact .spillFrom he (.drainNow hs)
    · rename_i he
      cases hf
      exact .modCtx (.spillFrom he (.drainNow hs))

theorem State.memOk.fillFrom {s t : State} {u c : Nat} {bsp : Word} {i n : Nat} {x} (hf : s.fillFrom u c bsp i n = .ok (t, x))
    (hs : s.memOk) :
    t.memOk := by
  induction n generalizing s i t x with
  | zero =>
    unfold State.fillFrom at hf
    cases hf
    exact hs
  | succ n ih =>
    unfold State.fillFrom at hf
    dsimp only at hf
    split at hf
    · cases hf
    · rename_i he
      obtain ⟨r, hr, hx⟩ := exists_of_map_eq_ok hf
      obtain rfl := congrArg Prod.fst hx
      exact ih hr (.vload64 he hs)

theorem State.memOk.fill {s : State} {u c : Nat} {t : State} {x} (hf : s.fill u c = (t, x)) (hs : s.memOk) : t.memOk := by
  unfold State.fill at hf
  dsimp only at hf
  split at hf
  · cases hf
    exact hs
  · rename_i he
    cases hf
    exact .modCtx (.setLocal (.fillFrom he (.drainNow hs)))

theorem State.memOk.fillResident {s : State} {u c n : Nat} {t : State} {x} (hf : s.fillResident u c n = (t, x)) (hs : s.memOk) :
    t.memOk := by
  induction n generalizing s u c t x with
  | zero =>
    unfold State.fillResident at hf
    cases hf
    exact hs
  | succ n ih =>
    unfold State.fillResident at hf
    dsimp only at hf
    split at hf
    · cases hf
      exact hs
    · split at hf
      · rename_i he
        cases hf
        exact .fill he hs
      · rename_i he
        exact ih hf (.fill he hs)

theorem State.memOk.spillTo {s : State} {u c target n : Nat} {t : State} {x} (hf : s.spillTo u c target n = (t, x)) (hs : s.memOk) :
    t.memOk := by
  induction n generalizing s u c target t x with
  | zero =>
    unfold State.spillTo at hf
    cases hf
    exact hs
  | succ n ih =>
    unfold State.spillTo at hf
    split at hf
    · cases hf
      exact hs
    · split at hf
      · rename_i he
        cases hf
        exact .spill he hs
      · rename_i he
        exact ih hf (.spill he hs)

theorem State.memOk.fillTo {s : State} {u c target n : Nat} {t : State} {x} (hf : s.fillTo u c target n = (t, x)) (hs : s.memOk) :
    t.memOk := by
  induction n generalizing s u c target t x with
  | zero =>
    unfold State.fillTo at hf
    cases hf
    exact hs
  | succ n ih =>
    unfold State.fillTo at hf
    dsimp only at hf
    split at hf
    · cases hf
      exact hs
    · split at hf
      · rename_i he
        cases hf
        exact .fill he hs
      · rename_i he
        exact ih hf (.fill he hs)

theorem State.memOk.seqThenOf {r : Seq} {act : State → State} (ha : ∀ t, t.memOk → (act t).memOk) (hr : r.1.memOk) :
    (seqThen r act).memOk := by
  obtain ⟨s, e | e⟩ := r
  · exact ha s hr
  · exact .trapAt hr

/-! ## The operations of Machine/Operands.lean -/

theorem Out.memOk.bin {s : State} {d a b : Reg} {f : Word → Word → Word} (hs : s.memOk) : Out.memOk (s.bin d a b f) := .done (.setG hs)

theorem Out.memOk.binW {s : State} {d a b : Reg} {f : Word32 → Word32 → Word32} (hs : s.memOk) : Out.memOk (s.binW d a b f) :=
  .done (.setG hs)

theorem Out.memOk.un {s : State} {d a : Reg} {f : Word → Word} (hs : s.memOk) : Out.memOk (s.un d a f) := .done (.setG hs)

theorem Out.memOk.unW {s : State} {d a : Reg} {f : Word32 → Word32} (hs : s.memOk) : Out.memOk (s.unW d a f) := .done (.setG hs)

theorem State.memOk.branchTo {s : State} {taken : Bool} {target : Word} (hs : s.memOk) : (s.branchTo taken target).memOk :=
  .ite (.ite (.trapAt hs) (.setPc hs)) (.advance hs)

theorem Out.memOk.afterReplay {s : State} {act : State → State} (hact : ∀ t, t.memOk → (act t).memOk) (hs : s.memOk) :
    Out.memOk (s.afterReplay act) := .next (.ite (.parkFirst (fun _ ht => hact _ ht) hs) (hact _ hs))

theorem Out.memOk.branch {s : State} {taken : State → Bool} {target : Word} (hs : s.memOk) : Out.memOk (s.branch taken target) :=
  .afterReplay (fun _ ht => .branchTo ht) hs

/-! ## The operations of Machine/Flags.lean -/

theorem State.memOk.stepLfsr {s : State} {m : RM} (hs : s.memOk) : (s.stepLfsr m).memOk := .ite (.modC hs) hs

theorem State.memOk.raise {s : State} {f : Flags} (hs : s.memOk) : (s.raise f).memOk := .modC hs

/-! ## The operations of Machine/Calls.lean -/

theorem State.memOk.hold {s : State} (hs : s.memOk) : s.hold.memOk := .modC hs

theorem Out.memOk.queued {s : State} {act : Out} (hact : Out.memOk act) (hs : s.memOk) : Out.memOk (s.queued act) :=
  .ite (.next (.hold hs)) hact

theorem State.memOk.parkAgain {s : State} (hs : s.memOk) : s.parkAgain.memOk := .modC hs

theorem Out.memOk.reading {s : State} {off n : Nat} {act : Out} (hact : Out.memOk act) (hs : s.memOk) : Out.memOk (s.reading off n act) :=
  .ite (.next (.hold hs)) hact

theorem State.memOk.holdFirst {s : State} (hs : s.memOk) : s.holdFirst.memOk := .modC hs

theorem State.memOk.waitFirst {s : State} (hs : s.memOk) : s.waitFirst.memOk := .ite (.holdFirst hs) (.parkAgain hs)

theorem State.memOk.waitFor {s : State} {refused : Bool} (hs : s.memOk) : (s.waitFor refused).memOk := .ite (.parkAgain hs) (.waitFirst hs)

theorem State.memOk.callTo {s : State} {t : Word} {bad : Option Cause} (hs : s.memOk) : (s.callTo t bad).memOk := by
  unfold State.callTo
  refine .ite (.trapAt hs) (.ite (.trapAt hs) ?_)
  split
  · exact .trapAt hs
  · refine .ite (.waitFirst hs) (.seqThenOf (fun _ ht => .setG (.setG (.setG (.modC ht)))) ?_)
    split
    · exact .spill rfl hs
    · exact hs

theorem Out.memOk.jr {a : Reg} {imm : BitVec 12} {s : State} (hs : s.memOk) : Out.memOk (execJr a imm s) := by
  unfold execJr
  refine .afterReplay (fun _ ht => ?_) hs
  dsimp only
  split
  · exact .trapAt ht
  · exact .setPc ht

theorem State.memOk.endBody {s : State} (hs : s.memOk) : s.endBody.memOk := .ite (.rotate (.modC hs)) (.rotate (.endHelper hs))

theorem State.memOk.sendCompletion {s : State} {home : Word} {t : State} {x} (hf : s.sendCompletion home = (t, x)) (hs : s.memOk) :
    t.memOk := by
  unfold State.sendCompletion at hf
  dsimp only at hf
  split at hf
  · cases hf
    exact hs
  · split at hf
    · cases hf
      exact .sendOut hs
    · cases hf
      exact .completeAt hs

theorem State.memOk.finishTask {s : State} (hs : s.memOk) : s.finishTask.memOk := by
  unfold State.finishTask
  refine .ite (.parkAgain hs) (.ite (.waitFirst hs) (.ite (.waitFirst ?_) (.rotate (.endHelper (.modC (.modLaunch ?_))))))
  · split
    · exact .sendCompletion rfl hs
    · exact hs
  · split
    · exact .sendCompletion rfl hs
    · exact hs

theorem State.memOk.retFrom {s : State} (hs : s.memOk) : s.retFrom.memOk := by
  unfold State.retFrom
  refine .ite (.trapAt hs) (.ite (.trapAt hs) (.ite (.ite (.trapAt hs) (.ite (.finishTask hs) (.endBody hs))) ?_))
  split
  · exact .trapAt hs
  · refine .ite (.waitFirst hs) ?_
    split
    · exact .trapAt hs
    · rename_i he1
      exact .setPc (.fillResident he1 (.modC hs))

theorem State.memOk.startHelper {s : State} {n : Nat} {pc task : Word} {args : List Word} (hs : s.memOk) :
    (s.startHelper n pc task args).memOk := .foldl (fun _ _ ht => .setReg ht) (.setReg (.setReg (.setReg (.setCtx hs))))

theorem Out.memOk.start {n : BitVec 4} {d a : Reg} {s : State} (hs : s.memOk) : Out.memOk (execStart n d a s) := by
  unfold execStart
  refine .profile (.privileged (.next (.parkFirst (fun _ ht => ?_) hs)) hs) hs
  split
  · exact .trapAt ht
  · exact .ite (.trapAt ht) (.ite (.waitFirst ht) (.advance (.startHelper ht)))

theorem State.memOk.markDefunct {s : State} {u : Nat} {cb : Word} (hs : s.memOk) : (s.markDefunct u cb).memOk := .setLoc64 hs

theorem State.memOk.toStop {s : State} {u k : Nat} (hs : s.memOk) : (s.toStop u k).memOk :=
  .bring (.cancelBlocked (.cancelPops (.bring (.haltReplay hs))))

theorem State.memOk.yieldTo {s : State} (hs : s.memOk) : s.yieldTo.memOk := by
  unfold State.yieldTo
  refine .ite ?_ (.rotate (.endSegment (.advance hs)))
  split
  · exact .modUnit (.endSegment (.advance hs))
  · exact .endSegment (.advance hs)

theorem Out.memOk.yield {s : State} (hs : s.memOk) : Out.memOk (execYield s) := by
  unfold execYield
  refine .ite (.next (.yieldTo hs)) ?_
  split
  · rename_i he
    exact .next (.parkBefore (.of_settled_waiting he (.settle hs)))
  · rename_i he
    exact .next (.rotate (.of_settled_diverted he (.settle hs)))
  · rename_i he
    exact .next (.ite (.parkBefore (.of_settled_clear he (.settle hs))) (.yieldTo (.of_settled_clear he (.settle hs))))

theorem Out.memOk.setnh {d a : Reg} {s : State} (hs : s.memOk) : Out.memOk (execSetnh d a s) := by
  unfold execSetnh
  exact .ite (.trap hs) (.ite (.trap hs) (.done (.modC hs)))

theorem State.memOk.nretFrom {s : State} (hs : s.memOk) : s.nretFrom.memOk := by
  unfold State.nretFrom
  refine .ite (.trapAt hs) ?_
  dsimp only
  split
  · exact .trapAt hs
  · exact .ite (.trapAt hs) (.ite (.divertNotice (.modC hs)) (.modC hs))

/-! ## The operations of Machine/Memory.lean -/

theorem Out.memOk.ownAccess {s : State} {ea : Word} {off n : Nat} {window store : Bool} {me : Option Nat} {req : State → Req}
    {post act : State → Out} (hpost : ∀ t, t.memOk → Out.memOk (post t)) (hact : ∀ t, t.memOk → Out.memOk (act t)) (hs : s.memOk) :
    Out.memOk (s.ownAccess ea off n window store me req post act) :=
  .ite (.next (.hold (.drain hs))) (.ite (.ite (.trap hs) (hpost _ (.drain hs))) (hact _ (.drain hs)))

theorem State.memOk.faultNow {s : State} {ea : Word} {cause : Cause} (hs : s.memOk) : (s.faultNow ea cause).memOk := .mk (.modC hs)

theorem State.memOk.homeLoad {s : State} {d : Reg} {ea : Word} {pa : Nat} {leaf : TlbEntry} {size : Nat} {signed acq : Bool}
    (hs : s.memOk) : (s.homeLoad d ea pa leaf size signed acq).memOk := by
  unfold State.homeLoad
  refine .ite ?_ (.post (.defer hs))
  split
  · exact .deferG hs
  · exact .post (.defer (.ite hs (.rcFill hs)))

theorem Out.memOk.loadEa {s : State} {d : Reg} {ea : Word} {size : Nat} {signed acq : Bool} (hs : s.memOk) :
    Out.memOk (s.loadEa d ea size signed acq) := by
  unfold State.loadEa
  split
  · exact .trap hs
  · rename_i he
    exact .done (.homeLoad (.checkEa he hs))
  · rename_i he
    refine .ownAccess (fun _ ht => .done (.post (.defer ht)))
      (fun _ ht => .ite (.done (.faultNow (.defer ht))) (.ite (.done (.faultNow (.defer ht))) ?_)) (.checkEa he hs)
    split
    · exact .trap hs
    · rename_i he1
      exact .done (.ite (.acquire (.deferG (.logCorrected (.localLoad he1 ht)))) (.deferG (.logCorrected (.localLoad he1 ht))))

theorem Out.memOk.storeEa {s : State} {data ea : Word} {size : Nat} {rel : Bool} (hs : s.memOk) :
    Out.memOk (s.storeEa data ea size rel) := by
  unfold State.storeEa
  split
  · exact .trap hs
  · rename_i he
    exact .queued (.done (.post (.tick (.rcStore (.drain (.checkEa he hs)))))) (.drain (.checkEa he hs))
  · rename_i he
    refine .ownAccess (fun _ ht => .queued (.done (.post (.tick ht))) ht) (fun _ ht => .ite (.done (.faultNow ht)) ?_) (.checkEa he hs)
    split
    · exact .trap hs
    · rename_i he1
      exact .done (.localStore he1 ht)

theorem State.memOk.prefetch {s : State} {ea : Word} (hs : s.memOk) : (s.prefetch ea).memOk := by
  unfold State.prefetch
  split
  · rename_i he
    exact .ite (.rcFill (.checkEa he hs)) hs
  · exact hs

theorem Out.memOk.rcinvRange {a b : Reg} {s : State} (hs : s.memOk) : Out.memOk (execRcinvRange a b s) := by
  unfold execRcinvRange
  exact .ite (.done hs) (.ite (.done (.acquire hs)) (.done (.modU hs)))

theorem Out.memOk.performEvent {s : State} {r : Req} (hs : s.memOk) : Out.memOk (s.performEvent r) :=
  .ite (.next (.performNow hs)) (.next hs)

theorem Out.memOk.readCacheFill {u : Nat} {asid : BitVec 12} {va : Word} {pa : Nat} {s : State} (hs : s.memOk) :
    Out.memOk (execReadCacheFill u asid va pa s) := by
  unfold execReadCacheFill
  split
  · exact .next (.performNow (.rcFill hs))
  · exact .next hs

theorem Out.memOk.pageWalk {u c : Nat} {va : Word} {store : Bool} {s : State} (hs : s.memOk) : Out.memOk (execPageWalk u c va store s) := by
  unfold execPageWalk
  split
  · rename_i he
    exact .next (.walk he hs)
  · exact .next hs

/-! ## The operations of Machine/Vector.lean -/

theorem State.memOk.ringMark {s : State} {u c : Nat} {seq : BitVec 16} {st : BitVec 4} {fva : Word} (hs : s.memOk) :
    (s.ringMark u c seq st fva).memOk := .modCtx hs

theorem State.memOk.dispatch {s : State} {u c : Nat} {pc : Word} {pass : BitVec 8} {unit : BitVec 4} {word : Word32} {opa opb : Word}
    (hs : s.memOk) : (s.dispatch u c pc pass unit word opa opb).memOk := .modCtx hs

theorem State.memOk.recordLate {s : State} {u c : Nat} {pc : Word} {seq : BitVec 16} {tval fva : Word} (hs : s.memOk) :
    (s.recordLate u c pc seq tval fva).memOk := .modCtx (.ringMark hs)

theorem State.memOk.setV {s : State} {u c : Nat} {r : VReg} {v : BitVec 2048} (hs : s.memOk) : (s.setV u c r v).memOk := .modCtx hs

theorem State.memOk.setFacc {s : State} {u c : Nat} {a : FAcc} (hs : s.memOk) : (s.setFacc u c a).memOk := .modCtx hs

theorem State.memOk.elemRead {s : State} {u c : Nat} {ea : Word} {n : Nat} {t : State} {x} (hf : s.elemRead u c ea n = .ok (t, x))
    (hs : s.memOk) : t.memOk := by
  unfold State.elemRead at hf
  split at hf
  · cases hf
  · rename_i he
    split at hf
    · cases hf
    · split at hf
      · cases hf
      · obtain ⟨r, hr, ⟨⟩⟩ := exists_of_map_eq_ok hf
        exact .logCorrected (.localLoad hr (.checkEa he hs))
  · rename_i he
    split at hf
    · cases hf
      exact .checkEa he hs
    · split at hf
      · cases hf
      · split at hf
        · injection hf with hf
          exact .readHome hf (.rcFill (.checkEa he hs))
        · injection hf with hf
          dsimp only at hf
          cases hf
          exact .rcSync (.readHome rfl (.checkEa he hs))

theorem State.memOk.elemWrite {s : State} {u c : Nat} {ea : Word} {bs : List Byte} {t : State} (hf : s.elemWrite u c ea bs = .ok t)
    (hs : s.memOk) : t.memOk := by
  unfold State.elemWrite at hf
  split at hf
  · cases hf
  · rename_i he
    split at hf
    · cases hf
    · exact .localStore hf (.checkEa he hs)
  · rename_i he
    split at hf
    · cases hf
    · cases hf
      exact .rcSync (.writeHome (.rcStore (.checkEa he hs)))

theorem VMem.memOk.elemLoads {s : State} {u c n : Nat} {acc : List Nat} {l : List (Nat × Word)} (hs : s.memOk) :
    VMem.memOk (s.elemLoads u c n acc l) := by
  induction l generalizing s u c n acc with
  | nil =>
    unfold State.elemLoads
    exact .done hs
  | cons y l ih =>
    unfold State.elemLoads
    split
    · exact .fault hs
    · rename_i he
      exact ih (.elemRead he hs)

theorem VMem.memOk.elemStores {s : State} {u c n : Nat} {val : Nat → Nat} {l : List (Nat × Word)} (hs : s.memOk) :
    VMem.memOk (s.elemStores u c n val l) := by
  induction l generalizing s u c n val with
  | nil =>
    unfold State.elemStores
    exact .done hs
  | cons y l ih =>
    unfold State.elemStores
    split
    · exact .fault hs
    · rename_i he
      exact ih (.elemWrite he hs)

theorem VMem.memOk.vload {s : State} {u c : Nat} {w : VWidth} {vd : VReg} {addrs : List (Nat × Word)} {spread : Bool} (hs : s.memOk) :
    VMem.memOk (s.vload u c w vd addrs spread) := by
  unfold State.vload
  dsimp only
  split
  · exact .fault hs
  · split
    · rename_i he1
      exact .fault (.of_vMem_fault he1 (.elemLoads hs))
    · rename_i he1
      exact .done (.setV (.of_vMem_done he1 (.elemLoads hs)))

theorem VMem.memOk.vstore {s : State} {u c : Nat} {w : VWidth} {vd : VReg} {addrs : List (Nat × Word)} (hs : s.memOk) :
    VMem.memOk (s.vstore u c w vd addrs) := by
  unfold State.vstore
  dsimp only
  split
  · exact .fault hs
  · exact .elemStores hs

theorem VOut.memOk.ofMem {r : VMem} (hr : r.memOk) : r.out.memOk := by
  cases hr with
  | done hs => exact .done hs
  | fault hs => exact .fault hs

theorem VOut.memOk.vput {s : State} {u c : Nat} {vd : VReg} {v : BitVec 2048} (hs : s.memOk) : VOut.memOk (s.vput u c vd v) :=
  .done (.setV hs)

theorem VOut.memOk.vputF {s : State} {u c : Nat} {vd : VReg} {r : BitVec 2048 × FAcc} (hs : s.memOk) : VOut.memOk (s.vputF u c vd r) :=
  .done (.setFacc (.setV hs))

theorem VOut.memOk.vintAt {s : State} {u c : Nat} {op : VIntOp} {w : VWidth} {mask : Word} {vd va vb : VReg} (hs : s.memOk) :
    VOut.memOk (s.vintAt u c op w mask vd va vb) := .vput hs

theorem VOut.memOk.vfpAt {s : State} {u c : Nat} {op : VFpOp} {dbl : Bool} {m : RM} {mask : Word} {vd va vb : VReg} (hs : s.memOk) :
    VOut.memOk (s.vfpAt u c op dbl m mask vd va vb) := .vputF hs

theorem VOut.memOk.vcmpAt {s : State} {u c : Nat} {cond : VCond} {w : VWidth} {mask : Word} {va vb : VReg} (hs : s.memOk) :
    VOut.memOk (s.vcmpAt u c cond w mask va vb) := .done hs

theorem VOut.memOk.vfcmpAt {s : State} {u c : Nat} {cond : FCond} {dbl : Bool} {mask : Word} {va vb : VReg} (hs : s.memOk) :
    VOut.memOk (s.vfcmpAt u c cond dbl mask va vb) := .done (.modCtx hs)

theorem VOut.memOk.vexec {s : State} {u : Nat} {k : VCmd} (hs : s.memOk) : VOut.memOk (s.vexec u k) := by
  unfold State.vexec
  dsimp only
  split
  · exact .ofMem (.vload hs)
  · exact .ofMem (.vstore hs)
  · exact .ofMem (.vload hs)
  · exact .ofMem (.vstore hs)
  · exact .ofMem (.vload hs)
  · exact .ofMem (.vstore hs)
  · exact .ofMem (.vload hs)
  · exact .ofMem (.vstore hs)
  · exact .vintAt hs
  · exact .vintAt hs
  · exact .vintAt hs
  · exact .vintAt hs
  · exact .vintAt hs
  · exact .vintAt hs
  · exact .vintAt hs
  · exact .vintAt hs
  · exact .vintAt hs
  · exact .vintAt hs
  · exact .vintAt hs
  · exact .vintAt hs
  · exact .vintAt hs
  · exact .vintAt hs
  · exact .vintAt hs
  · exact .vintAt hs
  · exact .vintAt hs
  · exact .vintAt hs
  · exact .vfpAt hs
  · exact .vfpAt hs
  · exact .vfpAt hs
  · exact .vfpAt hs
  · exact .vfpAt hs
  · exact .vfpAt hs
  · exact .vfpAt hs
  · exact .vfpAt hs
  · exact .vcmpAt hs
  · exact .vfcmpAt hs
  · exact .vput hs
  · exact .vput hs
  · exact .done hs
  · exact .vput hs
  · exact .vput hs
  · exact .vput hs
  · exact .vputF hs
  · exact .vputF hs
  · exact .vputF hs
  · exact .vputF hs
  · exact .vputF hs
  · exact .ite (.vputF hs) (.vput hs)
  · exact .done hs

theorem State.memOk.vanswer {s : State} {u c : Nat} {id : Option Nat} {src : DefSrc} (hs : s.memOk) : (s.vanswer u c id src).memOk := by
  unfold State.vanswer
  split
  · exact .answer hs
  · exact hs

theorem State.memOk.vrun {s : State} {u : Nat} {k : VCmd} (hs : s.memOk) : (s.vrun u k).memOk := by
  unfold State.vrun
  refine .ite (.vanswer (.ringMark hs)) ?_
  split
  · rename_i he
    exact .vanswer (.ringMark (.of_vOut_done he (.vexec hs)))
  · rename_i he
    exact .vanswer (.recordLate (.of_vOut_fault he (.vexec hs)))

theorem Out.memOk.copWord {s : State} {act : State → State} (hact : ∀ t, t.memOk → (act t).memOk) (hs : s.memOk) :
    Out.memOk (s.copWord act) := .ite (.next (.parkFirst (fun _ ht => hact _ ht) hs)) (.next (hact _ hs))

theorem Out.memOk.vchecked {s : State} {act : State → Out} (hact : ∀ t, t.memOk → Out.memOk (act t)) (hs : s.memOk) :
    Out.memOk (s.vchecked act) := by
  unfold State.vchecked
  split
  · exact hact _ hs
  · exact .ite (.trap (.logErr hs)) (hact _ (.logErr hs))

theorem Out.memOk.vissue {s : State} {instr : Instr} {opnds : State → Word × Word} {rm : RM} {dst : Option Reg} (hs : s.memOk) :
    Out.memOk (s.vissue instr opnds rm dst) := by
  unfold State.vissue
  refine .profile
    (.vchecked (fun _ ht => .copWord (fun _ ht1 => .ite (.hold ht1) (.advance (.ite (.vrun (.drain ?_)) (.modUnit (.drain ?_))))) ht) hs) hs
  · split
    · exact .defer (.modU (.dispatch ht1))
    · exact .tick (.modU (.dispatch ht1))
  · split
    · exact .defer (.modU (.dispatch ht1))
    · exact .tick (.modU (.dispatch ht1))

/-! ## The operations of Machine/Copro.lean -/

theorem State.memOk.sleepFull {s : State} {k : Fifo} (hs : s.memOk) : (s.sleepFull k).memOk :=
  .parkFirst (fun _ ht => .ite (.rotate (.modC ht)) (.hold ht)) hs

theorem State.memOk.pushTo {s : State} {k : Fifo} {act : State → State} (hact : ∀ t, t.memOk → (act t).memOk) (hs : s.memOk) :
    (s.pushTo k act).memOk := .ite (.sleepFull hs) (hact _ hs)

theorem State.memOk.logLocal {s : State} {u : Nat} {regions : List (Nat × Nat)} (hs : s.memOk) : (s.logLocal u regions).memOk :=
  .ite hs (.foldl (fun _ _ ht => .logCorrected ht) hs)

theorem State.memOk.withIssuer {α : Type} {s t : State} {w : Issuer} {act : State → Except Cause (State × α)} {x}
    (hf : s.withIssuer w act = .ok (t, x)) (hact : ∀ s0 t0 x0, s0.memOk → act s0 = .ok (t0, x0) → t0.memOk) (hs : s.memOk) : t.memOk := by
  unfold State.withIssuer at hf
  dsimp only at hf
  split at hf
  · cases hf
  · rename_i he
    cases hf
    exact .modCtx (hact _ _ _ (.modCtx hs) he)

theorem State.memOk.readVaFor {s : State} {need : Need} {w : Issuer} {va : Word} {n align : Nat} {t : State} {x}
    (hf : s.readVaFor need w va n align = .ok (t, x)) (hs : s.memOk) : t.memOk := by
  unfold State.readVaFor at hf
  refine .withIssuer hf (fun _ _ _ ht he => ?_) hs
  split at he
  · cases he
  · rename_i he1
    split at he
    · cases he
    · split at he
      · cases he
      · split at he
        · cases he
        · split at he
          · cases he
          · cases he
            exact .logCorrected (.checkEa he1 ht)
  · rename_i he1
    split at he
    · cases he
    · injection he with he
      exact .readHome he (.checkEa he1 ht)

theorem State.memOk.readVa {s : State} {w : Issuer} {va : Word} {n align : Nat} {t : State} {x} (hf : s.readVa w va n align = .ok (t, x))
    (hs : s.memOk) : t.memOk := by
  unfold State.readVa at hf
  exact .readVaFor hf hs

theorem State.memOk.writeVa {s : State} {w : Issuer} {va : Word} {bs : List Byte} {align : Nat} {t : State}
    (hf : s.writeVa w va bs align = .ok t) (hs : s.memOk) : t.memOk := by
  unfold State.writeVa at hf
  obtain ⟨r, hr, rfl⟩ := exists_of_map_eq_ok hf
  refine .withIssuer hr (fun _ _ _ ht he => ?_) hs
  split at he
  · cases he
  · rename_i he1
    split at he
    · cases he
    · split at he
      · cases he
      · split at he
        · cases he
        · cases he
          exact .writeHome (.checkEa he1 ht)
  · rename_i he1
    split at he
    · cases he
    · cases he
      exact .writeHome (.checkEa he1 ht)

theorem State.memOk.readChunks {s : State} {w : Issuer} {acc : List Byte} {l : List (Word × Nat)} {t : State} {x}
    (hf : s.readChunks w acc l = .ok (t, x)) (hs : s.memOk) : t.memOk := by
  induction l generalizing s w acc t x with
  | nil =>
    unfold State.readChunks at hf
    cases hf
    exact hs
  | cons y l ih =>
    unfold State.readChunks at hf
    split at hf
    · cases hf
    · rename_i he
      exact ih hf (.readVa he hs)

/-! ## The operations of Machine/Matrix.lean -/

theorem State.memOk.modMat {s : State} {u : Nat} {f : Matrix → Matrix} (hs : s.memOk) : (s.modMat u f).memOk := .modUnit hs

theorem Grant.memOk.matMul {s : State} {u : Nat} {lv : Level} {slot scaled : Bool} {sa sb : Word} (hs : s.memOk) :
    Grant.memOk (s.matMul u lv slot scaled sa sb) := by
  unfold State.matMul
  refine .ite (.fault hs) ?_
  dsimp only
  split
  · exact .fault hs
  · exact .ite (.fault hs) (.done (.modMat (.logLocal hs)))

theorem State.memOk.storeCells {s : State} {u : Nat} {f : MatShape} {v : SMap Word32} {base stride : Nat} (hs : s.memOk) :
    (s.storeCells u f v base stride).memOk := .foldl (fun _ _ ht => .setLocal ht) hs

theorem Grant.memOk.matCells {s : State} {u : Nat} {lv : Level} {slot store : Bool} {a b : Word} (hs : s.memOk) :
    Grant.memOk (s.matCells u lv slot store a b) := by
  unfold State.matCells
  refine .ite (.fault hs) ?_
  dsimp only
  split
  · exact .fault hs
  · exact .ite (.done (.storeCells hs)) (.done (.modMat (.logLocal hs)))

theorem Grant.memOk.matFormat {s : State} {u : Nat} {w : Word} (hs : s.memOk) : Grant.memOk (s.matFormat u w) :=
  .ite (.fault hs) (.ite (.done (.modMat hs)) (.done (.modMat hs)))

theorem Grant.memOk.matRec {s : State} {u : Nat} {lv : Level} {slot : Bool} {a b : Word} {walk : Option Walk} (hs : s.memOk) :
    Grant.memOk (s.matRec u lv slot a b walk) := by
  unfold State.matRec
  refine .ite (.fault hs) ?_
  split
  · exact .fault hs
  · exact .ite (.done hs) (.ite (.fault hs) (.ite (.fault hs) (.ite (.done (.modMat (.logLocal hs))) (.more (.modMat (.logLocal hs))))))

theorem State.memOk.walkBack {s : State} {u off : Nat} {w : Walk} (hs : s.memOk) : (s.walkBack u off w).memOk := .setLoc64 (.setLoc64 hs)

theorem Grant.memOk.walkFault {s : State} {u off : Nat} {w : Walk} {sub : Nat} {fva : Word} (hs : s.memOk) :
    Grant.memOk (s.walkFault u off w sub fva) := .fault (.walkBack hs)

theorem State.memOk.storeBlock {s : State} {u : Nat} {lv : Level} {w : Walk} {v : SMap Word32} {t : State}
    (hf : s.storeBlock u lv w v = .ok t) (hs : s.memOk) : t.memOk := by
  unfold State.storeBlock at hf
  dsimp only at hf
  split at hf
  · cases hf
  · split at hf
    · cases hf
    · cases hf
      exact .storeCells hs

theorem State.memOk.advanceBlock {s : State} {u off : Nat} {lv : Level} {slot : Bool} {w : Walk} {r : Nat} {t : State} {x}
    (hf : s.advanceBlock u off lv slot w r = .ok (t, x)) (hs : s.memOk) : t.memOk := by
  unfold State.advanceBlock at hf
  split at hf
  · split at hf
    · cases hf
    · dsimp only at hf
      cases hf
  · split at hf
    · split at hf <;> cases hf
    · cases hf
      exact hs

theorem State.memOk.blockRows {s : State} {u : Nat} {who : Issuer} {va : Word} {m len : Nat} {t : State} {x}
    (hf : s.blockRows u who va m len = .ok (t, x)) (hs : s.memOk) : t.memOk := by
  unfold State.blockRows at hf
  split at hf
  · split at hf
    · cases hf
    · cases hf
      exact .logLocal hs
  · split at hf
    · cases hf
    · split at hf
      · cases hf
      · rename_i he
        cases hf
        exact .readChunks he hs

theorem Grant.memOk.entryMul {s : State} {u off : Nat} {who : Issuer} {slot : Bool} {w : Walk} {e : Word × Word} (hs : s.memOk) :
    Grant.memOk (s.entryMul u off who slot w e) := by
  unfold State.entryMul
  dsimp only
  split
  · exact .walkFault hs
  · split
    · exact .walkFault hs
    · rename_i he1
      exact .ite (.walkFault (.blockRows he1 hs)) (.more (.modMat (.logLocal (.blockRows he1 hs))))

theorem State.memOk.readListEntry {s : State} {who : Issuer} {va : Word} {t : State} {x} (hf : s.readListEntry who va = (t, x))
    (hs : s.memOk) : t.memOk := by
  unfold State.readListEntry at hf
  split at hf
  · cases hf
    exact hs
  · rename_i he
    split at hf
    · cases hf
      exact .readVa he hs
    · rename_i he1
      cases hf
      exact .readVa he1 (.readVa he hs)

theorem State.memOk.readAhead {s : State} {who : Issuer} {w : Walk} {n : Nat} {t : State} {x} (hf : s.readAhead who w n = (t, x))
    (hs : s.memOk) : t.memOk := by
  induction n generalizing s who w t x with
  | zero =>
    unfold State.readAhead at hf
    cases hf
    exact hs
  | succ n ih =>
    unfold State.readAhead at hf
    dsimp only at hf
    split at hf
    · cases hf
      exact hs
    · exact ih hf (.readListEntry rfl hs)

theorem State.memOk.currentEntry {s : State} {who : Issuer} {w : Walk} {t : State} {x} (hf : s.currentEntry who w = (t, x)) (hs : s.memOk) :
    t.memOk := by
  unfold State.currentEntry at hf
  split at hf
  · cases hf
    exact hs
  · split at hf
    · cases hf
      exact hs
    · exact .readListEntry hf hs

theorem Grant.memOk.advanceBlock {s : State} {u off : Nat} {lv : Level} {slot : Bool} {w : Walk} {r : Nat} {g : Grant}
    (hf : s.advanceBlock u off lv slot w r = .error g) (hs : s.memOk) : g.memOk := by
  unfold State.advanceBlock at hf
  split at hf
  · split at hf
    · cases hf
      exact .walkFault hs
    · rename_i he
      cases hf
      exact .more (.modMat (.storeBlock he hs))
  · split at hf
    · split at hf
      · cases hf
        exact .walkFault hs
      · rename_i he
        cases hf
        exact .more (.storeBlock he hs)
    · cases hf

theorem Grant.memOk.walkGrant {s : State} {u off : Nat} {who : Issuer} {slot : Bool} {w : Walk} (hs : s.memOk) :
    Grant.memOk (s.walkGrant u off who slot w) := by
  unfold State.walkGrant
  refine .ite ?_ ?_
  · split
    · rename_i he
      exact .advanceBlock he hs
    · rename_i he
      exact .done (.walkBack (.advanceBlock he hs))
  · dsimp only
    split
    · exact .walkFault hs
    · rename_i he
      refine .ite (.walkFault (.readAhead rfl (.useFree (.currentEntry he hs))))
        (.ite (.more (.readAhead rfl (.useFree (.currentEntry he hs)))) (.ite ?_ (.entryMul (.readAhead rfl (.useFree (.currentEntry he
        hs))))))
      split
      · rename_i he2
        exact .advanceBlock he2 (.readAhead rfl (.useFree (.currentEntry he hs)))
      · rename_i he2
        exact .entryMul (.advanceBlock he2 (.readAhead rfl (.useFree (.currentEntry he hs))))

theorem Grant.memOk.matList {s : State} {u : Nat} {who : Issuer} {slot : Bool} {a : Word} {walk : Option Walk} (hs : s.memOk) :
    Grant.memOk (s.matList u who slot a walk) := by
  unfold State.matList
  dsimp only
  split
  · exact .walkGrant hs
  · split
    · exact .fault hs
    · refine .ite (.fault hs) ?_
      split
      · exact .fault hs
      · exact .walkGrant (.logLocal hs)

theorem Grant.memOk.matRun {s : State} {u : Nat} {k : MatCmd} {walk : Option Walk} (hs : s.memOk) : Grant.memOk (s.matRun u k walk) := by
  unfold State.matRun
  dsimp only
  split
  · exact .matFormat hs
  · exact .done (.modMat hs)
  · exact .matMul hs
  · exact .matMul hs
  · exact .matCells hs
  · exact .matCells hs
  · exact .ite (.done (.modMat hs)) (.fault hs)
  · exact .matRec hs
  · exact .matList hs
  · exact .done hs

theorem State.memOk.matPop {s : State} {u : Nat} (hs : s.memOk) : (s.matPop u).memOk := .modMat hs

theorem State.memOk.matPost {s : State} {u : Nat} {k : MatCmd} {count : Nat} (hs : s.memOk) : (s.matPost u k count).memOk :=
  .ite (.modMat hs) hs

theorem State.memOk.stepBack {s : State} {u : Nat} {k : MatCmd} {walk : Option Walk} (hs : s.memOk) : (s.stepBack u k walk).memOk := by
  unfold State.stepBack
  dsimp only
  split
  · exact .modCtx hs
  · exact hs

theorem State.memOk.macLog {s : State} {u : Nat} {k : MatCmd} (hs : s.memOk) : (s.macLog u k).memOk := by
  unfold State.macLog
  split
  · exact .ite (.logErr hs) hs
  · exact hs

theorem State.memOk.matGrant {s0 : State} {u : Nat} {k : MatCmd} (hs : s0.memOk) : (s0.matGrant u k).memOk := by
  unfold State.matGrant
  refine .ite (.matPop (.ringMark hs)) ?_
  dsimp only
  split
  · rename_i he
    exact .matPop (.ringMark (.matPost (.of_grant_done he (.matRun (.macLog hs)))))
  · rename_i he
    exact .modMat (.of_grant_more he (.matRun (.macLog hs)))
  · rename_i he
    exact .matPop (.recordLate (.stepBack (.of_grant_fault he (.matRun (.macLog hs)))))

theorem Out.memOk.matrixGrant {k : Nat} {s : State} (hs : s.memOk) : Out.memOk (execMatrixGrant k s) := by
  unfold execMatrixGrant
  split
  · exact .next hs
  · exact .next (.mk (.matGrant hs))

theorem State.memOk.matReturn {s : State} {u : Nat} {k : MatCmd} {walk : Option Walk} (hs : s.memOk) : (s.matReturn u k walk).memOk := by
  unfold State.matReturn
  refine .modCtx (.ringMark ?_)
  split
  · exact .walkBack hs
  · exact .stepBack hs

theorem State.memOk.matStop {s : State} {u lid : Nat} (hs : s.memOk) : (s.matStop u lid).memOk := by
  unfold State.matStop
  dsimp only
  split
  · exact hs
  · exact .modMat (.foldl (fun _ _ ht => .matReturn ht) (.ite (.matReturn hs) hs))

theorem Out.memOk.matPush {s : State} {instr : Instr} {k : Bool} {a b : Reg} (hs : s.memOk) : Out.memOk (s.matPush instr k a b) :=
  .profile (.copWord (fun _ ht => .pushTo (fun _ ht1 => .advance (.modMat (.tick (.dispatch ht1)))) ht) hs) hs

/-! ## The operations of Machine/Array.lean -/

theorem State.memOk.setRow {s : State} {sl array row : Nat} {v : BitVec 512} (hs : s.memOk) : (s.setRow sl array row v).memOk := by
  unfold State.setRow
  generalize s.rowTile sl array row * 4096 = tile
  dsimp only
  generalize bytesOfNat 64 v.toNat = bs
  have h1 : (s.markWrite tile 4096).memOk := .markWrite hs
  exact Memory.wf_writeBytes _ _ h1

theorem State.memOk.setCols {s : State} {sl array row : Nat} {mask v : BitVec 512} (hs : s.memOk) : (s.setCols sl array row mask v).memOk :=
  .ite hs (.setRow hs)

theorem State.memOk.setLatch {s : State} {sl array : Nat} {l : Latch} (hs : s.memOk) : (s.setLatch sl array l).memOk := .modSlice hs

theorem State.memOk.rowApply {s : State} {sl array : Nat} {x : Ctx} {i : Instr} (hs : s.memOk) : (s.rowApply sl array x i).memOk := by
  unfold State.rowApply
  dsimp only
  split
  · refine .setLatch ?_
    split
    · refine .setLatch ?_
      split
      · exact .setCols hs
      · exact hs
    · split
      · exact .setCols hs
      · exact hs
  · split
    · refine .setLatch ?_
      split
      · exact .setCols hs
      · exact hs
    · split
      · exact .setCols hs
      · exact hs

theorem State.memOk.arowRun {s : State} {sl : Nat} {x0 : Ctx} {i : Instr} {t : State} (hf : s.arowRun sl x0 i = .done t) (hs : s.memOk) :
    t.memOk := by
  unfold State.arowRun at hf
  dsimp only at hf
  split at hf
  · cases hf
  · cases hf
    exact .foldl (fun _ _ ht => .rowApply ht) hs

theorem State.memOk.macroApply {s : State} {sl array : Nat} {x : Ctx} {op : MacroOp} {w rd ra rb : Nat} (hs : s.memOk) :
    (s.macroApply sl array x op w rd ra rb).memOk := .setLatch (.foldl (fun _ _ ht => .setCols ht) hs)

theorem State.memOk.amacroRun {s : State} {sl : Nat} {x0 : Ctx} {op : MacroOp} {w : Nat} {opa : Word} {t : State}
    (hf : s.amacroRun sl x0 op w opa = .done t) (hs : s.memOk) : t.memOk := by
  unfold State.amacroRun at hf
  dsimp only at hf
  split at hf
  · cases hf
    exact hs
  · split at hf
    · cases hf
    · split at hf
      · cases hf
      · cases hf
        exact .foldl (fun _ _ ht => .macroApply ht) hs

theorem State.memOk.moveRun {s : State} {u sl : Nat} {x0 : Ctx} {load : Bool} {opa opb : Word} {lo hi : Nat} {t : State}
    (hf : s.moveRun u sl x0 load opa opb lo hi = .done t) (hs : s.memOk) : t.memOk := by
  unfold State.moveRun at hf
  split at hf
  · cases hf
  · dsimp only at hf
    split at hf
    · cases hf
    · split at hf
      · split at hf
        · cases hf
        · split at hf
          · cases hf
            exact .setLatch (.foldl (fun _ _ ht => .setRow ht) hs)
          · cases hf
            exact .foldl (fun _ _ ht => .foldl (fun _ _ ht1 => .setRow ht1) ht) hs
      · split at hf
        · cases hf
          exact .foldl (fun _ _ ht => .setLocal ht) hs
        · cases hf
          exact .setLocal hs

theorem State.memOk.dotApply {s : State} {sl array : Nat} (hs : s.memOk) : (s.dotApply sl array).memOk := .modSlice hs

theorem State.memOk.aoutRun {s : State} {u c sl : Nat} {ve : Bool} {vd : VReg} {spec : Word} {t : State}
    (hf : s.aoutRun u c sl ve vd spec = .done t) (hs : s.memOk) : t.memOk := by
  unfold State.aoutRun at hf
  dsimp only at hf
  split at hf
  · cases hf
  · cases hf
    exact .setV hs

theorem State.memOk.plcfgRun {s : State} {sl m : Nat} {w : Word} (hs : s.memOk) : (s.plcfgRun sl m w).memOk := .ite hs (.modSlice hs)

theorem State.memOk.arrayRun {s : State} {sl : Nat} {k : ArrayCmd} {upTo : Nat} {t : State} (hf : s.arrayRun sl k upTo = .done t)
    (hs : s.memOk) : t.memOk := by
  unfold State.arrayRun at hf
  dsimp only at hf
  split at hf
  · exact .amacroRun hf hs
  · split at hf
    · split at hf
      · cases hf
      · cases hf
        exact .modCtx hs
    · split at hf
      · cases hf
      · cases hf
        exact .modCtx hs
    · split at hf
      · cases hf
      · cases hf
        exact .modCtx hs
    · exact .moveRun hf hs
    · exact .moveRun hf hs
    · cases hf
      exact .foldl (fun _ _ ht => .dotApply ht) hs
    · split at hf
      · cases hf
        exact .modSlice hs
      · cases hf
    · exact .aoutRun hf hs
    · cases hf
      exact .plcfgRun hs
    · exact .arowRun hf hs

theorem State.memOk.rowLog {s : State} {sl : Nat} {k : ArrayCmd} {n : Nat} (hs : s.memOk) : (s.rowLog sl k n).memOk :=
  .ite hs
  (.ite (.foldl (fun _ _ ht => .logCorrected ht) (.foldl (fun _ _ ht => .ite (.logErr ht) ht) hs)) (.foldl (fun _ _ ht => .ite (.logErr ht)
  ht) hs))

theorem State.memOk.halfRun {s : State} {sl : Nat} {k : ArrayCmd} {op : MacroOp} {w : Nat} {h : HalfMacro} (hs : s.memOk) :
    (s.halfRun sl k op w h).memOk :=
  .modSlice (.foldl (fun _ _ ht => .useFree (.useFree (.setLatch (.foldl (fun _ _ ht1 => .useFree (.setCols ht1)) ht)))) hs)

theorem State.memOk.halfEnd {s : State} {sl : Nat} {h : HalfMacro} (hs : s.memOk) : (s.halfEnd sl h).memOk :=
  .modSlice (.foldl (fun _ _ ht => .setLatch (.foldl (fun _ _ ht1 => .ite (.setCols ht1) (.useFree (.setCols ht1))) ht)) hs)

theorem State.memOk.rowsStood {s whole : State} {sl : Nat} {k : ArrayCmd} {n : Nat} (hs : s.memOk) : (s.rowsStood whole sl k n).memOk := by
  unfold State.rowsStood
  refine .ite hs ?_
  split
  · exact .halfRun hs
  · split
    · rename_i he1
      exact .arrayRun he1 hs
    · exact hs

theorem State.memOk.arrayWhole {s : State} {sl : Nat} {k : ArrayCmd} {t : State} (hf : s.arrayWhole sl k = .done t) (hs : s.memOk) :
    t.memOk := by
  unfold State.arrayWhole at hf
  split at hf
  · exact .arrayRun hf hs
  · split at hf
    · cases hf
      exact .halfEnd hs
    · cases hf

theorem State.memOk.arrayStep {s : State} {sl : Nat} {k : ArrayCmd} (hs : s.memOk) : (s.arrayStep sl k).memOk := by
  unfold State.arrayStep
  refine .ite (.ringMark hs) ?_
  split
  · rename_i he
    split
    · exact .recordLate (.useFree (.rowLog (.rowsStood hs)))
    · exact .ite (.ringMark (.rowLog (.arrayWhole he hs))) (.arrayWhole he hs)
  · exact .recordLate hs

theorem Out.memOk.arrayExecute {sl : Nat} {s : State} (hs : s.memOk) : Out.memOk (execArrayExecute sl s) := by
  unfold execArrayExecute
  split
  · exact .next hs
  · exact .next (.arrayStep (.modSlice hs))

theorem State.memOk.haltCommand {s : State} {sl : Nat} {k : ArrayCmd} {touched : List Nat} {n : Nat} (hs : s.memOk) :
    (s.haltCommand sl k touched n).memOk := .modSlice (.modCtx (.ringMark hs))

theorem Out.memOk.arrayHalt {sl lid : Nat} {s : State} (hs : s.memOk) : Out.memOk (execArrayHalt sl lid s) := by
  unfold execArrayHalt
  refine .next (.foldl (fun _ _ ht => .useFree (.haltCommand ?_)) hs)
  split
  · exact .rowsStood ht
  · exact ht

theorem State.memOk.accept {s : State} {sl : Nat} {k : ArrayCmd} (hs : s.memOk) : (s.accept sl k).memOk :=
  .ite (.arrayStep (.modSlice (.modSlice hs))) (.modSlice hs)

theorem Out.memOk.arrayPush {s : State} {instr : Instr} {opnds : State → Word × Word} (hs : s.memOk) : Out.memOk
    (s.arrayPush instr opnds) :=
  .profile (.copWord (fun _ ht => .pushTo (fun _ ht1 => .advance (.accept (.drain (.tick (.dispatch ht1))))) ht) hs) hs

/-! ## The operations of Machine/Atomics.lean -/

theorem State.memOk.amoDefer {s : State} {d : Option Reg} {src : DefSrc} (hs : s.memOk) : (s.amoDefer d src).memOk := by
  unfold State.amoDefer
  split
  · exact .defer hs
  · exact .tick hs

theorem Out.memOk.amoQueued {s : State} {d : Option Reg} {act : Out} (hact : Out.memOk act) (hs : s.memOk) :
    Out.memOk (s.amoQueued d act) := by
  unfold State.amoQueued
  split
  · exact hact
  · exact .queued hact hs

theorem Out.memOk.ownAtomic {s : State} {d : Option Reg} {ea : Word} {off : Nat} {window : Bool} {op : AmoOp} {dbl : Bool} {v e : Word}
    {acq rel : Bool} (hs : s.memOk) : Out.memOk (s.ownAtomic d ea off window op dbl v e acq rel) := by
  unfold State.ownAtomic
  exact .ownAccess (fun _ ht => .amoQueued (.done (.post (.amoDefer ht))) ht)
    (fun _ ht => .ite (.trap hs) (.ite (.done (.faultNow (.amoDefer ht))) (.ite (.done (.faultNow (.amoDefer ht))) (.ite (.done (.amoDefer
    (.recordOor ht))) (.done (.ite (.acquire (.amoDefer (.atomicAt rfl ht))) (.amoDefer (.atomicAt rfl ht)))))))) hs

theorem Out.memOk.amoEa {s : State} {d : Option Reg} {ea : Word} {op : AmoOp} {dbl : Bool} {v e : Word} {acq rel : Bool} (hs : s.memOk) :
    Out.memOk (s.amoEa d ea op dbl v e acq rel) := by
  unfold State.amoEa
  split
  · exact .trap hs
  · rename_i he
    exact .ownAtomic (.checkEa he hs)
  · rename_i he
    exact .ite (.trap hs) (.amoQueued (.done (.post (.amoDefer (.checkEa he hs)))) (.checkEa he hs))

theorem Out.memOk.amo {s : State} {op : AmoOp} {dbl : Bool} {ord : Ord4} {d a b : Reg} (hs : s.memOk) :
    Out.memOk (s.amo op dbl ord d a b) := .amoEa hs

theorem Out.memOk.amoNr {s : State} {op : AmoOp} {dbl rl : Bool} {a b : Reg} (hs : s.memOk) : Out.memOk (s.amoNr op dbl rl a b) := .amoEa hs

theorem Out.memOk.amerge {s : State} {fp dbl : Bool} {k a b : Reg} (hs : s.memOk) : Out.memOk (s.amerge fp dbl k a b) := by
  unfold State.amerge
  dsimp only
  split
  · exact .trap hs
  · exact .trap hs
  · rename_i he
    exact .ite (.queued (.done (.post (.tick (.checkEa he hs)))) (.checkEa he hs)) (.trap hs)

theorem Out.memOk.mergeRetry {r : Req} {s : State} (hs : s.memOk) : Out.memOk (execMergeRetry r s) := by
  unfold execMergeRetry
  split
  · exact .ite (.next (.ite hs (.perform (.modCtx hs)))) (.next hs)
  · exact .next hs

/-! ## The operations of Machine/Msg.lean -/

theorem State.memOk.checkRemote {s : State} {ra : Word} {n : Nat} {load farOnly : Bool} {t : State} {x}
    (hf : s.checkRemote ra n load farOnly = .ok (t, x)) (hs : s.memOk) : t.memOk := by
  unfold State.checkRemote at hf
  split at hf
  · cases hf
  · split at hf
    · cases hf
    · rename_i he
      split at hf
      · cases hf
        exact .translate he hs
      · cases hf

theorem Out.memOk.message {s : State} {spec : Option Word} {ra : Word} {load farOnly : Bool} {act : State → Nat → State}
    (hact : ∀ t y2, t.memOk → (act t y2).memOk) (hs : s.memOk) : Out.memOk (s.message spec ra load farOnly act) := by
  unfold State.message
  refine .ite (.trap hs) (.ite (.trap hs) ?_)
  split
  · exact .trap hs
  · rename_i he
    exact .ite (.done (hact _ _ (.checkRemote he hs)))
      (.queued (.ite (.next (.hold (.checkRemote he hs))) (.done (hact _ _ (.checkRemote he hs)))) (.checkRemote he hs))

theorem Out.memOk.put {a b : Reg} {s : State} (hs : s.memOk) : Out.memOk (execPut a b s) := by
  unfold execPut
  exact .message (fun _ _ ht => .post (.tick ht)) hs

theorem Out.memOk.putc {d a b : Reg} {s : State} (hs : s.memOk) : Out.memOk (execPutc d a b s) := by
  unfold execPutc
  exact .message (fun _ _ ht => .post (.tick ht)) hs

theorem Out.memOk.get {d a b : Reg} {s : State} (hs : s.memOk) : Out.memOk (execGet d a b s) := by
  unfold execGet
  exact .message (fun _ _ ht => .post (.defer ht)) hs

theorem Out.memOk.farOnly {s : State} {act : Out} (hact : Out.memOk act) (hs : s.memOk) : Out.memOk (s.farOnly act) := .profile hact hs

theorem Out.memOk.waitOn {s : State} {w : Wait} (hs : s.memOk) : Out.memOk (s.waitOn w) := .next (.modC hs)

theorem Out.memOk.send {d a b : Reg} {s : State} (hs : s.memOk) : Out.memOk (execSend d a b s) := by
  unfold execSend
  exact .message (fun _ _ ht => .post (.tick ht)) hs

theorem Out.memOk.counterIncrement {core : Nat} {cnt : BitVec 8} {amount : Word} {s : State} (hs : s.memOk) :
    Out.memOk (execCounterIncrement core cnt amount s) := by
  unfold execCounterIncrement
  split
  · exact .performEvent hs
  · exact .next hs

/-! ## The operations of Machine/Repeat.lean -/

theorem State.memOk.helperAbsent {s : State} {u c : Nat} {pc : Word} (hs : s.memOk) : (s.helperAbsent u c pc).memOk := .parkNow (.modCtx hs)

theorem State.memOk.codeAbsent {s : State} {pc : Word} (hs : s.memOk) : (s.codeAbsent pc).memOk := .ite (.trapAt hs) (.helperAbsent hs)

theorem State.memOk.putReplay {s : State} {u : Nat} {r : Replay} (hs : s.memOk) : (s.putReplay u r).memOk := .modUnit hs

theorem Out.memOk.rpt {count : BitVec 8} {len stride : BitVec 4} {s : State} (hs : s.memOk) : Out.memOk (execRpt count len stride s) := by
  unfold execRpt
  refine .profile (.copWord (fun _ ht => ?_) hs) hs
  dsimp only
  split
  · exact .codeAbsent ht
  · exact .trapAt ht
  · exact .advance (.ite (.dropReplay ht) (.putReplay ht))

theorem State.memOk.replayWord {s : State} {u : Nat} {r : Replay} {w : RWord} (hs : s.memOk) : (s.replayWord u r w).memOk :=
  .modUnit (.tick (.dispatch hs))

theorem State.memOk.replayPass {s : State} {u : Nat} {r : Replay} {n : Nat} {t : State} {x} (hf : s.replayPass u r n = (t, x))
    (hs : s.memOk) : t.memOk := by
  induction n generalizing s u r t x with
  | zero =>
    unfold State.replayPass at hf
    cases hf
    exact hs
  | succ n ih =>
    unfold State.replayPass at hf
    split at hf
    · cases hf
      exact hs
    · split at hf
      · cases hf
        exact hs
      · exact ih hf (.replayWord hs)

theorem Out.memOk.replayPass {u : Nat} {s : State} (hs : s.memOk) : Out.memOk (execReplayPass u s) := by
  unfold execReplayPass
  split
  · exact .next hs
  · exact .next (.ite (.dropReplay (.replayPass rfl hs)) (.putReplay (.replayPass rfl hs)))

theorem Out.memOk.vectorExecute {u : Nat} {s : State} (hs : s.memOk) : Out.memOk (execVectorExecute u s) := by
  unfold execVectorExecute
  split
  · exact .next hs
  · exact .ite (.next (.vrun (.modUnit hs))) (.next hs)

theorem State.memOk.acceptAgain {s : State} {sl : Nat} {old : BitVec 16} {k : ArrayCmd} (hs : s.memOk) : (s.acceptAgain sl old k).memOk :=
  .modSlice hs

theorem State.memOk.redoEntry {s : State} {u c : Nat} {e : DEntry} (hs : s.memOk) : (s.redoEntry u c e).memOk := by
  unfold State.redoEntry
  split
  · exact hs
  · refine .ite (.modUnit ?_) (.ite (.modMat (.tick (.dispatch hs))) (.acceptAgain (.tick (.dispatch hs))))
    split
    · exact .defer (.dispatch hs)
    · exact .tick (.dispatch hs)

theorem State.memOk.redoEntries {s : State} {u c : Nat} {l : List DEntry} {t : State} {x} (hf : s.redoEntries u c l = (t, x))
    (hs : s.memOk) : t.memOk := by
  induction l generalizing s u c t x with
  | nil =>
    unfold State.redoEntries at hf
    cases hf
    exact hs
  | cons y l ih =>
    unfold State.redoEntries at hf
    split at hf
    · cases hf
      exact hs
    · exact ih hf (.redoEntry hs)

theorem State.memOk.clearRv {s : State} {u c : Nat} (hs : s.memOk) : (s.clearRv u c).memOk := .modCtx hs

theorem State.memOk.resumeReplay {s : State} {u c : Nat} (hs : s.memOk) : (s.resumeReplay u c).memOk := by
  unfold State.resumeReplay
  refine .ite hs (.ite (.clearRv hs) ?_)
  dsimp only
  split
  · exact .codeAbsent (.mk (.modUnit hs))
  · split
    · split
      · exact .clearRv (.putReplay hs)
      · exact .clearRv hs
    · exact .clearRv hs

/-! ## The operations of Machine/Registers.lean -/

theorem State.memOk.readClears {s : State} {r : Nat} (hs : s.memOk) : (s.readClears r).memOk := by
  unfold State.readClears
  split
  · exact .modU hs
  · exact .modU hs
  · exact .modU hs
  · exact hs

theorem State.memOk.sysRead {s : State} {r : Nat} {t : State} {x} (hf : s.sysRead r = (t, x)) (hs : s.memOk) : t.memOk := by
  unfold State.sysRead at hf
  split at hf
  · cases hf
    exact .useFree hs
  · cases hf
    exact .readClears hs

theorem State.memOk.moveRing {s : State} {frb : Word} {cap : BitVec 8} {t : State} {x} (hf : s.moveRing frb cap = (t, x)) (hs : s.memOk) :
    t.memOk := by
  unfold State.moveRing at hf
  split at hf
  · rename_i he
    cases hf
    exact .spillTo he hs
  · rename_i he
    cases hf
    exact .modC (.spillTo he hs)

theorem State.memOk.andThen {r : Seq} {f : State → Seq} {t : State} {x} (hf : r.andThen f = (t, x))
    (hact : ∀ s0 t0 x0, s0.memOk → f s0 = (t0, x0) → t0.memOk) (hr : r.1.memOk) : t.memOk := by
  obtain ⟨s, e | e⟩ := r
  · exact hact _ _ _ hr hf
  · cases hf
    exact hr

theorem State.memOk.frsWrite {s : State} {v : Word} {t : State} {x} (hf : s.frsWrite v = (t, x)) (hs : s.memOk) : t.memOk := by
  unfold State.frsWrite at hf
  dsimp only at hf
  split at hf
  · cases hf
    exact hs
  · refine .andThen hf (fun _ _ _ h2 he => .andThen he (fun _ _ _ h3 he => .fillTo he h3) (.spillTo rfl h2)) ?_
    split
    · exact .modC hs
    · exact .moveRing rfl (.modC hs)

theorem State.memOk.frbWrite {s : State} {v : Word} {t : State} {x} (hf : s.frbWrite v = (t, x)) (hs : s.memOk) : t.memOk := by
  unfold State.frbWrite at hf
  split at hf
  · cases hf
    exact hs
  · split at hf
    · cases hf
      exact hs
    · exact .moveRing hf hs

theorem State.memOk.wpWrite {s : State} {v : Word} {t : State} {x} (hf : s.wpWrite v = (t, x)) (hs : s.memOk) : t.memOk := by
  unfold State.wpWrite at hf
  split at hf
  · cases hf
    exact .modC hs
  · cases hf
    exact hs

theorem State.memOk.putDrply {s : State} {v : Word} (hs : s.memOk) : (s.putDrply v).memOk := by
  unfold State.putDrply
  dsimp only
  split
  · exact .ite (.modC hs) (.modSlice (.modC hs))
  · exact .modC hs

theorem State.memOk.putMsgctl {s : State} {v : Word} (hs : s.memOk) : (s.putMsgctl v).memOk :=
  .ite (.modU (.ite (.clearCounters hs) hs)) (.ite (.clearCounters hs) hs)

theorem State.memOk.putTrctl {s : State} {v : Word} (hs : s.memOk) : (s.putTrctl v).memOk := by
  unfold State.putTrctl
  split
  · exact hs
  · exact .modHome hs

theorem State.memOk.putTrbase {s : State} {v : Word} (hs : s.memOk) : (s.putTrbase v).memOk := by
  unfold State.putTrbase
  split
  · exact hs
  · exact .modHome hs

theorem State.memOk.putSrw {s : State} {r : Nat} {v : Word} (hs : s.memOk) : (s.putSrw r v).memOk := by
  unfold State.putSrw
  split
  · exact .modC hs
  · exact .modC hs
  · exact .modC hs
  · exact .modC hs
  · exact .modC hs
  · exact .modC hs
  · exact .stopAfter (.modC hs)
  · exact .modC hs
  · exact .modC hs
  · exact .modC hs
  · exact .putDrply hs
  · exact .modC hs
  · exact .modU hs
  · exact .modU hs
  · exact .putMsgctl hs
  · exact .ite (.modU hs) hs
  · exact .ite (.modSlice hs) hs
  · exact .modU hs
  · exact .putTrbase hs
  · exact .modU hs
  · exact hs

theorem State.memOk.putMrw {s : State} {r : Nat} {v : Word} (hs : s.memOk) : (s.putMrw r v).memOk := by
  unfold State.putMrw
  split
  · exact .modU hs
  · exact .modU hs
  · exact hs

theorem State.memOk.putAny {s : State} {r : Nat} {v : Word} (hs : s.memOk) : (s.putAny r v).memOk := by
  unfold State.putAny
  split
  · exact .modC hs
  · exact .modC hs
  · exact .putTrctl hs
  · exact hs

theorem State.memOk.sysWrite {s : State} {r : Nat} {v : Word} (hs : s.memOk) : (s.sysWrite r v).memOk :=
  .ite (.putSrw (.putMrw (.putAny hs))) (.putMrw (.putAny hs))

theorem State.memOk.plcfgWrite {s : State} {a : Reg} {r : BitVec 12} {v : Word} (hs : s.memOk) : (s.plcfgWrite a r v).memOk :=
  .accept (.tick hs)

theorem State.memOk.enterNearNow {s : State} {p lid : Nat} (hs : s.memOk) : (s.enterNearNow p lid).memOk := .modNear hs

theorem State.memOk.nmctlWrite {s : State} {v : Word} (hs : s.memOk) : (s.nmctlWrite v).memOk := by
  unfold State.nmctlWrite
  dsimp only
  split
  · exact .ite (.modNear hs) (.modNear hs)
  · exact .ite (.modNear hs) (.modNear hs)
  · exact .ite (.ite (.enterNearNow (.modNear hs)) (.modNear (.modNear hs))) (.modNear hs)
  · exact .ite (.modNear (.modNear hs)) (.modNear hs)
  · exact .modNear hs

theorem State.memOk.nmctlWord {s : State} {v : Word} (hs : s.memOk) : (s.nmctlWord v).memOk :=
  .ite (.hold hs) (.ite (.hold (.nmctlWrite hs)) (.advance (.nmctlWrite hs)))

theorem Out.memOk.parkedWrite {s : State} {waits : State → Bool} {act : State → Seq} (hact : ∀ t, t.memOk → (act t).1.memOk)
    (hs : s.memOk) : Out.memOk (s.parkedWrite waits act) :=
  .next (.parkFirst (fun _ ht => .ite (.advance ht) (.ite (.waitFirst ht) (.seqThenOf (fun _ ht1 => .advance ht1) (hact _ ht)))) hs)

theorem Out.memOk.twbWrite {s : State} {v : Word} (hs : s.memOk) : Out.memOk (s.twbWrite v) :=
  .ite (.done hs) (.ite (.trap hs) (.done (.modC hs)))

theorem Out.memOk.wrsr {a : Reg} {r : BitVec 12} {s : State} (hs : s.memOk) : Out.memOk (execWrsr a r s) := by
  unfold execWrsr
  dsimp only
  generalize r.toNat = n
  split
  · exact .parkedWrite (fun _ ht => .wpWrite Prod.mk.eta.symm ht) hs
  · exact .parkedWrite (fun _ ht => .frbWrite Prod.mk.eta.symm ht) hs
  · exact .parkedWrite (fun _ ht => .frsWrite Prod.mk.eta.symm ht) hs
  · exact .parkedWrite (fun _ ht => .putSrw ht) hs
  · exact .twbWrite hs
  · exact .ite (.next (.nmctlWord hs)) (.done hs)
  · exact .ite (.next (.pushTo (fun _ ht => .advance (.plcfgWrite ht)) hs)) (.done hs)
  · exact .ite (.next (.hold hs)) (.done (.sysWrite hs))

theorem Out.memOk.ringEvent {s : State} {waits : Bool} {r : Seq} (hr : r.1.memOk) (hs : s.memOk) : Out.memOk (s.ringEvent waits r) :=
  .next (.ite hs (.seqThenOf (fun _ ht => ht) hr))

theorem Out.memOk.nmctlEvent {s : State} {v : Word} (hs : s.memOk) : Out.memOk (s.nmctlEvent v) := .ite (.next (.nmctlWrite hs)) (.next hs)

theorem Out.memOk.enterNear {u : Nat} {s : State} (hs : s.memOk) : Out.memOk (execEnterNear u s) := by
  unfold execEnterNear
  dsimp only
  split
  · exact .ite (.next (.enterNearNow hs)) (.next hs)
  · exact .next hs

/-! ## The operations of Machine/System.lean -/

theorem State.memOk.returnTo {s : State} {u c : Nat} {pc w : Word} (hs : s.memOk) : (s.returnTo u c pc w).memOk := .modCtx hs

theorem State.memOk.eretFrom {s : State} (hs : s.memOk) : s.eretFrom.memOk := by
  unfold State.eretFrom
  refine .ite (.trapAt hs) ?_
  dsimp only
  split
  · exact .trapAt hs
  · exact .ite (.stopAfter (.returnTo hs)) (.trapAt hs)

theorem State.memOk.tlbInvalidateUnit {s : State} {u : Nat} {va ctl : Word} (hs : s.memOk) : (s.tlbInvalidateUnit u va ctl).memOk :=
  .ite (.acquire (.modUnit hs)) (.modUnit hs)

theorem State.memOk.tlbInvalidateDie {s : State} {d : Nat} {va ctl : Word} (hs : s.memOk) : (s.tlbInvalidateDie d va ctl).memOk := hs

theorem State.memOk.tlbInvalidate {s : State} {va ctl : Word} (hs : s.memOk) : (s.tlbInvalidate va ctl).memOk :=
  .foldl (fun _ _ ht => .tlbInvalidateDie ht) (.foldl (fun _ _ ht => .tlbInvalidateUnit ht) hs)

theorem State.memOk.tlbinvFrom {s : State} {va ctl : Word} (hs : s.memOk) : (s.tlbinvFrom va ctl).memOk :=
  .ite (.trapAt hs) (.ite (.trapAt hs) (.ite (.waitFirst hs) (.ite (.waitFor (.tlbInvalidate hs)) (.advance (.tlbInvalidate hs)))))

theorem State.memOk.advanceAt {s : State} {u id : Nat} (hs : s.memOk) : (s.advanceAt u id).memOk := by
  unfold State.advanceAt
  split
  · exact hs
  · exact .ite (.mk (.foldl (fun _ _ ht => .newestGen ht) hs))
      (.ite (.mk (.answer (.modUnit (.foldl (fun _ _ ht => .newestGen ht) hs)))) (.mk (.modUnit (.foldl (fun _ _ ht => .newestGen ht) hs))))

theorem State.memOk.genadvFrom {s : State} {d : Reg} {w : Word} (hs : s.memOk) : (s.genadvFrom d w).memOk :=
  .ite (.trapAt hs) (.advance (.foldl (fun _ _ ht => .advanceAt ht) (.mk (.defer hs))))

theorem State.memOk.setFloor {s : State} {asid : Nat} {v : BitVec 16} (hs : s.memOk) : (s.setFloor asid v).memOk := hs

theorem State.memOk.floorFrom {s : State} {a b : Word} (hs : s.memOk) : (s.floorFrom a b).memOk :=
  .ite (.trapAt hs) (.advance (.setFloor hs))

theorem State.memOk.reseal {s : State} {u n : Nat} (hs : s.memOk) : (s.reseal u n).memOk := .writeSeal hs

theorem State.memOk.saveUnit {s0 : State} {u lid : Nat} (hs : s0.memOk) : (s0.saveUnit u lid).memOk := by
  unfold State.saveUnit
  dsimp only
  split
  · exact .modNear (.modUnit (.setPhysBytes (.mk (.matStop hs))))
  · exact .modUnit (.setPhysBytes (.mk (.matStop hs)))

theorem State.memOk.restoreUnit {s : State} {u : Nat} {x : UnitSave} (hs : s.memOk) : (s.restoreUnit u x).memOk := by
  unfold State.restoreUnit
  dsimp only
  split
  · exact .modSlice (.foldl (fun _ _ ht => .modCtx ht) (.foldl (fun _ _ ht => .modCtx ht) (.modUnit hs)))
  · exact .modNear (.foldl (fun _ _ ht => .modCtx ht) (.foldl (fun _ _ ht => .modCtx ht) (.modUnit hs)))
  · exact .foldl (fun _ _ ht => .modCtx ht) (.foldl (fun _ _ ht => .modCtx ht) (.modUnit hs))

theorem State.memOk.reportRestored {s : State} {u lid : Nat} (hs : s.memOk) : (s.reportRestored u lid).memOk := .modLaunch hs

theorem State.memOk.unitFrom {s : State} {u pa : Nat} {t : State} (hf : s.unitFrom u pa = some t) (hs : s.memOk) : t.memOk := by
  unfold State.unitFrom at hf
  obtain ⟨r, hr, rfl⟩ := Option.map_eq_some_iff.1 hf
  exact .reportRestored (.restoreUnit hs)

theorem Out.memOk.cbswapUnit {a : Reg} {s : State} (hs : s.memOk) : Out.memOk (execCbswapUnit a s) := by
  unfold execCbswapUnit
  refine .privileged (.next (.parkFirst (fun _ ht => ?_) hs)) hs
  split
  · rename_i he
    exact .advance (.unitFrom he ht)
  · exact .trapAt (.endLaunchBut ht)

theorem State.memOk.stopOne {s : State} {u n : Nat} {spill : Bool} {t : State} {x} (hf : s.stopOne u n spill = (t, x)) (hs : s.memOk) :
    t.memOk := by
  unfold State.stopOne at hf
  extract_lets s1 at hf
  have h1 : s1.memOk := .modCtx (.land (.haltReplay (.cancelBlocked (.cancelPops hs))))
  clear_value s1
  refine .andThen hf (fun s0 t0 x0 h0 he => ?_) ?_
  · obtain rfl := congrArg Prod.fst he
    exact .saveCtx h0
  · split
    · exact .spillTo Prod.mk.eta.symm h1
    · exact h1

theorem State.memOk.stopEach {s : State} {u : Nat} {spill : Bool} {l : List Nat} {t : State} {x} (hf : s.stopEach u spill l = (t, x))
    (hs : s.memOk) : t.memOk := by
  induction l generalizing s t x with
  | nil =>
    cases hf
    exact hs
  | cons n rest ih =>
    unfold State.stopEach at hf
    exact .andThen hf (fun _ _ _ h0 he => ih he h0) (.stopOne rfl hs)

theorem State.memOk.ackStop {s : State} {u lid : Nat} (hs : s.memOk) : (s.ackStop u lid).memOk := by
  unfold State.ackStop
  refine .modLaunch ?_
  split
  · exact .modNear (.modUnit (.matStop hs))
  · exact .modUnit (.matStop hs)

theorem State.memOk.stopRest {s : State} {u : Nat} {w : Word} (hs : s.memOk) : (s.stopRest u w).memOk :=
  .ite (.ackStop (.ite (.saveUnit hs) hs)) (.ite (.saveUnit hs) hs)

theorem State.memOk.stopcFrom {s : State} {w : Word} (hs : s.memOk) : (s.stopcFrom w).memOk :=
  .ite (.trapAt hs)
  (.ite (.waitFirst (.foldl (fun _ _ ht => .toStop ht) hs)) (.ite (.waitFirst (.haltReplay (.foldl (fun _ _ ht => .toStop ht) hs)))
  (.seqThenOf (fun _ ht => .ite (.seqThenOf (fun _ ht1 => .rotate ht1) (.stopOne rfl (.advance (.stopRest ht)))) (.advance (.stopRest ht)))
  (.stopEach rfl (.foldl (fun _ _ ht => .toStop ht) hs)))))

/-! ## The operations of Machine/Derive.lean -/

theorem State.memOk.bindTiles {s : State} {u c : Nat} {need : Need} {l : List Nat} {t : State} {x}
    (hf : s.bindTiles u c need l = .ok (t, x)) (hs : s.memOk) : t.memOk := by
  induction l generalizing s u c need t x with
  | nil =>
    unfold State.bindTiles at hf
    cases hf
    exact hs
  | cons y l ih =>
    unfold State.bindTiles at hf
    dsimp only at hf
    split at hf
    · cases hf
    · split at hf
      · cases hf
      · rename_i he
        obtain ⟨r, hr, ⟨⟩⟩ := exists_of_map_eq_ok hf
        exact ih hr (.translate he hs)

theorem State.memOk.register {s : State} {r : Rule} (hs : s.memOk) : (s.register r).memOk := .foldl (fun _ _ ht => .markFrom ht) hs

theorem State.memOk.bindRule {s : State} {u c : Nat} {r : Rule} {t : State} {x} (hf : s.bindRule u c r = .ok (t, x)) (hs : s.memOk) :
    t.memOk := by
  unfold State.bindRule at hf
  split at hf
  · cases hf
  · rename_i he
    obtain ⟨r1, hr, ⟨⟩⟩ := exists_of_map_eq_ok hf
    exact .bindTiles hr (.bindTiles he hs)

theorem State.memOk.dregFrom {s : State} {w : Word} (hs : s.memOk) : (s.dregFrom w).memOk := by
  unfold State.dregFrom
  refine .ite (.trapAt hs) (.ite (.holdFirst hs) ?_)
  split
  · exact .trapAt hs
  · split
    · exact .trapAt hs
    · rename_i he1
      split
      · exact .trapAt (.bindRule he1 hs)
      · exact .advance (.register (.bindRule he1 hs))

theorem State.memOk.unregister {s : State} {r : Rule} {flush : Bool} (hs : s.memOk) : (s.unregister r flush).memOk :=
  .mk (.ite (.foldl (fun _ _ ht => .freshenTile ht) hs) hs)

theorem State.memOk.dunregFrom {s : State} {flush : Bool} {w : Word} (hs : s.memOk) : (s.dunregFrom flush w).memOk := by
  unfold State.dunregFrom
  split
  · exact .trapAt hs
  · exact .ite (.holdFirst hs) (.advance (.unregister hs))

theorem Out.memOk.dstat {d a : Reg} {s : State} (hs : s.memOk) : Out.memOk (execDstat d a s) := by
  unfold execDstat
  split
  · exact .trap hs
  · rename_i he
    exact .done (.deferG (.checkEa he hs))
  · rename_i he
    split <;> exact .done (.deferG (.checkEa he hs))

theorem State.memOk.checkTiles {s : State} {u c lo n : Nat} {t : State} (hf : s.checkTiles u c lo n = .ok t) (hs : s.memOk) : t.memOk := by
  induction n generalizing s u c lo t with
  | zero =>
    unfold State.checkTiles at hf
    cases hf
    exact hs
  | succ n ih =>
    unfold State.checkTiles at hf
    split at hf
    · cases hf
    · rename_i he
      exact ih hf (.checkEa he hs)

theorem Out.memOk.dfresh {a b : Reg} {s : State} (hs : s.memOk) : Out.memOk (execDfresh a b s) := by
  unfold execDfresh
  refine .ite (.done hs) (.ite (.trap hs) ?_)
  split
  · exact .trap hs
  · rename_i he
    exact .waitOn (.checkTiles he hs)

/-! ## The operations of Machine/Tasking.lean -/

theorem State.memOk.anchorEnd {s : State} {va : Word} {t : State} {x} (hf : s.anchorEnd va = .ok (t, x)) (hs : s.memOk) : t.memOk := by
  unfold State.anchorEnd at hf
  split at hf
  · cases hf
  · split at hf
    · cases hf
      exact hs
    · split at hf
      · cases hf
      · rename_i he
        cases hf
        exact .translate he hs

theorem State.memOk.enqueueCheck {s : State} {w : Word} {t : State} {x} (hf : s.enqueueCheck w = .ok (t, x)) (hs : s.memOk) : t.memOk := by
  unfold State.enqueueCheck at hf
  split at hf
  · cases hf
  · dsimp only at hf
    split at hf
    · cases hf
    · split at hf
      · cases hf
      · rename_i he
        split at hf
        · cases hf
        · rename_i he1
          split at hf
          · cases hf
            exact .anchorEnd he1 (.anchorEnd he hs)
          · cases hf

theorem Out.memOk.tkenq {a b : Reg} {s : State} (hs : s.memOk) : Out.memOk (execTkenq a b s) := by
  unfold execTkenq
  refine .reading ?_ hs
  split
  · exact .trap hs
  · rename_i he
    exact .ite (.trap hs) (.waitOn (.enqueueCheck he hs))

theorem Out.memOk.tkenqn {d a b : Reg} {s : State} (hs : s.memOk) : Out.memOk (execTkenqn d a b s) := by
  unfold execTkenqn
  refine .reading ?_ hs
  split
  · exact .trap hs
  · rename_i he
    exact .done (.post (.defer (.enqueueCheck he hs)))

theorem Out.memOk.sendDeferred {s : State} {d : Reg} {p : Posted} (hs : s.memOk) : Out.memOk (s.sendDeferred d p) :=
  .done (.sendOut (.defer hs))

theorem State.memOk.startVoter {s : State} {l : Launch} {u : Nat} (hs : s.memOk) : (s.startVoter l u).memOk :=
  .ite (.modCtx hs) (.ite (.setLocal (.modUnit (.modUnit (.useFree hs)))) (.modUnit (.useFree hs)))

theorem State.memOk.joinVoters {s : State} {h lid : Nat} (hs : s.memOk) : (s.joinVoters h lid).memOk := by
  unfold State.joinVoters
  split
  · exact .ite (.startVoter hs) hs
  · exact hs

theorem State.memOk.leaveVoters {s : State} {h lid : Nat} (hs : s.memOk) : (s.leaveVoters h lid).memOk := .ite hs (.mk (.modLaunch hs))

theorem State.memOk.configureAt {s : State} {h q : Nat} {w0 w1 w2 w3 : Word} {t : State} {x} (hf : s.configureAt h q w0 w1 w2 w3 = (t, x))
    (hs : s.memOk) : t.memOk := by
  unfold State.configureAt at hf
  dsimp only at hf
  split at hf
  · cases hf
    exact hs
  · split at hf
    · cases hf
      exact hs
    · cases hf
      exact .failRetired (.joinVoters (.leaveVoters (.putQueue (.ite (.beaconSend hs) hs))))

theorem State.memOk.closeLap {s : State} {l : Launch} (hs : s.memOk) : (s.closeLap l).memOk :=
  .ite (.endLaunch (.modLaunch (.foldl (fun _ _ ht => .modUnit ht) (.drainMerges hs))))
  (.modLaunch (.foldl (fun _ _ ht => .modUnit ht) (.drainMerges hs)))

theorem Out.memOk.enqueueRetry {u c : Nat} {s : State} (hs : s.memOk) : Out.memOk (execEnqueueRetry u c s) := by
  unfold execEnqueueRetry
  dsimp only
  split
  · refine .ite ?_ (.next hs)
    split
    · rename_i he1
      exact .next (.passWait (.waitDone he1 hs))
    · exact .next hs
  · exact .next hs

theorem Out.memOk.popDecide {u c : Nat} {bind : Word} {id : Nat} {s : State} (hs : s.memOk) : Out.memOk (execPopDecide u c bind id s) := by
  unfold execPopDecide
  split
  · exact .next hs
  · rename_i he
    exact .next (.answer (.popAt rfl (.takeSent he hs)))

theorem Out.memOk.stealDecide {u c : Nat} {sel bind : Word} {id : Nat} {s : State} (hs : s.memOk) :
    Out.memOk (execStealDecide u c sel bind id s) := by
  unfold execStealDecide
  split
  · exact .next hs
  · rename_i he
    exact .next (.answer (.steal rfl (.takeSent he hs)))

theorem Out.memOk.taskComplete {home q : Nat} {ticket : Word32} {s : State} (hs : s.memOk) :
    Out.memOk (execTaskComplete home q ticket s) := by
  unfold execTaskComplete
  split
  · exact .next hs
  · rename_i he
    exact .next (.completeAt (.takeSent he hs))

theorem Out.memOk.lapVoteArrive {lid u : Nat} {op : LapOp} {e : Bool} {v : Word} {s : State} (hs : s.memOk) :
    Out.memOk (execLapVoteArrive lid u op e v s) := by
  unfold execLapVoteArrive
  dsimp only
  split
  · exact .next hs
  · rename_i he
    refine .next (.ite (.castVote ?_) ?_)
    · split at he
      · exact .takeSent he hs
      · cases he
    · split at he
      · exact .takeSent he hs
      · cases he

theorem Out.memOk.lapClose {lid : Nat} {s : State} (hs : s.memOk) : Out.memOk (execLapClose lid s) := by
  unfold execLapClose
  split
  · exact .ite (.next (.closeLap hs)) (.next hs)
  · exact .next hs

/-! ## The operations of Machine/Engines.lean -/

theorem State.memOk.engReadParts {s : State} {need : Need} {w : Issuer} {l : List (Word × Nat)} {t : State} {x}
    (hf : s.engReadParts need w l = .ok (t, x)) (hs : s.memOk) : t.memOk := by
  induction l generalizing s need w t x with
  | nil =>
    unfold State.engReadParts at hf
    cases hf
    exact hs
  | cons y l ih =>
    unfold State.engReadParts at hf
    split at hf
    · cases hf
    · rename_i he
      obtain ⟨r, hr, ⟨⟩⟩ := exists_of_map_eq_ok hf
      exact ih hr (.readVaFor he hs)

theorem State.memOk.engRead {s : State} {need : Need} {w : Issuer} {va : Word} {n : Nat} {t : State} {x}
    (hf : s.engRead need w va n = .ok (t, x)) (hs : s.memOk) : t.memOk := by
  unfold State.engRead at hf
  exact .engReadParts hf hs

theorem State.memOk.engWriteParts {s : State} {w : Issuer} {bs : List Byte} {l : List (Word × Nat)} {t : State}
    (hf : s.engWriteParts w bs l = .ok t) (hs : s.memOk) : t.memOk := by
  induction l generalizing s w bs t with
  | nil =>
    unfold State.engWriteParts at hf
    cases hf
    exact hs
  | cons y l ih =>
    unfold State.engWriteParts at hf
    split at hf
    · cases hf
    · rename_i he
      exact ih hf (.writeVa he hs)

theorem State.memOk.engWrite {s : State} {w : Issuer} {va : Word} {bs : List Byte} {t : State} (hf : s.engWrite w va bs = .ok t)
    (hs : s.memOk) : t.memOk := by
  unfold State.engWrite at hf
  exact .engWriteParts hf hs

theorem State.memOk.copyWhole {s : State} {w : Issuer} {p : Piece} {t : State} (hf : s.copyWhole w p = .ok t) (hs : s.memOk) : t.memOk := by
  unfold State.copyWhole at hf
  split at hf
  · cases hf
  · rename_i he
    exact .engWrite hf (.engRead he hs)

theorem State.memOk.copySmall {s : State} {w : Issuer} {p : Piece} {l : List (Word × Nat)} {t : State} (hf : s.copySmall w p l = .ok t)
    (hs : s.memOk) : t.memOk := by
  induction l generalizing s w p t with
  | nil =>
    unfold State.copySmall at hf
    cases hf
    exact hs
  | cons y l ih =>
    unfold State.copySmall at hf
    split at hf
    · cases hf
    · rename_i he
      exact ih hf (.copyWhole he hs)

theorem State.memOk.copyPiece {s : State} {w : Issuer} {p : Piece} {t : State} (hf : s.copyPiece w p = .ok t) (hs : s.memOk) : t.memOk := by
  unfold State.copyPiece at hf
  split at hf
  · cases hf
  · rename_i he
    split at hf
    · exact .copySmall hf hs
    · cases hf
      exact .copyWhole he hs

theorem Chunk.memOk.ofExcept {k : EngCmd} {r : Except Cause State} (hr : ∀ t, r = .ok t → t.memOk) : (chunkOf k r).memOk := by
  cases r with
  | error e => exact .fault
  | ok s => exact .done (hr s rfl)

theorem State.memOk.indexLine {s : State} {k : EngCmd} {i : Nat} {t : State} {x} (hf : s.indexLine k i = .ok (t, x)) (hs : s.memOk) :
    t.memOk := by
  unfold State.indexLine at hf
  split at hf
  · cases hf
    exact hs
  · dsimp only at hf
    obtain ⟨r, hr, ⟨⟩⟩ := exists_of_map_eq_ok hf
    exact .engRead hr hs

theorem State.memOk.elementPiece {s : State} {k : EngCmd} {i : Nat} {t : State} {x} (hf : s.elementPiece k i = .ok (t, x)) (hs : s.memOk) :
    t.memOk := by
  unfold State.elementPiece at hf
  obtain ⟨r, hr, ⟨⟩⟩ := exists_of_map_eq_ok hf
  exact .indexLine hr hs

theorem Chunk.memOk.chunk {s : State} {u : Nat} {k : EngCmd} {c : Nat} (hs : s.memOk) : Chunk.memOk (s.chunk u k c) := by
  unfold State.chunk
  split
  · exact .ofExcept (fun _ he1 => .copyPiece he1 hs)
  · exact .ofExcept (fun _ he1 => .copyPiece he1 hs)
  · split
    · exact .fault
    · rename_i he1
      exact .ofExcept (fun _ he2 => .copyPiece he2 (.elementPiece he1 hs))
  · split
    · exact .fault
    · rename_i he1
      exact .ofExcept (fun _ he2 => .copyPiece he2 (.elementPiece he1 hs))
  · exact .ofExcept (fun _ he1 => .engWrite he1 hs)
  · dsimp only
    split
    · exact .fault
    · rename_i he1
      exact .done (.modUnit (.engRead he1 hs))
  · dsimp only
    split
    · exact .ofExcept (fun _ he1 => .copyPiece he1 hs)
    · exact .ofExcept (fun _ he1 => .engWrite he1 hs)
    · split
      · exact .fault
      · rename_i he
        split
        · exact .fault
        · rename_i he1
          exact .ite (.done (.engRead he1 (.engRead he hs))) (.differs (.engRead he1 (.engRead he hs)))

theorem State.memOk.granuleStack {s : State} {w : Issuer} {need : Need} {va : Word} {t : State} {x}
    (hf : s.granuleStack w need va = .ok (t, x)) (hs : s.memOk) : t.memOk := by
  unfold State.granuleStack at hf
  refine .withIssuer hf (fun _ _ _ ht he => ?_) hs
  split at he
  · cases he
  · rename_i he1
    cases he
    exact .checkEa he1 ht
  · rename_i he1
    cases he
    exact .checkEa he1 ht

theorem State.memOk.granulesIn {s : State} {w : Issuer} {need : Need} {va : Word} {stack : Option Nat} {n : Nat} {t : State} {x}
    (hf : s.granulesIn w need va stack n = .ok (t, x)) (hs : s.memOk) : t.memOk := by
  induction n generalizing s w need va stack t x with
  | zero =>
    unfold State.granulesIn at hf
    cases hf
    exact hs
  | succ n ih =>
    unfold State.granulesIn at hf
    split at hf
    · cases hf
    · rename_i he
      split at hf
      · exact ih hf (.granuleStack he hs)
      · obtain ⟨r, hr, ⟨⟩⟩ := exists_of_map_eq_ok hf
        exact ih hr (.granuleStack he hs)

theorem State.memOk.bulkCheck {s : State} {k : EngCmd} {t : State} (hf : s.bulkCheck k = .ok t) (hs : s.memOk) : t.memOk := by
  unfold State.bulkCheck at hf
  dsimp only at hf
  split at hf
  · cases hf
    exact hs
  · split at hf
    · cases hf
    · rename_i he
      split at hf
      · cases hf
      · rename_i he1
        split at hf
        · cases hf
        · rename_i he2
          split at hf
          · cases hf
            split at he2
            · cases he2
              exact .granulesIn he1 (.granuleStack he hs)
            · exact .granulesIn he2 (.granulesIn he1 (.granuleStack he hs))
          · cases hf

theorem State.memOk.dropOverlays {s : State} {u : Nat} {w : Word} (hs : s.memOk) : (s.dropOverlays u w).memOk := .modUnit hs

theorem State.memOk.engToken {s : State} {u : Nat} {k : EngCmd} {err mis : Bool} {sub chunks : Nat} (hs : s.memOk) :
    (s.engToken u k err mis sub chunks).memOk := .ite (.modCtx (.modUnit hs)) (.modUnit hs)

theorem State.memOk.overlayArrived {s : State} {u : Nat} {k : EngCmd} (hs : s.memOk) : (s.overlayArrived u k).memOk := .modUnit hs

theorem State.memOk.engFinish {s : State} {u : Nat} {k : EngCmd} {chunks : Nat} (hs : s.memOk) : (s.engFinish u k chunks).memOk :=
  .engToken (.ite (.overlayArrived hs) hs)

theorem State.memOk.engBegin {s : State} {u : Nat} {k : EngCmd} (hs : s.memOk) : (s.engBegin u k).memOk := by
  unfold State.engBegin
  dsimp only
  split
  · exact .engToken (.modUnit hs)
  · refine .ite (.ite (.engToken (.modUnit hs)) (.modUnit (.dropOverlays (.modUnit hs)))) (.ite ?_ (.modUnit (.modUnit hs)))
    split
    · exact .engToken (.modUnit hs)
    · rename_i he1
      exact .modUnit (.bulkCheck he1 (.modUnit hs))

theorem Out.memOk.engineCommandBegin {u : Nat} {s : State} (hs : s.memOk) : Out.memOk (execEngineCommandBegin u s) := by
  unfold execEngineCommandBegin
  split
  · exact .next (.engBegin hs)
  · exact .next hs

theorem State.memOk.engChunk {s : State} {u : Nat} {k : EngCmd} {c : Nat} (hs : s.memOk) : (s.engChunk u k c).memOk := by
  unfold State.engChunk
  refine .ite (.engFinish hs) ?_
  split
  · exact .engToken hs
  · rename_i he
    exact .engToken (.of_chunk_differs he (.chunk hs))
  · rename_i he
    exact .ite (.engFinish (.of_chunk_done he (.chunk hs))) (.modUnit (.of_chunk_done he (.chunk hs)))

theorem Out.memOk.engineCommandComplete {u : Nat} {s : State} (hs : s.memOk) : Out.memOk (execEngineCommandComplete u s) := by
  unfold execEngineCommandComplete
  split
  · exact .ite (.next hs) (.next (.engChunk hs))
  · exact .next hs

theorem Out.memOk.bulkCommand {u : Nat} {s : State} (hs : s.memOk) : Out.memOk (execBulkCommand u s) := by
  unfold execBulkCommand
  split
  · exact .ite (.next (.engChunk hs)) (.next hs)
  · exact .next hs

theorem Out.memOk.engPush {s : State} {op : Nat} {n : Bool} {opd opa opb : Word} {block : List Word} (hs : s.memOk) :
    Out.memOk (s.engPush op n opd opa opb block) := .next (.pushTo (fun _ ht => .advance (.modU (.tick ht))) hs)

theorem Out.memOk.engBlock {s : State} {op : Nat} {n : Bool} {a b : Reg} (hs : s.memOk) : Out.memOk (s.engBlock op n a b) := by
  unfold State.engBlock
  exact .ite (.trap hs) (.reading (.engPush hs) hs)

/-! ## The operations of Machine/Recompute.lean -/

theorem State.memOk.endRecompute {s : State} {r : Rule} {d : Nat × Nat} {x : Recompute} (hs : s.memOk) : (s.endRecompute r d x).memOk :=
  .ite (.markTile (.foldl (fun _ _ ht => .ite (.performNow ht) ht) (.recomputeTile hs)))
  (.foldl (fun _ _ ht => .ite (.performNow ht) ht) (.recomputeTile hs))

theorem Out.memOk.recompute {tile : Nat} {s : State} (hs : s.memOk) : Out.memOk (execRecompute tile s) := by
  unfold execRecompute
  split
  · exact .ite (.next hs) (.next hs)
  · refine .ite (.next hs) ?_
    split
    · exact .next hs
    · split
      · exact .next hs
      · exact .ite (.next (.endRecompute hs)) (.next hs)

theorem Out.memOk.dfreshRequest {u c tile : Nat} {s : State} (hs : s.memOk) : Out.memOk (execDfreshRequest u c tile s) := by
  unfold execDfreshRequest
  split
  · exact .recompute hs
  · exact .next hs

/-! ## The operations of Machine/Streams.lean -/

theorem Out.memOk.stackOnly {s : State} {act : Out} (hact : Out.memOk act) (hs : s.memOk) : Out.memOk (s.stackOnly act) := .profile hact hs

theorem State.memOk.rowCheck {s : State} {w : Issuer} {p : Nat} {va : Word} {store : Bool} {t : State} {x}
    (hf : s.rowCheck w p va store = .ok (t, x)) (hs : s.memOk) : t.memOk := by
  unfold State.rowCheck at hf
  split at hf
  · cases hf
  · cases hf
  · rename_i he
    split at hf
    · split at hf
      · cases hf
      · split at hf
        · cases hf
        · split at hf
          · cases hf
          · cases hf
            refine .withIssuer he (fun _ _ _ ht he2 => ?_) hs
            split at he2
            · cases he2
            · rename_i he3
              cases he2
              exact .checkEa he3 ht
            · rename_i he3
              cases he2
              exact .checkEa he3 ht
    · cases hf

theorem State.memOk.rowCheckIf {s : State} {used : Bool} {w : Issuer} {p : Nat} {va : Word} {store : Bool} {t : State} {x}
    (hf : s.rowCheckIf used w p va store = .ok (t, x)) (hs : s.memOk) : t.memOk := by
  unfold State.rowCheckIf at hf
  split at hf
  · exact .rowCheck hf hs
  · cases hf
    exact hs

theorem State.memOk.slotRows {s : State} {x0 : Near} {t0 : Stream} {p : Nat} {t : State} {x} (hf : s.slotRows x0 t0 p = .ok (t, x))
    (hs : s.memOk) : t.memOk := by
  unfold State.slotRows at hf
  dsimp only at hf
  split at hf
  · cases hf
  · rename_i he
    split at hf
    · cases hf
    · rename_i he1
      obtain ⟨r, hr, ⟨⟩⟩ := exists_of_map_eq_ok hf
      exact .rowCheckIf hr (.rowCheckIf he1 (.rowCheckIf he hs))

theorem State.memOk.streamEnds {s : State} {p : Nat} {t : Stream} {err : Bool} {sub rows : Nat} (hs : s.memOk) :
    (s.streamEnds p t err sub rows).memOk := .modNear (.setLoc64 hs)

theorem State.memOk.writeOut {s : State} {p : Nat} {t : Stream} (hs : s.memOk) : (s.writeOut p t).memOk :=
  .foldl (fun _ _ ht => .ite (.setLocal ht) ht) hs

theorem State.memOk.storeRow {s : State} {x : Near} {t : Stream} {pa : Nat} (hs : s.memOk) : (s.storeRow x t pa).memOk := by
  unfold State.storeRow
  split
  · exact .writeHome hs
  · exact hs

theorem State.memOk.slot {s : State} {p : Nat} {t : Stream} (hs : s.memOk) : (s.slot p t).memOk := by
  unfold State.slot
  dsimp only
  split
  · exact .streamEnds hs
  · rename_i he
    exact .ite (.writeOut (.streamEnds (.modNear (.storeRow (.slotRows he hs))))) (.modNear (.storeRow (.slotRows he hs)))

theorem Out.memOk.rowSlot {p : Nat} {s : State} (hs : s.memOk) : Out.memOk (execRowSlot p s) := by
  unfold execRowSlot
  split
  · exact .next (.slot hs)
  · exact .next hs

theorem State.memOk.serveHeld {s : State} {l : List Req} (hs : s.memOk) : (s.serveHeld l).memOk :=
  .foldl (fun _ _ ht => .ite (.performNow ht) ht) hs

/-! ## The operations of Machine/Runtime.lean -/

theorem State.memOk.copyOut {s : State} {u n lid : Nat} {frb : Word} {span : Nat} (hs : s.memOk) : (s.copyOut u n lid frb span).memOk :=
  .modUnit (.useFree (.setPhysBytes hs))

theorem State.memOk.makeRoom {s : State} {u n : Nat} (hs : s.memOk) : (s.makeRoom u n).memOk := by
  unfold State.makeRoom
  split
  · exact hs
  · exact .mk (.modUnit (.copyOut hs))

theorem State.memOk.prepare {s0 : State} {u n : Nat} {l : Launch} (hs : s0.memOk) : (s0.prepare u n l).memOk :=
  .mk (.writeSeal (.setLocal (.makeRoom hs)))

theorem State.memOk.startBody {s : State} {u n lid : Nat} {pc : Word} {off : Nat} {args : List Word} (hs : s.memOk) :
    (s.startBody u n lid pc off args).memOk := .mk (.modCtx (.startHelper (.mk (.acquire hs))))

theorem State.memOk.resumeHelper {s : State} {u n lid : Nat} (hs : s.memOk) : (s.resumeHelper u n lid).memOk :=
  .ite (.setCtx hs) (.failLaunch (.markDefunct hs))

theorem State.memOk.refuseTask {s : State} {u n lid : Nat} (hs : s.memOk) : (s.refuseTask u n lid).memOk :=
  .modLaunch (.setLoc64 (.completeAt hs))

theorem State.memOk.enterFor {s : State} {p lid : Nat} {t : State} (hf : s.enterFor p lid = some t) (hs : s.memOk) : t.memOk := by
  unfold State.enterFor at hf
  dsimp only at hf
  split at hf
  · cases hf
    exact hs
  · split at hf
    · cases hf
      exact .modNear hs
    · split at hf
      · cases hf
        exact .enterNearNow (.modNear hs)
      · cases hf

theorem State.memOk.startGranted {s : State} {u n lid off : Nat} {t : State} (hf : s.startGranted u n lid off = some t) (hs : s.memOk) :
    t.memOk := by
  unfold State.startGranted at hf
  extract_lets d far go at hf
  have hgo : ∀ s', s'.memOk → (go s').memOk := fun s' h => .startBody h
  split at hf
  · split at hf
    · cases hf
    · rename_i s1 he
      have h1 : s1.memOk := .enterFor he hs
      extract_lets x at hf
      split at hf
      · obtain rfl := Option.some.inj hf
        exact hgo _ h1
      · obtain rfl := Option.some.inj hf
        exact .refuseTask h1
  · obtain rfl := Option.some.inj hf
    exact hgo _ hs

theorem State.memOk.grantOne {s : State} {u : Nat} {l : Launch} {sel : Word} {t : State} {x} (hf : s.grantOne u l sel = some (t, x))
    (hs : s.memOk) :
    t.memOk := by
  unfold State.grantOne at hf
  split at hf
  · cases hf
    exact hs
  · extract_lets off bind s1 r at hf
    have h1 : s1.memOk := .prepare hs
    have hr : r.1.memOk := by
      dsimp only [r]
      split
      · exact .steal rfl h1
      · exact .popAt rfl h1
    split at hf
    · obtain ⟨t0, he, hx⟩ := Option.map_eq_some_iff.1 hf
      cases hx
      exact .startGranted he hr
    · obtain rfl := congrArg Prod.fst (Option.some.inj hf)
      exact hr

theorem Out.memOk.nearModeTaskGrant {p : Nat} {bind : Word} {s : State} (hs : s.memOk) : Out.memOk (execNearModeTaskGrant p bind s) := by
  unfold execNearModeTaskGrant
  refine .ite (.next hs) ?_
  split
  · rename_i he
    exact .next (.startGranted he hs)
  · exact .next hs

theorem State.memOk.freeHead {s : State} {u : Nat} (hs : s.memOk) : (s.freeHead u).memOk := .setLoc64 hs

theorem State.memOk.startHandOff {s : State} {u : Nat} {t : State} (hf : s.startHandOff u = some t) (hs : s.memOk) : t.memOk := by
  unfold State.startHandOff at hf
  split at hf
  · cases hf
  · obtain rfl := Option.some.inj hf
    exact .freeHead hs
  · rename_i d _
    extract_lets lid s0 at hf
    have h0 : s0.memOk := .modUnit (.freeHead hs)
    split at hf
    · obtain rfl := Option.some.inj hf
      exact h0
    · split at hf
      · cases hf
      · rename_i n _
        dsimp only at hf
        split at hf
        · obtain rfl := Option.some.inj hf
          exact .failLaunch (.setLocal (.prepare h0))
        · obtain rfl := Option.some.inj hf
          exact .startBody (.writeTaskInfo (.setLocal (.prepare h0)))

theorem Out.memOk.handOffTaskStart {u : Nat} {s : State} (hs : s.memOk) : Out.memOk (execHandOffTaskStart u s) := by
  unfold execHandOffTaskStart
  split
  · rename_i he
    exact .next (.startHandOff he hs)
  · exact .next hs

theorem State.memOk.loadOverlay {s : State} {u : Nat} {w : Issuer} {pc : Word} {t : State} (hf : s.loadOverlay u w pc = some t)
    (hs : s.memOk) : t.memOk := by
  unfold State.loadOverlay at hf
  dsimp only at hf
  split at hf
  · rename_i he1
    cases hf
    exact .modUnit (.useFree (.dropOverlays (.engRead he1 hs)))
  · cases hf

theorem State.memOk.serveHelperAbsent {s : State} {u n : Nat} {pc : Word} (hs : s.memOk) : (s.serveHelperAbsent u n pc).memOk := by
  unfold State.serveHelperAbsent
  dsimp only
  split
  · rename_i he
    exact .resumeHelper (.loadOverlay he hs)
  · exact .failLaunch hs

theorem State.memOk.drainRing {s : State} {u ring : Nat} {moved : Bool} {n : Nat} {t : State} {x}
    (hf : s.drainRing u ring moved n = some (t, x)) (hs : s.memOk) : t.memOk := by
  induction n generalizing s u ring moved t x with
  | zero =>
    unfold State.drainRing at hf
    split at hf
    · cases hf
      exact hs
    · cases hf
  | succ n ih =>
    unfold State.drainRing at hf
    dsimp only at hf
    split at hf
    · cases hf
      exact hs
    · split at hf
      · split at hf
        · cases hf
          exact hs
        · cases hf
      · split at hf
        · split at hf
          · cases hf
            exact hs
          · cases hf
        · rename_i he
          exact ih hf (.setLoc64 (.latchTails (.setLoc64 (.setLocal (.readVa he hs)))))

theorem State.memOk.serveStop {s : State} {u lid : Nat} {t : State} (hf : s.serveStop u lid = some t) (hs : s.memOk) : t.memOk := by
  unfold State.serveStop at hf
  dsimp only at hf
  split at hf
  · cases hf
  · cases hf
    exact .modUnit (.ackStop (.saveUnit (.modLaunch (.stopEach rfl (.foldl (fun _ _ ht => .toStop ht) hs)))))

theorem State.memOk.restoreFor {s : State} {u : Nat} {l : Launch} {t : State} (hf : s.restoreFor u l = some t) (hs : s.memOk) :
    t.memOk := by
  unfold State.restoreFor at hf
  split at hf
  · obtain ⟨r, hr, rfl⟩ := Option.map_eq_some_iff.1 hf
    exact .modLaunch (.reportRestored (.restoreUnit hs))
  · exact .unitFrom hf hs

theorem State.memOk.finishCtx {s : State} {u c : Nat} (hs : s.memOk) : (s.finishCtx u c).memOk := .modCtx hs

theorem State.memOk.finishHelper {s : State} {u n lid : Nat} (hs : s.memOk) : (s.finishHelper u n lid).memOk :=
  .ite (.finishCtx (.setCtx hs)) hs

theorem State.memOk.serveRestore {s : State} {u : Nat} {t : State} (hf : s.serveRestore u = some t) (hs : s.memOk) : t.memOk := by
  unfold State.serveRestore at hf
  split at hf
  · cases hf
  · split at hf
    · cases hf
      exact .failLaunch hs
    · rename_i he1
      dsimp only at hf
      split at hf
      · cases hf
        exact .foldl (fun _ _ ht => .finishHelper ht) (.finishCtx (.modCtx (.modLaunch (.restoreFor he1 hs))))
      · cases hf
        exact .foldl (fun _ _ ht => .resumeHelper ht) (.modCtx (.modLaunch (.restoreFor he1 hs)))

theorem State.memOk.loopVotes {s : State} {u : Nat} {t : State} (hf : s.loopVotes u = some t) (hs : s.memOk) : t.memOk := by
  unfold State.loopVotes at hf
  split at hf
  · cases hf
    exact .acquire (.modUnit hs)
  · split at hf
    · cases hf
      exact .castVote hs
    · cases hf

theorem State.memOk.readHend {s : State} {u : Nat} (hs : s.memOk) : (s.readHend u).memOk := .modUnit hs

theorem State.memOk.swapOut {s : State} {u n : Nat} (hs : s.memOk) : (s.swapOut u n).memOk := .copyOut (.stopHelper (.toStop hs))

theorem State.memOk.swapIn {s : State} {u : Nat} {t : State} (hf : s.swapIn u = some t) (hs : s.memOk) : t.memOk := by
  unfold State.swapIn at hf
  split at hf
  · cases hf
  · dsimp only at hf
    split at hf
    · cases hf
      exact .modUnit hs
    · cases hf
      exact .resumeHelper (.setLocal (.setLocal (.modUnit hs)))

theorem State.memOk.loopGrant {s : State} {u : Nat} {t : State} (hf : s.loopGrant u = some t) (hs : s.memOk) : t.memOk := by
  unfold State.loopGrant at hf
  obtain ⟨l, _, hl⟩ := List.exists_of_findSome?_eq_some hf
  split at hl
  · split at hl
    · split at hl
      · cases hl
        exact .readHend hs
      · obtain ⟨n, _, rfl⟩ := Option.map_eq_some_iff.1 hl
        exact .swapOut hs
    · split at hl
      · rename_i he
        split at hl
        · cases hl
          exact .readHend (.grantOne he hs)
        · cases hl
      · cases hl
  · cases hl

theorem State.memOk.loopDrain {s : State} {u : Nat} {t : State} (hf : s.loopDrain u = some t) (hs : s.memOk) : t.memOk := by
  unfold State.loopDrain at hf
  obtain ⟨ring, _, hring⟩ := List.exists_of_findSome?_eq_some hf
  obtain ⟨r, hr, rfl⟩ := Option.map_eq_some_iff.1 hring
  have h1 : r.1.memOk := .drainRing hr hs
  exact .ite (.modUnit h1) h1

theorem State.memOk.loopAbsent {s : State} {u : Nat} {t : State} (hf : s.loopAbsent u = some t) (hs : s.memOk) : t.memOk := by
  unfold State.loopAbsent at hf
  split at hf
  · cases hf
  · cases hf
    exact .serveHelperAbsent (.modUnit hs)

theorem State.memOk.rearm {s : State} {u : Nat} (hs : s.memOk) : (s.rearm u).memOk := .foldl (fun _ _ ht => .modLaunch ht) hs

theorem State.memOk.firstMoveOf {s t : State} {u : Nat} {l : List (State → Nat → Option State)}
    (hl : ∀ f ∈ l, ∀ t', f s u = some t' → t'.memOk) (hf : firstMove s u l = some t) : t.memOk := by
  induction l with
  | nil => cases hf
  | cons f rest ih =>
    unfold firstMove at hf
    split at hf
    · rename_i he
      cases hf
      exact hl f List.mem_cons_self _ he
    · exact ih (fun f h => hl f (List.mem_cons_of_mem _ h)) hf

/-- Each move of the control context's loop keeps the form. -/
theorem State.memOk.loopMoves {s : State} (hs : s.memOk) (u : Nat) :
    ∀ f ∈ [State.loopAbsent, State.serveRestore, State.loopVotes, State.loopGrant, State.swapIn], ∀ t, f s u = some t → t.memOk := by
  simp only [List.mem_cons, List.not_mem_nil, or_false, forall_eq_or_imp, forall_eq]
  exact ⟨fun _ h => .loopAbsent h hs, fun _ h => .serveRestore h hs, fun _ h => .loopVotes h hs, fun _ h => .loopGrant h hs, fun _ h =>
    .swapIn h hs⟩

theorem State.memOk.loopMove {s t : State} {u : Nat} (hf : s.loopMove u = some t) (hs : s.memOk) : t.memOk := by
  unfold State.loopMove at hf
  obtain ⟨t0, hmove, rfl⟩ := Option.map_eq_some_iff.1 hf
  refine .rearm ?_
  split at hmove
  · rename_i t1 _ he
    cases hmove
    exact .loopDrain he hs
  · exact .serveStop hmove hs
  · exact .firstMoveOf (State.memOk.loopMoves hs u) hmove

theorem State.memOk.toLoop {s : State} {u : Nat} (hs : s.memOk) : (s.toLoop u).memOk := .modCtx hs

theorem State.memOk.runtimeReturn {s : State} {u c : Nat} {pc : Word} (hs : s.memOk) : (s.runtimeReturn u c pc).memOk :=
  .stopAfter (.returnTo hs)

theorem State.memOk.failTrap {s : State} {u c : Nat} (hs : s.memOk) : (s.failTrap u c).memOk :=
  .failLaunch (.ite (.toLoop hs) (.stopHelper hs))

theorem State.memOk.repairPage {s : State} {u c : Nat} {l : Launch} {va : Word} {entry : Bool} {t : State}
    (hf : s.repairPage u c l va entry = .mended t) (hs : s.memOk) : t.memOk := by
  unfold State.repairPage at hf
  split at hf
  · dsimp only at hf
    split at hf
    · cases hf
      exact .modLaunch hs
    · split at hf
      · cases hf
      · cases hf
        exact .modLaunch (.acquire (.writeHome hs))
  · split at hf
    · cases hf
      exact hs
    · cases hf

theorem State.memOk.serveFault {s : State} {u c : Nat} {va : Option (Word × Bool)} {t : State} (hf : s.serveFault u c va = some t)
    (hs : s.memOk) : t.memOk := by
  unfold State.serveFault at hf
  dsimp only at hf
  split at hf
  · split at hf
    · rename_i he1
      cases hf
      exact .runtimeReturn (.repairPage he1 hs)
    · cases hf
    · cases hf
      exact .failTrap hs
  · cases hf
    exact .failTrap hs

theorem State.memOk.serviceDone {s : State} {u c : Nat} {g1 : Word} {g2 : Option Word} (hs : s.memOk) :
    (s.serviceDone u c g1 g2).memOk := by
  unfold State.serviceDone
  dsimp only
  split
  · exact .setReg (.setReg (.runtimeReturn hs))
  · exact .setReg (.runtimeReturn hs)

theorem State.memOk.startControl {s : State} {l : Launch} {pc arg : Word} {u : Nat} (hs : s.memOk) : (s.startControl l pc arg u).memOk :=
  .setReg (.setReg (.setReg (.modCtx hs)))

theorem State.memOk.servePolicy {s : State} {u c : Nat} (hs : s.memOk) : (s.servePolicy u c).memOk := by
  unfold State.servePolicy
  dsimp only
  split
  · exact .serviceDone hs
  · exact .ite (.foldl (fun _ _ ht => .toLoop ht) (.modLaunch (.serviceDone hs)))
      (.ite (.foldl (fun _ _ ht => .startControl ht) (.modLaunch (.serviceDone hs))) (.serviceDone hs))

theorem State.memOk.serveDefer {s : State} {u c : Nat} {t : State} (hf : s.serveDefer u c = some t) (hs : s.memOk) : t.memOk := by
  unfold State.serveDefer at hf
  dsimp only at hf
  split at hf
  · cases hf
    exact .serviceDone hs
  · split at hf
    · split at hf
      · cases hf
        exact .serviceDone hs
      · split at hf
        · cases hf
        · cases hf
          exact .serviceDone (.modLaunch (.tlbInvalidate (.writeHome hs)))
    · cases hf
      exact .serviceDone hs

theorem State.memOk.serveGrant {s : State} {u c : Nat} {t : State} (hf : s.serveGrant u c = some t) (hs : s.memOk) : t.memOk := by
  unfold State.serveGrant at hf
  dsimp only at hf
  split at hf
  · cases hf
    exact .serviceDone hs
  · split at hf
    · cases hf
      exact .serviceDone hs
    · split at hf
      · cases hf
        exact .serviceDone hs
      · split at hf
        · cases hf
          exact .takeTrap hs
        · obtain ⟨r, hr, rfl⟩ := Option.map_eq_some_iff.1 hf
          exact .serviceDone (.grantOne hr hs)

theorem State.memOk.serveSyscall {s : State} {u c : Nat} {t : State} (hf : s.serveSyscall u c = some t) (hs : s.memOk) : t.memOk := by
  unfold State.serveSyscall at hf
  split at hf
  · cases hf
    exact .servePolicy hs
  · exact .serveDefer hf hs
  · exact .serveGrant hf hs
  · cases hf
    exact .serviceDone hs

theorem State.memOk.serveAbsent {s : State} {u c : Nat} (hs : s.memOk) : (s.serveAbsent u c).memOk := by
  unfold State.serveAbsent
  refine .ite ?_ (.serveHelperAbsent (.runtimeReturn hs))
  split
  · rename_i he
    exact .runtimeReturn (.loadOverlay he hs)
  · exact .failTrap hs

theorem State.memOk.serveOverflow {s : State} {u c : Nat} {t : State} (hf : s.serveOverflow u c = some t) (hs : s.memOk) : t.memOk := by
  unfold State.serveOverflow at hf
  dsimp only at hf
  obtain ⟨r, hr, rfl⟩ := Option.map_eq_some_iff.1 hf
  exact .ite (.runtimeReturn (.drainRing hr hs)) (.drainRing hr hs)

theorem State.memOk.serveStopTrap {s : State} {u c : Nat} {t : State} (hf : s.serveStopTrap u c = some t) (hs : s.memOk) : t.memOk := by
  unfold State.serveStopTrap at hf
  dsimp only at hf
  split at hf
  · cases hf
    exact .toLoop hs
  · split at hf
    · cases hf
      exact .runtimeReturn hs
    · split at hf
      · exact .serveStop hf hs
      · exact .serveRestore hf hs

theorem State.memOk.serveAccess {s : State} {u c : Nat} (hs : s.memOk) : (s.serveAccess u c).memOk := by
  unfold State.serveAccess
  dsimp only
  split
  · exact .ite (.setReg (.setReg (.runtimeReturn hs))) (.failTrap hs)
  · exact .ite (.castVote (.toLoop hs)) (.failTrap hs)
  · exact .failTrap hs

theorem State.memOk.serveTrap {s : State} {u c : Nat} {t : State} (hf : s.serveTrap u c = some t) (hs : s.memOk) : t.memOk := by
  unfold State.serveTrap at hf
  dsimp only at hf
  split at hf
  · exact .serveSyscall hf hs
  · cases hf
    exact .serveAbsent hs
  · exact .serveFault hf hs
  · exact .serveFault hf hs
  · exact .serveOverflow hf hs
  · exact .serveStopTrap hf hs
  · cases hf
    exact .serveAccess hs
  · cases hf
    exact .serveAccess hs
  · cases hf
    exact .serveAccess hs
  · cases hf
    exact .failTrap hs

theorem State.memOk.runtimeMove {s : State} {u c : Nat} {t : State} (hf : s.runtimeMove u c = some t) (hs : s.memOk) : t.memOk := by
  unfold State.runtimeMove at hf
  dsimp only at hf
  split at hf
  · exact .serveTrap hf hs
  · split at hf
    · exact .loopMove hf hs
    · cases hf

/-! ## The operations of Machine/Launch.lean -/

theorem State.memOk.resetUnit {s : State} {u : Nat} (hs : s.memOk) : (s.resetUnit u).memOk := .setUnit hs

theorem Out.memOk.unitWatchdog {u lid : Nat} {s : State} (hs : s.memOk) : Out.memOk (execUnitWatchdog u lid s) := by
  unfold execUnitWatchdog
  split
  · exact .ite (.next (.resetUnit (.failLaunch hs))) (.ite (.next (.failLaunch hs)) (.next hs))
  · exact .next hs

theorem State.memOk.resumeLaunch {s : State} {lid : Nat} (hs : s.memOk) : (s.resumeLaunch lid).memOk :=
  .mk (.foldl (fun _ _ ht => .modUnit (.modCtx ht)) (.modLaunch hs))

theorem Out.memOk.launchResume {lid : Nat} {s : State} (hs : s.memOk) : Out.memOk (execLaunchResume lid s) := by
  unfold execLaunchResume
  split
  · exact .ite (.next (.resumeLaunch hs)) (.next hs)
  · exact .next hs

theorem State.memOk.hubPage {s : State} {ptroot va : Word} {store : Bool} {t : State} {x} (hf : s.hubPage ptroot va store = .ok (t, x))
    (hs : s.memOk) : t.memOk := by
  unfold State.hubPage at hf
  split at hf
  · cases hf
  · split at hf
    · cases hf
    · rename_i he
      dsimp only at hf
      split at hf
      · split at hf
        · cases hf
        · split at hf
          · split at hf
            · cases hf
              exact .walkFrom he hs
            · cases hf
          · cases hf
            exact .ite (.walkFrom he hs) (.setEntry (.walkFrom he hs))
      · split at hf
        · cases hf
        · split at hf
          · split at hf
            · cases hf
              exact .walkFrom he hs
            · cases hf
          · cases hf
            exact .ite (.walkFrom he hs) (.setEntry (.walkFrom he hs))

theorem State.memOk.hubWrite {s : State} {ptroot : Word} {l : List (Word × List Byte)} (hs : s.memOk) : (s.hubWrite ptroot l).memOk := by
  induction l generalizing s ptroot with
  | nil =>
    unfold State.hubWrite
    exact hs
  | cons y l ih =>
    unfold State.hubWrite
    split
    · exact hs
    · rename_i he
      split
      · exact hs
      · exact ih (.setPhysBytes (.markWrite (.hubPage he hs)))

theorem Out.memOk.quiescenceDetect {lid : Nat} {s : State} (hs : s.memOk) : Out.memOk (execQuiescenceDetect lid s) := by
  unfold execQuiescenceDetect
  split
  · exact .next hs
  · exact .ite (.next hs) (.next (.postCompletion (.modLaunch (.ite hs (.hubWrite hs)))))

theorem State.memOk.dropRecord {s : State} (hs : s.memOk) : s.dropRecord.memOk := hs

theorem State.memOk.postRecord {s : State} {off : Nat} {bytes : List Byte} (hs : s.memOk) : (s.postRecord off bytes).memOk :=
  .ite (.dropRecord hs) (.ite (.postCompletion hs) (.setLq (.tick hs)))

theorem State.memOk.takeRecord {s : State} {q : Nat} (hs : s.memOk) : (s.takeRecord q).memOk := .setLq hs

theorem State.memOk.refuseRecord {s : State} {q : Nat} {r : LRecord} {kind cause : Nat} (hs : s.memOk) :
    (s.refuseRecord q r kind cause).memOk := .postCompletion (.takeRecord hs)

theorem State.memOk.startRoot {s : State} {l : Launch} {r : LRecord} {desc : List Byte} (hs : s.memOk) : (s.startRoot l r desc).memOk := by
  unfold State.startRoot
  split
  · exact hs
  · dsimp only
    split
    · exact .failLaunch (.modLaunch (.writeTaskInfo (.setLocal (.prepare hs))))
    · exact .startBody (.modLaunch (.writeTaskInfo (.setLocal (.prepare hs))))

theorem State.memOk.beginLaunch {s : State} {q : Nat} {r : LRecord} {cores : List Nat} {desc : List Byte} (hs : s.memOk) :
    (s.beginLaunch q r cores desc).memOk := .startRoot (.foldl (fun _ _ ht => .startVoter ht) (.mk (.mk (.takeRecord hs))))

theorem State.memOk.preempt {s : State} {prio : Nat} {cores : List Nat} (hs : s.memOk) : (s.preempt prio cores).memOk :=
  .foldl (fun _ _ ht => .sendStop ht) hs

theorem State.memOk.rootDesc {s : State} {q : Nat} {r : LRecord} {t : State} {x} (hf : s.rootDesc q r = .ok (t, x)) (hs : s.memOk) :
    t.memOk := by
  unfold State.rootDesc at hf
  split at hf
  · cases hf
  · rename_i he
    split at hf
    · cases hf
    · injection hf with hf
      exact .readHome hf (.hubPage he hs)

theorem State.memOk.startRecord {s : State} {q : Nat} {r : LRecord} (hs : s.memOk) : (s.startRecord q r).memOk := by
  unfold State.startRecord
  refine .ite (.refuseRecord hs) (.ite (.refuseRecord hs) (.ite (.refuseRecord hs) ?_))
  split
  · exact .refuseRecord hs
  · rename_i he
    exact .ite (.beginLaunch (.rootDesc he hs)) (.preempt hs)

theorem Out.memOk.launchStart {s : State} (hs : s.memOk) : Out.memOk (execLaunchStart s) := by
  unfold execLaunchStart
  split
  · exact .next (.startRecord hs)
  · exact .next hs

theorem Out.memOk.launchRecordAging {q idx : Nat} {s : State} (hs : s.memOk) : Out.memOk (execLaunchRecordAging q idx s) := by
  unfold execLaunchRecordAging
  dsimp only
  split
  · exact .next (.ite (.setLq hs) (.preempt (.setLq hs)))
  · exact .next (.setLq hs)

theorem Out.memOk.completionWrite {q : Nat} {s : State} (hs : s.memOk) : Out.memOk (execCompletionWrite q s) := by
  unfold execCompletionWrite
  refine .ite (.next (.releaseHeld hs)) ?_
  split
  · exact .next (.endLaunch (.drainMerges hs))
  · exact .next hs

theorem State.memOk.lqWrite {s : State} {q dw : Nat} {v : Word} (hs : s.memOk) : (s.lqWrite q dw v).memOk := .ite hs (.setLq hs)

theorem State.memOk.cancelLaunch {s : State} {lid : Nat} (hs : s.memOk) : (s.cancelLaunch lid).memOk := by
  unfold State.cancelLaunch
  split
  · exact hs
  · exact .modLaunch (.ite hs (.sendStop hs))

/-! ## The operations of Machine/Device.lean -/

theorem State.memOk.pwrlimWrite {s : State} {v : Word} (hs : s.memOk) : (s.pwrlimWrite v).memOk := .ite hs hs

theorem State.memOk.herrClear {s : State} {v : Word} (hs : s.memOk) : (s.herrClear v).memOk := hs

theorem State.memOk.setHerr {s : State} {b : BitVec 2} (hs : s.memOk) : (s.setHerr b).memOk := hs

theorem State.memOk.attRequest {s : State} {nonce : List Byte} (hs : s.memOk) : (s.attRequest nonce).memOk := .ite hs hs

theorem State.memOk.resizeBar2 {s : State} {n : Nat} (hs : s.memOk) : (s.resizeBar2 n).memOk := .ite hs hs

theorem State.memOk.hostReadPiece {s : State} {pa : Option Nat} {n : Nat} {t : State} {x} (hf : s.hostReadPiece pa n = (t, x))
    (hs : s.memOk) : t.memOk := by
  unfold State.hostReadPiece at hf
  split at hf
  · cases hf
    exact .setHerr hs
  · split at hf
    · exact .readHome hf hs
    · cases hf
      exact hs
    · cases hf
      exact .setHerr hs
    · cases hf
      exact .setHerr hs

theorem State.memOk.hostWritePiece {s : State} {pa : Option Nat} {bs : List Byte} (hs : s.memOk) : (s.hostWritePiece pa bs).memOk := by
  unfold State.hostWritePiece
  split
  · exact .setHerr hs
  · split
    · exact .setPhysBytes (.markWrite hs)
    · exact .setHerr hs
    · exact .setHerr hs

theorem State.memOk.hostRead {s : State} {bar off n n1 : Nat} {t : State} {x} (hf : s.hostRead bar off n n1 = (t, x)) (hs : s.memOk) :
    t.memOk := by
  induction n1 generalizing s bar off n t x with
  | zero =>
    unfold State.hostRead at hf
    cases hf
    exact hs
  | succ n ih =>
    unfold State.hostRead at hf
    split at hf
    · cases hf
      exact hs
    · dsimp only at hf
      cases hf
      exact ih rfl (.hostReadPiece rfl hs)

theorem State.memOk.hostWrite {s : State} {bar off : Nat} {bs : List Byte} {n : Nat} (hs : s.memOk) : (s.hostWrite bar off bs n).memOk := by
  induction n generalizing s bar off bs with
  | zero =>
    unfold State.hostWrite
    exact hs
  | succ n ih =>
    unfold State.hostWrite
    exact .ite hs (ih (.hostWritePiece hs))

theorem State.memOk.lqBytes {s : State} {off : Nat} {bs : List Byte} {n : Nat} (hs : s.memOk) : (s.lqBytes off bs n).memOk := by
  induction n generalizing s off bs with
  | zero =>
    unfold State.lqBytes
    exact hs
  | succ n ih =>
    unfold State.lqBytes
    exact .ite hs (ih (.lqWrite hs))

theorem State.memOk.bar0Write {s : State} {off : Nat} {bs : List Byte} (hs : s.memOk) : (s.bar0Write off bs).memOk :=
  .ite (.pwrlimWrite hs)
  (.ite (.cancelLaunch hs) (.ite hs (.ite (.herrClear hs) (.ite (.postRecord hs) (.ite (.lqBytes hs) (.ite (.attRequest hs) (.ite hs
  hs)))))))

theorem Out.memOk.hostAccess {_port : Bool} {bar off : Nat} {op : HostOp} {s : State} (hs : s.memOk) :
    Out.memOk (execHostAccess _port bar off op s) := by
  unfold execHostAccess
  split
  · exact .ite (.next hs) (.ite (.next hs) (.next (.mk (.hostRead rfl hs))))
  · exact .ite (.next (.bar0Write hs)) (.ite (.next hs) (.next (.hostWrite hs)))

theorem Out.memOk.hostReadTimeout {r : Req} {s : State} (hs : s.memOk) : Out.memOk (execHostReadTimeout r s) := by
  unfold execHostReadTimeout
  refine .ite ?_ (.next hs)
  split
  · exact .next (.returnFault hs)
  · exact .next (.returnFault hs)
  · exact .next hs

theorem State.memOk.modPort {s : State} {n : Nat} {f : Port → Port} (hs : s.memOk) : (s.modPort n f).memOk := hs

theorem State.memOk.performPeer {s : State} {r : Req} (hs : s.memOk) : (s.performPeer r).memOk := .mk (.perform hs)

theorem State.memOk.performAtOffset {s : State} {r : Req} (hs : s.memOk) : (s.performAtOffset r).memOk := by
  unfold State.performAtOffset
  split
  · exact .performPeer hs
  · exact hs

theorem State.memOk.storeBlocks {s : State} (hs : s.memOk) : s.storeBlocks.memOk :=
  .foldl (fun _ _ ht => .foldl (fun _ _ ht1 => .ite (.setLocal ht1) ht1) ht) hs

theorem Memory.wfFrom_filter {m : Memory} {lo : Nat} (p : Host.Cell → Bool) (hm : Memory.wfFrom lo m = true) :
    Memory.wfFrom lo (m.filter p) = true := by
  induction m generalizing lo with
  | nil => rfl
  | cons e rest ih =>
    obtain ⟨a, b⟩ := e
    simp only [Memory.wfFrom, Bool.and_eq_true, decide_eq_true_eq] at hm
    obtain ⟨⟨hlo, hb⟩, hrest⟩ := hm
    rw [List.filter_cons]
    split
    · simp only [Memory.wfFrom, Bool.and_eq_true, decide_eq_true_eq]
      exact ⟨⟨hlo, hb⟩, ih hrest⟩
    · exact ih (Memory.wfFrom_mono (by omega) hrest)

theorem State.keptMem_wf {s : State} (hs : s.memOk) : s.keptMem.wf = true := by
  have h : s.storeBlocks.mem.wf = true := State.memOk.storeBlocks hs
  unfold State.keptMem
  split
  · exact h
  · exact Memory.wfFrom_filter _ h

theorem State.memOk.management {s : State} (hs : s.memOk) : s.management.memOk := hs

theorem State.memOk.scrubbed {s : State} {src : ErrSrc} {addr : BitVec 52} (hs : s.memOk) : (s.scrubbed src addr).memOk := hs

/-! ## The operations of Machine/Fp.lean -/

theorem Out.memOk.fpDone {s : State} {d : Reg} {r : Nat × Flags} (hs : s.memOk) : Out.memOk (s.fpDone d r) := .done (.raise (.setG hs))

theorem Out.memOk.fpBin {s : State} {op : FOp} {dbl : Bool} {rm : RM} {d a b : Reg} (hs : s.memOk) : Out.memOk (s.fpBin op dbl rm d a b) :=
  .fpDone (.stepLfsr hs)

theorem Out.memOk.fpCompare {s : State} {op : FCmpOp} {dbl : Bool} {d a b : Reg} (hs : s.memOk) : Out.memOk (s.fpCompare op dbl d a b) :=
  .fpDone hs

theorem Out.memOk.fpFused {s : State} {op : FmaOp} {dbl : Bool} {rm : RM} {d a b : Reg} (hs : s.memOk) :
    Out.memOk (s.fpFused op dbl rm d a b) := .fpDone (.stepLfsr hs)

/-! ## The operations of Machine/Dispatch.lean -/

/-- Every instruction and every event keeps the form, arm by arm. -/
theorem Out.memOk.execOf {i : Instr} {s : State} (hs : s.memOk) : Out.memOk (exec i s) := by
  unfold exec
  split
  · exact .bin hs -- add
  · exact .binW hs -- addw
  · exact .bin hs -- sub
  · exact .binW hs -- subw
  · exact .bin hs -- mul
  · exact .binW hs -- mulw
  · exact .bin hs -- mulh
  · exact .bin hs -- mulhu
  · exact .bin hs -- div
  · exact .binW hs -- divw
  · exact .bin hs -- divu
  · exact .binW hs -- divuw
  · exact .bin hs -- rem
  · exact .binW hs -- remw
  · exact .bin hs -- remu
  · exact .binW hs -- remuw
  · exact .bin hs -- and
  · exact .bin hs -- or
  · exact .bin hs -- xor
  · exact .bin hs -- andn
  · exact .bin hs -- shl
  · exact .binW hs -- shlw
  · exact .bin hs -- shr
  · exact .binW hs -- shrw
  · exact .bin hs -- sar
  · exact .binW hs -- sarw
  · exact .bin hs -- rotl
  · exact .binW hs -- rotlw
  · exact .bin hs -- min
  · exact .bin hs -- max
  · exact .bin hs -- minu
  · exact .bin hs -- maxu
  · exact .bin hs -- seq
  · exact .bin hs -- slt
  · exact .bin hs -- sltu
  · exact .un hs -- clz
  · exact .unW hs -- clzw
  · exact .un hs -- ctz
  · exact .unW hs -- ctzw
  · exact .un hs -- popc
  · exact .unW hs -- popcw
  · exact .un hs -- brev
  · exact .unW hs -- brevw
  · exact .un hs -- bswap
  · exact .unW hs -- bswapw
  · exact .un hs -- sextb
  · exact .un hs -- sexth
  · exact .bin hs -- clmul
  · exact .bin hs -- clmulh
  · exact .bin hs -- clmulr
  · exact .un hs -- addi
  · exact .un hs -- slti
  · exact .un hs -- sltiu
  · exact .un hs -- andi
  · exact .un hs -- ori
  · exact .un hs -- xori
  · exact .un hs -- addiw
  · exact .un hs -- shli
  · exact .un hs -- shri
  · exact .un hs -- sari
  · exact .un hs -- rotli
  · exact .unW hs -- shliw
  · exact .unW hs -- shriw
  · exact .unW hs -- sariw
  · exact .done (.setG hs) -- ldhi
  · exact .done (.setG hs) -- addpc
  · exact .ite (.done (.setG hs)) (.done hs) -- sel
  · exact .branch hs -- skip
  · exact .branch hs -- beq
  · exact .branch hs -- bne
  · exact .branch hs -- blt
  · exact .branch hs -- bge
  · exact .branch hs -- bltu
  · exact .branch hs -- bgeu
  · exact .branch hs -- bbs
  · exact .branch hs -- bbc
  · exact .branch hs -- beqz
  · exact .branch hs -- bnez
  · exact .branch hs -- bltz
  · exact .branch hs -- bgez
  · exact .branch hs -- bgtz
  · exact .branch hs -- blez
  · exact .branch hs -- j
  · exact .next (.parkFirst (fun _ ht => .callTo ht) hs) -- call
  · exact .next (.parkFirst (fun _ ht => .callTo ht) hs) -- callr
  · exact .jr hs -- jr
  · exact .next (.parkFirst (fun _ ht => .retFrom ht) hs) -- ret
  · exact .start hs -- start
  · -- startRes
    exact .profile
      (.privileged (.next (.parkFirst (fun _ ht => .ite (.trapAt ht) (.ite (.waitFirst ht) (.ite (.trapAt (.endLaunchBut (.markDefunct ht)))
      (.advance (.setCtx ht))))) hs)) hs) hs
  · -- stoph
    exact .profile
      (.privileged (.ite (.done hs) (.ite (.next (.parkFirst (fun _ ht => .ite (.holdFirst (.haltReplay ht)) (.rotate (.stopHelper (.advance
      ht)))) hs)) (.ite (.next (.hold (.toStop hs))) (.done (.stopHelper (.toStop hs)))))) hs) hs
  · exact .yield hs -- yield
  · exact .next (.parkFirst (fun _ ht => .nretFrom ht) hs) -- nret
  · exact .setnh hs -- setnh
  · exact .ite (.next (.hold hs)) (.done (.setG (.sysRead rfl hs))) -- rdsr
  · exact .wrsr hs -- wrsr
  · exact .loadEa hs -- ldb
  · exact .loadEa hs -- ldh
  · exact .loadEa hs -- ldw
  · exact .loadEa hs -- ldd
  · exact .loadEa hs -- ldbu
  · exact .loadEa hs -- ldhu
  · exact .loadEa hs -- ldwu
  · exact .done (.prefetch hs) -- pref
  · exact .storeEa hs -- stb
  · exact .storeEa hs -- sth
  · exact .storeEa hs -- stw
  · exact .storeEa hs -- std
  · exact .loadEa hs -- ldxB
  · exact .loadEa hs -- ldxH
  · exact .loadEa hs -- ldxW
  · exact .loadEa hs -- ldxD
  · exact .loadEa hs -- ldxBu
  · exact .loadEa hs -- ldxHu
  · exact .loadEa hs -- ldxWu
  · exact .storeEa hs -- stxB
  · exact .storeEa hs -- stxH
  · exact .storeEa hs -- stxW
  · exact .storeEa hs -- stxD
  · exact .done (.acquire hs) -- rcinv
  · exact .rcinvRange hs -- rcinvRange
  · exact .amo hs -- amoadd
  · exact .amo hs -- amoand
  · exact .amo hs -- amoor
  · exact .amo hs -- amoxor
  · exact .amo hs -- amomin
  · exact .amo hs -- amomax
  · exact .amo hs -- amominu
  · exact .amo hs -- amomaxu
  · exact .amo hs -- amoswap
  · exact .amo hs -- amocas
  · exact .amo hs -- amofadd
  · exact .amo hs -- amofmin
  · exact .amo hs -- amofmax
  · exact .amoNr hs -- amoaddNr
  · exact .amoNr hs -- amoandNr
  · exact .amoNr hs -- amoorNr
  · exact .amoNr hs -- amoxorNr
  · exact .amoNr hs -- amominNr
  · exact .amoNr hs -- amomaxNr
  · exact .amoNr hs -- amominuNr
  · exact .amoNr hs -- amomaxuNr
  · exact .amoNr hs -- amofaddNr
  · exact .amoNr hs -- amofminNr
  · exact .amoNr hs -- amofmaxNr
  · exact .amerge hs -- amergeAdd
  · exact .amerge hs -- amergeFadd
  · exact .loadEa hs -- lda
  · exact .storeEa hs -- stl
  · exact .next (.parkFirst (fun _ ht => .ite (.waitFirst ht) (.advance (.acquire ht))) hs) -- fenceAcq
  · exact .done (.tick (.modC hs)) -- fenceRel
  · exact .next (.parkFirst (fun _ ht => .ite (.advance (.acquire ht)) (.waitFirst ht)) hs) -- fenceFull
  · exact .put hs -- put
  · exact .putc hs -- putc
  · exact .get hs -- get
  · exact .message (fun _ _ ht => .post (.tick ht)) hs -- cinc
  · exact .farOnly (.ite (.next (.hold hs)) (.done (.deferG hs))) hs -- cget
  · exact .farOnly (.waitOn hs) hs -- waitc
  · -- wtarm
    exact .farOnly
      (.ite (.done (.freeWte hs)) (.ite (.trap hs) (.ite (.trap hs) (.ite (.trap hs) (.reading (.done (.ite (.fire (.setWte hs)) (.setWte
      hs))) hs))))) hs
  · exact .send hs -- send
  · exact .farOnly (.waitOn hs) hs -- recv
  · exact .fpBin hs -- fadd
  · exact .fpBin hs -- fsub
  · exact .fpBin hs -- fmul
  · exact .done (.deferF (.stepLfsr hs)) -- fdiv
  · exact .done (.deferF (.stepLfsr hs)) -- fsqrt
  · exact .fpDone hs -- fmin
  · exact .fpDone hs -- fmax
  · exact .fpDone hs -- fsgn
  · exact .fpDone hs -- fsgnn
  · exact .fpDone hs -- fsgnx
  · exact .fpCompare hs -- feq
  · exact .fpCompare hs -- flt
  · exact .fpCompare hs -- fle
  · exact .fpDone hs -- fclass
  · exact .fpFused hs -- fma
  · exact .fpFused hs -- fms
  · exact .fpFused hs -- fnma
  · exact .done (.raise (.setG (.stepLfsr hs))) -- cvt
  · exact .vissue hs -- vld
  · exact .vissue hs -- vst
  · exact .vissue hs -- vlds
  · exact .vissue hs -- vsts
  · exact .vissue hs -- vldx
  · exact .vissue hs -- vstx
  · exact .vissue hs -- vldbc
  · exact .vissue hs -- vstm
  · exact .vissue hs -- vadd
  · exact .vissue hs -- vsub
  · exact .vissue hs -- vmul
  · exact .vissue hs -- vmulh
  · exact .vissue hs -- vmac
  · exact .vissue hs -- vmin
  · exact .vissue hs -- vmax
  · exact .vissue hs -- vminu
  · exact .vissue hs -- vmaxu
  · exact .vissue hs -- vand
  · exact .vissue hs -- vor
  · exact .vissue hs -- vxor
  · exact .vissue hs -- vshl
  · exact .vissue hs -- vshr
  · exact .vissue hs -- vsar
  · exact .vissue hs -- vclmul
  · exact .vissue hs -- vclmulh
  · exact .vissue hs -- vpopc
  · exact .vissue hs -- vfadd
  · exact .vissue hs -- vfsub
  · exact .vissue hs -- vfmul
  · exact .vissue hs -- vfma
  · exact .vissue hs -- vfmin
  · exact .vissue hs -- vfmax
  · exact .vissue hs -- vfdiv
  · exact .vissue hs -- vfsqrt
  · exact .vissue hs -- vcmp
  · exact .vissue hs -- vfcmp
  · exact .vissue hs -- vsel
  · exact .vissue hs -- vbcast
  · exact .vissue hs -- vext
  · exact .vissue hs -- vins
  · exact .vissue hs -- vperm
  · exact .vissue hs -- vslide
  · exact .vissue hs -- vred
  · exact .vissue hs -- vcvt
  · exact .vissue hs -- vmxs
  · exact .vissue hs -- vmxq
  · exact .vissue hs -- vmxd
  · exact .vissue hs -- vdot
  · exact .rpt hs -- rpt
  · exact .matPush hs -- mfmt
  · exact .matPush hs -- mzero
  · exact .matPush hs -- mma
  · exact .matPush hs -- mmas
  · exact .matPush hs -- mldc
  · exact .matPush hs -- mstc
  · exact .matPush hs -- mprog
  · exact .matPush hs -- mrec
  · exact .matPush hs -- mtlist
  · exact .profile (.done (.defer hs)) hs -- mpop
  · exact .arrayPush hs -- aand
  · exact .arrayPush hs -- aor
  · exact .arrayPush hs -- axor
  · exact .arrayPush hs -- anor
  · exact .arrayPush hs -- anand
  · exact .arrayPush hs -- axnor
  · exact .arrayPush hs -- anot
  · exact .arrayPush hs -- acopy
  · exact .arrayPush hs -- afadd
  · exact .arrayPush hs -- afsub
  · exact .arrayPush hs -- aldp
  · exact .arrayPush hs -- aldc
  · exact .arrayPush hs -- astp
  · exact .arrayPush hs -- astc
  · exact .arrayPush hs -- ashl
  · exact .arrayPush hs -- ashr
  · exact .arrayPush hs -- aadd
  · exact .arrayPush hs -- asub
  · exact .arrayPush hs -- amul
  · exact .arrayPush hs -- amac
  · exact .arrayPush hs -- acmplt
  · exact .arrayPush hs -- amax
  · exact .arrayPush hs -- aneg
  · exact .arrayPush hs -- aabs
  · exact .arrayPush hs -- aadds
  · exact .arrayPush hs -- asubs
  · exact .arrayPush hs -- asel
  · exact .arrayPush hs -- asetrb
  · exact .arrayPush hs -- axin
  · exact .arrayPush hs -- axout
  · exact .arrayPush hs -- adot
  · exact .arrayPush hs -- abuf
  · exact .arrayPush hs -- aout
  · exact .arrayPush hs -- achk
  · exact .profile (.copWord (fun _ ht => .advance (.modC (.ringMark (.dispatch ht)))) hs) hs -- await
  · exact .next (.parkFirst (fun _ ht => .dregFrom ht) hs) -- dreg
  · exact .next (.parkFirst (fun _ ht => .dunregFrom ht) hs) -- dunreg
  · exact .dstat hs -- dstat
  · exact .dfresh hs -- dfresh
  · exact .tkenq hs -- tkenq
  · exact .tkenqn hs -- tkenqn
  · -- tkpop
    exact .profile (.privileged (.ite (.trap hs) (.ite (.sendDeferred hs) (.done (.deferG (.popAt rfl hs))))) hs) hs
  · -- tksteal
    exact .farOnly (.privileged (.ite (.trap hs) (.ite (.trap hs) (.ite (.sendDeferred hs) (.done (.deferG (.steal rfl hs)))))) hs) hs
  · exact .next (.parkFirst (fun _ ht => .ite (.finishTask ht) (.trapAt ht)) hs) -- tkdone
  · exact .ite (.trap hs) (.done (.deferG hs)) -- tkdepth
  · -- tkqcfg
    exact .privileged (.ite (.trap hs) (.ite (.trap hs) (.reading (.done (.deferG (.configureAt rfl hs))) hs))) hs
  · exact .ite (.done (.ite (.sendOut hs) (.castVote hs))) (.trap hs) -- lapv
  · exact .ite (.waitOn hs) (.trap hs) -- lapw
  · exact .engPush hs -- ecpy
  · exact .engBlock hs -- ecpy2
  · exact .engBlock hs -- egath
  · exact .engBlock hs -- escat
  · exact .engPush hs -- efill
  · exact .engPush hs -- eovl
  · exact .done (.deferG (.setUnit hs)) -- epin
  · exact .done (.modU hs) -- eunpin
  · exact .engBlock hs -- ebulk
  · exact .done (.defer hs) -- epop
  · exact .done (.deferG hs) -- estat
  · -- nrprog
    exact .stackOnly (.ite (.trap hs) (.ite (.trap hs) (.reading (.ite (.trap hs) (.done (.modNear hs))) hs))) hs
  · -- nrrun
    exact .stackOnly (.ite (.trap hs) (.ite (.trap hs) (.ite (.trap hs) (.reading (.ite (.trap hs) (.done (.modNear (.tick hs)))) hs)))) hs
  · exact .stackOnly (.done (.deferG hs)) hs -- nrstat
  · exact .stackOnly (.ite (.trap hs) (.done (.defer hs))) hs -- nrwait
  · exact .trap hs -- trap
  · exact .privileged (.next (.parkFirst (fun _ ht => .eretFrom ht) hs)) hs -- eret
  · exact .privileged (.next (.parkFirst (fun _ ht => .tlbinvFrom ht) hs)) hs -- tlbinv
  · exact .privileged (.next (.parkFirst (fun _ ht => .genadvFrom ht) hs)) hs -- genadv
  · exact .privileged (.next (.parkFirst (fun _ ht => .floorFrom ht) hs)) hs -- genadvFloor
  · exact .profile (.privileged (.ite (.trap hs) (.done (.modCtx (.modU hs)))) hs) hs -- cbswap
  · -- cbswapSeal
    exact .profile
      (.privileged (.next (.parkFirst (fun _ ht => .ite (.trapAt ht) (.ite (.waitFirst ht) (.advance (.reseal ht)))) hs)) hs) hs
  · exact .cbswapUnit hs -- cbswapUnit
  · exact .privileged (.next (.parkFirst (fun _ ht => .stopcFrom ht) hs)) hs -- stopc
  · exact .trap hs -- bkpt
  · exact .privileged (.ite (.waitOn hs) (.trap hs)) hs -- haltc
  · exact .ringEvent (.frsWrite rfl hs) hs -- frsWrite
  · exact .ringEvent (.frbWrite rfl hs) hs -- frbWrite
  · exact .next (.modC hs) -- srseedWrite
  · exact .next (.ite (.clearCounters hs) hs) -- msgctlCclr
  · exact .ite (.next (.plcfgWrite hs)) (.next hs) -- plcfgWrite
  · exact .nmctlEvent hs -- nmctlArm
  · exact .nmctlEvent hs -- nmctlKey
  · exact .nmctlEvent hs -- nmctlCommit
  · exact .nmctlEvent hs -- nmctlExit
  · exact .nmctlEvent hs -- nmctlCancel
  · exact .enterNear hs -- enterNear
  · exact .next (.putTrctl hs) -- trctlWrite
  · exact .next (.setG (.readClears hs)) -- hendRead
  · exact .next (.setG (.readClears hs)) -- hdeadRead
  · exact .next (.setG (.readClears hs)) -- errlogRead
  · exact .next (.ite (.parkNow hs) hs) -- park
  · exact .next (.ite (.parkNow hs) hs) -- implicitPark
  · exact .ite (.next (.helperAbsent hs)) (.next hs) -- helperCodeAbsent
  · -- redispatch
    exact .ite (.next (.modCtx (.redoEntries rfl hs)))
      (.ite (.next hs) (.ite (.next (.modCtx (.redoEntries rfl hs))) (.ite (.next (.modCtx (.resolve (.redoEntries rfl hs)))) (.next
      (.resumeReplay (.modCtx (.land (.resolve (.redoEntries rfl hs)))))))))
  · exact .replayPass hs -- replayPass
  · exact .ite (.next (.resumeReplay hs)) (.next hs) -- replayResume
  · exact .vectorExecute hs -- vectorExecute
  · exact .matrixGrant hs -- matrixGrant
  · exact .next (.ite (.matStop hs) hs) -- matrixStopBoundary
  · exact .arrayExecute hs -- arrayExecute
  · exact .performEvent hs -- arrayHeldAccess
  · exact .arrayHalt hs -- arrayHalt
  · exact .performEvent hs -- homeLoad
  · exact .performEvent hs -- homeStore
  · exact .performEvent hs -- homeAtomic
  · exact .readCacheFill hs -- readCacheFill
  · exact .pageWalk hs -- pageWalk
  · exact .next (.tlbInvalidateDie (.tlbInvalidateUnit hs)) -- tlbInvalidateRequest
  · exact .next (.foldl (fun _ _ ht => .advanceAt ht) hs) -- genAdvanceRequest
  · exact .performEvent hs -- mergeContribution
  · exact .mergeRetry hs -- mergeRetry
  · exact .performEvent hs -- putDeliver
  · exact .performEvent hs -- getServe
  · exact .counterIncrement hs -- counterIncrement
  · exact .next (.retryHeld hs) -- handOffRetry
  · exact .performEvent hs -- messageDeposit
  · exact .next (.retryHeld hs) -- messageRetry
  · exact .quiescenceDetect hs -- quiescenceDetect
  · exact .performEvent hs -- taskAccept
  · exact .next (.foldl (fun _ _ ht => .ite (.beaconSend ht) ht) hs) -- beaconResend
  · exact .enqueueRetry hs -- enqueueRetry
  · exact .next (.refill hs) -- spillRefill
  · exact .popDecide hs -- popDecide
  · exact .stealDecide hs -- stealDecide
  · exact .taskComplete hs -- taskComplete
  · exact .next (.ageTask hs) -- priorityAging
  · exact .lapVoteArrive hs -- lapVoteArrive
  · exact .lapClose hs -- lapClose
  · exact .engineCommandBegin hs -- engineCommandBegin
  · exact .engineCommandComplete hs -- engineCommandComplete
  · exact .bulkCommand hs -- bulkCommand
  · exact .next (.ite (.modUnit hs) hs) -- engineSuspend
  · exact .ite (.next (.markFrom (.markTile hs))) (.next hs) -- staleMark
  · exact .performEvent hs -- baseWriteRelease
  · exact .recompute hs -- recompute
  · exact .dfreshRequest hs -- dfreshRequest
  · exact .rowSlot hs -- rowSlot
  · exact .ite (.next (.modNear (.serveHeld hs))) (.next hs) -- arbitrationWindow
  · exact .next (.ite (.modNear hs) hs) -- streamSuspend
  · exact .next (.stopArrive hs) -- stopArrival
  · exact .unitWatchdog hs -- unitWatchdog
  · exact .launchResume hs -- launchResume
  · exact .handOffTaskStart hs -- handOffTaskStart
  · exact .nearModeTaskGrant hs -- nearModeTaskGrant
  · exact .next (.postRecord hs) -- launchRecordPost
  · exact .launchStart hs -- launchStart
  · exact .launchRecordAging hs -- launchRecordAging
  · exact .completionWrite hs -- completionWrite
  · exact .next (.setLq hs) -- crheadWrite
  · exact .next (.lqWrite hs) -- lqcfgWrite
  · exact .next (.cancelLaunch hs) -- lstopWrite
  · exact .next (.pwrlimWrite hs) -- pwrlimWrite
  · exact .next (.herrClear hs) -- herrClear
  · exact .next hs -- dropcntWrite
  · exact .hostAccess hs -- hostAccess
  · exact .hostReadTimeout hs -- hostReadTimeout
  · exact .next (.attRequest hs) -- attestationRequest
  · exact .ite (.next (.mk hs)) (.next hs) -- quoteComplete
  · -- flitReceive
    exact .ite (.next hs) (.ite (.next (.ite hs (.foldl (fun _ _ ht => .performAtOffset ht) hs))) (.next (.modPort hs)))
  · exact .ite (.next (.modPort hs)) (.next hs) -- linkRetrain
  · -- mirrorRecord
    exact .ite (.next (.useFree hs)) (.next (.failRetired (.foldl (fun _ _ ht => .startVoter ht) (.mk (.useFree hs)))))
  · exact .next (State.keptMem_wf hs) -- deviceReset
  · exact .ite (.next hs) (.ite (.next hs) (.ite (.next (.mk (.management hs))) (.next hs))) -- bootStageAdvance
  · exact .ite (.next hs) (.ite (.next hs) (.next (.foldl (fun _ _ ht => .sendStop ht) hs))) -- fullServiceTransition
  · exact .next hs -- powerControl
  · exact .next (.ite (.logErr (.ite (.scrubbed hs) hs)) (.failUnit (.logErr (.ite (.scrubbed hs) hs)))) -- scrub
  · exact .next (.failRetired hs) -- unitDisable
  · exact .next (.beaconArrive hs) -- beaconArrival
  · exact .next (.modHome hs) -- generationFloorRequest
  · exact .ite (.next (.modPort hs)) (.next hs) -- linkRetrainingEnd

/-! ## The operations of Machine/Fetch.lean -/

theorem State.memOk.focus {s : State} {u c : Nat} {async : Bool} (hs : s.memOk) : (s.focus u c async).memOk := .mk (.modUnit hs)

theorem Fetched.memOk.issueFetchOf {s : State} (hs : s.memOk) : Fetched.memOk (issueFetch s) := by
  unfold issueFetch
  refine .ite (.done hs) ?_
  split
  · rename_i he
    exact .done (.trapAt (.fillResident he hs))
  · rename_i he
    split
    · exact .word (.fillResident he hs)
    · exact .done (.codeAbsent (.fillResident he hs))

theorem State.memOk.loadWord {s : State} {w : Word32} {mark : Bool} (hs : s.memOk) : (s.loadWord w mark).memOk :=
  .modLaunch (.modC (.modU hs))

theorem Out.memOk.checked {s : State} {barred : Bool} {act : State → Out} (hact : ∀ t, t.memOk → Out.memOk (act t)) (hs : s.memOk) :
    Out.memOk (s.checked barred act) := by
  unfold State.checked
  split
  · exact hact _ hs
  · exact .ite (.trap (.logErr hs)) (hact _ (.logErr hs))

/-! ## The operations of Machine/Schedule.lean -/

theorem Out.memOk.stepIssueOf {s : State} {u c : Nat} {async : Bool} (hs : s.memOk) : Out.memOk (stepIssue s u c async) := by
  have hfocus : (s.focus u c async).memOk := .focus hs
  unfold stepIssue
  refine .ite .fault (.ite (.execOf hfocus) (.ite (.execOf hfocus) ?_))
  have hfetch := Fetched.memOk.issueFetchOf hfocus
  split
  · rename_i hdone
    exact .next (.of_fetched_done hdone hfetch)
  · rename_i hword
    have hs2 := State.memOk.of_fetched_word hword hfetch
    split
    · exact .trapWord (.loadWord hs2)
    · exact .checked (fun _ ht => .execOf ht) (.loadWord hs2)

theorem State.memOk.runtimeNext {s t : State} (hf : s.runtimeNext = some t) (hs : s.memOk) : t.memOk := by
  unfold State.runtimeNext at hf
  obtain ⟨u, _, hu⟩ := List.exists_of_findSome?_eq_some hf
  obtain ⟨x, _, hx⟩ := List.exists_of_findSome?_eq_some hu
  exact .runtimeMove hx hs

theorem Out.memOk.stepChoiceOf {s : State} {ch : Choice} (hs : s.memOk) : Out.memOk (stepChoice s ch) := by
  unfold stepChoice
  split
  · exact .stepIssueOf hs
  · exact .ite (.execOf hs) .fault
  · split
    · rename_i hmove
      exact .next (.runtimeMove hmove hs)
    · exact .fault
  · exact .next hs
  · exact .next (.resizeBar2 hs)

theorem Out.memOk.stepDefaultOf {s : State} (hs : s.memOk) : Out.memOk (stepDefault s) := by
  unfold stepDefault
  split
  · exact .execOf hs
  · split
    · rename_i hmove
      exact .next (.runtimeNext hmove hs)
    · split
      · exact .stepIssueOf hs
      · split
        · exact .execOf hs
        · exact .next hs

/-! ## The operations of Machine/Step.lean -/

/-- A step keeps the form, whether the schedule names it or not. -/
theorem Out.memOk.stepOf {s : State} (hs : s.memOk) : Out.memOk (step s) := by
  unfold step
  refine .latchedOf ?_
  split
  · exact .stepChoiceOf (s := { s with sched := _ }) hs
  · exact .stepDefaultOf hs

/-! ## The obligation -/

/-- Settles O60: the step's outcome is the choice of the schedule or the default move, and each is made of operations that keep the form. -/
theorem memoryStaysCanonical : Obligations.MemoryStaysCanonical := by
  unfold Obligations.MemoryStaysCanonical
  intro s t hs hstep
  exact .of_out_next hstep (.stepOf hs)

end Sys2Proof.Machine
end

section
/-! SUPPORT: numbers from bytes, the width of a rounded result, and the operation of an atomic as 07_ordering gives it. -/

namespace Sys2Proof.Machine

open Claims

/-! ## Numbers from bytes (R3, R123) -/

theorem digits_succ (w n : Nat) (f : Nat → Nat) : digits w (n + 1) f = f 0 + w * digits w n fun k => f (k + 1) := by
  have h : ∀ k, f (k + 1) * w ^ (k + 1) = w * (f (k + 1) * w ^ k) := fun k => by ring
  simp [digits, List.range_succ_eq_map, List.map_map, Function.comp_def, h, List.sum_map_mul_left]

/-- The little-endian number of a run of bytes is that of the list of them. -/
theorem leNat_read (m : Memory) (a n : Nat) : (leNat n fun k => m.read (a + k)) = natOfBytes (m.readBytes a n) := by
  unfold leNat
  induction n generalizing a with
  | zero => rfl
  | succ n ih =>
    have hrest : (fun k => (m.read (a + (k + 1))).toNat) = fun k => (m.read (a + 1 + k)).toNat :=
      funext fun k => by rw [Nat.add_assoc, Nat.add_comm 1]
    rw [digits_succ, hrest, ih (a + 1)]
    rfl

theorem natOfBytes_lt (bs : List Byte) : natOfBytes bs < 2 ^ (8 * bs.length) := by
  induction bs with
  | nil => simp [natOfBytes]
  | cons b rest ih =>
    have hb := b.isLt
    have hpow : 2 ^ (8 * (rest.length + 1)) = 256 * 2 ^ (8 * rest.length) := by rw [Nat.mul_succ, Nat.pow_add]; ring
    simp only [natOfBytes, List.length_cons, hpow]
    omega

theorem natOfBytes_bytesOfNat_of_lt {n x : Nat} (h : x < 2 ^ (8 * n)) : natOfBytes (bytesOfNat n x) = x := by
  rw [natOfBytes_bytesOfNat, show (256 : Nat) = 2 ^ 8 from rfl, ← Nat.pow_mul, Nat.mod_eq_of_lt h]

/-- The top bit of a number of `n` bits says whether it stands in the upper half. -/
theorem testBit_top {n x : Nat} (hn : 0 < n) (hx : x < 2 ^ n) : x.testBit (n - 1) = decide (2 ^ (n - 1) ≤ x) := by
  have hpow : 2 ^ n = 2 * 2 ^ (n - 1) := by rw [← Nat.pow_succ', Nat.succ_eq_add_one, Nat.sub_add_cancel hn]
  have hpos : 0 < 2 ^ (n - 1) := Nat.two_pow_pos _
  have hdiv : x / 2 ^ (n - 1) < 2 := Nat.div_lt_of_lt_mul (by omega)
  have hiff : 2 ^ (n - 1) ≤ x ↔ 1 ≤ x / 2 ^ (n - 1) := by rw [Nat.le_div_iff_mul_le hpos, Nat.one_mul]
  rw [Nat.testBit_eq_decide_div_mod_eq, decide_eq_decide, hiff]
  generalize x / 2 ^ (n - 1) = q at *
  omega

theorem sNat_eq_sgn {n x : Nat} (hn : 0 < n) (hx : x < 2 ^ n) : sNat n x = sgn n x := by
  simp only [sNat, intOfBits, Nat.mod_eq_of_lt hx, Bool.true_and, testBit_top hn hx, sgn, decide_eq_true_eq]

theorem sext_natCast {n x : Nat} (hx : x < 2 ^ n) : sext n x = BitVec.ofInt 64 (sgn n x) := by
  have h : ((x : Int) % 2 ^ n).toNat = x := by
    rw [show ((2 : Int) ^ n) = ((2 ^ n : Nat) : Int) by norm_cast, ← Int.natCast_mod, Int.toNat_natCast, Nat.mod_eq_of_lt hx]
  rw [sext, h]

/-- Bytes extended as R123 says. -/
theorem extendBytes_eq {bs : List Byte} (signed : Bool) (h : 0 < bs.length) :
    extendBytes signed bs = if signed then sext (8 * bs.length) (natOfBytes bs) else BitVec.ofNat 64 (natOfBytes bs) := by
  have hlt := natOfBytes_lt bs
  have htop := testBit_top (n := 8 * bs.length) (by omega) hlt
  cases signed with
  | false => simp [extendBytes]
  | true =>
    simp only [extendBytes, Bool.true_and, htop, decide_eq_true_eq, if_true, sext_natCast hlt, sgn]
    split
    · rfl
    · rw [BitVec.ofInt_natCast]

theorem extendBytes_readBytes {m : Memory} {a n : Nat} (signed : Bool) (h : 0 < n) :
    extendBytes signed (m.readBytes a n) = loadValue signed n fun k => m.read (a + k) := by
  rw [extendBytes_eq signed (by simpa using h), Memory.readBytes_length, loadValue, leNat_read]

/-! ## A rounded result fits its format (R186, R196) -/

theorem pow2_pos (q : Int) : 0 < (pow2 q).1 ∧ 0 < (pow2 q).2 := by
  unfold pow2
  split <;> simp

/-- The two parts of a power of two are its numerator and denominator. -/
theorem pow2_fst_eq (q : Int) : ((pow2 q).1 : ℚ) = 2 ^ q * (pow2 q).2 := by
  unfold pow2
  split
  · rename_i h
    obtain ⟨n, rfl⟩ := Int.eq_ofNat_of_zero_le h
    simp
  · rename_i h
    obtain ⟨n, rfl⟩ := Int.exists_eq_neg_ofNat (by omega : q ≤ 0)
    simp

theorem ilog2_lt (num : Nat) {den : Nat} (hd : 0 < den) : (num : ℚ) < 2 ^ (ilog2 num den + 1) * den := by
  have hdq : (0 : ℚ) < den := by exact_mod_cast hd
  unfold ilog2
  extract_lets e d
  have hden2 : (0 : ℚ) < (pow2 e).2 := by exact_mod_cast (pow2_pos e).2
  split
  · rename_i h
    have hq : (num : ℚ) * (pow2 e).2 < den * (pow2 e).1 := by
      simp only [d, scale2, Nat.one_mul] at h
      exact_mod_cast h
    rw [pow2_fst_eq] at hq
    rw [sub_add_cancel]
    nlinarith
  · have hnum : (num : ℚ) < 2 ^ (Nat.log2 num + 1) := by exact_mod_cast Nat.lt_log2_self
    have hlog : (2 : ℚ) ^ Nat.log2 den ≤ den := by exact_mod_cast Nat.log2_self_le hd.ne'
    calc (num : ℚ) < 2 ^ (Nat.log2 num + 1) := hnum
      _ = 2 ^ (e + 1) * 2 ^ Nat.log2 den := by
        rw [← zpow_natCast, ← zpow_natCast, ← zpow_add₀ two_ne_zero]
        congr 1
        simp only [e]
        push_cast
        ring
      _ ≤ 2 ^ (e + 1) * den := by gcongr

theorem roundNat_le (rm : RM) (s : Word32) (neg : Bool) (num den : Nat) : (roundNat rm s neg num den).1 ≤ num / den + 1 := by
  unfold roundNat
  extract_lets t r up
  show (if up = true then t + 1 else t) ≤ t + 1
  split <;> omega

/-- A magnitude rounded at a quantum no finer than a format's needs at most one bit more than the significand. -/
theorem roundAt_le (rm : RM) (s : Word32) (neg : Bool) {num den m : Nat} (q : Int) (hq : ilog2 num den - m ≤ q) :
    (roundAt rm s neg num den q).1 ≤ 2 ^ (m + 1) := by
  refine (roundNat_le ..).trans ?_
  suffices h : num * (pow2 q).2 / (den * (pow2 q).1) < 2 ^ (m + 1) from h
  rcases Nat.eq_zero_or_pos den with rfl | hd
  · simp
  obtain ⟨h1, h2⟩ := pow2_pos q
  rw [Nat.div_lt_iff_lt_mul (Nat.mul_pos hd h1)]
  have h2q : (0 : ℚ) < (pow2 q).2 := by exact_mod_cast h2
  have hdq : (0 : ℚ) < den := by exact_mod_cast hd
  have hle : (2 : ℚ) ^ (ilog2 num den + 1) ≤ 2 ^ (m + 1) * 2 ^ q := by
    rw [← zpow_natCast, ← zpow_add₀ two_ne_zero]
    refine zpow_le_zpow_right₀ one_le_two ?_
    push_cast
    omega
  have h : (num : ℚ) * (pow2 q).2 < 2 ^ (m + 1) * (den * (pow2 q).1) := by
    calc (num : ℚ) * (pow2 q).2 < 2 ^ (ilog2 num den + 1) * den * (pow2 q).2 := by
          gcongr
          exact ilog2_lt num hd
      _ ≤ 2 ^ (m + 1) * 2 ^ q * den * (pow2 q).2 := by gcongr
      _ = 2 ^ (m + 1) * (den * (pow2 q).1) := by rw [pow2_fst_eq]; ring
  exact_mod_cast h

theorem renorm_lt {m k : Nat} (q : Int) (h : k ≤ 2 ^ (m + 1)) : (renorm m k q).1 < 2 ^ (m + 1) := by
  unfold renorm
  have hpow : 2 ^ (m + 1) = 2 * 2 ^ m := Nat.pow_succ'
  have hpos := Nat.two_pow_pos m
  split <;> dsimp only <;> omega

/-- The formats of R186 whose finite exponents fill the exponent field but for its last code. -/
structure BinFmt.Full (f : BinFmt) : Prop where
  width_eq : f.width = f.ebits + f.mbits + 1
  emax_eq : f.emax = f.bias
  bias_eq : 2 * f.bias + 2 = 2 ^ f.ebits
  canon_lt : f.canon < 2 ^ f.width

theorem fmtOf_full (dbl : Bool) : (fmtOf dbl).Full := by
  cases dbl with
  | false => exact ⟨rfl, rfl, rfl, by decide⟩
  | true => exact ⟨rfl, rfl, rfl, by decide⟩

namespace BinFmt.Full
variable {f : BinFmt} (hf : f.Full)
include hf

theorem half_eq : 2 ^ (f.width - 1) = 2 ^ f.ebits * 2 ^ f.mbits := by
  rw [hf.width_eq, Nat.add_sub_cancel, Nat.pow_add]

theorem zeroBits_add_lt (neg : Bool) {x : Nat} (h : x < 2 ^ (f.width - 1)) : f.zeroBits neg + x < 2 ^ f.width := by
  have hwhole : 2 ^ f.width = 2 ^ (f.width - 1) + 2 ^ (f.width - 1) := by
    rw [hf.width_eq, Nat.add_sub_cancel, Nat.pow_succ, Nat.mul_two]
  unfold BinFmt.zeroBits
  split <;> omega

theorem zeroBits_lt (neg : Bool) : f.zeroBits neg < 2 ^ f.width := hf.zeroBits_add_lt neg (x := 0) (Nat.two_pow_pos _)

theorem infBits_lt (neg : Bool) : f.infBits neg < 2 ^ f.width := by
  refine hf.zeroBits_add_lt neg ?_
  rw [hf.half_eq]
  exact Nat.mul_lt_mul_of_pos_right (Nat.sub_lt (Nat.two_pow_pos _) Nat.one_pos) (Nat.two_pow_pos _)

theorem pack_lt (neg : Bool) {k : Nat} {q : Int} (hk : k < 2 ^ (f.mbits + 1)) (hq : q + f.mbits ≤ f.emax) :
    f.pack neg k q < 2 ^ f.width := by
  have hemax := hf.emax_eq
  have hbias := hf.bias_eq
  have hpow : 2 ^ (f.mbits + 1) = 2 ^ f.mbits + 2 ^ f.mbits := by rw [Nat.pow_succ, Nat.mul_two]
  refine hf.zeroBits_add_lt neg ?_
  rw [hf.half_eq]
  split
  · have hle : 2 ^ f.mbits ≤ 2 ^ f.ebits * 2 ^ f.mbits := Nat.le_mul_of_pos_left _ (Nat.two_pow_pos _)
    omega
  · have he : (q + f.mbits + f.bias).toNat + 2 ≤ 2 ^ f.ebits := by omega
    have hmul := Nat.mul_le_mul_right (2 ^ f.mbits) he
    rw [Nat.add_mul] at hmul
    omega

theorem roundTo_rne_lt (s : Word32) (neg : Bool) (num den : Nat) : (f.roundTo .ieee .rne s neg num den).1 < 2 ^ f.width := by
  unfold BinFmt.roundTo
  extract_lets e emin qfree free freeN tiny q r n
  have hq : e - f.mbits ≤ q := by
    dsimp only [q, qfree]
    split
    · rename_i h
      simp only [Bool.and_eq_true, decide_eq_true_eq] at h
      omega
    · exact le_rfl
  split
  · exact hf.zeroBits_lt neg
  · split
    · exact hf.infBits_lt neg
    · rename_i hfits
      refine hf.pack_lt neg (renorm_lt q (roundAt_le _ _ _ _ hq)) ?_
      by_contra hbig
      simp [show (f.emax : Int) < n.2 + f.mbits by omega] at hfits

/-- The sum of R203, rounded to nearest even, is a number of the format's width. -/
theorem fpOp_add_lt (a b : Nat) : (fpOp f .add .rne 0#32 a b).1 < 2 ^ f.width := by
  unfold fpOp finishOp BinFmt.deliver
  dsimp only
  split
  · exact hf.canon_lt
  · exact hf.infBits_lt _
  · split
    · exact hf.zeroBits_lt _
    · exact hf.roundTo_rne_lt ..

theorem fMinMaxA_lt (max : Bool) {a b : Nat} (ha : a < 2 ^ f.width) (hb : b < 2 ^ f.width) : fMinMaxA f max a b < 2 ^ f.width := by
  have hcanon := hf.canon_lt
  unfold fMinMaxA
  dsimp only
  split_ifs <;> assumption

end BinFmt.Full

/-! ## The operation of an atomic (R132, R133) -/

/-- The width of an atomic in bits (R131). -/
def amoBits (dbl : Bool) : Nat := if dbl then 64 else 32

theorem amoBits_eq (dbl : Bool) : amoBits dbl = 8 * amoSize dbl := by cases dbl <;> rfl

theorem amoBits_div (dbl : Bool) : amoBits dbl / 8 = amoSize dbl := by cases dbl <;> rfl

theorem amoBits_pos (dbl : Bool) : 0 < amoBits dbl := by cases dbl <;> decide

theorem width_fmtOf (dbl : Bool) : (fmtOf dbl).width = amoBits dbl := by cases dbl <;> rfl

theorem fmtOf_eq (dbl : Bool) : (if amoBits dbl = 64 then bFP64 else bFP32) = fmtOf dbl := by cases dbl <;> rfl

theorem opNat_eq (dbl : Bool) (w : Word) : opNat dbl w = w.toNat % 2 ^ amoBits dbl := by
  cases dbl with
  | false => rfl
  | true => exact (Nat.mod_eq_of_lt w.isLt).symm

theorem opNat_lt (dbl : Bool) (w : Word) : opNat dbl w < 2 ^ amoBits dbl := by
  rw [opNat_eq]
  exact Nat.mod_lt _ (Nat.two_pow_pos _)

section
variable {dbl : Bool} {old v : Nat} (ho : old < 2 ^ amoBits dbl) (hv : v < 2 ^ amoBits dbl)
include ho hv

/-- What the model computes is R132's result. -/
theorem atomicResult_eq (op : AmoOp) : atomicResult (amoBits dbl) op old v = some (amoApply op dbl old v) := by
  have hn := amoBits_pos dbl
  unfold atomicResult amoApply
  rw [fmtOf_eq]
  cases op with
  | min => rw [← sNat_eq_sgn hn ho, ← sNat_eq_sgn hn hv]; rfl
  | max => rw [← sNat_eq_sgn hn ho, ← sNat_eq_sgn hn hv]; rfl
  | _ => rfl

theorem amoApply_lt (op : AmoOp) : amoApply op dbl old v < 2 ^ amoBits dbl := by
  have hf := fmtOf_full dbl
  have hw := width_fmtOf dbl
  have hpick : ∀ (c : Prop) [Decidable c], (if c then old else v) < 2 ^ amoBits dbl := fun c _ => by split <;> assumption
  cases op with
  | add => exact Nat.mod_lt _ (Nat.two_pow_pos _)
  | and => exact Nat.and_lt_two_pow _ hv
  | or => exact Nat.or_lt_two_pow ho hv
  | xor => exact Nat.xor_lt_two_pow ho hv
  | min => exact hpick _
  | max => exact hpick _
  | minu => exact hpick _
  | maxu => exact hpick _
  | swap => exact hv
  | cas => exact hv
  | fadd => exact hw ▸ hf.fpOp_add_lt old v
  | fmin => exact hw ▸ hf.fMinMaxA_lt false (hw ▸ ho) (hw ▸ hv)
  | fmax => exact hw ▸ hf.fMinMaxA_lt true (hw ▸ ho) (hw ▸ hv)

end

end Sys2Proof.Machine
end

section
/-! SUPPORT, then O18: what a home does with an access to DRAM. Where nothing watches memory, a read is of the bytes that stand there and a
write changes those bytes alone, so an access is one update of the memory (`State.withMem`); a contribution is that update, or none, and one
replaced entry of the home's table, by the branch of `State.mergeAccept` that its index takes. -/

namespace Sys2Proof.Machine

open Claims

/-! ## Bytes written and read one by one (R3) -/

theorem Memory.getElem_readBytes (m : Memory) (a n k : Nat) (h : k < (m.readBytes a n).length) : (m.readBytes a n)[k] = m.read (a + k) := by
  induction n generalizing a k with
  | zero => simp at h
  | succ n ih =>
    cases k with
    | zero => rfl
    | succ k =>
      have hstep : a + 1 + k = a + (k + 1) := by omega
      simp only [Memory.readBytes, List.getElem_cons_succ, ih, hstep]

theorem getElem_bytesOfNat (n x k : Nat) (h : k < (bytesOfNat n x).length) : (bytesOfNat n x)[k] = BitVec.ofNat 8 (x / 256 ^ k) := by
  induction n generalizing x k with
  | zero => simp at h
  | succ n ih =>
    cases k with
    | zero => simp [bytesOfNat]
    | succ k => simp only [bytesOfNat, List.getElem_cons_succ, ih, Nat.div_div_eq_div_mul, Nat.pow_succ']

theorem getElem_bytesOf (n : Nat) (w : Word) (k : Nat) (h : k < (bytesOf n w).length) : (bytesOf n w)[k] = w.extractLsb' (8 * k) 8 := by
  unfold bytesOf at h ⊢
  refine BitVec.eq_of_toNat_eq ?_
  rw [getElem_bytesOfNat, BitVec.extractLsb'_toNat, BitVec.toNat_ofNat, Nat.shiftRight_eq_div_pow, Nat.pow_mul]

theorem Memory.read_writeBytes_getElem {m : Memory} (hm : m.wf = true) (a : Nat) (bs : List Byte) {k : Nat} (h : k < bs.length) :
    (m.writeBytes a bs).read (a + k) = bs[k] := by
  have hsame := Memory.readBytes_writeBytes_same a bs hm
  rw [← Memory.getElem_readBytes _ _ bs.length k (by simpa using h)]
  simp only [hsame]

/-! ## A state with another memory -/

/-- The state with its memory replaced. -/
def State.withMem (s : State) (m : Memory) : State := { s with mem := m }

@[simp] theorem State.ctx_withMem (s : State) (m : Memory) (u c : Nat) : (s.withMem m).ctx u c = s.ctx u c := rfl
@[simp] theorem State.unit_withMem (s : State) (m : Memory) (u : Nat) : (s.withMem m).unit u = s.unit u := rfl
@[simp] theorem State.dramSize_withMem (s : State) (m : Memory) : (s.withMem m).dramSize = s.dramSize := rfl

/-! ## Bytes in DRAM (R25, R111) -/

theorem State.place_dram {s : State} {pa : Nat} (h : pa < s.dramSize) : ∃ p off, s.place pa = .dram p off := by
  unfold State.place
  rw [if_pos h]
  exact ⟨_, _, rfl⟩

theorem State.physBytes_dram {s : State} {pa n : Nat} (h : pa + n ≤ s.dramSize) : s.physBytes pa n = s.mem.readBytes pa n := by
  induction n generalizing pa with
  | zero => rfl
  | succ n ih =>
    obtain ⟨p, off, hp⟩ := State.place_dram (s := s) (pa := pa) (by omega)
    have hbyte : s.physByte pa = s.mem.read pa := by rw [State.physByte, hp]
    rw [State.physBytes, Memory.readBytes, hbyte, ih (by omega)]

theorem State.setPhysBytes_dram {s : State} {pa : Nat} {bs : List Byte} (h : pa + bs.length ≤ s.dramSize) :
    s.setPhysBytes pa bs = s.withMem (s.mem.writeBytes pa bs) := by
  induction bs generalizing s pa with
  | nil => rfl
  | cons b rest ih =>
    rw [List.length_cons] at h
    obtain ⟨p, off, hp⟩ := State.place_dram (s := s) (pa := pa) (by omega)
    have hbyte : s.setPhysByte pa b = s.withMem (s.mem.write pa b) := by rw [State.setPhysByte, hp]; rfl
    rw [State.setPhysBytes, hbyte]
    exact ih (s := s.withMem (s.mem.write pa b)) (by rw [State.dramSize_withMem]; omega)

/-! ## A memory that nothing watches (R129, R147, R301) -/

/-- No rule derives a tile, no tile is stale, no error stands in stored data, no home traces its writes. -/
structure State.Unwatched (s : State) : Prop where
  rules : s.rules = []
  stale : s.stale = []
  upsets : s.upsets = []
  trace : ∀ h, (s.home h).trace.en = false

theorem State.Unwatched.withMem {s : State} (hs : s.Unwatched) (m : Memory) : (s.withMem m).Unwatched :=
  ⟨hs.rules, hs.stale, hs.upsets, hs.trace⟩

theorem State.homeFault_dram {s : State} {w : Issuer} (hs : s.Unwatched) (hgen : ∀ h, s.isStaleGen h w = false) {pa : Nat}
    (h : pa < s.dramSize) (tagged write : Bool) (own : Option (Nat × Nat)) (n : Nat) : s.homeFault w tagged write own pa n = none := by
  obtain ⟨p, off, hp⟩ := State.place_dram h
  simp [State.homeFault, hp, hgen, State.badData_eq hs.upsets]

theorem State.atomicFault_dram {s : State} {w : Issuer} (hs : s.Unwatched) (hgen : ∀ h, s.isStaleGen h w = false) {pa : Nat}
    (h : pa < s.dramSize) (tagged : Bool) (n : Nat) : s.atomicFault w tagged pa n = none := by
  simp [State.atomicFault, State.homeFault_dram hs hgen h, State.readBad_eq hs.upsets]

theorem State.rcSync_eq {s : State} {u : Nat} (h : (s.unit u).cache = []) (pa n : Nat) : s.rcSync u pa n = s := by
  simp [State.rcSync, h]

theorem State.traceWrite_eq {s : State} {h : Nat} (he : (s.home h).trace.en = false) (k : TraceKind) (w : Issuer) (tagged : Bool)
    (pa n : Nat) : s.traceWrite h k w tagged pa n = s := by
  simp [State.traceWrite, he]

theorem State.traceWrites_eq {s : State} {h : Nat} (he : (s.home h).trace.en = false) (k : TraceKind) (w : Issuer) (tagged : Bool)
    (pa n fuel : Nat) : s.traceWrites h k w tagged pa n fuel = s := by
  induction fuel generalizing pa n with
  | zero => rfl
  | succ fuel ih =>
    unfold State.traceWrites
    rw [State.traceWrite_eq he, State.traceWrite_eq he, ih, ite_self]

section
variable {s : State} (hs : s.Unwatched)
include hs

theorem State.Unwatched.readHome_dram {pa n : Nat} (hn : 0 < n) (h : pa + n ≤ s.dramSize) :
    s.readHome pa n = (s, s.mem.readBytes pa n) := by
  obtain ⟨p, off, hp⟩ := State.place_dram (s := s) (pa := pa) (by omega)
  rw [State.readHome_eq hs.stale hs.upsets (by simp [hp]) (by simp [hp]), State.physBytes_dram h]

theorem State.Unwatched.writeHome_dram (k : TraceKind) (w : Issuer) (tagged : Bool) {pa : Nat} {bs : List Byte}
    (h : pa + bs.length ≤ s.dramSize) : s.writeHome k w tagged pa bs = s.withMem (s.mem.writeBytes pa bs) := by
  unfold State.writeHome State.markWrite
  rw [if_pos hs.rules]
  dsimp only
  rw [State.setPhysBytes_dram h]
  split
  · exact State.traceWrites_eq (s := s.withMem (s.mem.writeBytes pa bs)) (hs.trace _) ..
  · rfl

end

/-! ## An atomic on bytes of DRAM (R132) -/

/-- The value that an atomic finds. -/
def amoOld (m : Memory) (pa : Nat) (dbl : Bool) : Nat := natOfBytes (m.readBytes pa (amoSize dbl))

/-- The memory that an atomic leaves. -/
def amoMem (m : Memory) (pa : Nat) (op : AmoOp) (dbl : Bool) (v expected : Nat) : Memory :=
  if amoWrites op (amoOld m pa dbl) expected then m.writeBytes pa (bytesOfNat (amoSize dbl) (amoApply op dbl (amoOld m pa dbl) v)) else m

theorem amoOld_lt (m : Memory) (pa : Nat) (dbl : Bool) : amoOld m pa dbl < 2 ^ amoBits dbl := by
  have h := natOfBytes_lt (m.readBytes pa (amoSize dbl))
  rwa [Memory.readBytes_length, ← amoBits_eq] at h

theorem amoOld_eq_leNat (m : Memory) (pa : Nat) (dbl : Bool) : amoOld m pa dbl = leNat (amoBits dbl / 8) fun k => m.read (pa + k) := by
  rw [leNat_read, amoBits_div]
  rfl

theorem amoMem_read_other (m : Memory) {pa a : Nat} (op : AmoOp) (dbl : Bool) (v expected : Nat)
    (h : a < pa ∨ pa + amoBits dbl / 8 ≤ a) : (amoMem m pa op dbl v expected).read a = m.read a := by
  rw [amoBits_div] at h
  unfold amoMem
  split
  · exact Memory.read_writeBytes_other _ _ _ (by simpa using h)
  · rfl

theorem amoMem_wf {m : Memory} (hm : m.wf = true) (pa : Nat) (op : AmoOp) (dbl : Bool) (v expected : Nat) :
    (amoMem m pa op dbl v expected).wf = true := by
  unfold amoMem
  split
  · exact Memory.wf_writeBytes _ _ hm
  · exact hm

theorem amoOld_amoMem {m : Memory} (hm : m.wf = true) (pa : Nat) (op : AmoOp) {dbl : Bool} {v : Nat} (hv : v < 2 ^ amoBits dbl)
    (expected : Nat) : amoOld (amoMem m pa op dbl v expected) pa dbl
      = if amoWrites op (amoOld m pa dbl) expected then amoApply op dbl (amoOld m pa dbl) v else amoOld m pa dbl := by
  have hlt := amoApply_lt (amoOld_lt m pa dbl) hv op
  rw [amoBits_eq] at hlt
  unfold amoMem
  split
  · have hback := Memory.readBytes_writeBytes_same pa (bytesOfNat (amoSize dbl) (amoApply op dbl (amoOld m pa dbl) v)) hm
    rw [bytesOfNat_length] at hback
    rw [amoOld, hback, natOfBytes_bytesOfNat_of_lt hlt]
  · rfl

theorem State.Unwatched.atomicAt_dram {s : State} (hs : s.Unwatched) {pa : Nat} {dbl : Bool} (h : pa + amoBits dbl / 8 ≤ s.dramSize)
    (k : TraceKind) (w : Issuer) (tagged : Bool) (op : AmoOp) (v expected : Nat) :
    s.atomicAt k w tagged pa op dbl v expected = (s.withMem (amoMem s.mem pa op dbl v expected), amoOld s.mem pa dbl) := by
  rw [amoBits_div] at h
  have hn : 0 < amoSize dbl := by cases dbl <;> decide
  unfold State.atomicAt
  rw [hs.readHome_dram hn h]
  dsimp only
  rw [← amoOld]
  by_cases hw : amoWrites op (amoOld s.mem pa dbl) expected = true
  · rw [if_pos hw, hs.writeHome_dram _ _ _ (by rwa [bytesOfNat_length]), amoMem, if_pos hw]
  · rw [if_neg hw, amoMem, if_neg hw]
    rfl

/-! ## An access in flight, performed (R150, R151) -/

/-- The state without an access in flight. -/
def State.taken (s : State) (r : Req) : State := { s with flight := s.flight.filter fun o => o != r }

theorem State.performEvent_eq {s : State} {r : Req} (hr : r ∈ s.flight) (hp : s.mayPerform r = true) (hacq : r.acq = false) :
    s.performEvent r = .next ((s.taken r).performAt r) := by
  have hc : s.flight.contains r = true := List.contains_iff_mem.2 hr
  unfold State.performEvent State.performNow State.perform
  rw [hc, hp, hacq]
  rfl

theorem State.Unwatched.taken {s : State} (hs : s.Unwatched) (r : Req) : (s.taken r).Unwatched :=
  ⟨hs.rules, hs.stale, hs.upsets, hs.trace⟩

section
variable {s : State} {r : Req} (hs : s.Unwatched) (hgen : ∀ h, s.isStaleGen h r.who = false) (hcache : (s.unit r.who.unit).cache = [])
include hs hgen hcache

theorem State.performAt_load {size id : Nat} {signed : Bool} (hact : r.act = .load size signed id) (hsize : 0 < size)
    (hpa : r.pa + size ≤ s.dramSize) : s.performAt r
      = s.answer r.who.unit r.who.ctx id (.value (loadValue signed size fun k => s.mem.read (r.pa + k))) := by
  simp only [State.performAt, hact, State.doLoad]
  rw [State.homeFault_dram hs hgen (by omega), hs.readHome_dram hsize hpa]
  dsimp only
  rw [State.rcSync_eq hcache, extendBytes_readBytes signed hsize]

theorem State.performAt_store {size : Nat} {data : Word} (hact : r.act = .store size data) (hsize : 0 < size)
    (hpa : r.pa + size ≤ s.dramSize) : s.performAt r = s.withMem (s.mem.writeBytes r.pa (bytesOf size data)) := by
  simp only [State.performAt, hact, State.doStore]
  rw [State.homeFault_dram hs hgen (by omega), hs.writeHome_dram _ _ _ (by rwa [bytesOf_length])]
  exact State.rcSync_eq (by rwa [State.unit_withMem]) ..

end

/-- The state that an atomic leaves, its result delivered where one waits. -/
def State.afterAtomic (s : State) (r : Req) (op : AmoOp) (dbl : Bool) (v expected : Word) (id : Option Nat) : State :=
  let t := s.withMem (amoMem s.mem r.pa op dbl (opNat dbl v) (opNat dbl expected))
  match id with
  | some k => t.answer r.who.unit r.who.ctx k (.value (sext (amoBits dbl) (amoOld s.mem r.pa dbl)))
  | none => t

theorem extendBytes_amoOld (m : Memory) (pa : Nat) (dbl : Bool) :
    extendBytes true (bytesOfNat (amoSize dbl) (amoOld m pa dbl)) = sext (amoBits dbl) (amoOld m pa dbl) := by
  have hlt := amoOld_lt m pa dbl
  rw [amoBits_eq] at hlt
  rw [extendBytes_eq true (by rw [bytesOfNat_length]; cases dbl <;> decide), bytesOfNat_length, natOfBytes_bytesOfNat_of_lt hlt,
    amoBits_eq, if_pos rfl]

theorem State.performAt_atomic {s : State} {r : Req} (hs : s.Unwatched) (hgen : ∀ h, s.isStaleGen h r.who = false)
    (hcache : (s.unit r.who.unit).cache = []) {op : AmoOp} {dbl : Bool} {v e : Word} {id : Option Nat}
    (hact : r.act = .atomic op dbl v e id) (hpa : r.pa + amoBits dbl / 8 ≤ s.dramSize) :
    s.performAt r = s.afterAtomic r op dbl v e id := by
  have hpos : 0 < amoBits dbl / 8 := by cases dbl <;> decide
  simp only [State.performAt, hact, State.doAtomic]
  rw [State.atomicFault_dram hs hgen (by omega), hs.atomicAt_dram hpa]
  dsimp only
  rw [State.rcSync_eq (by rwa [State.unit_withMem]), extendBytes_amoOld]
  rfl

theorem State.afterAtomic_mem (s : State) (r : Req) (op : AmoOp) (dbl : Bool) (v e : Word) (id : Option Nat) :
    (s.afterAtomic r op dbl v e id).mem = amoMem s.mem r.pa op dbl (opNat dbl v) (opNat dbl e) := by
  cases id <;> rfl

theorem State.afterAtomic_flight (s : State) (r : Req) (op : AmoOp) (dbl : Bool) (v e : Word) (id : Option Nat) :
    (s.afterAtomic r op dbl v e id).flight = s.flight := by
  cases id <;> rfl

theorem State.afterAtomic_defs (s : State) (r : Req) (op : AmoOp) (dbl : Bool) (v e : Word) (k : Nat) :
    ((s.afterAtomic r op dbl v e (some k)).ctx r.who.unit r.who.ctx).defs = (s.ctx r.who.unit r.who.ctx).defs.map fun d =>
      if d.id = k then { d with src := .value (sext (amoBits dbl) (amoOld s.mem r.pa dbl)) } else d := by
  simp [State.afterAtomic, State.answer]

/-- What an atomic leaves at its address: nothing new where a CAS does not match (R132). -/
theorem amoOld_amoMem_opNat {m : Memory} (hm : m.wf = true) (pa : Nat) (op : AmoOp) (dbl : Bool) (v e : Word) {x : Nat}
    (hx : atomicResult (amoBits dbl) op (amoOld m pa dbl) (v.toNat % 2 ^ amoBits dbl) = some x) :
    amoOld (amoMem m pa op dbl (opNat dbl v) (opNat dbl e)) pa dbl
      = if op = .cas ∧ amoOld m pa dbl ≠ e.toNat % 2 ^ amoBits dbl then amoOld m pa dbl else x := by
  rw [← opNat_eq, atomicResult_eq (amoOld_lt m pa dbl) (opNat_lt dbl v)] at hx
  obtain rfl := Option.some.inj hx
  rw [amoOld_amoMem hm pa op (opNat_lt dbl v), ← opNat_eq]
  cases op with
  | cas => by_cases heq : amoOld m pa dbl = opNat dbl e <;> simp [amoWrites, heq]
  | _ => simp [amoWrites]

/-! ## A contribution applied (R137) -/

/-- What a contribution does to its target. -/
def mergeOp (fp : Bool) : AmoOp := if fp then .fadd else .add

/-- The memory that a contribution leaves. -/
def mergeMem (m : Memory) (pa : Nat) (fp dbl : Bool) (v : Word) : Memory := amoMem m pa (mergeOp fp) dbl (opNat dbl v) 0

theorem mergeMem_wf {m : Memory} (hm : m.wf = true) (pa : Nat) (fp dbl : Bool) (v : Word) : (mergeMem m pa fp dbl v).wf = true :=
  amoMem_wf hm ..

/-- The target holds the sum afterwards. -/
theorem some_amoOld_mergeMem {m : Memory} (hm : m.wf = true) (pa : Nat) (fp dbl : Bool) (v : Word) :
    some (amoOld (mergeMem m pa fp dbl v) pa dbl)
      = atomicResult (amoBits dbl) (if fp then .fadd else .add) (amoOld m pa dbl) (v.toNat % 2 ^ amoBits dbl) := by
  have hw : amoWrites (mergeOp fp) (amoOld m pa dbl) 0 = true := by cases fp <;> rfl
  rw [mergeMem, amoOld_amoMem hm pa _ (opNat_lt dbl v), if_pos hw, ← opNat_eq, atomicResult_eq (amoOld_lt m pa dbl) (opNat_lt dbl v)]
  rfl

/-- A state that differs from another in `n` bytes of memory and in its units alone. -/
structure State.OnlyBytes (s t : State) (pa n : Nat) : Prop where
  eq : t = { s with mem := t.mem, units := t.units }
  read : ∀ a, a < pa ∨ pa + n ≤ a → t.mem.read a = s.mem.read a

namespace State.OnlyBytes

theorem refl (s : State) (pa n : Nat) : s.OnlyBytes s pa n := ⟨rfl, fun _ _ => rfl⟩

theorem trans {s t w : State} {pa n : Nat} (h : s.OnlyBytes t pa n) (k : t.OnlyBytes w pa n) : s.OnlyBytes w pa n := by
  refine ⟨?_, fun a ha => (k.read a ha).trans (h.read a ha)⟩
  rw [k.eq, h.eq]

theorem home {s t : State} {pa n : Nat} (h : s.OnlyBytes t pa n) (k : Nat) : t.home k = s.home k := by
  rw [h.eq]
  rfl

theorem flight {s t : State} {pa n : Nat} (h : s.OnlyBytes t pa n) : t.flight = s.flight := by rw [h.eq]

theorem dramSize {s t : State} {pa n : Nat} (h : s.OnlyBytes t pa n) : t.dramSize = s.dramSize := by
  rw [h.eq]
  rfl

theorem unwatched {s t : State} {pa n : Nat} (h : s.OnlyBytes t pa n) (hs : s.Unwatched) : t.Unwatched := by
  refine ⟨?_, ?_, ?_, fun k => by rw [h.home, hs.trace]⟩
  · rw [h.eq]; exact hs.rules
  · rw [h.eq]; exact hs.stale
  · rw [h.eq]; exact hs.upsets

end State.OnlyBytes

theorem State.rcSync_units (s : State) (u pa n : Nat) : s.rcSync u pa n = { s with units := (s.rcSync u pa n).units } := by
  unfold State.rcSync State.rcEvict
  split
  · rfl
  · split
    · rfl
    · split
      · split
        · rfl
        · rfl
      · rfl

section
variable {s : State} (hs : s.Unwatched)
include hs

theorem State.Unwatched.applyMerge_eq {w : Issuer} {pa : Nat} {dbl : Bool} (hcache : (s.unit w.unit).cache = [])
    (hpa : pa + amoBits dbl / 8 ≤ s.dramSize) (fp : Bool) (v : Word) :
    s.applyMerge w pa fp dbl v = s.withMem (mergeMem s.mem pa fp dbl v) := by
  unfold State.applyMerge
  rw [hs.atomicAt_dram hpa]
  exact State.rcSync_eq (by rwa [State.unit_withMem]) ..

theorem State.Unwatched.applyMerge_onlyBytes {pa : Nat} {dbl : Bool} (hpa : pa + amoBits dbl / 8 ≤ s.dramSize) (w : Issuer) (fp : Bool)
    (v : Word) : s.OnlyBytes (s.applyMerge w pa fp dbl v) pa (amoBits dbl / 8) := by
  unfold State.applyMerge
  rw [hs.atomicAt_dram hpa]
  dsimp only
  rw [State.rcSync_units]
  exact ⟨rfl, fun a ha => amoMem_read_other _ _ _ _ _ ha⟩

theorem State.Unwatched.applyAll_onlyBytes {pa : Nat} {dbl : Bool} (hpa : pa + amoBits dbl / 8 ≤ s.dramSize) (fp : Bool)
    (l : List (Nat × Word × Issuer)) :
    s.OnlyBytes (l.foldl (fun acc p => acc.applyMerge p.2.2 pa fp dbl p.2.1) s) pa (amoBits dbl / 8) := by
  induction l generalizing s with
  | nil => exact .refl ..
  | cons p rest ih =>
    have hp := hs.applyMerge_onlyBytes hpa p.2.2 fp p.2.1
    exact hp.trans (ih (hp.unwatched hs) (by rwa [hp.dramSize]))

theorem State.Unwatched.mergeRun_onlyBytes {e : MergeEntry} (hpa : e.target + amoBits e.dbl / 8 ≤ s.dramSize) (fuel : Nat) :
    s.OnlyBytes (s.mergeRun e fuel).1 e.target (amoBits e.dbl / 8) := by
  induction fuel generalizing s e with
  | zero => exact .refl ..
  | succ fuel ih =>
    unfold State.mergeRun
    dsimp only
    split
    · exact .refl ..
    · have hall := hs.applyAll_onlyBytes hpa e.fp (e.pending.filter fun p => p.1 == e.next)
      exact hall.trans (ih (hall.unwatched hs) (e := { e with next := _, pending := _ }) (by rwa [hall.dramSize]))

end

/-- Nothing more is applied where no pending contribution has the next index. -/
theorem State.mergeRun_stop (s : State) {e : MergeEntry} (h : ∀ p ∈ e.pending, p.1 ≠ e.next) (fuel : Nat) :
    s.mergeRun e fuel = (s, e) := by
  cases fuel with
  | zero => rfl
  | succ fuel =>
    have hnow : (e.pending.filter fun p => p.1 == e.next) = [] := by simpa [List.filter_eq_nil_iff] using h
    simp [State.mergeRun, hnow]

/-- A pending contribution with the next index, alone, is applied. -/
theorem State.mergeRun_one (s : State) {e : MergeEntry} {v : Word} {w : Issuer} (h : e.pending = [(e.next, v, w)]) (fuel : Nat) :
    s.mergeRun e (fuel + 1) = (s.applyMerge w e.target e.fp e.dbl v, { e with next := e.next + 1, pending := [] }) := by
  have hstop := State.mergeRun_stop (s.applyMerge w e.target e.fp e.dbl v) (e := { e with next := e.next + 1, pending := [] }) (by simp) fuel
  simp [State.mergeRun, h, hstop]

/-! ## The table of a home (R137) -/

@[simp] theorem State.home_modHome_same (s : State) (h : Nat) (f : Home → Home) : (s.modHome h f).home h = f (s.home h) :=
  SMap.get_put_same _ _ _ _

theorem putMerge_of_mem {l : List MergeEntry} {o e : MergeEntry} (ho : o ∈ l) (ht : o.target = e.target) (hl : o.lid = e.lid) :
    putMerge l e = l.map fun o => if o.target = e.target ∧ o.lid = e.lid then e else o := by
  have hany : (l.any fun o => o.target == e.target && o.lid == e.lid) = true := List.any_eq_true.2 ⟨o, ho, by simp [ht, hl]⟩
  simp [putMerge, hany]

theorem putMerge_of_absent {l : List MergeEntry} {e : MergeEntry} (h : ∀ o ∈ l, o.lid = e.lid → o.target ≠ e.target) :
    putMerge l e = l ++ [e] := by
  have hany : (l.any fun o => o.target == e.target && o.lid == e.lid) = false := by
    simpa [List.any_eq_false] using fun o ho ht hl => h o ho hl ht
  simp [putMerge, hany]

section
variable {s : State} {w : Issuer} {h : Nat} {e : MergeEntry} {k : Nat} {v : Word}

theorem State.mergeAccept_below (hk : k < e.next) : s.mergeAccept w h e k v
    = .done ((s.applyMerge w e.target e.fp e.dbl v).modHome h fun y => { y with merges := putMerge y.merges e }) := by
  rw [State.mergeAccept, if_pos hk]

theorem State.mergeAccept_next (hk : k = e.next) : s.mergeAccept w h e k v
    = .done (((s.applyMerge w e.target e.fp e.dbl v).mergeRun { e with next := k + 1 } 65).1.modHome h fun y =>
        { y with merges := putMerge y.merges ((s.applyMerge w e.target e.fp e.dbl v).mergeRun { e with next := k + 1 } 65).2 }) := by
  rw [State.mergeAccept, if_neg (by omega), if_pos hk]

theorem State.mergeAccept_full (hk : e.next < k) (hfull : 64 ≤ e.pending.length) : s.mergeAccept w h e k v = .refused := by
  rw [State.mergeAccept, if_neg (by omega), if_neg (by omega), if_pos hfull]

theorem State.mergeAccept_above (hk : e.next < k) (hroom : e.pending.length < 64) : s.mergeAccept w h e k v
    = .done (s.modHome h fun y => { y with merges := putMerge y.merges { e with pending := e.pending ++ [(k, v, w)] } }) := by
  rw [State.mergeAccept, if_neg (by omega), if_neg (by omega), if_neg (by omega)]

end

/-- A contribution that is not refused changes its target's bytes alone, and leaves what is in flight. -/
theorem State.Unwatched.mergeAccept_keeps {s t : State} (hs : s.Unwatched) {w : Issuer} {h k : Nat} {e : MergeEntry} {v : Word}
    (hpa : e.target + amoBits e.dbl / 8 ≤ s.dramSize) (ht : s.mergeAccept w h e k v = .done t) :
    t.flight = s.flight ∧ ∀ a, a < e.target ∨ e.target + amoBits e.dbl / 8 ≤ a → t.mem.read a = s.mem.read a := by
  have happly := hs.applyMerge_onlyBytes hpa w e.fp v
  unfold State.mergeAccept at ht
  dsimp only at ht
  split at ht
  · cases ht
    exact ⟨happly.flight, happly.read⟩
  · split at ht
    · cases ht
      have hrun := happly.trans
        ((happly.unwatched hs).mergeRun_onlyBytes (e := { e with next := k + 1 }) (by rwa [happly.dramSize]) 65)
      exact ⟨hrun.flight, hrun.read⟩
    · split at ht
      · cases ht
      · cases ht
        exact ⟨rfl, fun _ _ => rfl⟩

/-! ## A contribution performed (R137, R138) -/

/-- The entries of a launch in the table of a home. -/
def State.mergesOf (s : State) (h lid : Nat) : List MergeEntry := (s.home h).merges.filter fun e => e.lid == lid

/-- The entry of a launch for a target at a home. -/
def State.mergeEntry (s : State) (h lid pa : Nat) : Option MergeEntry := (s.mergesOf h lid).find? fun e => e.target == pa

theorem State.mergeEntry_some {s : State} {h lid pa : Nat} {e : MergeEntry} (he : s.mergeEntry h lid pa = some e) :
    e ∈ (s.home h).merges ∧ e.target = pa ∧ e.lid = lid := by
  obtain ⟨hmem, hlid⟩ := List.mem_filter.1 (List.mem_of_find?_eq_some he)
  exact ⟨hmem, by simpa using List.find?_some he, by simpa using hlid⟩

theorem State.mergeEntry_none {s : State} {h lid pa : Nat} (he : s.mergeEntry h lid pa = none) :
    ∀ o ∈ (s.home h).merges, o.lid = lid → o.target ≠ pa := fun o ho hl => by
  simpa using List.find?_eq_none.1 he o (List.mem_filter.2 ⟨ho, by simp [hl]⟩)

section
variable {s : State} {w : Issuer} {h lid pa : Nat} {fp dbl : Bool} {v : Word} {k : Nat}

theorem State.mergeAt_found {e : MergeEntry} (he : s.mergeEntry h lid pa = some e) (hd : e.dbl = dbl) (hf : e.fp = fp) :
    s.mergeAt w h lid pa fp dbl v k = s.mergeAccept w h e k v := by
  unfold State.mergeEntry State.mergesOf at he
  simp only [State.mergeAt, he, hd, hf, ne_eq, not_true_eq_false, or_self, if_false]

theorem State.mergeAt_other {e : MergeEntry} (he : s.mergeEntry h lid pa = some e) (hne : e.dbl ≠ dbl ∨ e.fp ≠ fp) :
    s.mergeAt w h lid pa fp dbl v k = .access := by
  unfold State.mergeEntry State.mergesOf at he
  simp only [State.mergeAt, he, if_pos hne]

theorem State.mergeAt_new (he : s.mergeEntry h lid pa = none) (hroom : (s.mergesOf h lid).length < 16) :
    s.mergeAt w h lid pa fp dbl v k = s.mergeAccept w h ⟨lid, pa, dbl, fp, 0, []⟩ k v := by
  unfold State.mergeEntry at he
  unfold State.mergesOf at he hroom
  simp only [State.mergeAt, he, if_neg (Nat.not_le.2 hroom)]

theorem State.mergeAt_full (he : s.mergeEntry h lid pa = none) (hfull : 16 ≤ (s.mergesOf h lid).length) :
    s.mergeAt w h lid pa fp dbl v k = .access := by
  unfold State.mergeEntry at he
  unfold State.mergesOf at he hfull
  simp only [State.mergeAt, he, if_pos hfull]

theorem State.Unwatched.mergeAt_keeps {t : State} (hs : s.Unwatched) (hpa : pa + amoBits dbl / 8 ≤ s.dramSize)
    (ht : s.mergeAt w h lid pa fp dbl v k = .done t) :
    t.flight = s.flight ∧ ∀ a, a < pa ∨ pa + amoBits dbl / 8 ≤ a → t.mem.read a = s.mem.read a := by
  cases he : s.mergeEntry h lid pa with
  | none =>
    rcases Nat.lt_or_ge (s.mergesOf h lid).length 16 with hroom | hfull
    · rw [State.mergeAt_new he hroom] at ht
      exact hs.mergeAccept_keeps hpa ht
    · rw [State.mergeAt_full he hfull] at ht
      cases ht
  | some e =>
    obtain ⟨-, rfl, -⟩ := State.mergeEntry_some he
    by_cases hne : e.dbl ≠ dbl ∨ e.fp ≠ fp
    · rw [State.mergeAt_other he hne] at ht
      cases ht
    · obtain ⟨rfl, rfl⟩ : e.dbl = dbl ∧ e.fp = fp := by simpa using hne
      rw [State.mergeAt_found he rfl rfl] at ht
      exact hs.mergeAccept_keeps hpa ht

end

/-- An access that performs a contribution, in DRAM, of a context whose generation is not stale. -/
structure State.Contributes (s : State) (r : Req) (fp dbl : Bool) (v : Word) (k h : Nat) : Prop where
  unwatched : s.Unwatched
  fresh : ∀ h, s.isStaleGen h r.who = false
  act : r.act = .merge fp dbl v k
  dram : r.pa + amoBits dbl / 8 ≤ s.dramSize
  home : (s.place r.pa).home = some h

/-- The launch of the context that issued an access. -/
def State.senderLaunch (s : State) (r : Req) : Nat := (s.ctx r.who.unit r.who.ctx).lid

section
variable {s : State} {r : Req} {fp dbl : Bool} {v : Word} {k h : Nat} (hc : s.Contributes r fp dbl v k h)
include hc

theorem State.Contributes.performAt_eq : s.performAt r =
    match s.mergeAt r.who h (s.senderLaunch r) r.pa fp dbl v k with
    | .done t => t
    | .access => s.returnFault r none .access
    | .refused => s.modCtx r.who.unit r.who.ctx fun x =>
        { x with blocked := if x.blocked.contains r then x.blocked else x.blocked ++ [r] } := by
  have hpos : 0 < amoBits dbl / 8 := by cases dbl <;> decide
  have hdram := hc.dram
  simp only [State.performAt, hc.act, State.doMerge]
  rw [State.atomicFault_dram hc.unwatched hc.fresh (by omega), hc.home]
  rfl

theorem State.Contributes.keeps : (s.performAt r).flight = s.flight
    ∧ ∀ a, a < r.pa ∨ r.pa + amoBits dbl / 8 ≤ a → (s.performAt r).mem.read a = s.mem.read a := by
  rw [hc.performAt_eq]
  split
  · rename_i t ht
    exact hc.unwatched.mergeAt_keeps hc.dram ht
  · exact ⟨rfl, fun _ _ => rfl⟩
  · exact ⟨rfl, fun _ _ => rfl⟩

end

section
variable {s : State} {r : Req} {fp dbl : Bool} {v : Word} {k h : Nat} (hc : s.Contributes r fp dbl v k h)
include hc

theorem State.Contributes.performAt_done {t : State} (ht : s.mergeAt r.who h (s.senderLaunch r) r.pa fp dbl v k = .done t) :
    s.performAt r = t := by
  rw [hc.performAt_eq, ht]

/-- Another size or operation than the entry's, or a seventeenth entry (R138). -/
theorem State.Contributes.performAt_access
    (hno : (∃ e, s.mergeEntry h (s.senderLaunch r) r.pa = some e ∧ (e.dbl ≠ dbl ∨ e.fp ≠ fp))
      ∨ (s.mergeEntry h (s.senderLaunch r) r.pa = none ∧ 16 ≤ (s.mergesOf h (s.senderLaunch r)).length)) :
    (s.performAt r).mem = s.mem ∧ ((s.performAt r).home h).merges = (s.home h).merges
      ∧ ((s.performAt r).ctx r.who.unit r.who.ctx).homeFaults
        = (s.ctx r.who.unit r.who.ctx).homeFaults ++ [⟨r.po, .access, r.ea, r.fpc⟩] := by
  have haccess : s.mergeAt r.who h (s.senderLaunch r) r.pa fp dbl v k = .access := by
    rcases hno with ⟨e, he, hne⟩ | ⟨he, hfull⟩
    · exact State.mergeAt_other he hne
    · exact State.mergeAt_full he hfull
  rw [hc.performAt_eq, haccess]
  exact ⟨rfl, rfl, by simp [State.returnFault]⟩

section
variable {e : MergeEntry} (he : s.mergeEntry h (s.senderLaunch r) r.pa = some e) (hd : e.dbl = dbl) (hf : e.fp = fp)
include he hd hf

theorem State.Contributes.performAt_below (hcache : (s.unit r.who.unit).cache = []) (hk : k < e.next) :
    (s.performAt r).mem = mergeMem s.mem r.pa fp dbl v ∧ ((s.performAt r).home h).merges = putMerge (s.home h).merges e := by
  obtain ⟨-, ht, -⟩ := State.mergeEntry_some he
  rw [hc.performAt_done ((State.mergeAt_found he hd hf).trans (State.mergeAccept_below hk)), State.home_modHome_same, ht, hd, hf,
    hc.unwatched.applyMerge_eq hcache hc.dram]
  exact ⟨rfl, rfl⟩

theorem State.Contributes.performAt_next (hcache : (s.unit r.who.unit).cache = []) (hk : k = e.next)
    (hlone : ∀ p ∈ e.pending, p.1 ≠ k + 1) : (s.performAt r).mem = mergeMem s.mem r.pa fp dbl v
      ∧ ((s.performAt r).home h).merges = putMerge (s.home h).merges { e with next := k + 1 } := by
  obtain ⟨-, ht, -⟩ := State.mergeEntry_some he
  rw [hc.performAt_done ((State.mergeAt_found he hd hf).trans (State.mergeAccept_next hk)), State.home_modHome_same,
    State.mergeRun_stop _ (e := { e with next := k + 1 }) hlone, ht, hd, hf, hc.unwatched.applyMerge_eq hcache hc.dram]
  exact ⟨rfl, rfl⟩

theorem State.Contributes.performAt_two (hcache : (s.unit r.who.unit).cache = []) (hk : k = e.next) {v2 : Word} {w2 : Issuer}
    (hpend : e.pending = [(k + 1, v2, w2)]) (hcache2 : (s.unit w2.unit).cache = []) :
    (s.performAt r).mem = mergeMem (mergeMem s.mem r.pa fp dbl v) r.pa fp dbl v2
      ∧ ((s.performAt r).home h).merges = putMerge (s.home h).merges { e with next := k + 2, pending := [] } := by
  obtain ⟨-, ht, -⟩ := State.mergeEntry_some he
  have happly := hc.unwatched.applyMerge_eq hcache hc.dram fp v
  have happly2 := (hc.unwatched.withMem (mergeMem s.mem r.pa fp dbl v)).applyMerge_eq (w := w2) (pa := r.pa) (dbl := dbl)
    (by rwa [State.unit_withMem]) (by rw [State.dramSize_withMem]; exact hc.dram) fp v2
  rw [hc.performAt_done ((State.mergeAt_found he hd hf).trans (State.mergeAccept_next hk)), State.home_modHome_same,
    State.mergeRun_one _ (e := { e with next := k + 1 }) hpend 64]
  dsimp only
  rw [ht, hd, hf, happly, happly2]
  exact ⟨rfl, rfl⟩

theorem State.Contributes.performAt_above (hk : e.next < k) (hroom : e.pending.length < 64) : (s.performAt r).mem = s.mem
    ∧ ((s.performAt r).home h).merges = putMerge (s.home h).merges { e with pending := e.pending ++ [(k, v, r.who)] } := by
  rw [hc.performAt_done ((State.mergeAt_found he hd hf).trans (State.mergeAccept_above hk hroom)), State.home_modHome_same]
  exact ⟨rfl, rfl⟩

/-- A contribution that the home does not keep (R138). -/
theorem State.Contributes.performAt_refused (hk : e.next < k) (hfull : 64 ≤ e.pending.length) :
    (s.performAt r).mem = s.mem ∧ ((s.performAt r).home h).merges = (s.home h).merges
      ∧ r ∈ ((s.performAt r).ctx r.who.unit r.who.ctx).blocked := by
  rw [hc.performAt_eq, (State.mergeAt_found he hd hf).trans (State.mergeAccept_full hk hfull)]
  refine ⟨rfl, rfl, ?_⟩
  rw [State.ctx_modCtx_same]
  dsimp only
  split
  · rename_i hin
    exact List.contains_iff_mem.1 hin
  · simp

end

section
variable (he : s.mergeEntry h (s.senderLaunch r) r.pa = none) (hroom : (s.mergesOf h (s.senderLaunch r)).length < 16)
include he hroom

theorem State.Contributes.performAt_first (hcache : (s.unit r.who.unit).cache = []) (hk : k = 0) :
    (s.performAt r).mem = mergeMem s.mem r.pa fp dbl v
      ∧ ((s.performAt r).home h).merges = (s.home h).merges ++ [⟨s.senderLaunch r, r.pa, dbl, fp, 1, []⟩] := by
  rw [hc.performAt_done ((State.mergeAt_new he hroom).trans (State.mergeAccept_next hk)), State.home_modHome_same,
    State.mergeRun_stop _ (by simp), hc.unwatched.applyMerge_eq hcache hc.dram, hk]
  exact ⟨rfl, putMerge_of_absent (State.mergeEntry_none he)⟩

theorem State.Contributes.performAt_early (hk : 0 < k) : (s.performAt r).mem = s.mem
    ∧ ((s.performAt r).home h).merges = (s.home h).merges ++ [⟨s.senderLaunch r, r.pa, dbl, fp, 0, [(k, v, r.who)]⟩] := by
  rw [hc.performAt_done ((State.mergeAt_new he hroom).trans (State.mergeAccept_above hk (by simp))), State.home_modHome_same]
  exact ⟨rfl, putMerge_of_absent (State.mergeEntry_none he)⟩

end
end

/-! ## The obligation -/

/-- An access in flight that order lets go, by a context whose generation is not stale, over a memory that nothing watches, with no copy in
its core's cache. -/
structure State.Goes (s : State) (r : Req) : Prop where
  memOk : s.memOk
  flies : r ∈ s.flight
  free : s.mayPerform r = true
  noAcquire : r.acq = false
  unwatched : s.Unwatched
  fresh : ∀ h, s.isStaleGen h r.who = false
  uncached : (s.unit r.who.unit).cache = []

section
variable {s : State} {r : Req} (hg : s.Goes r)
include hg

theorem State.Goes.performEvent_eq : s.performEvent r = .next ((s.taken r).performAt r) :=
  State.performEvent_eq hg.flies hg.free hg.noAcquire

theorem State.Goes.homeLoad {size id : Nat} {signed : Bool} (hact : r.act = .load size signed id) (hsize : 0 < size)
    (hpa : r.pa + size ≤ s.dramSize) : exec (.homeLoad r) s = .next ((s.taken r).answer r.who.unit r.who.ctx id
      (.value (loadValue signed size fun k => s.mem.read (r.pa + k)))) := by
  refine (hg.performEvent_eq).trans (congrArg _ ?_)
  exact State.performAt_load (hg.unwatched.taken r) hg.fresh hg.uncached hact hsize hpa

theorem State.Goes.homeStore {size : Nat} {data : Word} (hact : r.act = .store size data) (hsize : 0 < size)
    (hpa : r.pa + size ≤ s.dramSize) :
    exec (.homeStore r) s = .next ((s.taken r).withMem (s.mem.writeBytes r.pa (bytesOf size data))) := by
  refine (hg.performEvent_eq).trans (congrArg _ ?_)
  exact State.performAt_store (hg.unwatched.taken r) hg.fresh hg.uncached hact hsize hpa

theorem State.Goes.homeAtomic {op : AmoOp} {dbl : Bool} {v e : Word} {id : Option Nat} (hact : r.act = .atomic op dbl v e id)
    (hpa : r.pa + amoBits dbl / 8 ≤ s.dramSize) : exec (.homeAtomic r) s = .next ((s.taken r).afterAtomic r op dbl v e id) := by
  refine (hg.performEvent_eq).trans (congrArg _ ?_)
  exact State.performAt_atomic (hg.unwatched.taken r) hg.fresh hg.uncached hact hpa

theorem State.Goes.contributes {fp dbl : Bool} {v : Word} {k h : Nat} (hact : r.act = .merge fp dbl v k)
    (hpa : r.pa + amoBits dbl / 8 ≤ s.dramSize) (hh : (s.place r.pa).home = some h) : (s.taken r).Contributes r fp dbl v k h :=
  ⟨hg.unwatched.taken r, hg.fresh, hact, hpa, hh⟩

end

/-- Settles O18: each access is performed on the bytes of DRAM, and a contribution by the branch of its home's table that its index takes. -/
theorem dramAccessResults : Obligations.DramAccessResults := by
  unfold Obligations.DramAccessResults
  intro s r hm hr hp hacq hrules hstale hupsets hcache hhomes
  have hg : s.Goes r := ⟨hm, hr, hp, hacq, ⟨hrules, hstale, hupsets, fun h => (hhomes h).1⟩, fun h => (hhomes h).2, hcache⟩
  refine ⟨fun size signed id hact hsize hpa => hg.homeLoad hact hsize hpa, fun size data hact _ hpa hsize => ?_,
    fun op dbl v e id n x hact hn hpa hx => ?_, fun fp dbl v k n h hact hn hpa hh => ?_⟩
  · refine ⟨_, hg.homeStore hact hsize hpa, fun k hk => ?_, fun a ha => ?_, Memory.wf_writeBytes _ _ hm, rfl⟩
    · exact (Memory.read_writeBytes_getElem hm r.pa _ (by rwa [bytesOf_length])).trans (getElem_bytesOf ..)
    · exact Memory.read_writeBytes_other _ _ _ (by rwa [bytesOf_length])
  · obtain rfl : n = amoBits dbl := hn
    refine ⟨_, hg.homeAtomic hact hpa, ?_⟩
    simp only [← amoOld_eq_leNat, State.afterAtomic_mem] at hx ⊢
    refine ⟨amoOld_amoMem_opNat hm r.pa op dbl v e hx, fun a ha => amoMem_read_other _ _ _ _ _ ha, ?_,
      State.afterAtomic_flight .., fun k hid => ?_⟩
    · rw [State.memOk, State.afterAtomic_mem]
      exact amoMem_wf hm ..
    · subst hid
      exact State.afterAtomic_defs ..
  · obtain rfl : n = amoBits dbl := hn
    have hc := hg.contributes hact hpa hh
    have hsum := fun v => some_amoOld_mergeMem hm r.pa fp dbl v
    intro lid table mine sum old put
    refine ⟨_, hg.performEvent_eq, hc.keeps.1, hc.keeps.2, ?_⟩
    simp only [old, ← amoOld_eq_leNat]
    refine ⟨fun e he hd hf => ?_, fun he hroom => ?_, hc.performAt_access⟩
    · obtain ⟨hmem, ht, hl⟩ := State.mergeEntry_some (s := s.taken r) he
      have hput : ∀ e', e'.target = e.target → e'.lid = e.lid → putMerge table e' = put e' := fun e' ht' hl' =>
        putMerge_of_mem hmem ht'.symm hl'.symm
      refine ⟨fun hk => ?_, fun hk hlone => ?_, fun v2 w2 hk hpend hcache2 => ?_, fun hk hroom => ?_, fun hk hfull => ?_⟩
      · obtain ⟨hmem', htable⟩ := hc.performAt_below he hd hf hcache hk
        rw [hmem', htable]
        exact ⟨hsum v, hput e rfl rfl⟩
      · obtain ⟨hmem', htable⟩ := hc.performAt_next he hd hf hcache hk hlone
        rw [hmem', htable]
        exact ⟨hsum v, hput _ rfl rfl⟩
      · obtain ⟨hmem', htable⟩ := hc.performAt_two he hd hf hcache hk hpend hcache2
        rw [hmem', htable]
        refine ⟨?_, hput _ rfl rfl⟩
        have hsum2 := some_amoOld_mergeMem (mergeMem_wf hm r.pa fp dbl v) r.pa fp dbl v2
        have hsum1 : some (amoOld (mergeMem s.mem r.pa fp dbl v) r.pa dbl) = sum (amoOld s.mem r.pa dbl) v := hsum v
        rw [← hsum1]
        exact hsum2
      · obtain ⟨hmem', htable⟩ := hc.performAt_above he hd hf hk hroom
        exact ⟨hmem', htable.trans (hput _ rfl rfl)⟩
      · exact hc.performAt_refused he hd hf hk hfull
    · refine ⟨fun hk => ?_, fun hk => hc.performAt_early he hroom hk⟩
      obtain ⟨hmem', htable⟩ := hc.performAt_first he hroom hcache hk
      rw [hmem']
      exact ⟨hsum v, htable⟩

end Sys2Proof.Machine
end

section
/-! SUPPORT: the fields of a word that a format writes, a word put together from its fields, and the codes of the closed sets of names (R48 to R54). -/

namespace Sys2Proof

/-! ## Fields that stand side by side -/

/-- A field of two that stand side by side. `no_index`: where a word's width is a numeral, no sum stands in its type. -/
theorem fields_append {v w : Nat} (x : BitVec v) (y : BitVec w) :
    (∀ i n, i + n ≤ w → @BitVec.extractLsb' (no_index (v + w)) i n (x ++ y) = y.extractLsb' i n)
      ∧ (∀ i n, w ≤ i → @BitVec.extractLsb' (no_index (v + w)) i n (x ++ y) = x.extractLsb' (i - w) n)
      ∧ (∀ i, i < w → @BitVec.getLsbD (no_index (v + w)) (x ++ y) i = y.getLsbD i)
      ∧ (∀ i, w ≤ i → @BitVec.getLsbD (no_index (v + w)) (x ++ y) i = x.getLsbD (i - w)) := by
  refine ⟨fun i n h => BitVec.extractLsb'_append_eq_of_add_le h, fun i n h => BitVec.extractLsb'_append_eq_of_le h, fun i h => ?_, fun i h => ?_⟩
  · rw [BitVec.getLsbD_append, if_pos h]
  · rw [BitVec.getLsbD_append, if_neg (Nat.not_lt.mpr h)]

@[simp] theorem getLsbD_bit (b : Bool) : (bit b).getLsbD 0 = b := by cases b <;> rfl

theorem eq_ofNat_of_toNat {n k : Nat} {x : BitVec n} (h : x.toNat = k) : x = BitVec.ofNat n k := by
  rw [← h, BitVec.ofNat_toNat, BitVec.setWidth_eq]

/-! ## The fields of each format (R48) -/

section
variable (s : Bool) (mj : BitVec 6)

theorem fields_fmtR (d a b : BitVec 5) (fn : BitVec 10) :
    fldS (fmtR s mj d a b fn) = s ∧ fldMajor (fmtR s mj d a b fn) = mj ∧ fldD (fmtR s mj d a b fn) = d
      ∧ fldA (fmtR s mj d a b fn) = a ∧ fldB (fmtR s mj d a b fn) = b ∧ fldFn (fmtR s mj d a b fn) = fn := by
  simp (disch := decide) only [fldS, fldMajor, fldD, fldA, fldB, fldFn, fmtR, fields_append, getLsbD_bit, Nat.reduceSub,
    BitVec.extractLsb'_eq_self, and_self]

theorem fields_fmtI (d a : BitVec 5) (fn3 : BitVec 3) (imm : BitVec 12) :
    fldS (fmtI s mj d a fn3 imm) = s ∧ fldMajor (fmtI s mj d a fn3 imm) = mj ∧ fldD (fmtI s mj d a fn3 imm) = d
      ∧ fldA (fmtI s mj d a fn3 imm) = a ∧ fldFn3 (fmtI s mj d a fn3 imm) = fn3 ∧ fldImm12 (fmtI s mj d a fn3 imm) = imm := by
  simp (disch := decide) only [fldS, fldMajor, fldD, fldA, fldFn3, fldImm12, fmtI, fields_append, getLsbD_bit, Nat.reduceSub,
    BitVec.extractLsb'_eq_self, and_self]

theorem fields_fmtU (d : BitVec 5) (imm : BitVec 20) :
    fldS (fmtU s mj d imm) = s ∧ fldMajor (fmtU s mj d imm) = mj ∧ fldD (fmtU s mj d imm) = d ∧ fldImm20 (fmtU s mj d imm) = imm := by
  simp (disch := decide) only [fldS, fldMajor, fldD, fldImm20, fmtU, fields_append, getLsbD_bit, Nat.reduceSub,
    BitVec.extractLsb'_eq_self, and_self]

theorem fields_fmtB (hint : BitVec 2) (cond : BitVec 3) (a b : BitVec 5) (off : BitVec 10) :
    fldS (fmtB s mj hint cond a b off) = s ∧ fldMajor (fmtB s mj hint cond a b off) = mj ∧ fldHint (fmtB s mj hint cond a b off) = hint
      ∧ fldCond (fmtB s mj hint cond a b off) = cond ∧ fldA (fmtB s mj hint cond a b off) = a ∧ fldB (fmtB s mj hint cond a b off) = b
      ∧ fldFn (fmtB s mj hint cond a b off) = off := by
  simp (disch := decide) only [fldS, fldMajor, fldHint, fldCond, fldA, fldB, fldFn, fmtB, fields_append, getLsbD_bit, Nat.reduceSub,
    BitVec.extractLsb'_eq_self, and_self]

theorem fields_fmtZ (hint : BitVec 2) (cond : BitVec 3) (a : BitVec 5) (off : BitVec 15) :
    fldS (fmtZ s mj hint cond a off) = s ∧ fldMajor (fmtZ s mj hint cond a off) = mj ∧ fldHint (fmtZ s mj hint cond a off) = hint
      ∧ fldCond (fmtZ s mj hint cond a off) = cond ∧ fldA (fmtZ s mj hint cond a off) = a
      ∧ fldOff15 (fmtZ s mj hint cond a off) = off := by
  simp (disch := decide) only [fldS, fldMajor, fldHint, fldCond, fldA, fldOff15, fmtZ, fields_append, getLsbD_bit, Nat.reduceSub,
    BitVec.extractLsb'_eq_self, and_self]

theorem fields_fmtJ (off : BitVec 25) :
    fldS (fmtJ s mj off) = s ∧ fldMajor (fmtJ s mj off) = mj ∧ fldOff25 (fmtJ s mj off) = off := by
  simp (disch := decide) only [fldS, fldMajor, fldOff25, fmtJ, fields_append, getLsbD_bit, Nat.reduceSub,
    BitVec.extractLsb'_eq_self, and_self]

theorem fields_fmtV (vd va vb : BitVec 4) (m : BitVec 5) (w : BitVec 2) (fn : BitVec 6) :
    fldS (fmtV s mj vd va vb m w fn) = s ∧ fldMajor (fmtV s mj vd va vb m w fn) = mj ∧ fldVd (fmtV s mj vd va vb m w fn) = vd
      ∧ fldVa (fmtV s mj vd va vb m w fn) = va ∧ fldVb (fmtV s mj vd va vb m w fn) = vb ∧ fldM (fmtV s mj vd va vb m w fn) = m
      ∧ fldW (fmtV s mj vd va vb m w fn) = w ∧ fldFn6 (fmtV s mj vd va vb m w fn) = fn := by
  simp (disch := decide) only [fldS, fldMajor, fldVd, fldVa, fldVb, fldM, fldW, fldFn6, fmtV, fields_append, getLsbD_bit, Nat.reduceSub,
    BitVec.extractLsb'_eq_self, and_self]

theorem fields_fmtA (fn4 : BitVec 4) (d a b : BitVec 7) :
    fldS (fmtA s mj fn4 d a b) = s ∧ fldMajor (fmtA s mj fn4 d a b) = mj ∧ fldVd (fmtA s mj fn4 d a b) = fn4
      ∧ fldAd (fmtA s mj fn4 d a b) = d ∧ fldAa (fmtA s mj fn4 d a b) = a ∧ fldAb (fmtA s mj fn4 d a b) = b := by
  simp (disch := decide) only [fldS, fldMajor, fldVd, fldAd, fldAa, fldAb, fmtA, fields_append, getLsbD_bit, Nat.reduceSub,
    BitVec.extractLsb'_eq_self, and_self]

theorem fields_fmtX (d a b : BitVec 5) (w6 : BitVec 6) (fn4 : BitVec 4) :
    fldS (fmtX s mj d a b w6 fn4) = s ∧ fldMajor (fmtX s mj d a b w6 fn4) = mj ∧ fldD (fmtX s mj d a b w6 fn4) = d
      ∧ fldA (fmtX s mj d a b w6 fn4) = a ∧ fldB (fmtX s mj d a b w6 fn4) = b ∧ fldW6 (fmtX s mj d a b w6 fn4) = w6
      ∧ fldFn4 (fmtX s mj d a b w6 fn4) = fn4 := by
  simp (disch := decide) only [fldS, fldMajor, fldD, fldA, fldB, fldW6, fldFn4, fmtX, fields_append, getLsbD_bit, Nat.reduceSub,
    BitVec.extractLsb'_eq_self, and_self]

end

/-- The two bits of the width field that VFP, VFCMP, VCVT and VDOT read one by one. -/
theorem getLsbD_fldW (w : Word32) : w.getLsbD 6 = (fldW w).getLsbD 0 ∧ w.getLsbD 7 = (fldW w).getLsbD 1 := by
  simp [fldW]

/-! ## The codes of the closed sets of names (R50 to R54) -/

@[simp] theorem Hint.ofCode_code (x : Hint) : Hint.ofCode x.code = some x := by cases x <;> rfl
@[simp] theorem SelCond.ofCode_code (x : SelCond) : SelCond.ofCode x.code = some x := by cases x <;> rfl
@[simp] theorem SkipCond.ofCode_code (x : SkipCond) : SkipCond.ofCode x.code = some x := by cases x <;> rfl
@[simp] theorem RM.ofCode_code (x : RM) : RM.ofCode x.code = some x := by cases x <;> rfl
@[simp] theorem Ord4.ofCode_code (x : Ord4) : Ord4.ofCode x.code = some x := by cases x <;> rfl
@[simp] theorem LWidth.ofCode_code (x : LWidth) : LWidth.ofCode x.code = some x := by cases x <;> rfl
@[simp] theorem SWidth.ofCode_code (x : SWidth) : SWidth.ofCode x.code = some x := by cases x <;> rfl
@[simp] theorem Scope.ofCode_code (x : Scope) : Scope.ofCode x.code = some x := by cases x <;> rfl
@[simp] theorem VWidth.ofCode_code (x : VWidth) : VWidth.ofCode x.code = some x := by cases x <;> rfl
@[simp] theorem VCond.ofCode_code (x : VCond) : VCond.ofCode x.code = some x := by cases x <;> rfl
@[simp] theorem FCond.ofCode_code (x : FCond) : FCond.ofCode x.code = some x := by cases x <;> rfl
@[simp] theorem Fmt.ofCode_code (x : Fmt) : Fmt.ofCode x.code = some x := by cases x <;> rfl
@[simp] theorem MxFmt.ofCode_code (x : MxFmt) : MxFmt.ofCode x.code = some x := by cases x <;> rfl
@[simp] theorem LapOp.ofCode_code (x : LapOp) : LapOp.ofCode x.code = some x := by cases x <;> rfl
@[simp] theorem LatchSrc.ofCode_code (x : LatchSrc) : LatchSrc.ofCode x.code = some x := by cases x <;> rfl
@[simp] theorem RedOp.ofCode_code (x : RedOp) : RedOp.ofCode x.code x.rmCode = some x := by
  cases x with
  | fadd rm => cases rm <;> rfl
  | _ => rfl

theorem Hint.eq_code {c : BitVec 2} {x : Hint} (h : Hint.ofCode c = some x) : c = x.code := by
  revert c; cases x <;> decide

theorem SelCond.eq_code {c : BitVec 2} {x : SelCond} (h : SelCond.ofCode c = some x) : c = x.code := by
  revert c; cases x <;> decide

theorem SkipCond.eq_code {c : BitVec 3} {x : SkipCond} (h : SkipCond.ofCode c = some x) : c = x.code := by
  revert c; cases x <;> decide

theorem RM.eq_code {c : BitVec 3} {x : RM} (h : RM.ofCode c = some x) : c = x.code := by
  revert c; cases x <;> decide

theorem Ord4.eq_code {c : BitVec 2} {x : Ord4} (h : Ord4.ofCode c = some x) : c = x.code := by
  revert c; cases x <;> decide

theorem LWidth.eq_code {c : BitVec 3} {x : LWidth} (h : LWidth.ofCode c = some x) : c = x.code := by
  revert c; cases x <;> decide

theorem SWidth.eq_code {c : BitVec 2} {x : SWidth} (h : SWidth.ofCode c = some x) : c = x.code := by
  revert c; cases x <;> decide

theorem Scope.eq_code {c : BitVec 3} {x : Scope} (h : Scope.ofCode c = some x) : c = x.code := by
  revert c; cases x <;> decide

theorem VWidth.eq_code {c : BitVec 2} {x : VWidth} (h : VWidth.ofCode c = some x) : c = x.code := by
  revert c; cases x <;> decide

theorem VCond.eq_code {c : BitVec 3} {x : VCond} (h : VCond.ofCode c = some x) : c = x.code := by
  revert c; cases x <;> decide

theorem FCond.eq_code {c : BitVec 3} {x : FCond} (h : FCond.ofCode c = some x) : c = x.code := by
  revert c; cases x <;> decide

theorem Fmt.eq_code {c : BitVec 4} {x : Fmt} (h : Fmt.ofCode c = some x) : c = x.code := by
  revert c; cases x <;> decide

theorem MxFmt.eq_code {c : BitVec 2} {x : MxFmt} (h : MxFmt.ofCode c = some x) : c = x.code := by
  revert c; cases x <;> decide

theorem LapOp.eq_code {c : BitVec 3} {x : LapOp} (h : LapOp.ofCode c = some x) : c = x.code := by
  revert c; cases x <;> decide

theorem LatchSrc.eq_code {c : BitVec 3} {x : LatchSrc} (h : LatchSrc.ofCode c = some x) : c = x.code := by
  revert c; cases x <;> decide

theorem RedOp.eq_code {c : BitVec 4} {r : BitVec 3} {x : RedOp} (h : RedOp.ofCode c r = some x) : c = x.code ∧ r = x.rmCode := by
  revert c r
  cases x with
  | fadd rm => cases rm <;> decide
  | _ => decide

/-! ## A word is the word of its format with its own fields (R48) -/

theorem bit_getLsbD {n : Nat} (x : BitVec n) (i : Nat) : bit (x.getLsbD i) = x.extractLsb' i 1 := by
  refine BitVec.eq_of_getLsbD_eq fun j hj => ?_
  obtain rfl : j = 0 := by omega
  simp [bit]

/-- Neighbouring fields of one word, joined. -/
theorem join_fields {n i j k l : Nat} (x : BitVec n) (h : j = i + k) :
    x.extractLsb' j l ++ x.extractLsb' i k = x.extractLsb' i (l + k) := BitVec.extractLsb'_append_extractLsb'_eq_extractLsb' h

theorem extractLsb'_bit {n i : Nat} {x : BitVec n} {b : Bool} (h : x.getLsbD i = b) : x.extractLsb' i 1 = bit b := by rw [← bit_getLsbD, h]

theorem extractLsb'_bit_of_not {n i : Nat} {x : BitVec n} (h : (! x.getLsbD i) = true) : x.extractLsb' i 1 = 0#1 :=
  extractLsb'_bit (by simpa using h)

theorem eq_append {m n : Nat} {x : BitVec (m + n)} {hi : BitVec m} {lo : BitVec n} (h : x.extractLsb' n m = hi) (l : x.extractLsb' 0 n = lo) :
    x = hi ++ lo := by
  rw [← h, ← l, BitVec.extractLsb'_append_extractLsb']

theorem eq_append3 {k m n : Nat} {x : BitVec (k + m + n)} {a : BitVec k} {b : BitVec m} {c : BitVec n} (ha : x.extractLsb' (n + m) k = a)
    (hb : x.extractLsb' n m = b) (hc : x.extractLsb' 0 n = c) : x = a ++ b ++ c :=
  eq_append (by rw [← ha, ← hb, join_fields x rfl]) hc

theorem eq_append4 {j k m n : Nat} {x : BitVec (j + k + m + n)} {a : BitVec j} {b : BitVec k} {c : BitVec m} {d : BitVec n}
    (ha : x.extractLsb' (n + m + k) j = a) (hb : x.extractLsb' (n + m) k = b) (hc : x.extractLsb' n m = c) (hd : x.extractLsb' 0 n = d) :
    x = a ++ b ++ c ++ d :=
  eq_append (by rw [← ha, ← hb, ← hc, join_fields x rfl, join_fields x rfl]) hd

theorem eq_append5 {i j k m n : Nat} {x : BitVec (i + j + k + m + n)} {a : BitVec i} {b : BitVec j} {c : BitVec k} {d : BitVec m} {e : BitVec n}
    (ha : x.extractLsb' (n + m + k + j) i = a) (hb : x.extractLsb' (n + m + k) j = b) (hc : x.extractLsb' (n + m) k = c)
    (hd : x.extractLsb' n m = d) (he : x.extractLsb' 0 n = e) : x = a ++ b ++ c ++ d ++ e :=
  eq_append (by rw [← ha, ← hb, ← hc, ← hd, join_fields x rfl, join_fields x rfl, join_fields x rfl]) he

/-- A field whose upper bits are clear holds the number of its lower ones. -/
theorem extractLsb'_low_eq_ofNat {n i m k : Nat} {x : BitVec n} (h : x.extractLsb' i m = 0#m) (hk : (x.extractLsb' 0 i).toNat = k) :
    x.extractLsb' 0 (m + i) = BitVec.ofNat (m + i) k := by
  refine eq_ofNat_of_toNat ?_
  rw [← join_fields x (Nat.zero_add i).symm, h, BitVec.toNat_append, hk]
  simp

section
variable {w : Word32} {mj : BitVec 6} (hm : fldMajor w = mj)
include hm

theorem eq_fmtR {d a b : BitVec 5} {fn : BitVec 10} (hd : fldD w = d) (ha : fldA w = a) (hb : fldB w = b) (hf : fldFn w = fn) :
    fmtR (fldS w) mj d a b fn = w := by
  subst hm hd ha hb hf
  simp (disch := decide) only [fmtR, fldS, fldMajor, fldD, fldA, fldB, fldFn, bit_getLsbD, join_fields]
  exact BitVec.extractLsb'_eq_self

theorem eq_fmtI {d a : BitVec 5} {fn3 : BitVec 3} {imm : BitVec 12} (hd : fldD w = d) (ha : fldA w = a) (hf : fldFn3 w = fn3)
    (hi : fldImm12 w = imm) : fmtI (fldS w) mj d a fn3 imm = w := by
  subst hm hd ha hf hi
  simp (disch := decide) only [fmtI, fldS, fldMajor, fldD, fldA, fldFn3, fldImm12, bit_getLsbD, join_fields]
  exact BitVec.extractLsb'_eq_self

theorem eq_fmtU {d : BitVec 5} {imm : BitVec 20} (hd : fldD w = d) (hi : fldImm20 w = imm) : fmtU (fldS w) mj d imm = w := by
  subst hm hd hi
  simp (disch := decide) only [fmtU, fldS, fldMajor, fldD, fldImm20, bit_getLsbD, join_fields]
  exact BitVec.extractLsb'_eq_self

theorem eq_fmtB {hint : BitVec 2} {cond : BitVec 3} {a b : BitVec 5} {off : BitVec 10} (hh : fldHint w = hint) (hc : fldCond w = cond)
    (ha : fldA w = a) (hb : fldB w = b) (hf : fldFn w = off) : fmtB (fldS w) mj hint cond a b off = w := by
  subst hm hh hc ha hb hf
  simp (disch := decide) only [fmtB, fldS, fldMajor, fldHint, fldCond, fldA, fldB, fldFn, bit_getLsbD, join_fields]
  exact BitVec.extractLsb'_eq_self

theorem eq_fmtZ {hint : BitVec 2} {cond : BitVec 3} {a : BitVec 5} (hh : fldHint w = hint) (hc : fldCond w = cond) (ha : fldA w = a) :
    fmtZ (fldS w) mj hint cond a (fldOff15 w) = w := by
  subst hm hh hc ha
  simp (disch := decide) only [fmtZ, fldS, fldMajor, fldHint, fldCond, fldA, fldOff15, bit_getLsbD, join_fields]
  exact BitVec.extractLsb'_eq_self

theorem eq_fmtJ : fmtJ (fldS w) mj (fldOff25 w) = w := by
  subst hm
  simp (disch := decide) only [fmtJ, fldS, fldMajor, fldOff25, bit_getLsbD, join_fields]
  exact BitVec.extractLsb'_eq_self

theorem eq_fmtV {vd va vb : BitVec 4} {m : BitVec 5} {z : BitVec 2} {fn : BitVec 6} (hd : fldVd w = vd) (ha : fldVa w = va)
    (hb : fldVb w = vb) (hx : fldM w = m) (hz : fldW w = z) (hf : fldFn6 w = fn) : fmtV (fldS w) mj vd va vb m z fn = w := by
  subst hm hd ha hb hx hz hf
  simp (disch := decide) only [fmtV, fldS, fldMajor, fldVd, fldVa, fldVb, fldM, fldW, fldFn6, bit_getLsbD, join_fields]
  exact BitVec.extractLsb'_eq_self

theorem eq_fmtA {fn4 : BitVec 4} {d a b : BitVec 7} (hf : fldVd w = fn4) (hd : fldAd w = d) (ha : fldAa w = a) (hb : fldAb w = b) :
    fmtA (fldS w) mj fn4 d a b = w := by
  subst hm hf hd ha hb
  simp (disch := decide) only [fmtA, fldS, fldMajor, fldVd, fldAd, fldAa, fldAb, bit_getLsbD, join_fields]
  exact BitVec.extractLsb'_eq_self

theorem eq_fmtX {d a b : BitVec 5} {w6 : BitVec 6} {fn4 : BitVec 4} (hd : fldD w = d) (ha : fldA w = a) (hb : fldB w = b)
    (hz : fldW6 w = w6) (hf : fldFn4 w = fn4) : fmtX (fldS w) mj d a b w6 fn4 = w := by
  subst hm hd ha hb hz hf
  simp (disch := decide) only [fmtX, fldS, fldMajor, fldD, fldA, fldB, fldW6, fldFn4, bit_getLsbD, join_fields]
  exact BitVec.extractLsb'_eq_self

end

end Sys2Proof
end

section
/-! O1 and O3: the decoder of each major, and that it reads from a well-formed instruction's word the marker and that instruction (R48, R49, R55). -/

namespace Sys2Proof

/-! ## The decoder of each major (R55) -/

section
variable {w : Word32}

theorem decodeBody_int (h : fldMajor w = 0x01#6) : decodeBody w = decInt w := by rw [decodeBody, h]; rfl
theorem decodeBody_inti (h : fldMajor w = 0x02#6) : decodeBody w = decInti w := by rw [decodeBody, h]; rfl
theorem decodeBody_shi (h : fldMajor w = 0x03#6) : decodeBody w = decShi w := by rw [decodeBody, h]; rfl
theorem decodeBody_ldhi (h : fldMajor w = 0x04#6) : decodeBody w = some (.ldhi (fldD w) (fldImm20 w)) := by rw [decodeBody, h]; rfl
theorem decodeBody_addpc (h : fldMajor w = 0x05#6) : decodeBody w = some (.addpc (fldD w) (fldImm20 w)) := by rw [decodeBody, h]; rfl
theorem decodeBody_sel (h : fldMajor w = 0x06#6) : decodeBody w = decSel w := by rw [decodeBody, h]; rfl
theorem decodeBody_skip (h : fldMajor w = 0x07#6) : decodeBody w = decSkip w := by rw [decodeBody, h]; rfl
theorem decodeBody_branch (h : fldMajor w = 0x08#6) : decodeBody w = decBranch w := by rw [decodeBody, h]; rfl
theorem decodeBody_branchZ (h : fldMajor w = 0x09#6) : decodeBody w = decBranchZ w := by rw [decodeBody, h]; rfl
theorem decodeBody_j (h : fldMajor w = 0x0A#6) : decodeBody w = some (.j (fldOff25 w)) := by rw [decodeBody, h]; rfl
theorem decodeBody_call (h : fldMajor w = 0x0B#6) : decodeBody w = some (.call (fldOff25 w)) := by rw [decodeBody, h]; rfl
theorem decodeBody_ctx (h : fldMajor w = 0x0C#6) : decodeBody w = decCtx w := by rw [decodeBody, h]; rfl
theorem decodeBody_ld (h : fldMajor w = 0x0D#6) : decodeBody w = decLd w := by rw [decodeBody, h]; rfl
theorem decodeBody_st (h : fldMajor w = 0x0E#6) : decodeBody w = decSt w := by rw [decodeBody, h]; rfl
theorem decodeBody_memx (h : fldMajor w = 0x0F#6) : decodeBody w = decMemx w := by rw [decodeBody, h]; rfl
theorem decodeBody_amo (h : fldMajor w = 0x10#6) : decodeBody w = decAmo w := by rw [decodeBody, h]; rfl
theorem decodeBody_ord (h : fldMajor w = 0x11#6) : decodeBody w = decOrd w := by rw [decodeBody, h]; rfl
theorem decodeBody_msg (h : fldMajor w = 0x12#6) : decodeBody w = decMsg w := by rw [decodeBody, h]; rfl
theorem decodeBody_fp (h : fldMajor w = 0x13#6) : decodeBody w = decFp w := by rw [decodeBody, h]; rfl
theorem decodeBody_fma (h : fldMajor w = 0x14#6) : decodeBody w = decFma w := by rw [decodeBody, h]; rfl
theorem decodeBody_cvt (h : fldMajor w = 0x15#6) : decodeBody w = decCvt w := by rw [decodeBody, h]; rfl
theorem decodeBody_vls (h : fldMajor w = 0x18#6) : decodeBody w = decVls w := by rw [decodeBody, h]; change decodeCop w = _; rw [decodeCop, h]; rfl
theorem decodeBody_vint (h : fldMajor w = 0x19#6) : decodeBody w = decVint w := by rw [decodeBody, h]; change decodeCop w = _; rw [decodeCop, h]; rfl
theorem decodeBody_vfp (h : fldMajor w = 0x1A#6) : decodeBody w = decVfp w := by rw [decodeBody, h]; change decodeCop w = _; rw [decodeCop, h]; rfl
theorem decodeBody_vcmp (h : fldMajor w = 0x1B#6) : decodeBody w = decVcmp w := by rw [decodeBody, h]; change decodeCop w = _; rw [decodeCop, h]; rfl
theorem decodeBody_vmov (h : fldMajor w = 0x1C#6) : decodeBody w = decVmov w := by rw [decodeBody, h]; change decodeCop w = _; rw [decodeCop, h]; rfl
theorem decodeBody_vcvt (h : fldMajor w = 0x1D#6) : decodeBody w = decVcvt w := by rw [decodeBody, h]; change decodeCop w = _; rw [decodeCop, h]; rfl
theorem decodeBody_rpt (h : fldMajor w = 0x1E#6) : decodeBody w = decRpt w := by rw [decodeBody, h]; change decodeCop w = _; rw [decodeCop, h]; rfl
theorem decodeBody_mat (h : fldMajor w = 0x20#6) : decodeBody w = decMat w := by rw [decodeBody, h]; change decodeCop w = _; rw [decodeCop, h]; rfl
theorem decodeBody_arow (h : fldMajor w = 0x24#6) : decodeBody w = decArow w := by rw [decodeBody, h]; change decodeCop w = _; rw [decodeCop, h]; rfl
theorem decodeBody_amacro (h : fldMajor w = 0x25#6) : decodeBody w = decAmacro w := by rw [decodeBody, h]; change decodeCop w = _; rw [decodeCop, h]; rfl
theorem decodeBody_actl (h : fldMajor w = 0x26#6) : decodeBody w = decActl w := by rw [decodeBody, h]; change decodeCop w = _; rw [decodeCop, h]; rfl
theorem decodeBody_drv (h : fldMajor w = 0x27#6) : decodeBody w = decDrv w := by rw [decodeBody, h]; rfl
theorem decodeBody_task (h : fldMajor w = 0x28#6) : decodeBody w = decTask w := by rw [decodeBody, h]; rfl
theorem decodeBody_eng (h : fldMajor w = 0x29#6) : decodeBody w = decEng w := by rw [decodeBody, h]; rfl
theorem decodeBody_near (h : fldMajor w = 0x2A#6) : decodeBody w = decNear w := by rw [decodeBody, h]; rfl
theorem decodeBody_sys (h : fldMajor w = 0x3E#6) : decodeBody w = decSys w := by rw [decodeBody, h]; rfl

end

/-! ## To decode a formatted word is to decode any word with its fields -/

section
variable {s : Bool} {mj : BitVec 6} {dec : Word32 → Option Instr} {i : Instr} (hdec : ∀ {w}, fldMajor w = mj → decodeBody w = dec w)
include hdec

theorem decode_fmtR {d a b : BitVec 5} {fn : BitVec 10}
    (h : ∀ w, fldD w = d → fldA w = a → fldB w = b → fldFn w = fn → dec w = some i) : decode (fmtR s mj d a b fn) = some (s, i) := by
  obtain ⟨hs, hm, hd, ha, hb, hf⟩ := fields_fmtR s mj d a b fn
  rw [decode, hdec hm, h _ hd ha hb hf, hs]; rfl

theorem decode_fmtI {d a : BitVec 5} {fn3 : BitVec 3} {imm : BitVec 12}
    (h : ∀ w, fldD w = d → fldA w = a → fldFn3 w = fn3 → fldImm12 w = imm → dec w = some i) : decode (fmtI s mj d a fn3 imm) = some (s, i) := by
  obtain ⟨hs, hm, hd, ha, hf, hi⟩ := fields_fmtI s mj d a fn3 imm
  rw [decode, hdec hm, h _ hd ha hf hi, hs]; rfl

theorem decode_fmtU {d : BitVec 5} {imm : BitVec 20} (h : ∀ w, fldD w = d → fldImm20 w = imm → dec w = some i) :
    decode (fmtU s mj d imm) = some (s, i) := by
  obtain ⟨hs, hm, hd, hi⟩ := fields_fmtU s mj d imm
  rw [decode, hdec hm, h _ hd hi, hs]; rfl

theorem decode_fmtB {hint : BitVec 2} {cond : BitVec 3} {a b : BitVec 5} {off : BitVec 10}
    (h : ∀ w, fldHint w = hint → fldCond w = cond → fldA w = a → fldB w = b → fldFn w = off → dec w = some i) :
    decode (fmtB s mj hint cond a b off) = some (s, i) := by
  obtain ⟨hs, hm, hh, hc, ha, hb, hf⟩ := fields_fmtB s mj hint cond a b off
  rw [decode, hdec hm, h _ hh hc ha hb hf, hs]; rfl

theorem decode_fmtZ {hint : BitVec 2} {cond : BitVec 3} {a : BitVec 5} {off : BitVec 15}
    (h : ∀ w, fldHint w = hint → fldCond w = cond → fldA w = a → fldOff15 w = off → dec w = some i) :
    decode (fmtZ s mj hint cond a off) = some (s, i) := by
  obtain ⟨hs, hm, hh, hc, ha, ho⟩ := fields_fmtZ s mj hint cond a off
  rw [decode, hdec hm, h _ hh hc ha ho, hs]; rfl

theorem decode_fmtJ {off : BitVec 25} (h : ∀ w, fldOff25 w = off → dec w = some i) : decode (fmtJ s mj off) = some (s, i) := by
  obtain ⟨hs, hm, ho⟩ := fields_fmtJ s mj off
  rw [decode, hdec hm, h _ ho, hs]; rfl

theorem decode_fmtV {vd va vb : BitVec 4} {m : BitVec 5} {z : BitVec 2} {fn : BitVec 6}
    (h : ∀ w, fldVd w = vd → fldVa w = va → fldVb w = vb → fldM w = m → fldW w = z → fldFn6 w = fn → dec w = some i) :
    decode (fmtV s mj vd va vb m z fn) = some (s, i) := by
  obtain ⟨hs, hm, hd, ha, hb, hx, hz, hf⟩ := fields_fmtV s mj vd va vb m z fn
  rw [decode, hdec hm, h _ hd ha hb hx hz hf, hs]; rfl

theorem decode_fmtA {fn4 : BitVec 4} {d a b : BitVec 7}
    (h : ∀ w, fldVd w = fn4 → fldAd w = d → fldAa w = a → fldAb w = b → dec w = some i) : decode (fmtA s mj fn4 d a b) = some (s, i) := by
  obtain ⟨hs, hm, hf, hd, ha, hb⟩ := fields_fmtA s mj fn4 d a b
  rw [decode, hdec hm, h _ hf hd ha hb, hs]; rfl

theorem decode_fmtX {d a b : BitVec 5} {w6 : BitVec 6} {fn4 : BitVec 4}
    (h : ∀ w, fldD w = d → fldA w = a → fldB w = b → fldW6 w = w6 → fldFn4 w = fn4 → dec w = some i) :
    decode (fmtX s mj d a b w6 fn4) = some (s, i) := by
  obtain ⟨hs, hm, hd, ha, hb, hz, hf⟩ := fields_fmtX s mj d a b w6 fn4
  rw [decode, hdec hm, h _ hd ha hb hz hf, hs]; rfl

end

/-! ## The encoder's words -/

theorem decode_encode (s : Bool) (i : Instr) (hwf : i.wf = true) : decode (encode s i) = some (s, i) := by
  cases i
  case add | addw | sub | subw | mul | mulw | mulh | mulhu | div | divw | divu | divuw | rem | remw | remu | remuw | and | or | xor | andn
      | shl | shlw | shr | shrw | sar | sarw | rotl | rotlw | min | max | minu | maxu | seq | slt | sltu | clmul | clmulh | clmulr =>
    refine decode_fmtR decodeBody_int ?_
    rintro w rfl rfl rfl hf
    rw [decInt, hf]
    rfl
  case clz | clzw | ctz | ctzw | popc | popcw | brev | brevw | bswap | bswapw | sextb | sexth =>
    refine decode_fmtR decodeBody_int ?_
    rintro w rfl rfl hb hf
    rw [decInt, hf, hb]
    rfl
  case addi | slti | sltiu | andi | ori | xori | addiw =>
    refine decode_fmtI decodeBody_inti ?_
    rintro w rfl rfl hf rfl
    rw [decInti, hf]
    rfl
  case shli | shri | sari | rotli | shliw | shriw | sariw =>
    refine decode_fmtI decodeBody_shi ?_
    rintro w rfl rfl hf hi
    rw [decShi, hf, hi]
    simp (disch := decide) only [fields_append, Nat.reduceSub, BitVec.extractLsb'_eq_self]
    rfl
  case ldhi => exact decode_fmtU decodeBody_ldhi (by rintro w rfl rfl; rfl)
  case addpc => exact decode_fmtU decodeBody_addpc (by rintro w rfl rfl; rfl)
  case sel =>
    refine decode_fmtR decodeBody_sel ?_
    rintro w rfl rfl rfl hf
    rw [decSel, hf]
    simp (disch := decide) only [fields_append, Nat.reduceSub, BitVec.extractLsb'_eq_self, SelCond.ofCode_code]
    rfl
  case skip =>
    refine decode_fmtB decodeBody_skip ?_
    rintro w hh hc rfl rfl hf
    rw [decSkip, hf, hh, hc, Hint.ofCode_code, SkipCond.ofCode_code]
    simp (disch := decide) only [fields_append, Nat.reduceSub, BitVec.extractLsb'_eq_self]
    rfl
  case beq | bne | blt | bge | bltu | bgeu | bbs | bbc =>
    refine decode_fmtB decodeBody_branch ?_
    rintro w hh hc rfl rfl rfl
    rw [decBranch, hh, hc, Hint.ofCode_code]
    rfl
  case beqz | bnez | bltz | bgez | bgtz | blez =>
    refine decode_fmtZ decodeBody_branchZ ?_
    rintro w hh hc rfl rfl
    rw [decBranchZ, hh, hc, Hint.ofCode_code]
    rfl
  case j => exact decode_fmtJ decodeBody_j (by rintro w rfl; rfl)
  case call => exact decode_fmtJ decodeBody_call (by rintro w rfl; rfl)
  case callr | jr | ret | yield | nret | setnh =>
    refine decode_fmtI decodeBody_ctx ?_
    intro w hd ha hf hi
    rw [decCtx, hd, ha, hf, hi]
    rfl
  case start | startRes | stoph =>
    have hn : helperOk _ = true := hwf
    refine decode_fmtI decodeBody_ctx ?_
    intro w hd ha hf hi
    rw [decCtx, hd, ha, hf, hi]
    simp (disch := decide) only [fields_append, Nat.reduceSub, BitVec.extractLsb'_eq_self, hn]
    rfl
  case rdsr | wrsr =>
    have hr : sysRegOk _ = true := hwf
    refine decode_fmtI decodeBody_ctx ?_
    intro w hd ha hf hi
    rw [decCtx, hd, ha, hf, hi, hr]
    rfl
  case ldb | ldh | ldw | ldd | ldbu | ldhu | ldwu | pref =>
    refine decode_fmtI decodeBody_ld ?_
    intro w hd ha hf hi
    rw [decLd, hd, ha, hf, hi]
    rfl
  case stb | sth | stw | std =>
    refine decode_fmtI decodeBody_st ?_
    intro w hd ha hf hi
    rw [decSt, hd, ha, hf, hi]
    rfl
  case ldxB | ldxH | ldxW | ldxD | ldxBu | ldxHu | ldxWu | stxB | stxH | stxW | stxD | rcinv | rcinvRange =>
    refine decode_fmtR decodeBody_memx ?_
    intro w hd ha hb hf
    rw [decMemx, hd, ha, hb, hf]
    rfl
  case amoadd | amoand | amoor | amoxor | amomin | amomax | amominu | amomaxu | amoswap | amocas | amofadd | amofmin | amofmax =>
    rename_i dbl ord _ _ _
    refine decode_fmtR decodeBody_amo ?_
    rintro w rfl rfl rfl hf
    rw [decAmo, hf]
    cases dbl <;> cases ord <;> rfl
  case amoaddNr | amoandNr | amoorNr | amoxorNr | amominNr | amomaxNr | amominuNr | amomaxuNr | amofaddNr | amofminNr | amofmaxNr =>
    rename_i dbl rl _ _
    refine decode_fmtR decodeBody_amo ?_
    rintro w hd rfl rfl hf
    rw [decAmo, hd, hf]
    cases dbl <;> cases rl <;> rfl
  case amergeAdd dbl _ _ _ | amergeFadd dbl _ _ _ =>
    refine decode_fmtR decodeBody_amo ?_
    rintro w rfl rfl rfl hf
    rw [decAmo, hf]
    cases dbl <;> rfl
  case lda | stl | fenceAcq | fenceRel | fenceFull =>
    refine decode_fmtR decodeBody_ord ?_
    intro w hd ha hb hf
    rw [decOrd, hd, ha, hb, hf]
    simp (disch := decide) only [fields_append, Nat.reduceSub, BitVec.extractLsb'_eq_self, LWidth.ofCode_code, SWidth.ofCode_code,
      Scope.ofCode_code]
    rfl
  case put | putc | get | cinc | cget | waitc | wtarm | send | recv =>
    refine decode_fmtR decodeBody_msg ?_
    intro w hd ha hb hf
    rw [decMsg, hd, ha, hb, hf]
    rfl
  case fadd | fsub | fmul | fdiv | fsqrt | fmin | fmax | fsgn | fsgnn | fsgnx | feq | flt | fle | fclass =>
    refine decode_fmtR decodeBody_fp ?_
    intro w hd ha hb hf
    rw [decFp, hd, ha, hb, hf]
    simp (disch := decide) only [fields_append, getLsbD_bit, Nat.reduceSub, BitVec.extractLsb'_eq_self, RM.ofCode_code]
    rfl
  case fma | fms | fnma =>
    refine decode_fmtR decodeBody_fma ?_
    intro w hd ha hb hf
    rw [decFma, hd, ha, hb, hf]
    simp (disch := decide) only [fields_append, getLsbD_bit, Nat.reduceSub, BitVec.extractLsb'_eq_self, RM.ofCode_code]
    rfl
  case cvt =>
    have hok : cvtOk _ _ _ = true := hwf
    refine decode_fmtR decodeBody_cvt ?_
    intro w hd ha hb hf
    rw [decCvt, hd, ha, hb, hf]
    simp (disch := decide) only [fields_append, getLsbD_bit, Nat.reduceSub, BitVec.extractLsb'_eq_self, RM.ofCode_code, Fmt.ofCode_code,
      Option.bind_some, hok]
    rfl
  case vld | vst | vldx | vstx | vldbc =>
    refine decode_fmtV decodeBody_vls ?_
    intro w hd ha hb hm hz hf
    rw [decVls, hd, ha, hb, hm, hz, hf, VWidth.ofCode_code]
    rfl
  case vlds vd m | vsts vd m | vstm vd m =>
    have hm31 : (m != 31#5) = true := hwf
    refine decode_fmtV decodeBody_vls ?_
    intro w hd ha hb hm hz hf
    rw [decVls, hd, ha, hb, hm, hz, hf, VWidth.ofCode_code]
    exact if_pos hm31
  case vadd | vsub | vmul | vmulh | vmac | vmin | vmax | vminu | vmaxu | vand | vor | vxor | vshl | vshr | vsar | vclmul | vclmulh | vpopc =>
    refine decode_fmtV decodeBody_vint ?_
    intro w hd ha hb hm hz hf
    rw [decVint, hd, ha, hb, hm, hz, hf, VWidth.ofCode_code]
    rfl
  case vfadd | vfsub | vfmul | vfma | vfmin | vfmax | vfdiv | vfsqrt =>
    refine decode_fmtV decodeBody_vfp ?_
    intro w hd ha hb hm hz hf
    rw [decVfp, hd, ha, hb, hm, hf]
    simp (disch := decide) only [getLsbD_fldW, hz, fields_append, getLsbD_bit, Nat.reduceSub, BitVec.extractLsb'_eq_self, RM.ofCode_code]
    rfl
  case vcmp | vfcmp =>
    refine decode_fmtV decodeBody_vcmp ?_
    intro w hd ha hb hm hz hf
    rw [decVcmp, hd, ha, hb, hm, hf]
    simp (disch := decide) only [getLsbD_fldW, hz, fields_append, getLsbD_bit, Nat.reduceSub, BitVec.extractLsb'_eq_self, VCond.ofCode_code,
      FCond.ofCode_code, VWidth.ofCode_code]
    rfl
  case vsel | vbcast | vperm | vslide =>
    refine decode_fmtV decodeBody_vmov ?_
    intro w hd ha hb hm hz hf
    rw [decVmov, hd, ha, hb, hm, hz, hf, VWidth.ofCode_code]
    rfl
  case vext | vins =>
    have hok : idxOk _ _ _ = true := hwf
    refine decode_fmtV decodeBody_vmov ?_
    intro w hd ha hb hm hz hf
    rw [decVmov, hd, ha, hb, hm, hz, hf, VWidth.ofCode_code]
    exact if_pos hok
  case vred =>
    have hok : redOk _ _ = true := hwf
    refine decode_fmtV decodeBody_vmov ?_
    intro w hd ha hb hm hz hf
    rw [decVmov, hd, ha, hb, hm, hz, hf, VWidth.ofCode_code]
    simp (disch := decide) only [fields_append, Nat.reduceSub, BitVec.extractLsb'_eq_self, RedOp.ofCode_code]
    exact if_pos hok
  case vcvt =>
    have hok : vcvtOk _ _ _ = true := hwf
    refine decode_fmtV decodeBody_vcvt ?_
    intro w hd ha hb hm hz hf
    rw [decVcvt, hd, ha, hb, hm, hf]
    simp (disch := decide) only [getLsbD_fldW, hz, fields_append, getLsbD_bit, Nat.reduceSub, BitVec.extractLsb'_eq_self, Fmt.ofCode_code,
      Option.bind_some, hok]
    rfl
  case vmxs | vmxq | vmxd =>
    refine decode_fmtV decodeBody_vcvt ?_
    intro w hd ha hb hm hz hf
    rw [decVcvt, hd, ha, hb, hm, hz, hf]
    simp (disch := decide) only [fields_append, Nat.reduceSub, BitVec.extractLsb'_eq_self, MxFmt.ofCode_code]
    rfl
  case vdot =>
    refine decode_fmtV decodeBody_vcvt ?_
    intro w hd ha hb hm hz hf
    rw [decVcvt, hd, ha, hb, hm, hf]
    simp (disch := decide) only [getLsbD_fldW, hz, fields_append, getLsbD_bit, Nat.reduceSub]
    rfl
  case rpt =>
    refine decode_fmtU decodeBody_rpt ?_
    intro w hd hi
    rw [decRpt, hd, hi]
    simp (disch := decide) only [fields_append, Nat.reduceSub, BitVec.extractLsb'_eq_self]
    rfl
  case mfmt | mzero | mma | mmas | mldc | mstc | mprog | mrec | mtlist =>
    refine decode_fmtR decodeBody_mat ?_
    intro w hd ha hb hf
    rw [decMat, hd, ha, hb, hf]
    simp (disch := decide) only [fields_append, getLsbD_bit, Nat.reduceSub, BitVec.extractLsb'_eq_self]
    rfl
  case mpop =>
    refine decode_fmtR decodeBody_mat ?_
    intro w hd ha hb hf
    rw [decMat, hd, ha, hb, hf]
    rfl
  case aand | aor | axor | anor | anand | axnor | anot | acopy | afadd | afsub | astp | astc | ashl | ashr =>
    refine decode_fmtA decodeBody_arow ?_
    intro w hf hd ha hb
    rw [decArow, hd, ha, hb, hf]
    rfl
  case aldp | aldc =>
    have hok : latchOk _ _ _ = true := hwf
    refine decode_fmtA decodeBody_arow ?_
    intro w hf hd ha hb
    rw [decArow, hd, ha, hb, hf]
    simp (disch := decide) only [fields_append, Nat.reduceSub, BitVec.extractLsb'_eq_self, LatchSrc.ofCode_code, Option.bind_some, hok]
    rfl
  case aadd | asub | amul | amac | acmplt | amax | aneg | aabs | aadds | asubs =>
    have hok : w6Ok _ = true := hwf
    refine decode_fmtX decodeBody_amacro ?_
    intro w hd ha hb hz hf
    rw [decAmacro, hd, ha, hb, hz, hf, hok]
    rfl
  case asel | asetrb | axin | axout | adot | achk | await =>
    refine decode_fmtR decodeBody_actl ?_
    intro w hd ha hb hf
    rw [decActl, hd, ha, hb, hf]
    rfl
  case abuf | aout =>
    refine decode_fmtR decodeBody_actl ?_
    intro w hd ha hb hf
    rw [decActl, hd, ha, hb, hf]
    simp (disch := decide) only [fields_append, Nat.reduceSub, BitVec.extractLsb'_eq_self]
    rfl
  case dreg | dstat | dfresh =>
    refine decode_fmtR decodeBody_drv ?_
    intro w hd ha hb hf
    rw [decDrv, hd, ha, hb, hf]
    rfl
  case dunreg f _ =>
    refine decode_fmtR decodeBody_drv ?_
    intro w hd ha hb hf
    rw [decDrv, hd, ha, hb, hf]
    cases f <;> rfl
  case tkenq | tkenqn | tkpop | tksteal | tkdone | tkdepth | tkqcfg | lapw =>
    refine decode_fmtR decodeBody_task ?_
    intro w hd ha hb hf
    rw [decTask, hd, ha, hb, hf]
    rfl
  case lapv =>
    refine decode_fmtR decodeBody_task ?_
    intro w hd ha hb hf
    rw [decTask, hd, ha, hb, hf]
    simp (disch := decide) only [fields_append, getLsbD_bit, Nat.reduceSub, BitVec.extractLsb'_eq_self, LapOp.ofCode_code, if_true]
    rfl
  case ecpy | ecpy2 | egath | escat | efill | eovl | ebulk =>
    refine decode_fmtR decodeBody_eng ?_
    intro w hd ha hb hf
    rw [decEng, hd, ha, hb, hf]
    simp (disch := decide) only [fields_append, getLsbD_bit, Nat.reduceSub, BitVec.extractLsb'_eq_self]
    rfl
  case epin | eunpin | epop | estat =>
    refine decode_fmtR decodeBody_eng ?_
    intro w hd ha hb hf
    rw [decEng, hd, ha, hb, hf]
    rfl
  case nrprog | nrrun | nrstat | nrwait =>
    refine decode_fmtR decodeBody_near ?_
    intro w hd ha hb hf
    rw [decNear, hd, ha, hb, hf]
    rfl
  case trap | eret | tlbinv | genadv | genadvFloor | cbswapUnit | stopc | bkpt | haltc =>
    refine decode_fmtR decodeBody_sys ?_
    intro w hd ha hb hf
    rw [decSys, hd, ha, hb, hf]
    rfl
  case cbswap | cbswapSeal =>
    have hn : helperOk _ = true := hwf
    refine decode_fmtR decodeBody_sys ?_
    intro w hd ha hb hf
    rw [decSys, hd, ha, hb, hf]
    simp (disch := decide) only [fields_append, Nat.reduceSub, BitVec.extractLsb'_eq_self, hn]
    rfl
  all_goals exact absurd hwf Bool.false_ne_true

/-- Settles O1: row by row of the encoding tables. -/
theorem encodedInstructionDecodes : Obligations.EncodedInstructionDecodes := by
  unfold Obligations.EncodedInstructionDecodes
  exact fun m i hwf => decode_encode m i hwf

theorem decode_of_encode {s : Bool} {i : Instr} {w : Word32} (hwf : i.wf = true) (h : encode s i = w) : decode w = some (s, i) :=
  h ▸ decode_encode s i hwf

/-- Settles O3: the words that the spec works out are the encodings of its statements (R55); the others have a major, a hint or
a cond with no row. -/
theorem workedWordsDecode : Obligations.WorkedWordsDecode := by
  unfold Obligations.WorkedWordsDecode
  refine ⟨?addw, ?xor, ?j, ?bnez, ?bbs, ?skip, ?ldhi, ?ldw, ?ldwMarked, ?stw, ?tkenqn, ?addi, ?vfma, ?mma, ?rpt, ?zeros, ?ones, ?major, ?hint, ?cond⟩
  case zeros | ones | major | hint | cond => decide
  all_goals exact decode_of_encode (by decide) (by decide)

end Sys2Proof
end

section
/-! O2: every word that the decoder accepts is well formed and its own encoding (R48, R54, R58). -/

namespace Sys2Proof

/-! ## What a decoder may give -/

/-- The word is the encoding of the instruction, which is a well-formed one and no event. -/
def Means (w : Word32) (i : Instr) : Prop := i.wf = true ∧ i.isEvent = false ∧ encode (fldS w) i = w

/-- Whatever instruction is given, the word is its encoding. -/
def Reads (w : Word32) (o : Option Instr) : Prop := ∀ i, o = some i → Means w i

section
variable {w : Word32} {i : Instr} {o : Option Instr}

theorem Reads.none : Reads w none := by rintro i ⟨⟩

theorem Reads.some (h : Means w i) : Reads w (some i) := by
  rintro _ ⟨rfl⟩
  exact h

theorem Reads.whenZero {n : Nat} {x : BitVec n} (h : x = 0 → Reads w o) : Reads w (whenZero x o) := by
  unfold Sys2Proof.whenZero
  split
  · exact h ‹_›
  · exact .none

theorem Reads.whenTrue {p : Bool} (h : p = true → Reads w o) : Reads w (whenTrue p o) := by
  unfold Sys2Proof.whenTrue
  split
  · exact h ‹_›
  · exact .none

theorem Reads.bind {α : Type} {c : Option α} {f : α → Option Instr} (h : ∀ x, c = Option.some x → Reads w (f x)) : Reads w (c.bind f) := by
  cases c with
  | none => exact .none
  | some x => exact h x rfl

theorem Reads.map {α : Type} {c : Option α} {f : α → Instr} (h : ∀ x, c = Option.some x → Means w (f x)) : Reads w (c.map f) := by
  cases c with
  | none => exact .none
  | some x => exact .some (h x rfl)

end

/-! ## The decoders, major by major (R55) -/

section
variable {w : Word32}

theorem reads_decInt (hm : fldMajor w = 0x01#6) : Reads w (decInt w) := by
  unfold decInt
  split
  iterate 35 next h => exact .some ⟨rfl, rfl, eq_fmtR hm rfl rfl rfl (eq_ofNat_of_toNat h)⟩
  iterate 12 next h => exact .whenZero fun hb => .some ⟨rfl, rfl, eq_fmtR hm rfl rfl hb (eq_ofNat_of_toNat h)⟩
  iterate 3 next h => exact .some ⟨rfl, rfl, eq_fmtR hm rfl rfl rfl (eq_ofNat_of_toNat h)⟩
  exact .none

theorem reads_decInti (hm : fldMajor w = 0x02#6) : Reads w (decInti w) := by
  unfold decInti
  split
  iterate 7 next h => exact .some ⟨rfl, rfl, eq_fmtI hm rfl rfl (eq_ofNat_of_toNat h) rfl⟩
  exact .none

theorem reads_decShi (hm : fldMajor w = 0x03#6) : Reads w (decShi w) := by
  unfold decShi
  split
  iterate 4 next h => exact .whenZero fun hz => .some ⟨rfl, rfl, eq_fmtI hm rfl rfl (eq_ofNat_of_toNat h) (eq_append (m := 6) (n := 6) hz rfl)⟩
  iterate 3 next h => exact .whenZero fun hz => .some ⟨rfl, rfl, eq_fmtI hm rfl rfl (eq_ofNat_of_toNat h) (eq_append (m := 7) (n := 5) hz rfl)⟩
  exact .none

theorem reads_decSel (hm : fldMajor w = 0x06#6) : Reads w (decSel w) :=
  .whenZero fun hz => .map fun _ hc => ⟨rfl, rfl, eq_fmtR hm rfl rfl rfl (eq_append (m := 8) (n := 2) hz (SelCond.eq_code hc))⟩

theorem reads_decSkip (hm : fldMajor w = 0x07#6) : Reads w (decSkip w) :=
  .whenZero fun hz => .bind fun _ hh => .map fun _ hc =>
    ⟨rfl, rfl, eq_fmtB hm (Hint.eq_code hh) (SkipCond.eq_code hc) rfl rfl (eq_append (m := 7) (n := 3) hz rfl)⟩

theorem reads_decBranch (hm : fldMajor w = 0x08#6) : Reads w (decBranch w) := by
  refine .bind fun _ hh => ?_
  split
  iterate 8 next h => exact .some ⟨rfl, rfl, eq_fmtB hm (Hint.eq_code hh) (eq_ofNat_of_toNat h) rfl rfl rfl⟩
  exact .none

theorem reads_decBranchZ (hm : fldMajor w = 0x09#6) : Reads w (decBranchZ w) := by
  refine .bind fun _ hh => ?_
  split
  iterate 6 next h => exact .some ⟨rfl, rfl, eq_fmtZ hm (Hint.eq_code hh) (eq_ofNat_of_toNat h) rfl⟩
  exact .none

theorem reads_decLd (hm : fldMajor w = 0x0D#6) : Reads w (decLd w) := by
  unfold decLd
  split
  iterate 7 next h => exact .some ⟨rfl, rfl, eq_fmtI hm rfl rfl (eq_ofNat_of_toNat h) rfl⟩
  next _ h0 h1 h2 h3 h4 h5 h6 =>
    have h7 : (fldFn3 w).toNat = 7 := by have := (fldFn3 w).isLt; grind
    exact .whenZero fun hd => .some ⟨rfl, rfl, eq_fmtI hm hd rfl (eq_ofNat_of_toNat h7) rfl⟩

theorem reads_decSt (hm : fldMajor w = 0x0E#6) : Reads w (decSt w) := by
  unfold decSt
  split
  iterate 4 next h => exact .some ⟨rfl, rfl, eq_fmtI hm rfl rfl (eq_ofNat_of_toNat h) rfl⟩
  exact .none

theorem reads_decMemx (hm : fldMajor w = 0x0F#6) : Reads w (decMemx w) := by
  unfold decMemx
  split
  iterate 11 next h => exact .some ⟨rfl, rfl, eq_fmtR hm rfl rfl rfl (eq_ofNat_of_toNat h)⟩
  next h => exact .whenZero fun hd => .whenZero fun ha => .whenZero fun hb => .some ⟨rfl, rfl, eq_fmtR hm hd ha hb (eq_ofNat_of_toNat h)⟩
  next h => exact .whenZero fun hd => .some ⟨rfl, rfl, eq_fmtR hm hd rfl rfl (eq_ofNat_of_toNat h)⟩
  exact .none

theorem reads_decAmo (hm : fldMajor w = 0x10#6) : Reads w (decAmo w) := by
  unfold decAmo
  dsimp only
  split
  · exact .none
  next h4 =>
  have h4 : (fldFn w).extractLsb' 4 1 = 0#1 := extractLsb'_bit (Bool.eq_false_of_not_eq_true h4)
  split
  next hk =>
    refine .bind fun o ho => ?_
    have hfn {k : Nat} (h : ((fldFn w).extractLsb' 0 4).toNat = k) :
        fldFn w = 0#2 ++ bit ((fldFn w).getLsbD 7) ++ o.code ++ BitVec.ofNat 5 k :=
      eq_append4 (eq_ofNat_of_toNat hk) (extractLsb'_bit rfl) (Ord4.eq_code ho) (extractLsb'_low_eq_ofNat h4 h)
    split
    iterate 13 next h => exact .some ⟨rfl, rfl, eq_fmtR hm rfl rfl rfl (hfn h)⟩
    exact .none
  next hk =>
    refine .whenZero fun hd => .whenTrue fun h5 => ?_
    have hfn {k : Nat} (h : ((fldFn w).extractLsb' 0 4).toNat = k) :
        fldFn w = 1#2 ++ bit ((fldFn w).getLsbD 7) ++ bit ((fldFn w).getLsbD 6) ++ 0#1 ++ BitVec.ofNat 5 k :=
      eq_append5 (eq_ofNat_of_toNat hk) (extractLsb'_bit rfl) (extractLsb'_bit rfl) (extractLsb'_bit_of_not h5)
        (extractLsb'_low_eq_ofNat h4 h)
    split
    iterate 11 next h => exact .some ⟨rfl, rfl, eq_fmtR hm hd rfl rfl (hfn h)⟩
    exact .none
  next hk =>
    refine .whenZero fun hz => ?_
    have hfn {k : Nat} (h : ((fldFn w).extractLsb' 0 4).toNat = k) :
        fldFn w = 2#2 ++ bit ((fldFn w).getLsbD 7) ++ BitVec.ofNat 7 k :=
      eq_append3 (eq_ofNat_of_toNat hk) (extractLsb'_bit rfl)
        (extractLsb'_low_eq_ofNat (i := 4) (m := 3) (by rw [← join_fields (k := 1) (l := 2) _ rfl, h4, hz]; rfl) h)
    split
    iterate 2 next h => exact .some ⟨rfl, rfl, eq_fmtR hm rfl rfl rfl (hfn h)⟩
    exact .none
  exact .none

theorem reads_decCtx (hm : fldMajor w = 0x0C#6) : Reads w (decCtx w) := by
  unfold decCtx
  dsimp only
  split
  next h => exact .whenZero fun hd => .some ⟨rfl, rfl, eq_fmtI hm hd rfl (eq_ofNat_of_toNat h) rfl⟩
  next h => exact .whenZero fun hd => .some ⟨rfl, rfl, eq_fmtI hm hd rfl (eq_ofNat_of_toNat h) rfl⟩
  next h => exact .whenZero fun hd => .whenZero fun ha => .whenZero fun hi => .some ⟨rfl, rfl, eq_fmtI hm hd ha (eq_ofNat_of_toNat h) hi⟩
  next h =>
    split
    · next hi => exact .whenTrue fun hn => .some ⟨hn, rfl, eq_fmtI hm rfl rfl (eq_ofNat_of_toNat h) (eq_append (m := 8) (n := 4) hi rfl)⟩
    · split
      · next hi =>
          exact .whenZero fun hd => .whenZero fun ha => .whenTrue fun hn =>
            .some ⟨hn, rfl, eq_fmtI hm hd ha (eq_ofNat_of_toNat h) (eq_append (m := 8) (n := 4) hi rfl)⟩
      · exact .none
  next h =>
    exact .whenZero fun hd => .whenZero fun ha => .whenZero fun hi => .whenTrue fun hn =>
      .some ⟨hn, rfl, eq_fmtI hm hd ha (eq_ofNat_of_toNat h) (eq_append (m := 8) (n := 4) hi rfl)⟩
  next h =>
    split
    iterate 2 next hi =>
      exact .whenZero fun hd => .whenZero fun ha =>
        .some ⟨rfl, rfl, eq_fmtI hm hd ha (eq_ofNat_of_toNat h) (eq_ofNat_of_toNat hi)⟩
    next hi => exact .some ⟨rfl, rfl, eq_fmtI hm rfl rfl (eq_ofNat_of_toNat h) (eq_ofNat_of_toNat hi)⟩
    exact .none
  next h => exact .whenZero fun ha => .whenTrue fun hr => .some ⟨hr, rfl, eq_fmtI hm rfl ha (eq_ofNat_of_toNat h) rfl⟩
  next _ h0 h1 h2 h3 h4 h5 h6 =>
    have h7 : (fldFn3 w).toNat = 7 := by have := (fldFn3 w).isLt; grind
    exact .whenZero fun hd => .whenTrue fun hr => .some ⟨hr, rfl, eq_fmtI hm hd rfl (eq_ofNat_of_toNat h7) rfl⟩

theorem reads_decOrd (hm : fldMajor w = 0x11#6) : Reads w (decOrd w) := by
  unfold decOrd
  dsimp only
  split
  next h =>
    exact .whenZero fun hb => .map fun _ hz =>
      ⟨rfl, rfl, eq_fmtR hm rfl rfl hb (eq_append (m := 7) (n := 3) (eq_ofNat_of_toNat h) (LWidth.eq_code hz))⟩
  next h =>
    exact .whenZero fun hb => .whenTrue fun h2 => .map fun _ hz => ⟨rfl, rfl, eq_fmtR hm rfl rfl hb
      (eq_append3 (k := 7) (m := 1) (n := 2) (eq_ofNat_of_toNat h) (extractLsb'_bit_of_not h2) (SWidth.eq_code hz))⟩
  iterate 3 next h =>
    exact .whenZero fun hd => .whenZero fun ha => .whenZero fun hb => .map fun _ hz =>
      ⟨rfl, rfl, eq_fmtR hm hd ha hb (eq_append (m := 7) (n := 3) (eq_ofNat_of_toNat h) (Scope.eq_code hz))⟩
  exact .none

theorem reads_decMsg (hm : fldMajor w = 0x12#6) : Reads w (decMsg w) := by
  unfold decMsg
  split
  next h => exact .whenZero fun hd => .some ⟨rfl, rfl, eq_fmtR hm hd rfl rfl (eq_ofNat_of_toNat h)⟩
  iterate 3 next h => exact .some ⟨rfl, rfl, eq_fmtR hm rfl rfl rfl (eq_ofNat_of_toNat h)⟩
  next h => exact .whenZero fun hb => .some ⟨rfl, rfl, eq_fmtR hm rfl rfl hb (eq_ofNat_of_toNat h)⟩
  next h => exact .whenZero fun hd => .some ⟨rfl, rfl, eq_fmtR hm hd rfl rfl (eq_ofNat_of_toNat h)⟩
  iterate 3 next h => exact .some ⟨rfl, rfl, eq_fmtR hm rfl rfl rfl (eq_ofNat_of_toNat h)⟩
  exact .none

/-- The parts of fn in the words of FP and FMA: D, the rounding mode or a choice of three bits, and the operation (R202, R208). -/
theorem eq_fpFn {x : BitVec 10} {r : BitVec 3} {k : Nat} (hr : x.extractLsb' 6 3 = r) (h : (x.extractLsb' 0 6).toNat = k) :
    x = bit (x.getLsbD 9) ++ r ++ BitVec.ofNat 6 k :=
  eq_append3 (extractLsb'_bit rfl) hr (eq_ofNat_of_toNat h)

theorem reads_decFp (hm : fldMajor w = 0x13#6) : Reads w (decFp w) := by
  unfold decFp
  dsimp only
  split
  iterate 4 next h => exact .map fun _ hr => ⟨rfl, rfl, eq_fmtR hm rfl rfl rfl (eq_fpFn (RM.eq_code hr) h)⟩
  next h => exact .whenZero fun hb => .map fun _ hr => ⟨rfl, rfl, eq_fmtR hm rfl rfl hb (eq_fpFn (RM.eq_code hr) h)⟩
  iterate 2 next h => exact .whenZero fun hr => .some ⟨rfl, rfl, eq_fmtR hm rfl rfl rfl (eq_fpFn hr h)⟩
  next h =>
    split
    iterate 3 next hr => exact .some ⟨rfl, rfl, eq_fmtR hm rfl rfl rfl (eq_fpFn (eq_ofNat_of_toNat hr) h)⟩
    exact .none
  iterate 3 next h => exact .whenZero fun hr => .some ⟨rfl, rfl, eq_fmtR hm rfl rfl rfl (eq_fpFn hr h)⟩
  next h => exact .whenZero fun hr => .whenZero fun hb => .some ⟨rfl, rfl, eq_fmtR hm rfl rfl hb (eq_fpFn hr h)⟩
  exact .none

theorem reads_decFma (hm : fldMajor w = 0x14#6) : Reads w (decFma w) := by
  refine .bind fun _ hr => ?_
  split
  iterate 3 next h => exact .some ⟨rfl, rfl, eq_fmtR hm rfl rfl rfl (eq_fpFn (RM.eq_code hr) h)⟩
  exact .none

theorem reads_decCvt (hm : fldMajor w = 0x15#6) : Reads w (decCvt w) :=
  .whenZero fun h0 => .whenTrue fun h4 => .bind fun _ hr => .bind fun _ hd => .bind fun _ hs => .whenTrue fun hok =>
    .some ⟨hok, rfl, eq_fmtR hm rfl rfl (eq_append3 (k := 1) (m := 1) (n := 3) (extractLsb'_bit_of_not h4) (extractLsb'_bit rfl) (RM.eq_code hr))
      (eq_append3 (k := 4) (m := 4) (n := 2) (Fmt.eq_code hd) (Fmt.eq_code hs) h0)⟩

theorem reads_decVls (hm : fldMajor w = 0x18#6) : Reads w (decVls w) := by
  refine .whenZero fun ha => .bind fun _ hz => ?_
  split
  iterate 2 next h => exact .whenZero fun hb => .some ⟨rfl, rfl, eq_fmtV hm rfl ha hb rfl (VWidth.eq_code hz) (eq_ofNat_of_toNat h)⟩
  iterate 2 next h =>
    exact .whenZero fun hb => .whenTrue fun h31 =>
      .some ⟨h31, rfl, eq_fmtV hm rfl ha hb rfl (VWidth.eq_code hz) (eq_ofNat_of_toNat h)⟩
  iterate 2 next h => exact .some ⟨rfl, rfl, eq_fmtV hm rfl ha rfl rfl (VWidth.eq_code hz) (eq_ofNat_of_toNat h)⟩
  next h => exact .whenZero fun hb => .some ⟨rfl, rfl, eq_fmtV hm rfl ha hb rfl (VWidth.eq_code hz) (eq_ofNat_of_toNat h)⟩
  next h =>
    exact .whenZero fun hb => .whenTrue fun h31 =>
      .some ⟨h31, rfl, eq_fmtV hm rfl ha hb rfl (VWidth.eq_code hz) (eq_ofNat_of_toNat h)⟩
  exact .none

theorem reads_decVint (hm : fldMajor w = 0x19#6) : Reads w (decVint w) := by
  refine .bind fun _ hz => ?_
  split
  iterate 17 next h => exact .some ⟨rfl, rfl, eq_fmtV hm rfl rfl rfl rfl (VWidth.eq_code hz) (eq_ofNat_of_toNat h)⟩
  next h => exact .whenZero fun hb => .some ⟨rfl, rfl, eq_fmtV hm rfl rfl hb rfl (VWidth.eq_code hz) (eq_ofNat_of_toNat h)⟩
  exact .none

/-- The width field from its two bits. -/
theorem fldW_eq {p q : BitVec 1} (hq : bit (w.getLsbD 7) = q) (hp : bit (w.getLsbD 6) = p) : fldW w = q ++ p := by
  rw [(getLsbD_fldW w).2, bit_getLsbD] at hq
  rw [(getLsbD_fldW w).1, bit_getLsbD] at hp
  exact eq_append hq hp

theorem reads_decVfp (hm : fldMajor w = 0x1A#6) : Reads w (decVfp w) := by
  unfold decVfp
  refine .whenTrue fun h7 => ?_
  have hz : fldW w = 1#1 ++ bit (w.getLsbD 6) := fldW_eq (congrArg bit h7) rfl
  have hfn {r : BitVec 3} {k : Nat} (hr : (fldFn6 w).extractLsb' 3 3 = r) (h : ((fldFn6 w).extractLsb' 0 3).toNat = k) :
      fldFn6 w = r ++ BitVec.ofNat 3 k := eq_append (m := 3) (n := 3) hr (eq_ofNat_of_toNat h)
  split
  iterate 4 next h => exact .map fun _ hr => ⟨rfl, rfl, eq_fmtV hm rfl rfl rfl rfl hz (hfn (RM.eq_code hr) h)⟩
  iterate 2 next h => exact .whenZero fun hr => .some ⟨rfl, rfl, eq_fmtV hm rfl rfl rfl rfl hz (hfn hr h)⟩
  next h => exact .map fun _ hr => ⟨rfl, rfl, eq_fmtV hm rfl rfl rfl rfl hz (hfn (RM.eq_code hr) h)⟩
  next _ h0 h1 h2 h3 h4 h5 h6 =>
    have h : ((fldFn6 w).extractLsb' 0 3).toNat = 7 := by have := ((fldFn6 w).extractLsb' 0 3).isLt; grind
    exact .whenZero fun hb => .map fun _ hr => ⟨rfl, rfl, eq_fmtV hm rfl rfl hb rfl hz (hfn (RM.eq_code hr) h)⟩

theorem reads_decVcmp (hm : fldMajor w = 0x1B#6) : Reads w (decVcmp w) := by
  unfold decVcmp
  dsimp only
  split
  next h =>
    exact .bind fun _ hc => .map fun _ hz => ⟨rfl, rfl, eq_fmtV hm rfl rfl rfl rfl (VWidth.eq_code hz)
      (eq_append (m := 3) (n := 3) (eq_ofNat_of_toNat h) (VCond.eq_code hc))⟩
  next h =>
    exact .whenTrue fun h7 => .map fun _ hc => ⟨rfl, rfl, eq_fmtV hm rfl rfl rfl rfl (fldW_eq (congrArg bit h7) rfl)
      (eq_append (m := 3) (n := 3) (eq_ofNat_of_toNat h) (FCond.eq_code hc))⟩
  exact .none

theorem reads_decVmov (hm : fldMajor w = 0x1C#6) : Reads w (decVmov w) := by
  unfold decVmov
  refine .bind fun _ hz => ?_
  have hz := VWidth.eq_code hz
  have hfn {k : Nat} {r : BitVec 3} (h : ((fldFn6 w).extractLsb' 3 3).toNat = k) (hr : (fldFn6 w).extractLsb' 0 3 = r) :
      fldFn6 w = BitVec.ofNat 3 k ++ r := eq_append (m := 3) (n := 3) (eq_ofNat_of_toNat h) hr
  split
  next h => exact .whenZero fun hl => .some ⟨rfl, rfl, eq_fmtV hm rfl rfl rfl rfl hz (hfn h hl)⟩
  next h => exact .whenZero fun hl => .whenZero fun ha => .whenZero fun hb => .some ⟨rfl, rfl, eq_fmtV hm rfl ha hb rfl hz (hfn h hl)⟩
  iterate 2 next h => exact .whenZero fun hl => .whenTrue fun hok => .some ⟨hok, rfl, eq_fmtV hm rfl rfl rfl rfl hz (hfn h hl)⟩
  next h => exact .whenZero fun hl => .whenZero fun hx => .some ⟨rfl, rfl, eq_fmtV hm rfl rfl rfl hx hz (hfn h hl)⟩
  next h => exact .whenZero fun hl => .whenZero fun hb => .some ⟨rfl, rfl, eq_fmtV hm rfl rfl hb rfl hz (hfn h hl)⟩
  next h =>
    exact .whenZero fun hx => .bind fun _ hop => .whenTrue fun hok =>
      .some ⟨hok, rfl, eq_fmtV hm rfl rfl (RedOp.eq_code hop).1 hx hz (hfn h (RedOp.eq_code hop).2)⟩
  exact .none

theorem reads_decVcvt (hm : fldMajor w = 0x1D#6) : Reads w (decVcvt w) := by
  unfold decVcvt
  dsimp only
  split
  next h =>
    exact .whenTrue fun h7 => .bind fun _ hd => .bind fun _ hs => .whenTrue fun hok =>
      .some ⟨hok, rfl, eq_fmtV hm rfl rfl (Fmt.eq_code hd) rfl (fldW_eq (congrArg bit (by simpa using h7)) rfl)
      (eq_append (m := 2) (n := 4) (eq_ofNat_of_toNat h) (Fmt.eq_code hs))⟩
  next h =>
    refine .whenZero fun hx => .whenTrue fun hz => .bind fun f hf => ?_
    have hz : fldW w = 2#2 := eq_of_beq hz
    have hfn {k : Nat} {x : BitVec 4} (h' : ((fldFn6 w).extractLsb' 2 2).toNat = k) (hx : 1#2 ++ BitVec.ofNat 2 k = x) : fldFn6 w = x ++ f.code := by
      rw [← hx]
      exact eq_append3 (eq_ofNat_of_toNat h) (eq_ofNat_of_toNat h') (MxFmt.eq_code hf)
    split
    next h => exact .whenZero fun hb => .some ⟨rfl, rfl, eq_fmtV hm rfl rfl hb hx hz (hfn h rfl)⟩
    iterate 2 next h => exact .some ⟨rfl, rfl, eq_fmtV hm rfl rfl rfl hx hz (hfn h rfl)⟩
    exact .none
  next h =>
    exact .whenZero fun h0 => .whenTrue fun h6 => .some ⟨rfl, rfl, eq_fmtV hm rfl rfl rfl rfl (fldW_eq rfl (congrArg bit (by simpa using h6)))
      (eq_append (m := 2) (n := 4) (eq_ofNat_of_toNat h) h0)⟩
  exact .none

theorem reads_decRpt (hm : fldMajor w = 0x1E#6) : Reads w (decRpt w) :=
  .whenZero fun hd => .whenZero fun h0 => .some ⟨rfl, rfl, eq_fmtU hm hd (eq_append4 (j := 8) (k := 4) (m := 4) (n := 4) rfl rfl rfl h0)⟩

theorem reads_decMat (hm : fldMajor w = 0x20#6) : Reads w (decMat w) := by
  unfold decMat
  refine .whenZero fun hz => ?_
  have hfn {k : Nat} {p q : Bool} (h : ((fldFn w).extractLsb' 0 4).toNat = k) (hp : (fldFn w).getLsbD 5 = p) (hq : (fldFn w).getLsbD 4 = q) :
      fldFn w = 0#4 ++ bit p ++ bit q ++ BitVec.ofNat 4 k := eq_append4 hz (extractLsb'_bit hp) (extractLsb'_bit hq) (eq_ofNat_of_toNat h)
  split
  next h =>
    exact .whenZero fun hd => .whenZero fun hb => .whenTrue fun hx =>
      .some ⟨rfl, rfl, eq_fmtR hm hd rfl hb (hfn (q := false) h rfl (by simpa using hx))⟩
  next h => exact .whenZero fun hd => .whenZero fun ha => .whenZero fun hb => .some ⟨rfl, rfl, eq_fmtR hm hd ha hb (hfn h rfl rfl)⟩
  iterate 4 next h => exact .whenZero fun hd => .some ⟨rfl, rfl, eq_fmtR hm hd rfl rfl (hfn h rfl rfl)⟩
  next h => exact .whenZero fun hd => .whenZero fun hb => .some ⟨rfl, rfl, eq_fmtR hm hd rfl hb (hfn h rfl rfl)⟩
  next h => exact .whenZero fun hd => .some ⟨rfl, rfl, eq_fmtR hm hd rfl rfl (hfn h rfl rfl)⟩
  next h => exact .whenZero fun hd => .whenZero fun hb => .some ⟨rfl, rfl, eq_fmtR hm hd rfl hb (hfn h rfl rfl)⟩
  next h =>
    refine .whenZero fun ha => .whenZero fun hb => .whenTrue fun hkx => ?_
    obtain ⟨hk, hx⟩ : (fldFn w).getLsbD 5 = false ∧ (fldFn w).getLsbD 4 = false := by simpa using hkx
    exact .some ⟨rfl, rfl, eq_fmtR hm rfl ha hb (hfn (p := false) (q := false) h hk hx)⟩
  exact .none

theorem reads_decArow (hm : fldMajor w = 0x24#6) : Reads w (decArow w) := by
  unfold decArow
  dsimp only
  split
  iterate 6 next h => exact .some ⟨rfl, rfl, eq_fmtA hm (eq_ofNat_of_toNat h) rfl rfl rfl⟩
  iterate 2 next h => exact .whenZero fun hb => .some ⟨rfl, rfl, eq_fmtA hm (eq_ofNat_of_toNat h) rfl rfl hb⟩
  iterate 2 next h => exact .some ⟨rfl, rfl, eq_fmtA hm (eq_ofNat_of_toNat h) rfl rfl rfl⟩
  iterate 2 next h =>
    exact .whenZero fun hd => .whenZero fun hz => .bind fun _ hl => .whenTrue fun hok =>
      .some ⟨hok, rfl, eq_fmtA hm (eq_ofNat_of_toNat h) hd rfl (eq_append (m := 4) (n := 3) hz (LatchSrc.eq_code hl))⟩
  iterate 2 next h => exact .whenZero fun ha => .whenZero fun hb => .some ⟨rfl, rfl, eq_fmtA hm (eq_ofNat_of_toNat h) rfl ha hb⟩
  next h => exact .whenZero fun hb => .some ⟨rfl, rfl, eq_fmtA hm (eq_ofNat_of_toNat h) rfl rfl hb⟩
  next =>
    have h : (fldVd w).toNat = 15 := by have := (fldVd w).isLt; grind
    exact .whenZero fun hb => .some ⟨rfl, rfl, eq_fmtA hm (eq_ofNat_of_toNat h) rfl rfl hb⟩

theorem reads_decAmacro (hm : fldMajor w = 0x25#6) : Reads w (decAmacro w) := by
  unfold decAmacro
  refine .whenTrue fun hz => ?_
  split
  iterate 6 next h => exact .some ⟨hz, rfl, eq_fmtX hm rfl rfl rfl rfl (eq_ofNat_of_toNat h)⟩
  iterate 2 next h => exact .whenZero fun hb => .some ⟨hz, rfl, eq_fmtX hm rfl rfl hb rfl (eq_ofNat_of_toNat h)⟩
  iterate 2 next h => exact .some ⟨hz, rfl, eq_fmtX hm rfl rfl rfl rfl (eq_ofNat_of_toNat h)⟩
  exact .none

theorem reads_decActl (hm : fldMajor w = 0x26#6) : Reads w (decActl w) := by
  unfold decActl
  dsimp only
  split
  iterate 2 next h => exact .whenZero fun hd => .whenZero fun hb => .some ⟨rfl, rfl, eq_fmtR hm hd rfl hb (eq_ofNat_of_toNat h)⟩
  iterate 2 next h => exact .whenZero fun hd => .some ⟨rfl, rfl, eq_fmtR hm hd rfl rfl (eq_ofNat_of_toNat h)⟩
  next h => exact .whenZero fun hd => .whenZero fun ha => .whenZero fun hb => .some ⟨rfl, rfl, eq_fmtR hm hd ha hb (eq_ofNat_of_toNat h)⟩
  next h =>
    exact .whenZero fun hd => .whenZero fun hb => .whenTrue fun h4 =>
      .some ⟨rfl, rfl, eq_fmtR hm hd (eq_append (m := 1) (n := 4) (extractLsb'_bit_of_not h4) rfl) hb (eq_ofNat_of_toNat h)⟩
  next h =>
    exact .whenZero fun ha => .whenTrue fun h4 =>
      .some ⟨rfl, rfl, eq_fmtR hm (eq_append (m := 1) (n := 4) (extractLsb'_bit_of_not h4) rfl) ha rfl (eq_ofNat_of_toNat h)⟩
  next h => exact .whenZero fun hd => .whenZero fun hb => .some ⟨rfl, rfl, eq_fmtR hm hd rfl hb (eq_ofNat_of_toNat h)⟩
  next h => exact .whenZero fun hd => .whenZero fun ha => .whenZero fun hb => .some ⟨rfl, rfl, eq_fmtR hm hd ha hb (eq_ofNat_of_toNat h)⟩
  exact .none

theorem reads_decDrv (hm : fldMajor w = 0x27#6) : Reads w (decDrv w) := by
  unfold decDrv
  dsimp only
  split
  iterate 3 next h => exact .whenZero fun hd => .whenZero fun hb => .some ⟨rfl, rfl, eq_fmtR hm hd rfl hb (eq_ofNat_of_toNat h)⟩
  next h => exact .whenZero fun hb => .some ⟨rfl, rfl, eq_fmtR hm rfl rfl hb (eq_ofNat_of_toNat h)⟩
  next h => exact .whenZero fun hd => .some ⟨rfl, rfl, eq_fmtR hm hd rfl rfl (eq_ofNat_of_toNat h)⟩
  exact .none

theorem reads_decTask (hm : fldMajor w = 0x28#6) : Reads w (decTask w) := by
  unfold decTask
  dsimp only
  split
  · next h =>
      exact .whenZero fun hd => .whenZero fun hb => .whenZero fun hz => .map fun _ hop => ⟨rfl, rfl, eq_fmtR hm hd rfl hb
        (eq_append4 (j := 2) (k := 1) (m := 3) (n := 4) hz (extractLsb'_bit rfl) (LapOp.eq_code hop) h)⟩
  split
  next h => exact .whenZero fun hd => .some ⟨rfl, rfl, eq_fmtR hm hd rfl rfl (eq_ofNat_of_toNat h)⟩
  next h => exact .some ⟨rfl, rfl, eq_fmtR hm rfl rfl rfl (eq_ofNat_of_toNat h)⟩
  next h => exact .whenZero fun ha => .some ⟨rfl, rfl, eq_fmtR hm rfl ha rfl (eq_ofNat_of_toNat h)⟩
  next h => exact .some ⟨rfl, rfl, eq_fmtR hm rfl rfl rfl (eq_ofNat_of_toNat h)⟩
  next h => exact .whenZero fun hd => .whenZero fun ha => .whenZero fun hb => .some ⟨rfl, rfl, eq_fmtR hm hd ha hb (eq_ofNat_of_toNat h)⟩
  next h => exact .whenZero fun hb => .some ⟨rfl, rfl, eq_fmtR hm rfl rfl hb (eq_ofNat_of_toNat h)⟩
  next h => exact .some ⟨rfl, rfl, eq_fmtR hm rfl rfl rfl (eq_ofNat_of_toNat h)⟩
  next h => exact .whenZero fun ha => .whenZero fun hb => .some ⟨rfl, rfl, eq_fmtR hm rfl ha hb (eq_ofNat_of_toNat h)⟩
  exact .none

theorem reads_decEng (hm : fldMajor w = 0x29#6) : Reads w (decEng w) := by
  unfold decEng
  refine .whenZero fun hz => ?_
  have hfn {k : Nat} {n : Bool} (h : ((fldFn w).extractLsb' 0 5).toNat = k) (hn : (fldFn w).getLsbD 5 = n) :
      fldFn w = 0#4 ++ bit n ++ BitVec.ofNat 5 k := eq_append3 hz (extractLsb'_bit hn) (eq_ofNat_of_toNat h)
  split
  next h => exact .some ⟨rfl, rfl, eq_fmtR hm rfl rfl rfl (hfn h rfl)⟩
  iterate 3 next h => exact .whenZero fun hd => .some ⟨rfl, rfl, eq_fmtR hm hd rfl rfl (hfn h rfl)⟩
  next h => exact .some ⟨rfl, rfl, eq_fmtR hm rfl rfl rfl (hfn h rfl)⟩
  next h => exact .whenZero fun hd => .some ⟨rfl, rfl, eq_fmtR hm hd rfl rfl (hfn h rfl)⟩
  next h => exact .whenTrue fun hn => .whenZero fun hb => .some ⟨rfl, rfl, eq_fmtR hm rfl rfl hb (hfn (n := false) h (by simpa using hn))⟩
  next h => exact .whenTrue fun hn => .whenZero fun hd => .whenZero fun hb => .some ⟨rfl, rfl, eq_fmtR hm hd rfl hb (hfn (n := false) h (by simpa using hn))⟩
  next h => exact .whenZero fun hd => .some ⟨rfl, rfl, eq_fmtR hm hd rfl rfl (hfn h rfl)⟩
  iterate 2 next h =>
    exact .whenTrue fun hn => .whenZero fun ha => .whenZero fun hb =>
      .some ⟨rfl, rfl, eq_fmtR hm rfl ha hb (hfn (n := false) h (by simpa using hn))⟩
  exact .none

theorem reads_decNear (hm : fldMajor w = 0x2A#6) : Reads w (decNear w) := by
  unfold decNear
  split
  iterate 2 next h => exact .whenZero fun hd => .whenZero fun hb => .some ⟨rfl, rfl, eq_fmtR hm hd rfl hb (eq_ofNat_of_toNat h)⟩
  iterate 2 next h => exact .whenZero fun ha => .whenZero fun hb => .some ⟨rfl, rfl, eq_fmtR hm rfl ha hb (eq_ofNat_of_toNat h)⟩
  exact .none

theorem reads_decSys (hm : fldMajor w = 0x3E#6) : Reads w (decSys w) := by
  unfold decSys
  dsimp only
  split
  next h => exact .whenZero fun hd => .whenZero fun hb => .some ⟨rfl, rfl, eq_fmtR hm hd rfl hb (eq_ofNat_of_toNat h)⟩
  next h => exact .whenZero fun hd => .whenZero fun ha => .whenZero fun hb => .some ⟨rfl, rfl, eq_fmtR hm hd ha hb (eq_ofNat_of_toNat h)⟩
  next h => exact .whenZero fun hd => .some ⟨rfl, rfl, eq_fmtR hm hd rfl rfl (eq_ofNat_of_toNat h)⟩
  next h => exact .whenZero fun hb => .some ⟨rfl, rfl, eq_fmtR hm rfl rfl hb (eq_ofNat_of_toNat h)⟩
  next h => exact .whenZero fun hd => .some ⟨rfl, rfl, eq_fmtR hm hd rfl rfl (eq_ofNat_of_toNat h)⟩
  next h =>
    refine .whenZero fun hd => .whenTrue fun hb => ?_
    obtain ⟨h4, hn⟩ := Bool.and_eq_true_iff.mp hb
    exact .some ⟨hn, rfl, eq_fmtR hm hd rfl (eq_append (m := 1) (n := 4) (extractLsb'_bit_of_not h4) rfl) (eq_ofNat_of_toNat h)⟩
  next h =>
    refine .whenZero fun hd => .whenZero fun ha => .whenTrue fun hb => ?_
    obtain ⟨h4, hn⟩ := Bool.and_eq_true_iff.mp hb
    exact .some ⟨hn, rfl, eq_fmtR hm hd ha (eq_append (m := 1) (n := 4) (extractLsb'_bit_of_not h4) rfl) (eq_ofNat_of_toNat h)⟩
  iterate 2 next h => exact .whenZero fun hd => .whenZero fun hb => .some ⟨rfl, rfl, eq_fmtR hm hd rfl hb (eq_ofNat_of_toNat h)⟩
  iterate 2 next h =>
    exact .whenZero fun hd => .whenZero fun ha => .whenZero fun hb =>
      .some ⟨rfl, rfl, eq_fmtR hm hd ha hb (eq_ofNat_of_toNat h)⟩
  exact .none

theorem reads_decodeCop (w : Word32) : Reads w (decodeCop w) := by
  unfold decodeCop
  split
  next h => exact reads_decVls (eq_ofNat_of_toNat h)
  next h => exact reads_decVint (eq_ofNat_of_toNat h)
  next h => exact reads_decVfp (eq_ofNat_of_toNat h)
  next h => exact reads_decVcmp (eq_ofNat_of_toNat h)
  next h => exact reads_decVmov (eq_ofNat_of_toNat h)
  next h => exact reads_decVcvt (eq_ofNat_of_toNat h)
  next h => exact reads_decRpt (eq_ofNat_of_toNat h)
  next h => exact reads_decMat (eq_ofNat_of_toNat h)
  next h => exact reads_decArow (eq_ofNat_of_toNat h)
  next h => exact reads_decAmacro (eq_ofNat_of_toNat h)
  next h => exact reads_decActl (eq_ofNat_of_toNat h)
  exact .none

theorem reads_decodeBody (w : Word32) : Reads w (decodeBody w) := by
  unfold decodeBody
  split
  next h => exact reads_decInt (eq_ofNat_of_toNat h)
  next h => exact reads_decInti (eq_ofNat_of_toNat h)
  next h => exact reads_decShi (eq_ofNat_of_toNat h)
  iterate 2 next h => exact .some ⟨rfl, rfl, eq_fmtU (eq_ofNat_of_toNat h) rfl rfl⟩
  next h => exact reads_decSel (eq_ofNat_of_toNat h)
  next h => exact reads_decSkip (eq_ofNat_of_toNat h)
  next h => exact reads_decBranch (eq_ofNat_of_toNat h)
  next h => exact reads_decBranchZ (eq_ofNat_of_toNat h)
  iterate 2 next h => exact .some ⟨rfl, rfl, eq_fmtJ (eq_ofNat_of_toNat h)⟩
  next h => exact reads_decCtx (eq_ofNat_of_toNat h)
  next h => exact reads_decLd (eq_ofNat_of_toNat h)
  next h => exact reads_decSt (eq_ofNat_of_toNat h)
  next h => exact reads_decMemx (eq_ofNat_of_toNat h)
  next h => exact reads_decAmo (eq_ofNat_of_toNat h)
  next h => exact reads_decOrd (eq_ofNat_of_toNat h)
  next h => exact reads_decMsg (eq_ofNat_of_toNat h)
  next h => exact reads_decFp (eq_ofNat_of_toNat h)
  next h => exact reads_decFma (eq_ofNat_of_toNat h)
  next h => exact reads_decCvt (eq_ofNat_of_toNat h)
  iterate 11 exact reads_decodeCop w
  next h => exact reads_decDrv (eq_ofNat_of_toNat h)
  next h => exact reads_decTask (eq_ofNat_of_toNat h)
  next h => exact reads_decEng (eq_ofNat_of_toNat h)
  next h => exact reads_decNear (eq_ofNat_of_toNat h)
  next h => exact reads_decSys (eq_ofNat_of_toNat h)
  exact .none

end

theorem decode_eq_some {w : Word32} {m : Bool} {i : Instr} (h : decode w = some (m, i)) : Means w i ∧ fldS w = m := by
  obtain ⟨j, hj, hmj⟩ := Option.map_eq_some_iff.mp h
  obtain ⟨rfl, rfl⟩ := Prod.mk.inj hmj
  exact ⟨reads_decodeBody w j hj, rfl⟩

/-- Settles O2: decoder by decoder, row by row. -/
theorem decodedWordIsItsEncoding : Obligations.DecodedWordIsItsEncoding := by
  unfold Obligations.DecodedWordIsItsEncoding
  intro w m i h
  obtain ⟨hi, rfl⟩ := decode_eq_some h
  exact hi

end Sys2Proof
end

section
/-! O4, O5 and O23: the step that issues a word (R47, R59, R64), and JR (R81). -/

namespace Sys2Proof.Machine
open Sys2Proof Claims

/-! ## Wakes (log entry 96) -/

/-- Data read from a map is the data of one of its pairs, or the default. -/
theorem SMap.get_cases {α : Type} (m : SMap α) (k : Nat) (d : α) : (∃ e ∈ m, SMap.get m k d = e.2) ∨ SMap.get m k d = d := by
  induction m with
  | nil => exact .inr rfl
  | cons e rest ih =>
    by_cases h : e.1 = k
    · exact .inl ⟨e, List.mem_cons_self, by simp [SMap.get, h]⟩
    · simp only [SMap.get, if_neg h]
      exact ih.imp_left fun ⟨e, he, hv⟩ => ⟨e, List.mem_cons_of_mem _ he, hv⟩

/-- A context waits at no RECV and at no LAPW. -/
def Ctx.Unwaked (x : Ctx) : Prop := ∀ d l r, x.wait ≠ some (.recv d l r) ∧ x.wait ≠ some (.lapw d)

theorem State.latchWake_eq {s : State} {u c : Nat} (h : (s.ctx u c).Unwaked) : s.latchWake u c = s := by
  cases hw : (s.ctx u c).wait with
  | none => simp only [State.latchWake, State.latchTail, hw]
  | some w =>
    cases w with
    | recv d l r => exact absurd hw (h d l r).1
    | lapw d => exact absurd hw (h d 0#64 0#64).2
    | _ => simp only [State.latchWake, State.latchTail, hw]

theorem UnitState.ctxs_reset (u : Nat) : (UnitState.reset u).ctxs = [] := rfl

/-- Where no listed context waits at a RECV or a LAPW, none does. -/
theorem State.unwaked_ctx {s : State} (h : ∀ v ∈ s.units, ∀ x ∈ v.2.ctxs, x.2.Unwaked) (u c : Nat) : (s.ctx u c).Unwaked := by
  have hreset : (Ctx.reset (kindOf u) c).Unwaked := fun d l r => ⟨nofun, nofun⟩
  have hunit : ∀ x ∈ (s.unit u).ctxs, x.2.Unwaked := by
    rcases SMap.get_cases s.units u (UnitState.reset u) with ⟨v, hv, he⟩ | he
    · rw [State.unit, he]
      exact h v hv
    · rw [State.unit, he, UnitState.ctxs_reset]
      exact fun x hx => absurd hx List.not_mem_nil
  rcases SMap.get_cases (s.unit u).ctxs c (Ctx.reset (kindOf u) c) with ⟨x, hx, he⟩ | he
  · rw [State.ctx, UnitState.ctx, he]
    exact hunit x hx
  · rw [State.ctx, UnitState.ctx, he]
    exact hreset

/-- A fold that leaves its start as it is at every element. -/
theorem foldl_eq_self {α β : Type} {f : α → β → α} {a : α} {l : List β} (h : ∀ b ∈ l, f a b = a) : l.foldl f a = a := by
  induction l with
  | nil => rfl
  | cons b rest ih =>
    rw [List.foldl_cons, h b List.mem_cons_self]
    exact ih fun x hx => h x (List.mem_cons_of_mem _ hx)

theorem State.latchWakes_eq {s : State} (h : ∀ u c, (s.ctx u c).Unwaked) : s.latchWakes = s :=
  foldl_eq_self fun u _ => foldl_eq_self fun x _ => State.latchWake_eq (h u.1 x.1)

/-! ## The word that is being issued (R59, R64) -/

/-- A context whose next word, with or without the marker, has entered issue. -/
def Ctx.issuing (m : Bool) (x : Ctx) : Ctx :=
  { x with seg := if x.parked then x.seg else x.seg + 1, holding := false, resuming := false, parking := m || decide (255 ≤ x.seg) }

section
variable (s : State) (w : Word32) (m : Bool)

theorem State.loadWord_eq : s.loadWord w m =
    ((s.modU fun x => { x with word := w }).modC (Ctx.issuing m)).modLaunch s.cx.lid fun l => { l with stalled := false } := rfl

theorem State.upsetAt_loadWord (src : ErrSrc) (a : Nat) : (s.loadWord w m).upsetAt src a = s.upsetAt src a := rfl

theorem State.cx_setWord : (s.modU fun x => { x with word := w }).cx = s.cx := by
  simp only [State.cx, State.c, State.ctx, UnitState.ctx, State.modU, State.modUnit_cur, State.unit_modUnit_same]

theorem State.cx_loadWord : (s.loadWord w m).cx = s.cx.issuing m :=
  (State.cx_modC _ (Ctx.issuing m)).trans (congrArg (Ctx.issuing m) (s.cx_setWord w))

theorem State.word_loadWord : (s.loadWord w m).ux.word = w := by
  have hw : (s.modU fun x => { x with word := w }).ux.word = w := congrArg UnitState.word (State.unit_modUnit_same s s.cur _)
  exact (congrArg UnitState.word (State.ux_modC _ (Ctx.issuing m))).trans hw

end

/-- A step that issues a word, its fetch made: a word that is no instruction traps, and any other comes to the check of its results. -/
theorem step_issue {s s1 : State} {u c : Nat} {async : Bool} {rest : List Choice} {w : Word32} (hs : s.sched = .issue u c async :: rest)
    (hready : State.issueReady { s with sched := rest } u c = true)
    (hredo : State.redoDue (State.focus { s with sched := rest } u c async) u c = false)
    (hresume : State.resumeDue (State.focus { s with sched := rest } u c async) u c = false)
    (hfetch : issueFetch (State.focus { s with sched := rest } u c async) = .word s1 w) :
    step s = latched (match decode w with
      | none => (s1.loadWord w false).trapWord .illegal
      | some (mark, i) => (s1.loadWord w mark).checked ((s1.loadWord w mark).barred w i) (exec i)) := by
  simp only [step, hs, stepChoice, stepIssue, hready, hredo, hresume, hfetch]
  rfl

/-- Settles O4: the step that issues, read off its parts; where no context waits at a RECV or a LAPW no wake is kept. -/
theorem stepRunsDecodedInstruction : Obligations.StepRunsDecodedInstruction := by
  unfold Obligations.StepRunsDecodedInstruction
  intro s s1 u c async rest w m i hs hready hredo hresume hfetch hdec hup
  refine ⟨?_, fun t h => ?_, rfl, ?_, State.word_loadWord s1 w m, ?_, ?_⟩
  · rw [step_issue hs hready hredo hresume hfetch, hdec]
    exact congrArg latched (State.checked_eq (s := s1.loadWord w m) hup _ _)
  · exact congrArg Host.Outcome.next (State.latchWakes_eq (State.unwaked_ctx h))
  · rw [State.pc, State.cx_loadWord]
    rfl
  · rw [State.cx_loadWord]
    rfl
  · rw [State.cx_loadWord]
    rfl

/-- The bytes of a word put together, least significant first (R3, R47). -/
theorem extractLsb'_wordOfBytes (m : Memory) (a : Nat) {k : Nat} (hk : k < 4) :
    (wordOfBytes (m.readBytes a 4)).extractLsb' (8 * k) 8 = m.read (a + k) := by
  simp only [Memory.readBytes, wordOfBytes]
  obtain rfl | rfl | rfl | rfl : k = 0 ∨ k = 1 ∨ k = 2 ∨ k = 3 := by omega
  all_goals simp (disch := decide) only [fields_append, Nat.reduceMul, Nat.reduceSub, BitVec.extractLsb'_eq_self, Nat.add_zero]

/-- Settles O5: the step that issues, for a word with no meaning, and the fetch by the overlay that is resident. -/
theorem fetchAndIllegalWords : Obligations.FetchAndIllegalWords := by
  unfold Obligations.FetchAndIllegalWords
  refine ⟨?_, fun s u c pc => ⟨?_, ?_, ?_, fun _ => rfl⟩⟩
  · intro s s1 u c async rest w hs hready hredo hresume hfetch hdec
    rw [step_issue hs hready hredo hresume hfetch, hdec, State.trapWord, State.word_loadWord]
  · intro h
    rw [State.fetchAt, h]
  · intro e w he hw k hk
    rw [State.fetchAt, he] at hw
    obtain rfl := Option.some.inj hw
    exact extractLsb'_wordOfBytes _ _ hk
  · intro e he
    rw [State.fetchAt, he]
    exact ⟨_, rfl⟩

/-! ## JR (R81) -/

theorem low2_eq_zero_iff (t : Word) : t.extractLsb' 0 2 = 0#2 ↔ t.toNat % 4 = 0 := by
  rw [extractLsb'_eq_ofNat, ← BitVec.toNat_inj]
  simp

theorem high6_eq_zero_iff (t : Word) : t.extractLsb' 58 6 = 0#6 ↔ t.toNat < 2 ^ 58 := by
  rw [extractLsb'_eq_ofNat, ← BitVec.toNat_inj]
  have := t.isLt
  simp only [BitVec.toNat_ofNat]
  omega

/-- The check of an absolute target, as arithmetic (R62). -/
theorem checkTarget_eq (t : Word) :
    checkTarget t = if t.toNat % 4 ≠ 0 then some .align else if 2 ^ 58 ≤ t.toNat then some .access else none := by
  unfold checkTarget
  simp only [ne_eq, low2_eq_zero_iff, high6_eq_zero_iff, Nat.not_lt]

theorem toInt_eq_imm (i : BitVec 12) : i.toInt = imm i := by
  rw [BitVec.toInt_eq_toNat_cond, imm, sgn]
  by_cases h : 2 * i.toNat < 2 ^ 12
  · rw [if_pos h, if_neg (by omega)]
  · rw [if_neg h, if_pos (by omega)]
    rfl

theorem simm_eq (i : BitVec 12) : simm i = BitVec.ofInt 64 (imm i) := by
  rw [simm, BitVec.signExtend, toInt_eq_imm]

/-- The effective address of the M format, as the model adds it (R123). -/
theorem eaOfM_eq (g : Reg → Word) (a : Reg) (i : BitVec 12) : eaOfM g a i = g a + simm i := by
  rw [eaOfM, simm_eq, BitVec.ofInt_add, BitVec.ofInt_natCast, BitVec.ofNat_toNat, BitVec.setWidth_eq]

/-- What JR does once no replay runs. -/
def State.jumpTo (s : State) (t : Word) : State :=
  if t.toNat % 4 ≠ 0 then s.trapAt .align t else if 2 ^ 58 ≤ t.toNat then s.trapAt .access t else s.setPc t

theorem exec_jr (a : Reg) (i : BitVec 12) (s : State) : exec (.jr a i) s = s.afterReplay fun s1 => s1.jumpTo (eaOfM s1.g a i) := by
  change s.afterReplay _ = _
  congr 1
  funext s1
  simp only [eaOfM_eq, checkTarget_eq, State.jumpTo]
  generalize s1.g a + simm i = t
  by_cases h4 : t.toNat % 4 ≠ 0
  · simp only [if_pos h4]
  · by_cases h58 : 2 ^ 58 ≤ t.toNat
    · simp only [if_neg h4, if_pos h58]
    · simp only [if_neg h4, if_neg h58]

/-- Settles O23: JR by its shape, with the check of a target as arithmetic (R62). -/
theorem registerJumpResults : Obligations.RegisterJumpResults := by
  unfold Obligations.RegisterJumpResults
  intro a i s
  rw [exec_jr]
  refine ⟨fun hr => ?_, fun hr => ?_⟩
  · rw [State.afterReplay, hr]
    refine ⟨fun h4 h58 => ?_, fun h4 => ?_, fun h4 h58 => ?_⟩
    · exact congrArg _ ((if_neg (not_not.mpr h4)).trans (if_neg (Nat.not_le.mpr h58)))
    · exact congrArg _ (if_pos h4)
    · exact congrArg _ ((if_neg (not_not.mpr h4)).trans (if_pos h58))
  · rw [State.afterReplay, hr]
    rfl

end Sys2Proof.Machine
end

section
/-! O31: the checks that come before a word's own effect (R55 to R57, R59). -/

namespace Sys2Proof.Machine
open Sys2Proof Claims

section
variable {s : State} {act : Out}

theorem State.profile_of_false {ok : Bool} (h : ok = false) : s.profile ok act = s.trapWord .profile := by
  rw [State.profile, h]
  exact if_neg Bool.false_ne_true

theorem State.profile_of_true {ok : Bool} (h : ok = true) : s.profile ok act = act := if_pos h

theorem State.privileged_of_u (h : s.cx.priv = .u) : s.privileged act = s.trapWord .priv := by
  rw [State.privileged, h]

end

/-- Every word is checked against the unit's profile before anything else of it (R55, R56). -/
theorem exec_eq_profile (i : Instr) (s : State) : ∃ act, exec i s = s.profile (executes s.kind i) act := by
  cases i
  case start | startRes | stoph | cbswap | cbswapSeal => exact ⟨_, rfl⟩
  case cget | waitc | wtarm | recv | tksteal => exact ⟨_, rfl⟩
  case tkpop => exact ⟨_, rfl⟩
  case mfmt | mzero | mma | mmas | mldc | mstc | mprog | mrec | mtlist | mpop => exact ⟨_, rfl⟩
  case aand | aor | axor | anor | anand | axnor | anot | acopy | afadd | afsub | aldp | aldc | astp | astc | ashl | ashr | aadd | asub | amul
    | amac | acmplt | amax | aneg | aabs | aadds | asubs | asel | asetrb | axin | axout | adot | abuf | aout | achk | await =>
    exact ⟨_, rfl⟩
  case nrprog | nrrun | nrstat | nrwait => exact ⟨_, rfl⟩
  all_goals exact ⟨_, (State.profile_of_true rfl).symm⟩

/-- A word of the vector unit is checked against VE before anything else of it (R75). -/
theorem exec_eq_profile_ve {i : Instr} (h : needsVector i = true) (s : State) : ∃ act, exec i s = s.profile s.cx.ve act := by
  cases i
  case vld | vst | vlds | vsts | vldx | vstx | vldbc | vstm | vadd | vsub | vmul | vmulh | vmac | vmin | vmax | vminu | vmaxu | vand | vor
    | vxor | vshl | vshr | vsar | vclmul | vclmulh | vpopc | vfadd | vfsub | vfmul | vfma | vfmin | vfmax | vfdiv | vfsqrt | vcmp | vfcmp
    | vsel | vbcast | vext | vins | vperm | vslide | vred | vcvt | vmxs | vmxq | vmxd | vdot | rpt =>
    exact ⟨_, rfl⟩
  all_goals exact absurd h Bool.false_ne_true

/-- A privileged word that the profile executes is checked against the level next (R57). -/
theorem exec_eq_privileged {i : Instr} {s : State} (h : isPrivileged i = true) (hx : executes s.kind i = true) :
    ∃ act, exec i s = s.privileged act := by
  cases i
  case start | startRes | stoph | cbswap | cbswapSeal | tkpop | tksteal => exact ⟨_, State.profile_of_true hx⟩
  case tkqcfg | eret | tlbinv | genadv | genadvFloor | cbswapUnit | stopc | haltc => exact ⟨_, rfl⟩
  all_goals exact absurd h Bool.false_ne_true

/-- Settles O31: the profile's check, the check of VE and the check of the level, each the first thing that its words do. -/
theorem levelAndProfileChecks : Obligations.LevelAndProfileChecks := by
  unfold Obligations.LevelAndProfileChecks
  intro i s
  refine ⟨fun hx => ?_, fun hv hve => ?_, fun hx hp hu => ?_⟩
  · obtain ⟨act, he⟩ := exec_eq_profile i s
    exact he.trans (State.profile_of_false hx)
  · obtain ⟨act, he⟩ := exec_eq_profile_ve hv s
    exact he.trans (State.profile_of_false hve)
  · obtain ⟨act, he⟩ := exec_eq_privileged hp hx
    exact he.trans (State.privileged_of_u hu)

end Sys2Proof.Machine
end

section
/-! O6: every instruction and every event answers a next state (R59, R393). -/

namespace Sys2Proof.Machine
open Sys2Proof Claims

/-- The outcome is a next state: no fault and no refusal. -/
def Out.Goes (o : Out) : Prop := ∃ t, o = .next t

/-! ## The shared operations -/

section
variable {s : State} {p : Prop} [Decidable p] {a b act : Out}

theorem Out.Goes.next {t : State} : Out.Goes (.next t) := ⟨t, rfl⟩

theorem Out.Goes.done : s.done.Goes := .next

theorem Out.Goes.trap {cause : Cause} {tval : Word} : (s.trap cause tval).Goes := .next

theorem Out.Goes.ite (ha : a.Goes) (hb : b.Goes) : (if p then a else b).Goes := by
  split
  · exact ha
  · exact hb

theorem Out.Goes.profile {ok : Bool} (h : act.Goes) : (s.profile ok act).Goes := .ite h .next

theorem Out.Goes.privileged (h : act.Goes) : (s.privileged act).Goes := by
  unfold State.privileged
  split
  · exact .next
  · exact h

theorem Out.Goes.queued (h : act.Goes) : (s.queued act).Goes := .ite .next h

theorem Out.Goes.reading {off n : Nat} (h : act.Goes) : (s.reading off n act).Goes := .ite .next h

theorem Out.Goes.ownAccess {ea : Word} {off n : Nat} {window store : Bool} {me : Option Nat} {req : State → Req} {post act : State → Out}
    (hpost : ∀ t, (post t).Goes) (hact : ∀ t, (act t).Goes) : (s.ownAccess ea off n window store me req post act).Goes :=
  .ite .next (.ite (.ite .next (hpost _)) (hact _))

theorem Out.Goes.copWord {f : State → State} : (s.copWord f).Goes := .ite .next .next

theorem Out.Goes.vchecked {f : State → Out} (h : ∀ t, (f t).Goes) : (s.vchecked f).Goes := by
  unfold State.vchecked
  split
  · exact h _
  · exact .ite .next (h _)

theorem Out.Goes.message {spec : Option Word} {ra : Word} {load far : Bool} {f : State → Nat → State} :
    (s.message spec ra load far f).Goes := by
  unfold State.message
  refine .ite .next (.ite .next ?_)
  split
  · exact .next
  · exact .ite .next (.queued (.ite .next .next))

end

section
variable {s : State}

/-! ## Words of the scalar unit's memory -/

theorem Out.Goes.loadEa {d : Reg} {ea : Word} {size : Nat} {signed acq : Bool} : (s.loadEa d ea size signed acq).Goes := by
  unfold State.loadEa
  split
  · exact .next
  · exact .next
  · refine .ownAccess (fun _ => .next) fun t => .ite .next (.ite .next ?_)
    split <;> exact .next

theorem Out.Goes.storeEa {data ea : Word} {size : Nat} {rel : Bool} : (s.storeEa data ea size rel).Goes := by
  unfold State.storeEa
  split
  · exact .next
  · exact .queued .next
  · refine .ownAccess (fun _ => .queued .next) fun t => .ite .next ?_
    split <;> exact .next

theorem Out.Goes.amoQueued {d : Option Reg} {act : Out} (h : act.Goes) : (s.amoQueued d act).Goes := by
  cases d with
  | some d => exact h
  | none => exact .queued h

theorem Out.Goes.ownAtomic {d : Option Reg} {ea : Word} {off : Nat} {window : Bool} {op : AmoOp} {dbl : Bool} {v e : Word} {acq rel : Bool} :
    (s.ownAtomic d ea off window op dbl v e acq rel).Goes := by
  unfold State.ownAtomic
  refine .ownAccess (fun _ => ?_) fun _ => ?_
  · exact .amoQueued .done
  · exact .ite .trap (.ite .done (.ite .done (.ite .done .done)))

theorem Out.Goes.amoEa {d : Option Reg} {ea : Word} {op : AmoOp} {dbl : Bool} {v e : Word} {acq rel : Bool} :
    (s.amoEa d ea op dbl v e acq rel).Goes := by
  unfold State.amoEa
  split
  · exact .next
  · exact .ownAtomic
  · exact .ite .next (.amoQueued .next)

theorem Out.Goes.amerge {fp dbl : Bool} {k a b : Reg} : (s.amerge fp dbl k a b).Goes := by
  unfold State.amerge
  simp only
  split
  · exact .next
  · exact .next
  · exact .ite (.queued .next) .next

theorem Out.Goes.performEvent {r : Req} : (s.performEvent r).Goes := .ite .next .next

/-! ## Words of the coprocessors -/

theorem Out.Goes.vissue {i : Instr} {opnds : State → Word × Word} {rm : RM} {dst : Option Reg} : (s.vissue i opnds rm dst).Goes :=
  .profile (.vchecked fun _ => .copWord)

theorem Out.Goes.matPush {i : Instr} {k : Bool} {a b : Reg} : (s.matPush i k a b).Goes := .profile .copWord

theorem Out.Goes.arrayPush {i : Instr} {opnds : State → Word × Word} : (s.arrayPush i opnds).Goes := .profile .copWord

theorem Out.Goes.engBlock {op : Nat} {n : Bool} {a b : Reg} : (s.engBlock op n a b).Goes := by
  unfold State.engBlock
  exact .ite .trap (.reading .next)

/-! ## Words that branch in their own meaning -/

theorem Out.Goes.parkedWrite {waits : State → Bool} {f : State → Seq} : (s.parkedWrite waits f).Goes := .next

theorem Out.Goes.twbWrite {v : Word} : (s.twbWrite v).Goes := .ite .done (.ite .trap .done)

theorem Out.Goes.nmctlEvent {v : Word} : (s.nmctlEvent v).Goes := .ite .next .next

theorem Out.Goes.sel {c : SelCond} {d a b : Reg} : (execSel c d a b s).Goes := .ite .done .done

theorem Out.Goes.stoph {n : BitVec 4} : (execStoph n s).Goes :=
  .profile (.privileged (.ite .done (.ite .next (.ite .next .done))))

theorem Out.Goes.yield : (execYield s).Goes := by
  unfold execYield
  refine .ite .next ?_
  split <;> exact .next

theorem Out.Goes.setnh {d a : Reg} : (execSetnh d a s).Goes := by
  unfold execSetnh
  exact .ite .trap (.ite .trap .done)

theorem Out.Goes.rdsr {d : Reg} {r : BitVec 12} : (execRdsr d r s).Goes := .ite .next .done

theorem Out.Goes.wrsr {a : Reg} {r : BitVec 12} : (execWrsr a r s).Goes := by
  unfold execWrsr
  simp only
  split
  · exact .parkedWrite
  · exact .parkedWrite
  · exact .parkedWrite
  · exact .parkedWrite
  · exact .twbWrite
  · exact .ite .next .done
  · exact .ite .next .done
  · exact .ite .next .done

theorem Out.Goes.rcinvRange {a b : Reg} : (execRcinvRange a b s).Goes := by
  unfold execRcinvRange
  exact .ite .done (.ite .done .done)

theorem Out.Goes.put {a b : Reg} : (execPut a b s).Goes := by
  unfold execPut
  exact .message

theorem Out.Goes.putc {d a b : Reg} : (execPutc d a b s).Goes := by
  unfold execPutc
  exact .message

theorem Out.Goes.get {d a b : Reg} : (execGet d a b s).Goes := by
  unfold execGet
  exact .message

theorem Out.Goes.send {d a b : Reg} : (execSend d a b s).Goes := by
  unfold execSend
  exact .message

theorem Out.Goes.cget {d a : Reg} : (execCget d a s).Goes := .profile (.ite .next .done)

theorem Out.Goes.wtarm {d a b : Reg} : (execWtarm d a b s).Goes :=
  .profile (.ite .done (.ite .trap (.ite .trap (.ite .trap (.reading .done)))))

theorem Out.Goes.dstat {d a : Reg} : (execDstat d a s).Goes := by
  unfold execDstat
  split
  · exact .trap
  · exact .done
  · split <;> exact .done

theorem Out.Goes.dfresh {a b : Reg} : (execDfresh a b s).Goes := by
  unfold execDfresh
  refine .ite .done (.ite .trap ?_)
  split <;> exact .next

theorem Out.Goes.tkenq {a b : Reg} : (execTkenq a b s).Goes := by
  unfold execTkenq
  refine .reading ?_
  split
  · exact .trap
  · exact .ite .trap .next

theorem Out.Goes.tkenqn {d a b : Reg} : (execTkenqn d a b s).Goes := by
  unfold execTkenqn
  refine .reading ?_
  split <;> exact .next

theorem Out.Goes.tkpop {d b : Reg} : (execTkpop d b s).Goes := .profile (.privileged (.ite .trap (.ite .done .done)))

theorem Out.Goes.tksteal {d a b : Reg} : (execTksteal d a b s).Goes :=
  .profile (.privileged (.ite .trap (.ite .trap (.ite .done .done))))

theorem Out.Goes.tkdepth {d a : Reg} : (execTkdepth d a s).Goes := .ite .trap .done

theorem Out.Goes.tkqcfg {d a b : Reg} : (execTkqcfg d a b s).Goes := .privileged (.ite .trap (.ite .trap (.reading .done)))

theorem Out.Goes.lapv {op : LapOp} {e : Bool} {a : Reg} : (execLapv op e a s).Goes := .ite .done .trap

theorem Out.Goes.lapw {d : Reg} : (execLapw d s).Goes := .ite .next .trap

theorem Out.Goes.nrprog {a : Reg} : (execNrprog a s).Goes := .profile (.ite .trap (.ite .trap (.reading (.ite .trap .done))))

theorem Out.Goes.nrrun {a : Reg} : (execNrrun a s).Goes :=
  .profile (.ite .trap (.ite .trap (.ite .trap (.reading (.ite .trap .done)))))

theorem Out.Goes.nrwait {d : Reg} : (execNrwait d s).Goes := .profile (.ite .trap .done)

theorem Out.Goes.cbswap {n : BitVec 4} {a : Reg} : (execCbswap n a s).Goes := .profile (.privileged (.ite .trap .done))

theorem Out.Goes.haltc : (execHaltc s).Goes := .privileged (.ite .next .trap)

/-! ## Events that branch in their own meaning -/

theorem Out.Goes.plcfgWrite {v : Word} : (execPlcfgWrite v s).Goes := .ite .next .next

theorem Out.Goes.enterNear {u : Nat} : (execEnterNear u s).Goes := by
  unfold execEnterNear
  dsimp only
  split
  · exact .ite .next .next
  · exact .next

theorem Out.Goes.helperCodeAbsent {u c : Nat} : (execHelperCodeAbsent u c s).Goes := .ite .next .next

theorem Out.Goes.redispatch {u c : Nat} : (execRedispatch u c s).Goes := .ite .next (.ite .next (.ite .next (.ite .next .next)))

theorem Out.Goes.replayPass {u : Nat} : (execReplayPass u s).Goes := by
  unfold execReplayPass
  split <;> exact .next

theorem Out.Goes.replayResume {u c : Nat} : (execReplayResume u c s).Goes := .ite .next .next

theorem Out.Goes.vectorExecute {u : Nat} : (execVectorExecute u s).Goes := by
  unfold execVectorExecute
  split
  · exact .next
  · exact .ite .next .next

theorem Out.Goes.matrixGrant {k : Nat} : (execMatrixGrant k s).Goes := by
  unfold execMatrixGrant
  split <;> exact .next

theorem Out.Goes.arrayExecute {sl : Nat} : (execArrayExecute sl s).Goes := by
  unfold execArrayExecute
  split <;> exact .next

theorem Out.Goes.readCacheFill {u : Nat} {asid : BitVec 12} {va : Word} {pa : Nat} : (execReadCacheFill u asid va pa s).Goes := by
  unfold execReadCacheFill
  split <;> exact .next

theorem Out.Goes.pageWalk {u c : Nat} {va : Word} {store : Bool} : (execPageWalk u c va store s).Goes := by
  unfold execPageWalk
  split <;> exact .next

theorem Out.Goes.mergeRetry {r : Req} : (execMergeRetry r s).Goes := by
  unfold execMergeRetry
  split
  · exact .ite .next .next
  · exact .next

theorem Out.Goes.counterIncrement {core : Nat} {cnt : BitVec 8} {amount : Word} : (execCounterIncrement core cnt amount s).Goes := by
  unfold execCounterIncrement
  split
  · exact .performEvent
  · exact .next

theorem Out.Goes.quiescenceDetect {lid : Nat} : (execQuiescenceDetect lid s).Goes := by
  unfold execQuiescenceDetect
  split
  · exact .next
  · exact .ite .next .next

theorem Out.Goes.enqueueRetry {u c : Nat} : (execEnqueueRetry u c s).Goes := by
  unfold execEnqueueRetry
  dsimp only
  split
  · refine .ite ?_ .next
    split <;> exact .next
  · exact .next

theorem Out.Goes.popDecide {u c : Nat} {bind : Word} {id : Nat} : (execPopDecide u c bind id s).Goes := by
  unfold execPopDecide
  split <;> exact .next

theorem Out.Goes.stealDecide {u c : Nat} {sel bind : Word} {id : Nat} : (execStealDecide u c sel bind id s).Goes := by
  unfold execStealDecide
  split <;> exact .next

theorem Out.Goes.taskComplete {home q : Nat} {ticket : Word32} : (execTaskComplete home q ticket s).Goes := by
  unfold execTaskComplete
  split <;> exact .next

theorem Out.Goes.lapVoteArrive {lid u : Nat} {op : LapOp} {e : Bool} {v : Word} : (execLapVoteArrive lid u op e v s).Goes := by
  unfold execLapVoteArrive
  dsimp only
  split <;> exact .next

theorem Out.Goes.lapClose {lid : Nat} : (execLapClose lid s).Goes := by
  unfold execLapClose
  split
  · exact .ite .next .next
  · exact .next

theorem Out.Goes.engineCommandBegin {u : Nat} : (execEngineCommandBegin u s).Goes := by
  unfold execEngineCommandBegin
  split <;> exact .next

theorem Out.Goes.engineCommandComplete {u : Nat} : (execEngineCommandComplete u s).Goes := by
  unfold execEngineCommandComplete
  split
  · exact .ite .next .next
  · exact .next

theorem Out.Goes.bulkCommand {u : Nat} : (execBulkCommand u s).Goes := by
  unfold execBulkCommand
  split
  · exact .ite .next .next
  · exact .next

theorem Out.Goes.staleMark {tile : Nat} : (execStaleMark tile s).Goes := .ite .next .next

theorem Out.Goes.recompute {tile : Nat} : (execRecompute tile s).Goes := by
  unfold execRecompute
  split
  · exact .ite .next .next
  · refine .ite .next ?_
    split
    · exact .next
    · split
      · exact .next
      · exact .ite .next .next

theorem Out.Goes.dfreshRequest {u c tile : Nat} : (execDfreshRequest u c tile s).Goes := by
  unfold execDfreshRequest
  split
  · exact .recompute
  · exact .next

theorem Out.Goes.rowSlot {p : Nat} : (execRowSlot p s).Goes := by
  unfold execRowSlot
  split <;> exact .next

theorem Out.Goes.arbitrationWindow {p : Nat} : (execArbitrationWindow p s).Goes := .ite .next .next

theorem Out.Goes.unitWatchdog {u lid : Nat} : (execUnitWatchdog u lid s).Goes := by
  unfold execUnitWatchdog
  split
  · exact .ite .next (.ite .next .next)
  · exact .next

theorem Out.Goes.launchResume {lid : Nat} : (execLaunchResume lid s).Goes := by
  unfold execLaunchResume
  split
  · exact .ite .next .next
  · exact .next

theorem Out.Goes.handOffTaskStart {u : Nat} : (execHandOffTaskStart u s).Goes := by
  unfold execHandOffTaskStart
  split <;> exact .next

theorem Out.Goes.nearModeTaskGrant {p : Nat} {bind : Word} : (execNearModeTaskGrant p bind s).Goes := by
  unfold execNearModeTaskGrant
  refine .ite .next ?_
  split <;> exact .next

theorem Out.Goes.launchStart : (execLaunchStart s).Goes := by
  unfold execLaunchStart
  split <;> exact .next

theorem Out.Goes.launchRecordAging {q idx : Nat} : (execLaunchRecordAging q idx s).Goes := by
  unfold execLaunchRecordAging
  dsimp only
  split <;> exact .next

theorem Out.Goes.completionWrite {q : Nat} : (execCompletionWrite q s).Goes := by
  unfold execCompletionWrite
  refine .ite .next ?_
  split <;> exact .next

theorem Out.Goes.hostAccess {_port : Bool} {bar off : Nat} {op : HostOp} : (execHostAccess _port bar off op s).Goes := by
  unfold execHostAccess
  split
  · exact .ite .next (.ite .next .next)
  · exact .ite .next (.ite .next .next)

theorem Out.Goes.hostReadTimeout {r : Req} : (execHostReadTimeout r s).Goes := by
  unfold execHostReadTimeout
  refine .ite ?_ .next
  split <;> exact .next

theorem Out.Goes.quoteComplete {quote : List Byte} : (execQuoteComplete quote s).Goes := .ite .next .next

theorem Out.Goes.flitReceive {port : Nat} {good : Bool} {reqs : List Req} : (execFlitReceive port good reqs s).Goes :=
  .ite .next (.ite .next .next)

theorem Out.Goes.linkRetrain {port : Nat} : (execLinkRetrain port s).Goes := .ite .next .next

theorem Out.Goes.mirrorRecord {bytes : List Byte} {lid : Nat} : (execMirrorRecord bytes lid s).Goes := .ite .next .next

theorem Out.Goes.bootStageAdvance {verified : Bool} : (execBootStageAdvance verified s).Goes := .ite .next (.ite .next (.ite .next .next))

theorem Out.Goes.fullServiceTransition : (execFullServiceTransition s).Goes := .ite .next (.ite .next .next)

theorem Out.Goes.linkRetrainingEnd {port lanes : Nat} : (execLinkRetrainingEnd port lanes s).Goes := .ite .next .next

end

/-! ## Every instruction and every event -/

/-- Arm by arm: a word or an event that makes one update goes on by definition, and any other by the rule of its operation. -/
theorem Out.Goes.execOf (i : Instr) (s : State) : Out.Goes (exec i s) := by
  unfold exec
  cases i
  case add | addw | sub | subw | mul | mulw | mulh | mulhu | div | divw | divu | divuw | rem | remw | remu | remuw | and | or | xor
    | andn | shl | shlw | shr | shrw | sar | sarw | rotl | rotlw | min | max | minu | maxu | seq | slt | sltu | clz | clzw | ctz
    | ctzw | popc | popcw | brev | brevw | bswap | bswapw | sextb | sexth | clmul | clmulh | clmulr | addi | slti | sltiu | andi
    | ori | xori | addiw | shli | shri | sari | rotli | shliw | shriw | sariw | ldhi | addpc =>
    exact .next
  case skip | beq | bne | blt | bge | bltu | bgeu | bbs | bbc | beqz | bnez | bltz | bgez | bgtz | blez | j | call | callr | jr | ret
    | nret =>
    exact .next
  case pref | rcinv | fenceAcq | fenceRel | fenceFull => exact .next
  case fadd | fsub | fmul | fdiv | fsqrt | fmin | fmax | fsgn | fsgnn | fsgnx | feq | flt | fle | fclass | fma | fms | fnma | cvt =>
    exact .next
  case dreg | dunreg | tkdone | ecpy | efill | eovl | epin | eunpin | epop | estat | trap | bkpt => exact .next
  case frsWrite | frbWrite | srseedWrite | msgctlCclr | trctlWrite | hendRead | hdeadRead | errlogRead => exact .next
  case park | implicitPark | matrixStopBoundary | arrayHalt | tlbInvalidateRequest | genAdvanceRequest | handOffRetry | messageRetry
    | beaconResend | spillRefill | priorityAging | engineSuspend | streamSuspend | stopArrival | launchRecordPost | crheadWrite
    | lqcfgWrite | lstopWrite | pwrlimWrite | herrClear | dropcntWrite | attestationRequest | deviceReset | powerControl | scrub
    | unitDisable | beaconArrival | generationFloorRequest =>
    exact .next
  case sel => exact .sel
  case start | startRes | cbswapSeal => exact .profile (.privileged .next)
  case stoph => exact .stoph
  case yield => exact .yield
  case setnh => exact .setnh
  case rdsr => exact .rdsr
  case wrsr => exact .wrsr
  case ldb | ldh | ldw | ldd | ldbu | ldhu | ldwu | ldxB | ldxH | ldxW | ldxD | ldxBu | ldxHu | ldxWu | lda => exact .loadEa
  case stb | sth | stw | std | stxB | stxH | stxW | stxD | stl => exact .storeEa
  case rcinvRange => exact .rcinvRange
  case amoadd | amoand | amoor | amoxor | amomin | amomax | amominu | amomaxu | amoswap | amocas | amofadd | amofmin | amofmax
    | amoaddNr | amoandNr | amoorNr | amoxorNr | amominNr | amomaxNr | amominuNr | amomaxuNr | amofaddNr | amofminNr | amofmaxNr =>
    exact .amoEa
  case amergeAdd | amergeFadd => exact .amerge
  case cinc => exact .message
  case put => exact .put
  case putc => exact .putc
  case get => exact .get
  case send => exact .send
  case cget => exact .cget
  case waitc | recv | mpop | nrstat => exact .profile .next
  case wtarm => exact .wtarm
  case vld | vst | vlds | vsts | vldx | vstx | vldbc | vstm | vadd | vsub | vmul | vmulh | vmac | vmin | vmax | vminu | vmaxu | vand
    | vor | vxor | vshl | vshr | vsar | vclmul | vclmulh | vpopc | vfadd | vfsub | vfmul | vfma | vfmin | vfmax | vfdiv | vfsqrt
    | vcmp | vfcmp | vsel | vbcast | vext | vins | vperm | vslide | vred | vcvt | vmxs | vmxq | vmxd | vdot =>
    exact .vissue
  case rpt | await => exact .profile .copWord
  case mfmt | mzero | mma | mmas | mldc | mstc | mprog | mrec | mtlist => exact .matPush
  case aand | aor | axor | anor | anand | axnor | anot | acopy | afadd | afsub | aldp | aldc | astp | astc | ashl | ashr | aadd | asub
    | amul | amac | acmplt | amax | aneg | aabs | aadds | asubs | asel | asetrb | axin | axout | adot | abuf | aout | achk =>
    exact .arrayPush
  case dstat => exact .dstat
  case dfresh => exact .dfresh
  case tkenq => exact .tkenq
  case tkenqn => exact .tkenqn
  case tkpop => exact .tkpop
  case tksteal => exact .tksteal
  case tkdepth => exact .tkdepth
  case tkqcfg => exact .tkqcfg
  case lapv => exact .lapv
  case lapw => exact .lapw
  case ecpy2 | egath | escat | ebulk => exact .engBlock
  case nrprog => exact .nrprog
  case nrrun => exact .nrrun
  case nrwait => exact .nrwait
  case eret | tlbinv | genadv | genadvFloor | cbswapUnit | stopc => exact .privileged .next
  case cbswap => exact .cbswap
  case haltc => exact .haltc
  case plcfgWrite => exact .plcfgWrite
  case nmctlArm | nmctlKey | nmctlCommit | nmctlExit | nmctlCancel => exact .nmctlEvent
  case enterNear => exact .enterNear
  case helperCodeAbsent => exact .helperCodeAbsent
  case redispatch => exact .redispatch
  case replayPass => exact .replayPass
  case replayResume => exact .replayResume
  case vectorExecute => exact .vectorExecute
  case matrixGrant => exact .matrixGrant
  case arrayExecute => exact .arrayExecute
  case arrayHeldAccess | homeLoad | homeStore | homeAtomic | mergeContribution | putDeliver | getServe | messageDeposit | taskAccept
    | baseWriteRelease =>
    exact .performEvent
  case readCacheFill => exact .readCacheFill
  case pageWalk => exact .pageWalk
  case mergeRetry => exact .mergeRetry
  case counterIncrement => exact .counterIncrement
  case quiescenceDetect => exact .quiescenceDetect
  case enqueueRetry => exact .enqueueRetry
  case popDecide => exact .popDecide
  case stealDecide => exact .stealDecide
  case taskComplete => exact .taskComplete
  case lapVoteArrive => exact .lapVoteArrive
  case lapClose => exact .lapClose
  case engineCommandBegin => exact .engineCommandBegin
  case engineCommandComplete => exact .engineCommandComplete
  case bulkCommand => exact .bulkCommand
  case staleMark => exact .staleMark
  case recompute => exact .recompute
  case dfreshRequest => exact .dfreshRequest
  case rowSlot => exact .rowSlot
  case arbitrationWindow => exact .arbitrationWindow
  case unitWatchdog => exact .unitWatchdog
  case launchResume => exact .launchResume
  case handOffTaskStart => exact .handOffTaskStart
  case nearModeTaskGrant => exact .nearModeTaskGrant
  case launchStart => exact .launchStart
  case launchRecordAging => exact .launchRecordAging
  case completionWrite => exact .completionWrite
  case hostAccess => exact .hostAccess
  case hostReadTimeout => exact .hostReadTimeout
  case quoteComplete => exact .quoteComplete
  case flitReceive => exact .flitReceive
  case linkRetrain => exact .linkRetrain
  case mirrorRecord => exact .mirrorRecord
  case bootStageAdvance => exact .bootStageAdvance
  case fullServiceTransition => exact .fullServiceTransition
  case linkRetrainingEnd => exact .linkRetrainingEnd

/-- Settles O6: every arm of `exec` goes on. -/
theorem everyInstructionGivesANextState : Obligations.EveryInstructionGivesANextState := by
  unfold Obligations.EveryInstructionGivesANextState
  exact Out.Goes.execOf

end Sys2Proof.Machine
end

section
/-! O19: what the deferred results of a context come to when they land (R66, R67, R212). -/

namespace Sys2Proof.Machine
open Sys2Proof Claims

/-! ## One deferred result, and all of them in program order -/

/-- One deferred result lands: its value, where it has one, goes to its register. -/
def State.landOne (s : State) (u c : Nat) (e : Deferred) : State := match e.src with | .value v => s.setReg u c e.dst v | _ => s

/-- The flags after a deferred result has landed (R212). -/
def Deferred.orFlags (f : BitVec 5) (e : Deferred) : BitVec 5 := match e.src with | .value _ => f ||| e.flags | _ => f

/-- What a register holds after a deferred result has landed. -/
def Deferred.into (d : Reg) (w : Word) (e : Deferred) : Word := match e.src with | .value v => if e.dst = d then v else w | _ => w

/-- The registers written by deferred results that land, in order. -/
def State.landAll (s : State) (u c : Nat) (ds : List Deferred) : State := ds.foldl (fun acc e => acc.landOne u c e) s

theorem State.land_eq (s : State) (u c : Nat) : s.land u c =
    (s.landAll u c (s.ctx u c).defs).modCtx u c fun x =>
      { x with defs := [], awaiting := false, fxs := x.fxs ||| (s.ctx u c).defs.foldl Deferred.orFlags 0#5 } := rfl

@[simp] theorem State.landAll_cons (s : State) (u c : Nat) (e : Deferred) (ds : List Deferred) :
    s.landAll u c (e :: ds) = (s.landOne u c e).landAll u c ds := rfl

theorem State.landOne_units (s : State) (u c : Nat) (e : Deferred) : (s.landOne u c e).units = s.units := by
  rw [State.landOne]
  split <;> rfl

/-- Landing writes memory alone before the results are taken away. -/
theorem State.landAll_units (u c : Nat) (ds : List Deferred) (s : State) : (s.landAll u c ds).units = s.units := by
  induction ds generalizing s with
  | nil => rfl
  | cons e ds ih => rw [State.landAll_cons, ih, State.landOne_units]

theorem State.ctx_of_units {s t : State} (h : t.units = s.units) (u c : Nat) : t.ctx u c = s.ctx u c := by
  simp only [State.ctx, State.unit, h]

theorem State.memOk.landOne {s : State} {u c : Nat} {e : Deferred} (hs : s.memOk) : (s.landOne u c e).memOk := by
  rw [State.landOne]
  split
  · exact .setReg hs
  · exact hs

theorem State.winOk.landOne {s : State} {u c : Nat} {e : Deferred} (hw : s.winOk u c) : (s.landOne u c e).winOk u c := by
  rw [State.landOne]
  split <;> exact hw

/-- A register after one deferred result has landed. -/
theorem State.reg_landOne {s : State} {u c : Nat} (hm : s.memOk) (hw : s.winOk u c) (e : Deferred) (d : Reg) :
    (s.landOne u c e).reg u c d = Deferred.into d (s.reg u c d) e := by
  rw [State.landOne, Deferred.into]
  split
  · by_cases hd : e.dst = d
    · rw [if_pos hd, ← hd, State.reg_setReg_same hm]
    · rw [if_neg hd, State.reg_setReg_other hw (Ne.symm hd)]
  · rfl

/-- A register after deferred results have landed in program order: the last value deferred to it, or its own (R66). -/
theorem State.reg_landAll {u c : Nat} (ds : List Deferred) {s : State} (hm : s.memOk) (hw : s.winOk u c) (d : Reg) :
    (s.landAll u c ds).reg u c d = ds.foldl (Deferred.into d) (s.reg u c d) := by
  induction ds generalizing s with
  | nil => rfl
  | cons e ds ih => rw [State.landAll_cons, ih hm.landOne hw.landOne, State.reg_landOne hm hw, List.foldl_cons]

/-- Flags that land are added to those that stand. -/
theorem foldl_orFlags (ds : List Deferred) (f : BitVec 5) : ds.foldl Deferred.orFlags f = f ||| ds.foldl Deferred.orFlags 0#5 := by
  induction ds generalizing f with
  | nil => simp
  | cons e ds ih =>
    have he : Deferred.orFlags f e = f ||| Deferred.orFlags 0#5 e := by
      simp only [Deferred.orFlags]
      cases e.src <;> simp
    rw [List.foldl_cons, List.foldl_cons, ih (Deferred.orFlags f e), ih (Deferred.orFlags 0#5 e), he, BitVec.or_assoc]

/-! ## The context after its results have landed -/

/-- Landing leaves the context as it was but for what was outstanding and the flags. -/
theorem State.ctx_land (s : State) (u c : Nat) : (s.land u c).ctx u c = { s.ctx u c with
    defs := [], awaiting := false, fxs := (s.ctx u c).fxs ||| (s.ctx u c).defs.foldl Deferred.orFlags 0#5 } := by
  rw [State.land_eq, State.ctx_modCtx_same, State.ctx_of_units (State.landAll_units u c _ s)]

/-- Landing keeps every offset of the window. -/
theorem State.regOff_land (s : State) (u c n : Nat) : ((s.land u c).ctx u c).regOff n = (s.ctx u c).regOff n := by
  rw [State.ctx_land]
  exact Ctx.regOff_congr rfl rfl rfl (Ctx.linear_congr rfl rfl rfl rfl rfl rfl rfl) n

theorem State.reg_land (s : State) (u c : Nat) (d : Reg) : (s.land u c).reg u c d = (s.landAll u c (s.ctx u c).defs).reg u c d := by
  have hu := State.ctx_of_units (State.landAll_units u c (s.ctx u c).defs s) u c
  simp only [State.reg, regPa, State.regOff_land, hu]
  rfl

/-- Settles O19: by induction on the results outstanding, in program order. -/
theorem parkLandsResultsInOrder : Obligations.ParkLandsResultsInOrder := by
  unfold Obligations.ParkLandsResultsInOrder
  intro s u c hm hw
  refine ⟨hm.land, by rw [State.ctx_land], fun d => ?_, ?_⟩
  · rw [State.reg_land, State.reg_landAll _ hm hw]
    rfl
  · rw [State.ctx_land]
    exact (foldl_orFlags _ _).symm

end Sys2Proof.Machine
end

section
/-! O26 and O25: a park of the issuing context that finds nothing (R64, R67, R68), and SETNH, NRET and YIELD (R85 to R87). -/

namespace Sys2Proof.Machine
open Sys2Proof Claims

/-! ## Changes of one place, one after another -/

theorem SMap.put_put {α : Type} (m : SMap α) (k : Nat) (v w : α) : SMap.put (SMap.put m k v) k w = SMap.put m k w := by
  induction m with
  | nil => simp [SMap.put]
  | cons e rest ih =>
    obtain ⟨k', v'⟩ := e
    rcases Nat.lt_trichotomy k k' with h | h | h
    · simp [SMap.put, h]
    · simp [SMap.put, h]
    · simp [SMap.put, ih, Nat.not_lt_of_gt h, Nat.ne_of_gt h]

theorem State.setCtx_setCtx (s : State) (u c : Nat) (x y : Ctx) : (s.setCtx u c x).setCtx u c y = s.setCtx u c y := by
  simp only [State.setCtx, State.modUnit, State.setUnit, State.unit, SMap.get_put_same, SMap.put_put]

theorem State.modCtx_modCtx (s : State) (u c : Nat) (f g : Ctx → Ctx) : (s.modCtx u c f).modCtx u c g = s.modCtx u c fun x => g (f x) := by
  rw [State.modCtx, State.modCtx, State.ctx_setCtx_same, State.setCtx_setCtx, State.modCtx]

theorem State.modC_modC (s : State) (f g : Ctx → Ctx) : (s.modC f).modC g = s.modC fun x => g (f x) := by
  rw [State.modC, State.c_modC]
  exact State.modCtx_modCtx s s.cur s.c f g

/-- A change of a unit that keeps its contexts keeps every context. -/
theorem State.ctx_modUnit {s : State} {u : Nat} {f : UnitState → UnitState} (h : (f (s.unit u)).ctxs = (s.unit u).ctxs) (v d : Nat) :
    (s.modUnit u f).ctx v d = s.ctx v d := by
  by_cases hv : v = u
  · subst hv
    simp only [State.ctx, UnitState.ctx, State.unit_modUnit_same, h]
  · simp only [State.ctx, State.unit_modUnit_other s hv]

/-! ## Rotation moves the issue of a unit alone (R68) -/

@[simp] theorem State.ctx_rotate (s : State) (u c v d : Nat) : (s.rotate u c).ctx v d = s.ctx v d := by
  simp only [State.rotate]
  split
  · rfl
  · exact State.ctx_modUnit rfl v d

@[simp] theorem State.mem_rotate (s : State) (u c : Nat) : (s.rotate u c).mem = s.mem := by
  simp only [State.rotate]
  split <;> rfl

theorem State.unit_rotate_other (s : State) {u v : Nat} (h : v ≠ u) (c : Nat) : (s.rotate u c).unit v = s.unit v := by
  simp only [State.rotate]
  split
  · rfl
  · exact State.unit_modUnit_other s h _

/-- The unit after rotation, but for who issues. -/
theorem State.unit_rotate_same (s : State) (u c : Nat) : (s.rotate u c).unit u = { s.unit u with cur := ((s.rotate u c).unit u).cur } := by
  simp only [State.rotate]
  split
  · rfl
  · rw [State.unit_modUnit_same]

/-! ## What a park takes or waits for, where there is none of it -/

section
variable {s : State} {u c : Nat}

theorem State.replaying_of_nil (h : (s.unit u).replay = []) : s.replaying u c = false := by
  simp [State.replaying, State.replayOf, h]

theorem State.cancelPops_of_nil (h : (s.ctx u c).defs = []) : s.cancelPops u c = s := by
  simp [State.cancelPops, h]

theorem State.cancelBlocked_of_nil (h : (s.ctx u c).blocked = []) : s.cancelBlocked u c = s := by
  simp [State.cancelBlocked, h, firstReq]

theorem State.resolve_of_nil (h : (s.ctx u c).defs = []) : s.resolve u c = s := by
  simp [State.resolve, h]

theorem State.adoptGen_of_nil (h : s.advances = []) : s.adoptGen u c = s := by
  simp [State.adoptGen, h]

/-- With no access in flight and no result outstanding there is nothing to bring. -/
theorem State.bring_of_nil (hf : s.flight = []) (hd : (s.ctx u c).defs = []) : s.bring u c = s := by
  simp only [State.bring, State.drain_eq (.inr hf), State.resolve_of_nil hd]

end

/-- Landing where nothing is outstanding writes no register. -/
theorem State.land_of_nil {s : State} {u c : Nat} (h : (s.ctx u c).defs = []) :
    s.land u c = s.modCtx u c fun x => { x with defs := [], awaiting := false } := by
  have hx : ∀ x : Ctx, { x with defs := [], awaiting := false, fxs := x.fxs ||| 0#5 } = { x with defs := [], awaiting := false } := fun x => by
    rw [BitVec.or_zero]
  rw [State.land_eq, h]
  exact congrArg (s.setCtx u c) (hx _)

end Sys2Proof.Machine

namespace Sys2Proof.Claims
open Sys2Proof Machine

section
variable {s : State} (h : NothingPending s)
include h

/-- The results of a context with nothing pending land without a change but to its bookkeeping. -/
theorem NothingPending.land_eq : s.land s.cur s.c = s.modC fun x => { x with defs := [], awaiting := false } :=
  State.land_of_nil h.1

theorem NothingPending.stopComing : s.stopComing s.cur s.c = false := by
  obtain ⟨-, -, -, -, -, -, -, -, hsd, -, -, -, -, hsp⟩ := h
  rw [State.stopComing]
  by_cases hc : s.c = 0
  · rw [if_pos hc, show (s.unit s.cur).stopPend = [] from hsp]
    simp
  · rw [if_neg hc]
    exact hsd

theorem NothingPending.cancelSleeps_eq : s.cancelSleeps s.cur s.c = s := by
  simp [State.cancelSleeps, h.stopComing]

theorem NothingPending.replaying : s.replaying s.cur s.c = false := by
  obtain ⟨-, -, -, -, hr, -⟩ := h
  exact State.replaying_of_nil hr

theorem NothingPending.outstanding (stop : Bool) : s.outstanding s.cur s.c stop = false := by
  have hr := h.replaying
  obtain ⟨hd, -, -, ha, -⟩ := h
  have ho : (s.ctx s.cur s.c).owed = false := by rw [Ctx.owed, show (s.ctx s.cur s.c).defs = [] from hd, List.any_nil]
  rw [State.outstanding, ho, hr, show (s.ctx s.cur s.c).awaiting = false from ha, Bool.and_false, Bool.false_and, Bool.or_false, Bool.or_false]

/-- Steps 1 to 3 of a park take nothing. -/
theorem NothingPending.settleFaults_eq (stop : Bool) : s.settleFaults s.cur s.c stop = .clear (s.land s.cur s.c) := by
  have hcs := h.cancelSleeps_eq
  have hout := h.outstanding stop
  obtain ⟨hd, hf, hadv, haw, hr, hhf, hl, hb, hsd, hn, hst, hrq, hab, hsp⟩ := h
  have hd : (s.ctx s.cur s.c).defs = [] := hd
  have hb : (s.ctx s.cur s.c).blocked = [] := hb
  have hst : (s.ctx s.cur s.c).stuck = false := hst
  have haw : (s.ctx s.cur s.c).awaiting = false := haw
  have hfault : ((s.land s.cur s.c).ctx s.cur s.c).firstFault = none := by
    rw [State.ctx_land, Ctx.firstFault, show (s.ctx s.cur s.c).homeFaults = [] from hhf]
    rfl
  have hlate : ((s.land s.cur s.c).ctx s.cur s.c).firstLate = none := by
    rw [State.ctx_land, Ctx.firstLate, show (s.ctx s.cur s.c).late = [] from hl]
    rfl
  have hctl : ∀ w, (s.land s.cur s.c).controlTrap s.cur w = none := by
    intro w
    have hu : (s.land s.cur s.c).unit s.cur = { s.ux with ctxs := ((s.land s.cur s.c).unit s.cur).ctxs } := by
      rw [State.land_of_nil hd, State.modCtx, State.unit_setCtx_same]
      rfl
    rw [State.controlTrap, hu, show s.ux.rqPend = [] from hrq, show s.ux.absent = [] from hab]
  have hms : s.markStuck s.cur s.c = s := by simp [State.markStuck, hst, hb]
  have haa : s.awaitAgain s.cur s.c = s := by simp [State.awaitAgain, haw]
  simp only [State.settleFaults, State.adoptGen_of_nil hadv, State.bring_of_nil hf hd, hcs, ite_self, hms, hout, haa, hfault, hlate, hctl,
    Bool.false_eq_true, if_false]

/-- A park of a context with nothing pending takes nothing (R67). -/
theorem NothingPending.settle_eq : s.settle s.cur s.c = .clear (s.land s.cur s.c) := by
  have hu : (s.land s.cur s.c).unit s.cur = { s.ux with ctxs := ((s.land s.cur s.c).unit s.cur).ctxs } := by
    rw [h.land_eq, State.modC, State.modCtx, State.unit_setCtx_same]
    rfl
  have hf := h.settleFaults_eq true
  obtain ⟨-, -, -, -, -, -, -, -, hsd, hn, -, -, -, hsp⟩ := h
  have hsd : ((s.land s.cur s.c).ctx s.cur s.c).stopDue = false := by
    rw [State.ctx_land]
    exact hsd
  have hn : ((s.land s.cur s.c).ctx s.cur s.c).npend = false := by
    rw [State.ctx_land]
    exact hn
  have hsp : ((s.land s.cur s.c).unit s.cur).stopPend = [] := by
    rw [hu]
    exact hsp
  simp [State.settle, hf, hsd, hn, hsp]

theorem NothingPending.blocked_land : ((s.land s.cur s.c).ctx s.cur s.c).blocked = [] := by
  obtain ⟨-, -, -, -, -, -, -, hb, -⟩ := h
  rw [State.ctx_land]
  exact hb

end

end Sys2Proof.Claims

namespace Sys2Proof.Machine
open Sys2Proof Claims

/-! ## A word that parks first, its park finding nothing (R64) -/

@[simp] theorem State.c_beginFirst (s : State) : s.beginFirst.c = s.c := State.c_modC s _

section
variable {s : State} (h : NothingPending s)
include h

/-- The state after a park that found nothing differs from the one before in the park bookkeeping of the issuing context alone. -/
theorem parkPassed_eq : parkPassed s = s.modC fun x =>
    { x with defs := [], awaiting := false, seg := 1, parked := false, parking := s.ux.word.getLsbD 31, why := .segment, holding := false } := by
  have hp : (s.land s.cur s.c).parkedBefore s.cur s.c = s.modC fun x =>
      { x with defs := [], awaiting := false, seg := 0, parking := false, why := .segment, parked := true, holding := false } := by
    rw [h.land_eq, State.parkedBefore, State.modC, State.modCtx_modCtx]
    rfl
  rw [parkPassed, hp, State.beginFirst, State.ux_modC, State.modC_modC]

/-- A word that parks first acts at once where its park finds nothing and the context stays the one to issue. -/
theorem parkFirst_of_nothing (hp : s.cx.parked = false) (hn : ((s.land s.cur s.c).parkedBefore s.cur s.c).nextCtx s.cur s.c = s.c)
    (act : State → State) : s.parkFirst act = act (parkPassed s) := by
  rw [State.parkFirst, hp]
  simp only [h.settle_eq, h.blocked_land, hn, ne_eq, not_true_eq_false, if_false, if_true, Bool.false_eq_true]
  rfl

end

/-- Settles O26: the park takes nothing, so the word acts at the state that has passed it. -/
theorem wordThatParksFirstActs : Obligations.WordThatParksFirstActs := by
  unfold Obligations.WordThatParksFirstActs
  refine ⟨fun s act h hp hn => ⟨parkFirst_of_nothing h hp hn act, ?_⟩, fun s act hp => State.parkFirst_parked hp act⟩
  rw [parkPassed_eq h]
  refine ⟨rfl, rfl, State.c_modC s _, State.cx_modC s _, fun v d hvd => State.ctx_modC_other s _ hvd, fun r => State.g_modC ?_ r⟩
  intro n
  exact Ctx.regOff_congr rfl rfl rfl (Ctx.linear_congr rfl rfl rfl rfl rfl rfl rfl) n

/-! ## SETNH (R86) -/

theorem exec_setnh (d a : Reg) (s : State) : exec (.setnh d a) s =
    if (s.g a).toNat % 4 ≠ 0 then s.trap .align (s.g a)
    else if (s.g d).toNat % 64 ≠ 0 ∨ localSize s.kind < (s.g d).toNat + 256 then s.trap .access (s.g d)
    else .next ((s.modC fun x => { x with nhpc := s.g a, nhwp := s.g d }).setPc (s.pc + 4#64)) := by
  have hd : (s.modC fun x => { x with nhpc := s.g a, nhwp := s.g d }).done =
      .next ((s.modC fun x => { x with nhpc := s.g a, nhwp := s.g d }).setPc (s.pc + 4#64)) := State.done_eq (State.pc_modC rfl)
  change execSetnh d a s = _
  simp only [execSetnh, hd, ne_eq, low2_eq_zero_iff, low6_eq_zero_iff]

/-! ## NRET with its park made (R87) -/

theorem exec_nret {s : State} (hp : s.cx.parked = true) : exec .nret s = .next s.beginFirst.nretFrom :=
  congrArg Host.Outcome.next (State.parkFirst_parked hp _)

/-- Outside a handler NRET traps. -/
theorem State.nretFrom_outside {s : State} (h : s.cx.nact = false) : s.nretFrom = s.trapAt .access 0#64 := by
  simp [State.nretFrom, h]

/-- In a handler whose saved PC and WP pass their checks NRET goes back, or diverts again for a notice that came meanwhile. -/
theorem State.nretFrom_back {s : State} (hn : s.cx.nact = true) (h4 : (s.loc64 s.cur (s.cx.nwin.toNat + 168)).toNat % 4 = 0)
    (h58 : (s.loc64 s.cur (s.cx.nwin.toNat + 168)).toNat < 2 ^ 58) (hw : s.cx.isSlot (s.loc64 s.cur (s.cx.nwin.toNat + 160)) = true) :
    let back := s.modC fun y =>
      { y with wp := s.loc64 s.cur (s.cx.nwin.toNat + 160), nact := false, pc := s.loc64 s.cur (s.cx.nwin.toNat + 168) }
    s.nretFrom = if s.cx.npend && s.cx.nhpc != 0#64 then back.divertNotice s.cur s.c (s.loc64 s.cur (s.cx.nwin.toNat + 168)) else back := by
  have ht : checkTarget (s.loc64 s.cur (s.cx.nwin.toNat + 168)) = none := by
    rw [checkTarget_eq, if_neg (not_not.mpr h4), if_neg (Nat.not_le.mpr h58)]
  simp only [State.nretFrom, hn, ht, hw, Bool.not_true, Bool.false_eq_true, if_false]

/-! ## YIELD (R85) -/

/-- YIELD passes on and begins a segment, whoever issues next. -/
theorem State.ctx_yieldTo (s : State) (v d : Nat) : s.yieldTo.ctx v d = ((s.advance).endSegment s.cur s.c).ctx v d := by
  simp only [State.yieldTo]
  split
  · split
    · exact State.ctx_modUnit rfl v d
    · rfl
  · exact State.ctx_rotate _ _ _ v d

theorem State.mem_yieldTo (s : State) : s.yieldTo.mem = s.mem := by
  simp only [State.yieldTo]
  split
  · split <;> rfl
  · exact State.mem_rotate _ _ _

theorem State.yieldTo_passes (s : State) : (s.yieldTo.ctx s.cur s.c).pc = s.pc + 4#64 ∧ (s.yieldTo.ctx s.cur s.c).seg = 0
    ∧ s.yieldTo.mem = s.mem ∧ ∀ d, d ≠ s.c → s.yieldTo.ctx s.cur d = s.ctx s.cur d := by
  have hs : s.yieldTo.ctx s.cur s.c =
      { s.cx with pc := s.pc + 4#64, seg := 0, parking := false, why := .segment, parked := false, holding := false } := by
    rw [State.ctx_yieldTo, State.endSegment, State.advance, State.setPc, State.modC, State.modCtx_modCtx, State.ctx_modCtx_same]
    rfl
  refine ⟨by rw [hs], by rw [hs], s.mem_yieldTo, fun d hd => ?_⟩
  have hne : ¬ (s.cur = s.cur ∧ d = s.c) := fun e => hd e.2
  rw [State.ctx_yieldTo, State.endSegment, State.ctx_modCtx_other _ hne, State.advance, State.setPc, State.ctx_modC_other _ _ hne]

theorem exec_yield_of_nothing {s : State} (h : NothingPending s) :
    exec .yield s = .next (if s.cx.parked then s else s.land s.cur s.c).yieldTo := by
  change execYield s = _
  rw [execYield]
  cases hp : s.cx.parked with
  | true => rfl
  | false => simp [h.settle_eq, h.blocked_land]

/-- Settles O25: SETNH by its checks, NRET at the state that begins its segment, YIELD by a park that finds nothing. -/
theorem noticeHandlerResults : Obligations.NoticeHandlerResults := by
  unfold Obligations.NoticeHandlerResults
  refine ⟨fun d a s => ?_, fun s hp => ?_, fun s h => ?_⟩
  · rw [exec_setnh]
    refine ⟨fun h4 h64 hl => ?_, fun h4 => if_pos h4, fun h4 hw => ?_⟩
    · rw [if_neg (not_not.mpr h4), if_neg (by omega)]
    · rw [if_neg (not_not.mpr h4), if_pos hw]
  · have hcx := s.cx_beginFirst
    rw [exec_nret hp]
    refine ⟨fun hn => ?_, fun hn h4 h58 hw => ?_⟩
    · rw [State.nretFrom_outside (by rw [hcx]; exact hn)]
    · have hb := State.nretFrom_back (s := s.beginFirst) (by rw [hcx]; exact hn) (by rw [hcx]; exact h4) (by rw [hcx]; exact h58)
        (by rw [hcx]; exact hw)
      rw [hb, hcx, State.c_beginFirst]
      refine ⟨fun hq => ?_, fun hq hz => ?_⟩
      · have : (s.cx.npend && s.cx.nhpc != 0#64) = false := by rcases hq with hq | hq <;> simp [hq]
        simp only [this]
        rfl
      · have : (s.cx.npend && s.cx.nhpc != 0#64) = true := by simp [hq, hz]
        simp only [this]
        rfl
  · rw [exec_yield_of_nothing h]
    cases hp : s.cx.parked with
    | true => exact ⟨_, rfl, s.yieldTo_passes⟩
    | false =>
      have hy := (s.land s.cur s.c).yieldTo_passes
      rw [h.land_eq, State.c_modC, State.pc_modC rfl] at hy
      obtain ⟨hpc, hseg, hmem, hctx⟩ := hy
      rw [h.land_eq]
      exact ⟨_, rfl, hpc, hseg, hmem, fun d hd => (hctx d hd).trans (State.ctx_modC_other s _ fun e => hd e.2)⟩

end Sys2Proof.Machine
end

section
/-! O7: the state right after reset, part by part (R75, R76, R147, R222, R271, R315, R391, R414). -/

namespace Sys2Proof.Machine
open Sys2Proof Claims

/-! ## What no entry lists is at its reset value -/

theorem State.ctx_reset (u c : Nat) : State.reset.ctx u c = Ctx.reset (kindOf u) c := rfl

theorem State.unit_reset (u : Nat) : State.reset.unit u = UnitState.reset u := rfl

/-! ## A context and a unit at reset -/

theorem Ctx.faults_reset (k : UnitKind) (c : Nat) (i : Fin 8) : (Ctx.reset k c).faults.get i = FaultEntry.zero := by
  simp [Ctx.reset, Vector.get_eq_getElem]

/-- No entry of the fault ring is current, so no handler runs (R391). -/
theorem Ctx.act_reset (k : UnitKind) (c : Nat) : (Ctx.reset k c).act = false := by
  have h : (Ctx.reset k c).curEntry = none := by
    rw [Ctx.curEntry, List.find?_eq_none]
    intro i _
    rw [Ctx.faults_reset]
    decide
  rw [Ctx.act, h]

/-- CTLW at reset: VE set, level S, the rest clear (R75). -/
theorem Ctx.ctlw_reset (k : UnitKind) (c : Nat) : (Ctx.reset k c).ctlw = 0x11#64 := by
  change 0#40 ++ BitVec.ofBool false ++ BitVec.ofBool false ++ 0#9 ++ 0#5 ++ 0#3 ++ BitVec.ofBool true ++ 0#2 ++ levelCode .s = 0x11#64
  decide

/-- FRS at reset: CAP 16, RES 1 (R76). -/
theorem Ctx.frs_reset (k : UnitKind) (c : Nat) : (Ctx.reset k c).frs = 0x110#64 := by
  change 0#32 ++ 0#16 ++ 1#8 ++ 16#8 = 0x110#64
  decide

theorem kindOf_far_iff (u : Nat) : kindOf u = .far ↔ u < 512 := by
  by_cases h : u < 512
  · simp [kindOf, Config.sliceUnit0, h]
  · simp only [kindOf, Config.sliceUnit0, h, if_false, iff_false]
    by_cases h2 : u < Config.stackUnit0 <;> simp [h2]

theorem UnitState.fence_reset (u : Nat) : (UnitState.reset u).fence = if u < 512 then 0x80#8 else 0x10#8 := by
  have h := kindOf_far_iff u
  simp only [UnitState.reset]
  cases hk : kindOf u <;> simp [hk] at h ⊢ <;> omega

/-- Settles O7: each part of the reset state is its reset value, and each value is the one of its Reset column. -/
theorem resetValuesOfTheSpec : Obligations.ResetValuesOfTheSpec := by
  unfold Obligations.ResetValuesOfTheSpec
  refine ⟨fun u c => ?_, fun u => ?_, fun u k => ⟨rfl, rfl⟩, fun h => ⟨rfl, rfl, rfl, rfl, rfl, rfl⟩, fun h q => ⟨rfl, rfl⟩,
    fun p => ⟨rfl, rfl⟩, fun sl a => ⟨rfl, rfl⟩, fun sl => ⟨rfl, fun m => rfl⟩, rfl, rfl, rfl, rfl⟩
  · rw [State.ctx_reset]
    exact ⟨Ctx.ctlw_reset _ c, Ctx.frs_reset _ c, Ctx.act_reset _ c, rfl, rfl, rfl, rfl, rfl, rfl, rfl, rfl, rfl, rfl, Ctx.faults_reset _ c, rfl, rfl, rfl, rfl⟩
  · rw [State.unit_reset]
    exact ⟨UnitState.fence_reset u, rfl, rfl, rfl, rfl, rfl, rfl, rfl, rfl, rfl, rfl, rfl⟩

end Sys2Proof.Machine
end

section
/-! O34: what a system register reads, as its map gives it (R75, R76, R88, R274, R391, R414), and RDSR (R7, R89). -/

namespace Sys2Proof.Machine
open Sys2Proof Claims

/-! ## Registers of several fields side by side -/

theorem ofBool_toNat (b : Bool) : (BitVec.ofBool b).toNat = b.toNat := by cases b <;> rfl

theorem levelCode_toNat (l : Level) : (levelCode l).toNat = privCode l := by cases l <;> rfl

theorem Ctx.frs_eq (x : Ctx) : x.frs = BitVec.ofNat 64 (x.spilled.toNat * 2 ^ 32 + x.res.toNat * 2 ^ 8 + x.cap.toNat) := by
  apply eq_ofNat_of_toNat
  simp only [Ctx.frs, toNat_append_eq, BitVec.toNat_ofNat]
  omega

theorem Ctx.ctlw_eq (x : Ctx) : x.ctlw = BitVec.ofNat 64 (x.nact.toNat * 2 ^ 23 + x.npend.toNat * 2 ^ 22 + x.fxs.toNat * 2 ^ 8
    + x.frm.toNat * 2 ^ 5 + x.ve.toNat * 2 ^ 4 + privCode x.priv) := by
  apply eq_ofNat_of_toNat
  simp only [Ctx.ctlw, toNat_append_eq, BitVec.toNat_ofNat, ofBool_toNat, levelCode_toNat]
  omega

theorem Ctx.fctl_eq (x : Ctx) : x.fctl = BitVec.ofNat 64 (x.frm.toNat * 2 ^ 5 + x.fxs.toNat) := by
  apply eq_ofNat_of_toNat
  simp only [Ctx.fctl, toNat_append_eq, BitVec.toNat_ofNat]
  omega

theorem Ctx.astate_eq (x : Ctx) : x.astate =
    BitVec.ofNat 64 (x.arb.toNat * 2 ^ 32 + x.chk.toNat * 2 ^ 26 + x.pe.toNat * 2 ^ 24 + x.sel.toNat) := by
  apply eq_ofNat_of_toNat
  simp only [Ctx.astate, toNat_append_eq, BitVec.toNat_ofNat, ofBool_toNat]
  omega

/-- A field that stands alone at a bit of a register. -/
theorem setWidth_shift_eq {n k : Nat} (x : BitVec n) (h : n + k ≤ 64) : x.setWidth 64 <<< k = BitVec.ofNat 64 (x.toNat * 2 ^ k) := by
  apply eq_ofNat_of_toNat
  have hx : x.toNat * 2 ^ k < 2 ^ 64 := by
    calc x.toNat * 2 ^ k < 2 ^ n * 2 ^ k := by gcongr; exact x.isLt
      _ = 2 ^ (n + k) := (Nat.pow_add 2 n k).symm
      _ ≤ 2 ^ 64 := Nat.pow_le_pow_right (by decide) h
  have h1 : x.toNat ≤ x.toNat * 2 ^ k := Nat.le_mul_of_pos_right _ (Nat.two_pow_pos k)
  rw [BitVec.toNat_shiftLeft, BitVec.toNat_setWidth, Nat.mod_eq_of_lt (h1.trans_lt hx), Nat.shiftLeft_eq, Nat.mod_eq_of_lt hx]

/-- The cause of the current entry (R391). -/
theorem cause_eq (w : Word) : w &&& 0xFF#64 = BitVec.ofNat 64 (w.toNat % 2 ^ 8) := by
  apply eq_ofNat_of_toNat
  rw [BitVec.toNat_and]
  exact Nat.and_two_pow_sub_one_eq_mod w.toNat 8

theorem State.onKind_eq (s : State) (k : UnitKind) (w : Word) : s.onKind k w = if s.kind = k then w else 0#64 := by
  simp only [State.onKind, beq_iff_eq]

theorem State.mOnly_eq (s : State) (w : Word) : s.mOnly w = if s.cx.priv = .u then 0#64 else w := by
  rw [State.mOnly]
  cases s.cx.priv <;> rfl

theorem State.ctxId_eq (s : State) : s.ctxId = BitVec.ofNat 64 (s.c % 16 + if s.kind = .far then 0 else 256) := by
  rw [State.ctxId]
  cases s.kind <;> rfl

theorem State.unitId_eq (s : State) :
    s.unitId = BitVec.ofNat 64 ((match s.kind with | .far => 0 | .slice => 1 | .stack => 2) * 2 ^ 10 + s.cur % 512) := by
  rw [State.unitId]
  cases s.kind <;> rfl

/-- A register whose map is fields side by side reads as its map gives it (R88, R414). -/
theorem sysValue_of_sysReg {s : State} {n : Nat} {v : Word} (h : sysReg s n = some v) : s.sysValue n = v ∧ n ≠ 0x00D := by
  unfold sysReg at h
  split at h
  case h_41 => cases h
  all_goals
    obtain rfl := Option.some.inj h
    refine ⟨?_, by decide⟩
  case h_1 => exact s.ctxId_eq
  case h_4 => exact s.cx.frs_eq
  case h_6 => exact s.cx.ctlw_eq
  case h_7 => exact s.cx.fctl_eq
  case h_14 => exact cause_eq s.cx.cur.info
  case h_25 => exact (s.onKind_eq .slice _).trans (by rw [Ctx.astate_eq])
  case h_28 => exact setWidth_shift_eq s.ux.fence (by decide)
  case h_30 => exact (s.onKind_eq .far _).trans (by rw [setWidth_shift_eq s.ux.mrqb (by decide)])
  case h_34 => exact (s.onKind_eq .slice _).trans (by rw [BitVec.ofNat_toNat])
  case h_37 => exact s.unitId_eq
  case h_39 => exact s.mOnly_eq s.ux.mroot
  case h_40 => exact s.mOnly_eq s.ux.mtvec
  case h_11 | h_13 | h_29 | h_31 | h_32 => exact (BitVec.ofNat_toNat 64 _).symm
  all_goals rfl

/-! ## RDSR (R89) -/

theorem astateBusy_of_unheld {s : State} (h : Unheld s) (n : Nat) : s.astateBusy n = false := by
  obtain ⟨-, -, hf⟩ := h
  by_cases hk : s.kind = .slice
  · simp [State.astateBusy, hf hk]
  · simp [State.astateBusy, hk]

theorem exec_rdsr {s : State} (h : Unheld s) (d : Reg) (r : BitVec 12) :
    exec (.rdsr d r) s = .next ((s.sysRead r.toNat).1.setG d (s.sysRead r.toNat).2).advance := by
  change execRdsr d r s = _
  rw [execRdsr, vectorBusy_of_unheld h, astateBusy_of_unheld h]
  rfl

theorem State.readClears_eq (s : State) (n : Nat) : s.readClears n = cleared s n := rfl

/-- A change of the issuing unit that keeps its contexts keeps canonical memory and the window in place. -/
theorem State.regOk.modU {s : State} (h : s.regOk) {f : UnitState → UnitState} (hc : (f s.ux).cur = s.ux.cur) (hx : (f s.ux).ctxs = s.ux.ctxs) :
    (s.modU f).regOk := by
  refine ⟨h.1, ?_⟩
  have hcur : (s.modU f).c = s.c := (congrArg UnitState.cur (State.unit_modUnit_same s s.cur f)).trans hc
  have hw := h.2
  simp only [State.winOk, hcur, State.modU_cur] at hw ⊢
  rw [show (s.modU f).ctx s.cur s.c = s.ctx s.cur s.c from State.ctx_modUnit hx _ _]
  exact hw

/-- The read of a register that its read clears keeps the window in place. -/
theorem State.regOk.cleared {s : State} (h : s.regOk) (n : Nat) : (Claims.cleared s n).regOk := by
  unfold Claims.cleared
  split
  · exact h.modU rfl rfl
  · exact h.modU rfl rfl
  · exact h.modU rfl rfl
  · exact h

/-- Settles O34: RDSR writes the value that it reads to the state that the read leaves. -/
theorem systemRegisterReads : Obligations.SystemRegisterReads := by
  unfold Obligations.SystemRegisterReads
  refine ⟨fun d r s v hv h hr => ?_, fun d r s h hr => ?_⟩
  · obtain ⟨hval, hn⟩ := sysValue_of_sysReg hv
    rw [exec_rdsr h, State.sysRead, if_neg hn, State.readClears_eq, hval]
    exact ⟨_, rfl, State.wrote_setG (hr.cleared _) d v⟩
  · rw [exec_rdsr h]
    refine ⟨_, (s.sysRead r.toNat).2, rfl, ?_⟩
    have hn : r.toNat = 0x00D ↔ r = 0x00D#12 := by rw [← BitVec.toNat_inj]; rfl
    by_cases hc : r = 0x00D#12
    · rw [if_pos hc, State.sysRead, if_pos (hn.mpr hc)]
      exact State.wrote_setG (s := s.useFree) hr d _
    · rw [if_neg hc, State.sysRead, if_neg (fun e => hc (hn.mp e)), State.readClears_eq]
      exact State.wrote_setG (hr.cleared _) d _

end Sys2Proof.Machine
end

section
/-! O21 and O22: the frame ring as CALL and RET turn it (R69), the two words (R80, R82), and the end of a helper (R82, R326). -/

namespace Sys2Proof.Machine
open Sys2Proof Claims

/-! ## The ring by offsets from its base (R69) -/

section
variable (x : Ctx)

/-- Ring takes an offset from FRB to its remainder by the span. -/
theorem Ctx.ring_offset {d : Int} (h1 : -2 ^ 63 ≤ d) (h2 : d < 2 ^ 63) :
    x.ring (x.frb + BitVec.ofInt 64 d) = x.frb + BitVec.ofInt 64 (d % (x.span : Int)) := by
  rw [Ctx.ring, BitVec.add_comm x.frb (BitVec.ofInt 64 d), BitVec.add_sub_cancel, BitVec.toInt_ofInt_eq_self (by decide) h1 h2]

/-- A step along the ring from a place in the ring is a step from the place before it was taken into the ring. -/
theorem Ctx.ring_step (h0 : 0 < x.span) (hs : x.span ≤ 12288) {d e : Int} (hd : -2 ^ 32 ≤ d ∧ d ≤ 2 ^ 32) (he : -2 ^ 32 ≤ e ∧ e ≤ 2 ^ 32) :
    x.ring (x.ring (x.frb + BitVec.ofInt 64 d) + BitVec.ofInt 64 e) = x.ring (x.frb + BitVec.ofInt 64 (d + e)) := by
  have hm1 := Int.emod_nonneg d (show (x.span : Int) ≠ 0 by omega)
  have hm2 := Int.emod_lt_of_pos d (show (0 : Int) < x.span by omega)
  rw [Ctx.ring_offset x (by omega) (by omega), BitVec.add_assoc, ← BitVec.ofInt_add, Ctx.ring_offset x (by omega) (by omega),
    Ctx.ring_offset x (by omega) (by omega), Int.emod_add_emod]

/-- A slot of the ring is a whole number of frames, fewer than CAP, from its base (R69). -/
theorem Ctx.isSlot_iff (hf : x.frb.toNat + x.span ≤ 2 ^ 63) (w : Word) :
    x.isSlot w = true ↔ ∃ k, k < x.cap.toNat ∧ w = x.frb + BitVec.ofInt 64 ((192 * k : Nat) : Int) := by
  have hcap := x.cap.isLt
  simp only [Ctx.isSlot, Bool.and_eq_true, decide_eq_true_eq, Ctx.span] at hf ⊢
  constructor
  · rintro ⟨⟨h1, h2⟩, h3⟩
    refine ⟨(w.toNat - x.frb.toNat) / 192, h3, BitVec.eq_of_toNat_eq ?_⟩
    rw [BitVec.ofInt_natCast, BitVec.toNat_add, BitVec.toNat_ofNat]
    omega
  · rintro ⟨k, hk, rfl⟩
    have : (x.frb + BitVec.ofInt 64 ((192 * k : Nat) : Int)).toNat = x.frb.toNat + 192 * k := by
      rw [BitVec.ofInt_natCast, BitVec.toNat_add, BitVec.toNat_ofNat]
      omega
    rw [this]
    omega

end

/-- A window in a ring in place: WP names a slot of it, as many frames as R90 allows, below the top of the address space. -/
def Ctx.InRing (x : Ctx) : Prop :=
  4 ≤ x.cap.toNat ∧ x.cap.toNat ≤ 64 ∧ x.frb.toNat + x.span ≤ 2 ^ 63 ∧ x.isSlot x.wp = true

section
variable {x : Ctx} (h : x.InRing)
include h

theorem Ctx.InRing.span : 768 ≤ x.span ∧ x.span ≤ 12288 := by
  obtain ⟨h4, h64, -, -⟩ := h
  simp only [Ctx.span]
  omega

/-- A step of a whole number of frames leads to a slot again. -/
theorem Ctx.InRing.isSlot_step {j : Int} (hj : -64 ≤ j ∧ j ≤ 64) : x.isSlot (x.ring (x.wp + BitVec.ofInt 64 (192 * j))) = true := by
  have hsp := h.span
  obtain ⟨h4, h64, hf, hs⟩ := h
  obtain ⟨k, hk, hw⟩ := (x.isSlot_iff hf _).mp hs
  have hm1 := Int.emod_nonneg ((k : Int) + j) (show (x.cap.toNat : Int) ≠ 0 by omega)
  have hm2 := Int.emod_lt_of_pos ((k : Int) + j) (show (0 : Int) < x.cap.toNat by omega)
  refine (x.isSlot_iff hf _).mpr ⟨(((k : Int) + j) % x.cap.toNat).toNat, by omega, ?_⟩
  have he : (((192 * k : Nat) : Int) + 192 * j) % (x.span : Int) = 192 * (((k : Int) + j) % x.cap.toNat) := by
    rw [show ((192 * k : Nat) : Int) + 192 * j = 192 * ((k : Int) + j) by omega,
      show (x.span : Int) = 192 * x.cap.toNat by simp only [Ctx.span]; omega, Int.mul_emod_mul_of_pos _ _ (by decide)]
  rw [hw, BitVec.add_assoc, ← BitVec.ofInt_add, Ctx.ring_offset x (by omega) (by omega), he]
  congr 2
  omega

/-- Ring(Ring(WP + 192 j) + 8 n) is Ring(WP + 192 j + 8 n): the registers that a call and a return pass on (R69). -/
theorem Ctx.InRing.ringAddr_step {j : Int} (hj : -64 ≤ j ∧ j ≤ 64) {m n : Nat} (hm : (8 * m : Int) = 192 * j + 8 * n) (hn : n < 32) :
    x.ringAddr (x.ring (x.wp + BitVec.ofInt 64 (192 * j))) n = x.ringAddr x.wp m := by
  have hsp := h.span
  obtain ⟨h4, h64, hf, hs⟩ := h
  obtain ⟨k, hk, hw⟩ := (x.isSlot_iff hf _).mp hs
  have hnat : ∀ i : Nat, BitVec.ofNat 64 (8 * i) = BitVec.ofInt 64 (8 * i : Int) := fun i => (BitVec.ofInt_natCast 64 (8 * i)).symm
  rw [Ctx.ringAddr, Ctx.ringAddr, hnat, hnat, hm, hw, BitVec.add_assoc, ← BitVec.ofInt_add,
    Ctx.ring_step x (by omega) (by omega) (by omega) (by omega), BitVec.add_assoc, ← BitVec.ofInt_add, Int.add_assoc]

/-- The first registers of a window follow one another from WP on: its slot does not wrap (R69). -/
theorem Ctx.InRing.ringAddr_toNat {n : Nat} (hn : n < 24) : (x.ringAddr x.wp n).toNat = x.wp.toNat + 8 * n := by
  have hsp := h.span
  obtain ⟨h4, h64, hf, hs⟩ := h
  obtain ⟨k, hk, hw⟩ := (x.isSlot_iff hf _).mp hs
  simp only [Ctx.span] at hf hsp
  have hlt : ((192 * k : Nat) : Int) + 8 * n < x.span := by simp only [Ctx.span]; omega
  have hwp : x.wp.toNat = x.frb.toNat + 192 * k := by
    rw [hw, BitVec.ofInt_natCast, BitVec.toNat_add, BitVec.toNat_ofNat]
    omega
  have hnat : BitVec.ofNat 64 (8 * n) = BitVec.ofInt 64 (8 * n : Int) := (BitVec.ofInt_natCast 64 (8 * n)).symm
  rw [hwp, Ctx.ringAddr, hnat, hw, BitVec.add_assoc, ← BitVec.ofInt_add, Ctx.ring_offset x (by omega) (by omega),
    Int.emod_eq_of_lt (by omega) hlt, show ((192 * k : Nat) : Int) + 8 * n = ((192 * k + 8 * n : Nat) : Int) by omega,
    BitVec.ofInt_natCast, BitVec.toNat_add, BitVec.toNat_ofNat]
  omega

end

/-- The window of a context whose registers lie in its ring is in the ring. -/
theorem State.winOk.inRing {s : State} {u c : Nat} (h : s.winOk u c) (hl : (s.ctx u c).linear = false) : (s.ctx u c).InRing := by
  have hz : localSize (kindOf u) ≤ 0x80000 := by cases kindOf u <;> simp [localSize]
  simp only [State.winOk, hl, Bool.false_eq_true, if_false] at h
  obtain ⟨h4, h64, hf⟩ := h
  refine ⟨h4, h64, by omega, ?_⟩
  simp only [Ctx.linear, Bool.or_eq_false_iff, Bool.not_eq_false'] at hl
  exact hl.2

/-- Outside the handlers a window is linear only where its WP is no slot of the ring. -/
theorem Ctx.linear_of_isSlot {x : Ctx} (ha : x.act = false) (hn : x.nact = false) (hs : x.isSlot x.wp = true) : x.linear = false := by
  simp [Ctx.linear, ha, hn, hs]

/-! ## CALL and CALLR (R80) -/

/-- Sext(offset, n) as the model extends it. -/
theorem toInt_eq_sgn {n : Nat} (hn : 0 < n) (x : BitVec n) : x.toInt = sgn n x.toNat := by
  have h2 : 2 ^ n = 2 * 2 ^ (n - 1) := by rw [← Nat.pow_succ', Nat.succ_eq_add_one, Nat.sub_add_cancel hn]
  rw [BitVec.toInt_eq_toNat_cond, sgn]
  by_cases h : 2 * x.toNat < 2 ^ n
  · rw [if_pos h, if_neg (by omega)]
  · rw [if_neg h, if_pos (by omega)]
    norm_cast

/-- The target of a PC-relative transfer as the spec adds it (R101). -/
theorem State.rel_eq {n : Nat} (hn : 0 < n) (s : State) (off : BitVec n) : s.rel off = transfer.rel s.pc n off.toNat := by
  rw [State.rel, transfer.rel, BitVec.signExtend, toInt_eq_sgn hn, BitVec.shiftLeft_eq_mul_twoPow, BitVec.ofInt_add, BitVec.ofInt_mul,
    BitVec.ofInt_natCast, BitVec.ofNat_toNat, BitVec.setWidth_eq]
  rfl

/-- A call with its park made, to a target that its check accepts. -/
theorem exec_call {i : Instr} {s : State} {t : Word} (hi : callTarget s.g s.pc i = some t) (hp : s.cx.parked = true) (h58 : t.toNat < 2 ^ 58)
    (h4 : t.toNat % 4 = 0) : exec i s = .next (s.beginFirst.callTo t none) := by
  unfold callTarget at hi
  split at hi
  case h_1 off =>
    obtain rfl := Option.some.inj hi
    refine congrArg Host.Outcome.next ((State.parkFirst_parked hp _).trans ?_)
    have ht : s.beginFirst.rel off = transfer.rel s.pc 25 off.toNat := by rw [State.rel_eq (by decide), State.pc_beginFirst]
    rw [ht, relTarget, if_neg (not_not.mpr ((high6_eq_zero_iff _).mpr h58))]
  case h_2 a imm =>
    obtain rfl := Option.some.inj hi
    refine congrArg Host.Outcome.next ((State.parkFirst_parked hp _).trans ?_)
    rw [State.g_beginFirst, ← eaOfM_eq, checkTarget_eq, if_neg (not_not.mpr h4), if_neg (Nat.not_le.mpr h58)]
  case h_3 => cases hi

/-- A context as a call leaves it: the window 192 bytes lower, one frame more resident, at the target (R80). -/
def Ctx.called (x : Ctx) (t : Word) : Ctx := { x with wp := x.ring (x.wp - 192#64), res := x.res + 1#8, pc := t }

/-- The link of a call in the new window: g21 to g23 (R80). -/
def State.linked (s : State) (link g22 g23 : Word) : State := ((s.setG 21#5 link).setG 22#5 g22).setG 23#5 g23

/-- No frame spills where one more fits. -/
theorem State.spillWaits_of_room {s : State} {u c : Nat} (h : (s.ctx u c).res.toNat < (s.ctx u c).cap.toNat) :
    s.spillWaits u c ((s.ctx u c).cap.toNat - 1) = false := by
  have h0 : (s.ctx u c).res.toNat - ((s.ctx u c).cap.toNat - 1) = 0 := by omega
  simp [State.spillWaits, State.framesWait, h0]

theorem State.callTo_room {s : State} (t : Word) (ha : s.cx.act = false) (hn : s.cx.nact = false) (hr : s.cx.res.toNat < s.cx.cap.toNat) :
    s.callTo t none = (s.modC fun x => x.called t).linked (s.pc + 4#64) (s.g 22#5) (s.g 23#5) := by
  have hne : s.cx.res ≠ s.cx.cap := fun e => by rw [e] at hr; exact Nat.lt_irrefl _ hr
  have hw : s.spillWaits s.cur s.c (s.cx.cap.toNat - 1) = false := State.spillWaits_of_room hr
  simp only [State.callTo, ha, hn, hw, hne, Bool.false_eq_true, if_false]
  rfl

theorem Ctx.wp_called (x : Ctx) (t : Word) : (x.called t).wp = x.ring (x.wp + BitVec.ofInt 64 (192 * -1)) := by
  rw [show BitVec.ofInt 64 (192 * -1) = -192#64 by decide, ← BitVec.sub_eq_add_neg]
  rfl

theorem Ctx.isSlot_called (x : Ctx) (t w : Word) : (x.called t).isSlot w = x.isSlot w := rfl

theorem Ctx.ringAddr_called (x : Ctx) (t w : Word) (n : Nat) : (x.called t).ringAddr w n = x.ringAddr w n := rfl

section
variable {x : Ctx} (h : x.InRing)
include h

/-- The window that a call enters is a slot of the ring. -/
theorem Ctx.InRing.called (t : Word) : (x.called t).InRing := by
  have hs := h.isSlot_step (j := -1) (by decide)
  obtain ⟨h4, h64, hf, -⟩ := h
  exact ⟨h4, h64, hf, by rw [Ctx.isSlot_called, Ctx.wp_called]; exact hs⟩

theorem Ctx.InRing.linear_called (ha : x.act = false) (hn : x.nact = false) (t : Word) : (x.called t).linear = false := by
  obtain ⟨-, -, -, hs⟩ := h.called t
  exact Ctx.linear_of_isSlot ha hn hs

/-- g24 to g31 of the callee's window are g0 to g7 of the caller's (R69). -/
theorem Ctx.InRing.regOff_called (hl : x.linear = false) (ha : x.act = false) (hn : x.nact = false) (t : Word) {n : Nat} (h8 : n < 8) :
    (x.called t).regOff (24 + n) = x.regOff n := by
  have hs := h.ringAddr_step (j := -1) (m := n) (n := 24 + n) (by decide) (by omega) (by omega)
  simp only [Ctx.regOff, hl, h.linear_called ha hn t, Bool.false_eq_true, if_false]
  rw [Ctx.ringAddr_called, Ctx.wp_called, hs]

end

/-- g21 to g23 of a window in the ring lie side by side. -/
theorem regPa_of_inRing {u : Nat} {x : Ctx} (h : x.InRing) (hl : x.linear = false) (hf : x.frb.toNat + x.span ≤ localSize (kindOf u)) {n : Nat}
    (hn : n < 24) : regPa u x (BitVec.ofNat 5 n) = localBase u + x.wp.toNat + 8 * n := by
  have ha := h.ringAddr_toNat hn
  obtain ⟨h4, h64, -, -⟩ := h
  have hlt := regOff_lt (u := u) (x := x) n (by omega) (by simp only [hl, Bool.false_eq_true, if_false]; exact ⟨h4, h64, hf⟩)
  have ho : (x.regOff n).toNat = x.wp.toNat + 8 * n := by
    rw [Ctx.regOff, if_neg (by simp [hl])]
    exact ha
  have hn5 : (BitVec.ofNat 5 n).toNat = n := by rw [BitVec.toNat_ofNat]; omega
  rw [regPa, localPa, hn5, Nat.mod_eq_of_lt hlt, ho, Nat.add_assoc]

theorem State.winOk.setG {s : State} (h : s.winOk s.cur s.c) (r : Reg) (w : Word) : (s.setG r w).winOk (s.setG r w).cur (s.setG r w).c := by
  rw [State.winOk, State.c_setG]
  exact h

theorem State.regOk.setG {s : State} (h : s.regOk) (r : Reg) (w : Word) : (s.setG r w).regOk := ⟨.setG h.1, h.2.setG r w⟩

section
variable {s : State} (h : s.regOk) (link g22 g23 : Word)
include h

theorem State.regOk.linked : (s.linked link g22 g23).regOk := ((h.setG _ _).setG _ _).setG _ _

/-- The link stands in g21, and g22 and g23 hold what was passed on. -/
theorem State.g_linked : (s.linked link g22 g23).g 21#5 = link ∧ (s.linked link g22 g23).g 22#5 = g22 ∧ (s.linked link g22 g23).g 23#5 = g23 := by
  have h1 := h.setG 21#5 link
  have h2 := h1.setG 22#5 g22
  refine ⟨?_, ?_, State.g_setG_same h2.1 _ _⟩
  · rw [State.linked, State.g_setG_other h2.2 (by decide), State.g_setG_other h1.2 (by decide), State.g_setG_same h.1]
  · rw [State.linked, State.g_setG_other h2.2 (by decide), State.g_setG_same h1.1]

theorem State.g_linked_other {r : Reg} (h1 : r ≠ 21#5) (h2 : r ≠ 22#5) (h3 : r ≠ 23#5) : (s.linked link g22 g23).g r = s.g r := by
  have hs1 := h.setG 21#5 link
  have hs2 := hs1.setG 22#5 g22
  rw [State.linked, State.g_setG_other hs2.2 h3, State.g_setG_other hs1.2 h2, State.g_setG_other h.2 h1]

end

/-- A register's write changes its eight bytes alone. -/
theorem State.read_setG_other (s : State) (r : Reg) (w : Word) {a : Nat} (h : a < regAt s r ∨ regAt s r + 8 ≤ a) :
    (s.setG r w).mem.read a = s.mem.read a := Memory.read_write64_other s.mem w h

theorem regAt_setG (s : State) (r q : Reg) (w : Word) : regAt (s.setG r w) q = regAt s q := by
  rw [regAt, State.cx_setG]
  rfl

theorem State.cx_linked (s : State) (link g22 g23 : Word) : (s.linked link g22 g23).cx = s.cx := by
  rw [State.linked, State.cx_setG, State.cx_setG, State.cx_setG]

theorem regAt_linked (s : State) (link g22 g23 : Word) (q : Reg) : regAt (s.linked link g22 g23) q = regAt s q := by
  rw [State.linked, regAt_setG, regAt_setG, regAt_setG]

/-- The link writes no byte but those of g21 to g23. -/
theorem State.read_linked_other {s : State} (h : s.regOk) (hl : s.cx.linear = false) (link g22 g23 : Word) {a : Nat}
    (ha : a < regAt s 21#5 ∨ regAt s 21#5 + 24 ≤ a) : (s.linked link g22 g23).mem.read a = s.mem.read a := by
  obtain ⟨-, hw⟩ := h
  have hr : s.cx.InRing := hw.inRing hl
  have hf : s.cx.frb.toNat + s.cx.span ≤ localSize (kindOf s.cur) := by
    rw [State.winOk, if_neg (by rw [show s.ctx s.cur s.c = s.cx from rfl, hl]; decide)] at hw
    exact hw.2.2
  have h21 : regAt s 21#5 = _ := regPa_of_inRing hr hl hf (n := 21) (by decide)
  have h22 : regAt s 22#5 = _ := regPa_of_inRing hr hl hf (n := 22) (by decide)
  have h23 : regAt s 23#5 = _ := regPa_of_inRing hr hl hf (n := 23) (by decide)
  rw [State.linked, State.read_setG_other _ _ _ (by rw [regAt_setG, regAt_setG]; omega),
    State.read_setG_other _ _ _ (by rw [regAt_setG]; omega), State.read_setG_other _ _ _ (by omega)]

section
variable {s : State} (h : s.regOk) (hl : s.cx.linear = false) (ha : s.cx.act = false) (hn : s.cx.nact = false) (t : Word)
include h hl ha hn

theorem State.cx_called_linear : (s.modC fun x => x.called t).cx.linear = false := by
  rw [State.cx_modC]
  exact (h.2.inRing hl).linear_called ha hn t

theorem State.regOk.called : (s.modC fun x => x.called t).regOk := by
  have hlin := State.cx_called_linear h hl ha hn t
  obtain ⟨hm, hw⟩ := h
  refine ⟨.modC hm, ?_⟩
  have hl' : (s.ctx s.cur s.c).linear = false := hl
  simp only [State.winOk, hl', Bool.false_eq_true, if_false] at hw
  have hcx : (s.modC fun x => x.called t).ctx (s.modC fun x => x.called t).cur (s.modC fun x => x.called t).c = s.cx.called t := s.cx_modC _
  rw [State.winOk, hcx, if_neg (by rw [State.cx_modC] at hlin; simp [hlin])]
  exact hw

/-- The callee's g24 to g31 are the caller's g0 to g7 (R69). -/
theorem State.g_called {n : Nat} (h8 : n < 8) : (s.modC fun x => x.called t).g (BitVec.ofNat 5 (24 + n)) = s.g (BitVec.ofNat 5 n) := by
  have ho := (h.2.inRing hl).regOff_called hl ha hn t h8
  have hcx : (s.modC fun x => x.called t).ctx s.cur s.c = s.cx.called t := State.ctx_modCtx_same s s.cur s.c _
  have e1 : (BitVec.ofNat 5 (24 + n)).toNat = 24 + n := by rw [BitVec.toNat_ofNat]; omega
  have e2 : (BitVec.ofNat 5 n).toNat = n := by rw [BitVec.toNat_ofNat]; omega
  have ho : (s.cx.called t).regOff (24 + n) = (s.ctx s.cur s.c).regOff n := ho
  simp only [State.g, State.c_modC, State.modC_cur, State.reg, regPa, hcx, e1, e2, ho]
  rfl

end

/-- A state that begins a segment has its window in place where the state before had. -/
theorem State.regOk.beginFirst {s : State} (h : s.regOk) : s.beginFirst.regOk := by
  obtain ⟨hm, hw⟩ := h
  refine ⟨hm.beginFirst, ?_⟩
  have hcx : s.beginFirst.ctx s.beginFirst.cur s.beginFirst.c =
      { s.cx with parked := false, seg := 1, parking := s.ux.word.getLsbD 31, why := .segment } := State.cx_beginFirst s
  rw [State.winOk, hcx]
  exact hw

/-- Settles O21: the new window is a slot of the ring whose last registers are the caller's first. -/
theorem callResults : Obligations.CallResults := by
  unfold Obligations.CallResults
  intro i s t hi hp hr hl ha hn h58 h4 hroom
  have hcx := s.cx_beginFirst
  have hrb := hr.beginFirst
  have hlb : s.beginFirst.cx.linear = false := by rw [hcx]; exact hl
  have hab : s.beginFirst.cx.act = false := by rw [hcx]; exact ha
  have hnb : s.beginFirst.cx.nact = false := by rw [hcx]; exact hn
  have hrc := hrb.called hlb hab hnb t
  have hlc := State.cx_called_linear hrb hlb hab hnb t
  have hc : ((s.beginFirst.modC fun x => x.called t).linked (s.beginFirst.pc + 4#64) (s.beginFirst.g 22#5) (s.beginFirst.g 23#5)).cx =
      s.beginFirst.cx.called t := by rw [State.cx_linked, State.cx_modC]
  obtain ⟨h21, h22, h23⟩ := State.g_linked hrc (s.beginFirst.pc + 4#64) (s.beginFirst.g 22#5) (s.beginFirst.g 23#5)
  rw [exec_call hi hp h58 h4, State.callTo_room t hab hnb (by rw [hcx]; exact hroom)]
  refine ⟨_, rfl, by rw [State.pc, hc]; rfl, by rw [hc, hcx]; rfl, by rw [hc, hcx]; rfl, by rw [h21, State.pc_beginFirst],
    by rw [h22, State.g_beginFirst], by rw [h23, State.g_beginFirst], fun n h8 => ?_, fun a hout => ?_, (hrc.linked _ _ _).1,
    by rw [hc, hcx]; rfl, by rw [hc, hcx]; rfl, by rw [hc, hcx]; rfl, by rw [hc, hcx]; rfl⟩
  · have hne : ∀ k, k < 24 → BitVec.ofNat 5 (24 + n) ≠ BitVec.ofNat 5 k := fun k hk e => by
      have := congrArg BitVec.toNat e
      simp only [BitVec.toNat_ofNat] at this
      omega
    rw [State.g_linked_other hrc _ _ _ (hne 21 (by decide)) (hne 22 (by decide)) (hne 23 (by decide)), State.g_called hrb hlb hab hnb t h8,
      State.g_beginFirst]
  · rw [regAt_linked] at hout
    exact State.read_linked_other hrc hlc _ _ _ hout

/-! ## RET (R82) -/

/-- A context as a return leaves it: the window 192 bytes higher, one frame less resident (R82). -/
def Ctx.returned (x : Ctx) : Ctx := { x with wp := x.ring (x.wp + 192#64), res := x.res - 1#8 }

theorem Ctx.wp_returned (x : Ctx) : x.returned.wp = x.ring (x.wp + BitVec.ofInt 64 (192 * 1)) := rfl

/-- The ring depends on FRB and CAP alone. -/
theorem Ctx.ring_congr {x y : Ctx} (hf : x.frb = y.frb) (hc : x.cap = y.cap) (w : Word) : x.ring w = y.ring w := by
  rw [Ctx.ring, Ctx.ring, Ctx.span, Ctx.span, hf, hc]

theorem Ctx.isSlot_returned (x : Ctx) (w : Word) : x.returned.isSlot w = x.isSlot w := by
  rw [Ctx.isSlot, Ctx.isSlot]
  rfl

theorem Ctx.ringAddr_returned (x : Ctx) (w : Word) (n : Nat) : x.returned.ringAddr w n = x.ringAddr w n := Ctx.ring_congr rfl rfl _

/-- g0 to g7 of the caller's window are g24 to g31 of the callee's (R69). -/
theorem Ctx.InRing.regOff_returned {x : Ctx} (h : x.InRing) (hl : x.linear = false) (ha : x.act = false) (hn : x.nact = false) {n : Nat}
    (h8 : n < 8) : x.returned.regOff n = x.regOff (24 + n) := by
  have hr := h.ringAddr_step (j := 1) (m := 24 + n) (n := n) (by decide) (by omega) (by omega)
  have hlr : x.returned.linear = false := Ctx.linear_of_isSlot ha hn (by
    rw [Ctx.isSlot_returned, Ctx.wp_returned]
    exact h.isSlot_step (by decide))
  simp only [Ctx.regOff, hl, hlr, Bool.false_eq_true, if_false]
  rw [Ctx.ringAddr_returned, Ctx.wp_returned, hr]

theorem exec_ret {s : State} (hp : s.cx.parked = true) : exec .ret s = .next s.beginFirst.retFrom :=
  congrArg Host.Outcome.next (State.parkFirst_parked hp _)

section
variable {s : State} (ha : s.cx.act = false) (hn : s.cx.nact = false)
include ha hn

/-- A return to a caller's frame: the fills that its window needs, and then the target. -/
theorem State.retFrom_frame (hf : ¬ (s.cx.res = 1#8 ∧ s.cx.spilled = 0#32)) (h58 : (s.g 21#5).toNat < 2 ^ 58) (h4 : (s.g 21#5).toNat % 4 = 0) :
    s.retFrom =
      if (s.modC Ctx.returned).fillWaits s.cur s.c 2 then s.waitFirst
      else match (s.modC Ctx.returned).fillResident s.cur s.c 2 with
        | (_, some e) => s.trapAt e.1 e.2
        | (s2, none) => s2.setPc (s.g 21#5) := by
  have ht : checkTarget (s.g 21#5) = none := by rw [checkTarget_eq, if_neg (not_not.mpr h4), if_neg (Nat.not_le.mpr h58)]
  simp only [State.retFrom, ha, hn, ht, hf, Bool.false_eq_true, if_false]
  rfl

/-- A return from the only frame of a helper: its task's completion, or its end. -/
theorem State.retFrom_last (hr : s.cx.res = 1#8) (hs : s.cx.spilled = 0#32) (hc : s.c ≠ 0) :
    s.retFrom = if s.cx.tkhome.getLsbD 63 then s.finishTask else s.endBody := by
  simp only [State.retFrom, ha, hn, hr, hs, hc, and_self, if_true, Bool.false_eq_true, if_false]

end

/-- Nothing is filled, or waited for, where enough frames are resident or none is spilled. -/
theorem State.fill_none {s : State} {u c : Nat} (h : 2 ≤ (s.ctx u c).res.toNat ∨ (s.ctx u c).spilled = 0#32) :
    s.fillWaits u c 2 = false ∧ s.fillResident u c 2 = (s, none) := by
  have h0 : 24 * min (2 - (s.ctx u c).res.toNat) (s.ctx u c).spilled.toNat = 0 := by
    rcases h with h | h
    · omega
    · simp [h]
  refine ⟨by simp [State.fillWaits, State.framesWait, h0], ?_⟩
  rw [State.fillResident, if_pos h]

/-- What a unit has queued for its coprocessors does not depend on a context. -/
theorem State.copQueued_modC (s : State) (f : Ctx → Ctx) : (s.modC f).copQueued s.cur s.c = s.copQueued s.cur s.c := by
  simp only [State.copQueued, State.modC, State.modCtx, State.unit_setCtx_same]
  rfl

/-- The caller's g0 to g7 are the callee's g24 to g31 (R69). -/
theorem State.g_returned {s : State} (h : s.regOk) (hl : s.cx.linear = false) (ha : s.cx.act = false) (hn : s.cx.nact = false) {n : Nat}
    (h8 : n < 8) : (s.modC Ctx.returned).g (BitVec.ofNat 5 n) = s.g (BitVec.ofNat 5 (24 + n)) := by
  have ho : s.cx.returned.regOff n = (s.ctx s.cur s.c).regOff (24 + n) := (h.2.inRing hl).regOff_returned hl ha hn h8
  have hcx : (s.modC Ctx.returned).ctx s.cur s.c = s.cx.returned := State.ctx_modCtx_same s s.cur s.c _
  have e1 : (BitVec.ofNat 5 (24 + n)).toNat = 24 + n := by rw [BitVec.toNat_ofNat]; omega
  have e2 : (BitVec.ofNat 5 n).toNat = n := by rw [BitVec.toNat_ofNat]; omega
  simp only [State.g, State.c_modC, State.modC_cur, State.reg, regPa, hcx, e1, e2, ho]
  rfl

/-- A return that needs no fill. -/
theorem State.retFrom_back {s : State} (ha : s.cx.act = false) (hn : s.cx.nact = false) (h2 : 2 ≤ s.cx.res.toNat)
    (h3 : 3 ≤ s.cx.res.toNat ∨ s.cx.spilled = 0#32) (h58 : (s.g 21#5).toNat < 2 ^ 58) (h4 : (s.g 21#5).toNat % 4 = 0) :
    s.retFrom = (s.modC Ctx.returned).setPc (s.g 21#5) := by
  have hne : ¬ (s.cx.res = 1#8 ∧ s.cx.spilled = 0#32) := fun ⟨e, _⟩ => by
    rw [e] at h2
    exact absurd h2 (by decide)
  have hcx : (s.modC Ctx.returned).ctx s.cur s.c = s.cx.returned := State.ctx_modCtx_same s s.cur s.c _
  have hfew : 2 ≤ s.cx.returned.res.toNat ∨ s.cx.returned.spilled = 0#32 := by
    refine h3.imp (fun h3 => ?_) id
    have := s.cx.res.isLt
    simp only [Ctx.returned, BitVec.toNat_sub, BitVec.toNat_ofNat]
    omega
  obtain ⟨hw, hf⟩ := State.fill_none (s := s.modC Ctx.returned) (u := s.cur) (c := s.c) (by rw [hcx]; exact hfew)
  rw [State.retFrom_frame ha hn hne h58 h4, hw, hf]
  rfl

/-! ### The state that begins a segment -/

section
variable (s : State)

@[simp] theorem State.act_beginFirst : s.beginFirst.cx.act = s.cx.act := by rw [State.cx_beginFirst]; rfl
@[simp] theorem State.nact_beginFirst : s.beginFirst.cx.nact = s.cx.nact := by rw [State.cx_beginFirst]
@[simp] theorem State.spilled_beginFirst : s.beginFirst.cx.spilled = s.cx.spilled := by rw [State.cx_beginFirst]
@[simp] theorem State.tkhome_beginFirst : s.beginFirst.cx.tkhome = s.cx.tkhome := by rw [State.cx_beginFirst]
@[simp] theorem State.linear_beginFirst : s.beginFirst.cx.linear = s.cx.linear := by rw [State.cx_beginFirst]; rfl

end

/-! ### The end of a helper (R82, R326) -/

theorem State.unit_setLocal (s : State) (u off : Nat) (bs : List Byte) (v : Nat) : (s.setLocal u off bs).unit v = s.unit v := rfl

theorem State.ctx_setLocal (s : State) (u off : Nat) (bs : List Byte) (v d : Nat) : (s.setLocal u off bs).ctx v d = s.ctx v d := rfl

theorem State.ctx_setHend (s : State) (u n v d : Nat) : (s.setHend u n).ctx v d = s.ctx v d := State.ctx_modUnit rfl v d

theorem State.live_endHelper (s : State) (u n : Nat) : ((s.endHelper u n).ctx u n).live = false := by
  rw [State.endHelper, State.ctx_setHend, State.ctx_modCtx_same]
  rfl

theorem State.ctx_endHelper_other (s : State) {u n v d : Nat} (h : ¬ (v = u ∧ d = n)) : (s.endHelper u n).ctx v d = s.ctx v d := by
  rw [State.endHelper, State.ctx_setHend, State.ctx_modCtx_other _ h, State.ctx_setLocal, State.ctx_modCtx_other s h]

theorem State.unit_endHelper_other (s : State) {u v : Nat} (h : v ≠ u) (n : Nat) : (s.endHelper u n).unit v = s.unit v := by
  rw [State.endHelper, State.setHend, State.unit_modUnit_other _ h, State.modCtx, State.unit_setCtx_other _ h, State.unit_setLocal,
    State.modCtx, State.unit_setCtx_other s h]

theorem State.hend_endHelper (s : State) (u : Nat) {n : Nat} (h : n < 11) : ((s.endHelper u n).unit u).hend.getLsbD n = true := by
  rw [State.endHelper, State.setHend, State.unit_modUnit_same, BitVec.getLsbD_or, BitVec.getLsbD_shiftLeft]
  simp [h]

theorem State.hend_rotate (s : State) (u c : Nat) : ((s.rotate u c).unit u).hend = (s.unit u).hend := by
  rw [State.unit_rotate_same]

/-- A helper's end as seen from outside: it is not live, HEND tells it, and nothing of another context or unit changes. -/
theorem State.endBody_ends {s : State} (hq : s.copQueued s.cur s.c = false) (h11 : s.c < 11) :
    (s.endBody.ctx s.cur s.c).live = false ∧ (s.endBody.unit s.cur).hend.getLsbD s.c = true
      ∧ (∀ d, d ≠ s.c → s.endBody.ctx s.cur d = s.ctx s.cur d) ∧ ∀ v, v ≠ s.cur → s.endBody.unit v = s.unit v := by
  rw [State.endBody, hq]
  simp only [Bool.false_eq_true, if_false]
  refine ⟨?_, ?_, fun d hd => ?_, fun v hv => ?_⟩
  · rw [State.ctx_rotate, State.live_endHelper]
  · rw [State.hend_rotate]
    exact State.hend_endHelper s s.cur h11
  · rw [State.ctx_rotate, State.ctx_endHelper_other s fun e => hd e.2]
  · rw [State.unit_rotate_other _ hv, State.unit_endHelper_other s hv]

/-- While a coprocessor instruction of a helper is queued, its end waits for its park. -/
theorem State.endBody_waits {s : State} (hq : s.copQueued s.cur s.c = true) :
    s.endBody.ctx s.cur s.c = { s.cx with parking := true, why := .ending } ∧ s.endBody.mem = s.mem := by
  rw [State.endBody, hq, if_pos rfl, State.ctx_rotate, State.mem_rotate]
  exact ⟨State.ctx_modCtx_same s s.cur s.c _, rfl⟩

/-- Settles O22: the window that a return enters is the slot above, and a helper's last return ends it. -/
theorem returnResults : Obligations.ReturnResults := by
  unfold Obligations.ReturnResults
  refine ⟨fun s hp hr hl ha hn h2 h3 h58 h4 => ?_, fun s hp ha hn hres hsp hc h11 ht => ?_, fun s hp ha hn hf h58 h4 => ?_,
    fun s hp ha hn hres hsp hc ht => ?_⟩
  · have hcx : ∀ t, ((s.beginFirst.modC Ctx.returned).setPc t).cx = { s.beginFirst.cx.returned with pc := t } := fun t => by
      rw [State.setPc, State.cx_modC, State.cx_modC]
    rw [exec_ret hp, State.retFrom_back (by simpa using ha) (by simpa using hn) (by simpa using h2) (by simpa using h3) (by simpa using h58)
      (by simpa using h4), State.g_beginFirst]
    refine ⟨_, rfl, State.pc_setPc _ _, ?_, ?_, fun n h8 => ?_, rfl⟩
    · rw [hcx, State.cx_beginFirst]
      exact Ctx.ring_congr rfl rfl _
    · rw [hcx, Ctx.returned, State.res_beginFirst]
    · rw [State.g_setPc, State.g_returned hr.beginFirst (by simpa using hl) (by simpa using ha) (by simpa using hn) h8, State.g_beginFirst]
  · have he : exec .ret s = .next s.beginFirst.endBody := by
      rw [exec_ret hp, State.retFrom_last (by simpa using ha) (by simpa using hn) (by simpa using hres) (by simpa using hsp) (by simpa using hc),
        State.tkhome_beginFirst, if_neg (by rw [ht]; decide)]
    have hb : s.beginFirst.copQueued s.beginFirst.cur s.beginFirst.c = s.copQueued s.cur s.c := by
      rw [State.c_beginFirst]
      exact State.copQueued_modC s _
    rw [he]
    refine ⟨fun hq => ?_, fun hq => ?_⟩
    · have hends := State.endBody_ends (hb.trans hq) (by simpa using h11)
      rw [State.c_beginFirst] at hends
      obtain ⟨hlive, hhend, hctx, hunit⟩ := hends
      exact ⟨_, rfl, hlive, hhend, fun d hd => (hctx d hd).trans (State.ctx_modC_other s _ fun e => hd e.2),
        fun v hv => (hunit v hv).trans (State.unit_setCtx_other s hv _ _)⟩
    · obtain ⟨hx, hm⟩ := State.endBody_waits (hb.trans hq)
      rw [State.c_beginFirst] at hx
      have hx : s.beginFirst.endBody.ctx s.cur s.c = { s.beginFirst.cx with parking := true, why := .ending } := hx
      exact ⟨_, rfl, by rw [hx, State.cx_beginFirst], by rw [hx], hm⟩
  · intro s1
    have hret : exec .ret s = .next (if s1.fillWaits s.cur s.c 2 then s.beginFirst.waitFirst
        else match s1.fillResident s.cur s.c 2 with
          | (_, some e) => s.beginFirst.trapAt e.1 e.2
          | (s2, none) => s2.setPc (s.g 21#5)) := by
      rw [exec_ret hp, State.retFrom_frame (by simpa using ha) (by simpa using hn) (by simpa using hf) (by simpa using h58) (by simpa using h4),
        State.g_beginFirst, State.c_beginFirst, show s.beginFirst.cur = s.cur from rfl, ← show s1 = s.beginFirst.modC Ctx.returned from rfl]
    clear_value s1
    rw [hret]
    exact ⟨fun hw => by rw [if_pos hw], fun hw => ⟨fun s2 h2 => by rw [if_neg (by rw [hw]; decide), h2],
      fun s2 k w h2 => by rw [if_neg (by rw [hw]; decide), h2]⟩⟩
  · have hk : exec .tkdone s = .next s.beginFirst.finishTask :=
      congrArg Host.Outcome.next ((State.parkFirst_parked hp _).trans (if_pos (by rw [State.tkhome_beginFirst]; exact ht)))
    rw [hk, exec_ret hp, State.retFrom_last (by simpa using ha) (by simpa using hn) (by simpa using hres) (by simpa using hsp) (by simpa using hc),
      State.tkhome_beginFirst, if_pos ht]

end Sys2Proof.Machine
end

section
/-! O24: START, START.RES and STOPH (R83, R84, R146, R410). -/

namespace Sys2Proof.Machine
open Sys2Proof Claims

/-! ## Several registers of a window written one after another -/

/-- Registers of a context written in the order of a list. -/
def State.setRegs (s : State) (u c : Nat) (l : List (Reg × Word)) : State := l.foldl (fun acc p => acc.setReg u c p.1 p.2) s

@[simp] theorem State.setRegs_cons (s : State) (u c : Nat) (p : Reg × Word) (l : List (Reg × Word)) :
    s.setRegs u c (p :: l) = (s.setReg u c p.1 p.2).setRegs u c l := rfl

theorem State.units_setRegs (u c : Nat) (l : List (Reg × Word)) (s : State) : (s.setRegs u c l).units = s.units := by
  induction l generalizing s with
  | nil => rfl
  | cons p l ih => rw [State.setRegs_cons, ih]; rfl

theorem State.ctx_setRegs (s : State) (u c : Nat) (l : List (Reg × Word)) (v d : Nat) : (s.setRegs u c l).ctx v d = s.ctx v d :=
  State.ctx_of_units (State.units_setRegs u c l s) v d

theorem State.cur_setRegs (u c : Nat) (l : List (Reg × Word)) (s : State) : (s.setRegs u c l).cur = s.cur := by
  induction l generalizing s with
  | nil => rfl
  | cons p l ih => rw [State.setRegs_cons, ih]; rfl

theorem State.winOk.setReg {s : State} {u c : Nat} (h : s.winOk u c) (r : Reg) (w : Word) : (s.setReg u c r w).winOk u c := h

theorem State.winOk.setRegs {s : State} {u c : Nat} (h : s.winOk u c) (l : List (Reg × Word)) : (s.setRegs u c l).winOk u c := by
  rw [State.winOk, State.ctx_setRegs]
  exact h

/-- A register that a list does not name keeps its value. -/
theorem State.reg_setRegs_other {u c : Nat} {r : Reg} (l : List (Reg × Word)) {s : State} (hw : s.winOk u c) (hr : ∀ p ∈ l, r ≠ p.1) :
    (s.setRegs u c l).reg u c r = s.reg u c r := by
  induction l generalizing s with
  | nil => rfl
  | cons p l ih =>
    rw [State.setRegs_cons, ih (hw.setReg p.1 p.2) fun q hq => hr q (.tail _ hq), State.reg_setReg_other hw (hr p (.head _))]

/-- A register that a list names once holds what the list gives it. -/
theorem State.reg_setRegs_mem {u c : Nat} {p : Reg × Word} (l : List (Reg × Word)) {s : State} (hm : s.memOk) (hw : s.winOk u c)
    (hn : (l.map Prod.fst).Nodup) (hp : p ∈ l) : (s.setRegs u c l).reg u c p.1 = p.2 := by
  induction l generalizing s with
  | nil => cases hp
  | cons q l ih =>
    rw [List.map_cons, List.nodup_cons] at hn
    obtain ⟨hq, hn⟩ := hn
    rcases List.mem_cons.mp hp with rfl | hp
    · have hne : ∀ q ∈ l, p.1 ≠ q.1 := fun q hl e => hq (e ▸ List.mem_map_of_mem hl)
      rw [State.setRegs_cons, State.reg_setRegs_other l (hw.setReg p.1 p.2) hne, State.reg_setReg_same hm]
    · exact ih (.setReg hm) (hw.setReg q.1 q.2) hn hp

/-- The bytes of the registers that a list names are the only ones that change. -/
theorem State.read_setRegs {u c a : Nat} (l : List (Reg × Word)) {s : State}
    (h : ∀ p ∈ l, a < regPa u (s.ctx u c) p.1 ∨ regPa u (s.ctx u c) p.1 + 8 ≤ a) : (s.setRegs u c l).mem.read a = s.mem.read a := by
  induction l generalizing s with
  | nil => rfl
  | cons p l ih =>
    rw [State.setRegs_cons, ih (s := s.setReg u c p.1 p.2) fun q hq => h q (.tail _ hq)]
    exact Memory.read_write64_other s.mem p.2 (h p (.head _))

/-! ## The checks before the words -/

/-- A privileged word of a helper that the unit has, at S or M level. -/
theorem State.helperWord_eq {s : State} {n : BitVec 4} (hu : s.cx.priv ≠ .u) (hn : n.toNat ≤ helperCount s.kind) (act : Out) :
    s.profile (s.hasHelper n) (s.privileged act) = act := by
  rw [State.profile_of_true (show s.hasHelper n = true from decide_eq_true hn), State.privileged]
  cases h : s.cx.priv with
  | u => exact absurd h hu
  | s => rfl
  | m => rfl

/-! ## The state that begins a segment -/

section
variable (s : State)

theorem State.ctx_beginFirst_other {n : Nat} (h : n ≠ s.c) : s.beginFirst.ctx s.cur n = s.ctx s.cur n :=
  State.ctx_modC_other s _ fun e => h e.2

theorem State.cb_modC (f : Ctx → Ctx) : ((s.modC f).unit s.cur).cb = (s.unit s.cur).cb := by
  rw [State.modC, State.modCtx, State.unit_setCtx_same]

theorem State.cbOf_beginFirst (n : Nat) : s.beginFirst.cbOf s.cur n = s.cbOf s.cur n := by
  rw [State.cbOf, State.beginFirst, State.cb_modC]
  rfl

theorem State.allPerformed_beginFirst : s.beginFirst.allPerformed s.cur s.c = s.allPerformed s.cur s.c := by
  have hx : s.beginFirst.ctx s.cur s.c = _ := State.ctx_modCtx_same s s.cur s.c _
  have hv : (s.beginFirst.unit s.cur).vq = (s.unit s.cur).vq := by
    rw [State.beginFirst, State.modC, State.modCtx, State.unit_setCtx_same]
  rw [State.allPerformed, State.quiet, State.vectorBefore, hx, hv]
  rfl

end

/-! ## START (R83) -/

/-- The context of the helper that START begins. -/
def State.startCtx (s : State) (n : Nat) (pc : Word) : Ctx :=
  let x := s.loadCtx s.cur (s.cbOf s.cur n) { s.ctx s.cur n with npend := false }
  { x with
    faults := (s.blockCtx s.cur (s.cbOf s.cur n) x).faults, nwin := x.nhwp, resuming := false, pc := pc
    wp := x.frb + BitVec.ofNat 64 ((x.cap.toNat - 1) * 192), res := 1#8, spilled := 0#32, priv := .u, lmoor := 0#64, nhpc := 0#64
    replay := { x.replay with rv := false }, arb := 0#8, chk := false, pe := false, sel := 0#24, late := [], homeFaults := [], lid := s.cx.lid }

/-- The registers that START passes to the helper, and their values: g21 to g23 and the issuer's g0 to g7 (R83). -/
def State.startRegs (s : State) (task msp : Word) : List (Reg × Word) :=
  [(21#5, 0#64), (22#5, task), (23#5, msp), (24#5, s.g 0#5), (25#5, s.g 1#5), (26#5, s.g 2#5), (27#5, s.g 3#5), (28#5, s.g 4#5),
    (29#5, s.g 5#5), (30#5, s.g 6#5), (31#5, s.g 7#5)]

/-- The state with the helper started, before the issuer passes the word. -/
def State.started (s : State) (n : Nat) (pc task : Word) : State :=
  (s.setCtx s.cur n (s.startCtx n pc)).setRegs s.cur n (s.startRegs task (s.startCtx n pc).msp)

theorem State.startHelper_eq (s : State) (n : Nat) (pc task : Word) :
    s.startHelper n pc task [s.g 0#5, s.g 1#5, s.g 2#5, s.g 3#5, s.g 4#5, s.g 5#5, s.g 6#5, s.g 7#5] = s.started n pc task := rfl

theorem State.ctx_started (s : State) {n : Nat} (pc task : Word) : (s.started n pc task).ctx s.cur n = s.startCtx n pc := by
  rw [State.started, State.ctx_setRegs, State.ctx_setCtx_same]

theorem State.ctx_started_other (s : State) {n k : Nat} (h : k ≠ n) (pc task : Word) : (s.started n pc task).ctx s.cur k = s.ctx s.cur k := by
  rw [State.started, State.ctx_setRegs, State.ctx_setCtx_other _ fun e => h e.2]

theorem State.unit_started_other (s : State) {n v : Nat} (h : v ≠ s.cur) (pc task : Word) : (s.started n pc task).unit v = s.unit v := by
  rw [State.started, State.unit, State.units_setRegs]
  exact State.unit_setCtx_other s h _ _

theorem State.cur_started (s : State) (n : Nat) (pc task : Word) : (s.started n pc task).cur = s.cur := State.cur_setRegs _ _ _ _

theorem State.c_started (s : State) (n : Nat) (pc task : Word) : (s.started n pc task).c = s.c := by
  rw [State.c, State.cur_started, State.started, State.unit, State.units_setRegs]
  exact State.c_setCtx s _ _ _

/-- The issuer stands as it was. -/
theorem State.cx_started (s : State) {n : Nat} (h : n ≠ s.c) (pc task : Word) : (s.started n pc task).cx = s.cx := by
  rw [State.cx, State.cur_started, State.c_started, State.ctx_started_other s (Ne.symm h), State.cx]

/-- The registers of the helper, its window being in place. -/
theorem State.reg_started {s : State} {n : Nat} {pc task : Word} (hm : s.memOk) (hw : (s.started n pc task).winOk s.cur n) {p : Reg × Word}
    (hp : p ∈ s.startRegs task (s.startCtx n pc).msp) : (s.started n pc task).reg s.cur n p.1 = p.2 := by
  have hw' : (s.setCtx s.cur n (s.startCtx n pc)).winOk s.cur n := by
    rw [State.winOk, State.ctx_started] at hw
    rw [State.winOk, State.ctx_setCtx_same]
    exact hw
  exact State.reg_setRegs_mem _ (.setCtx hm) hw' (by simp [State.startRegs]) hp

/-- START writes no byte but those of the helper's g21 to g31. -/
theorem State.read_started {s : State} {n a : Nat} {pc task : Word}
    (h : ∀ k, 21 ≤ k → k < 32 → a < regPa s.cur (s.startCtx n pc) (BitVec.ofNat 5 k) ∨ regPa s.cur (s.startCtx n pc) (BitVec.ofNat 5 k) + 8 ≤ a) :
    (s.started n pc task).mem.read a = s.mem.read a := by
  rw [State.started, State.read_setRegs _ fun p hp => ?_]
  · rfl
  · rw [State.ctx_setCtx_same]
    have h21 : ∀ r ∈ (s.startRegs task (s.startCtx n pc).msp).map Prod.fst, 21 ≤ r.toNat := by simp [State.startRegs]
    have := h p.1.toNat (h21 _ (List.mem_map_of_mem hp)) p.1.isLt
    rwa [BitVec.ofNat_toNat, BitVec.setWidth_eq] at this

/-- What a word that began a segment leaves of the issuer where it does nothing to it but pass. -/
theorem cx_advance_of_beginFirst {s t : State} (h : t.cx = s.beginFirst.cx) : t.advance.cx = afterFirst s := by
  rw [State.advance, State.setPc, State.cx_modC, State.pc, h, State.cx_beginFirst]
  rfl

/-- START of a target that its check refuses. -/
theorem exec_start_refused {n : BitVec 4} {d a : Reg} {s : State} {e : Cause} (hp : s.cx.parked = true) (hu : s.cx.priv ≠ .u)
    (hn : n.toNat ≤ helperCount s.kind) (ht : checkTarget (s.g a) = some e) :
    exec (.start n d a) s = .next (s.beginFirst.trapAt e (s.g a)) := by
  change execStart n d a s = _
  rw [execStart, State.helperWord_eq hu hn, State.parkFirst_parked hp]
  simp only [State.g_beginFirst, ht]

/-- START of a target that its check accepts: the check of the helper, the wait, and the helper started. -/
theorem exec_start {n : BitVec 4} {d a : Reg} {s : State} (hp : s.cx.parked = true) (hu : s.cx.priv ≠ .u) (hn : n.toNat ≤ helperCount s.kind)
    (hc : n.toNat ≠ s.c) (ht : checkTarget (s.g a) = none) : exec (.start n d a) s = .next (
      if (s.ctx s.cur n.toNat).live then s.beginFirst.trapAt .access (n.setWidth 64)
      else if ! s.allPerformed s.cur s.c then s.beginFirst.waitFirst
      else (s.beginFirst.started n.toNat (s.g a) (s.g d)).advance) := by
  change execStart n d a s = _
  have hx : s.beginFirst.ctx s.beginFirst.cur n.toNat = s.ctx s.cur n.toNat := s.ctx_beginFirst_other hc
  have hall : s.beginFirst.allPerformed s.beginFirst.cur s.c = s.allPerformed s.cur s.c := s.allPerformed_beginFirst
  rw [execStart, State.helperWord_eq hu hn, State.parkFirst_parked hp]
  simp only [← State.startHelper_eq, hx, State.c_beginFirst, hall, State.g_beginFirst, ht]

/-! ### The issuer passes the word -/

theorem State.ctx_advance_other (s : State) {v d : Nat} (h : ¬ (v = s.cur ∧ d = s.c)) : s.advance.ctx v d = s.ctx v d :=
  State.ctx_modC_other s _ h

theorem State.unit_advance_other (s : State) {v : Nat} (h : v ≠ s.cur) : s.advance.unit v = s.unit v := State.unit_setCtx_other s h _ _

theorem State.reg_advance (s : State) (v d : Nat) (r : Reg) : s.advance.reg v d r = s.reg v d r := State.reg_setPc s _ v d r

/-- A started helper as it is seen from outside (R83). -/
theorem State.started_spec {s : State} {n : Nat} {pc task : Word} (hc : n ≠ s.c) (hm : s.memOk) {t : State} (ht : t = (s.started n pc task).advance) :
    t.ctx s.cur n = s.startCtx n pc
      ∧ (t.winOk s.cur n → t.reg s.cur n 21#5 = 0#64 ∧ t.reg s.cur n 22#5 = task ∧ t.reg s.cur n 23#5 = (t.ctx s.cur n).msp
          ∧ ∀ k, k < 8 → t.reg s.cur n (BitVec.ofNat 5 (24 + k)) = s.g (BitVec.ofNat 5 k))
      ∧ (∀ p, (∀ k, 21 ≤ k → k < 32 → p < regPa s.cur (t.ctx s.cur n) (BitVec.ofNat 5 k)
            ∨ regPa s.cur (t.ctx s.cur n) (BitVec.ofNat 5 k) + 8 ≤ p) → t.mem.read p = s.mem.read p)
      ∧ (∀ k, k ≠ n → k ≠ s.c → t.ctx s.cur k = s.ctx s.cur k) ∧ ∀ v, v ≠ s.cur → t.unit v = s.unit v := by
  have hoth : ∀ k, k ≠ s.c → t.ctx s.cur k = (s.started n pc task).ctx s.cur k := fun k hk => by
    rw [ht, State.ctx_advance_other]
    rw [State.c_started]
    exact fun e => hk e.2
  have hctx : t.ctx s.cur n = s.startCtx n pc := by rw [hoth n hc, State.ctx_started]
  refine ⟨hctx, fun hw => ?_, fun p hp => ?_, fun k hk hkc => ?_, fun v hv => ?_⟩
  · have hw : (s.started n pc task).winOk s.cur n := by
      rw [State.winOk, hoth n hc] at hw
      rw [State.winOk]
      exact hw
    have hr : ∀ p ∈ s.startRegs task (s.startCtx n pc).msp, t.reg s.cur n p.1 = p.2 := fun p hp => by
      rw [ht, State.reg_advance, State.reg_started hm hw hp]
    simp only [State.startRegs, List.forall_mem_cons] at hr
    obtain ⟨h21, h22, h23, h24, h25, h26, h27, h28, h29, h30, h31, -⟩ := hr
    refine ⟨h21, h22, by rw [h23, hctx], fun k hk => ?_⟩
    interval_cases k
    exacts [h24, h25, h26, h27, h28, h29, h30, h31]
  · rw [hctx] at hp
    rw [ht, State.advance_mem, State.read_started hp]
  · rw [hoth k hkc, State.ctx_started_other s hk]
  · rw [ht, State.unit_advance_other _ (by rw [State.cur_started]; exact hv), State.unit_started_other s hv]

/-! ## START.RES (R83, R410) -/

/-- START.RES with its park made: the helper's check, the wait, the check of its block, and the block taken. -/
theorem exec_startRes {n : BitVec 4} {s : State} (hp : s.cx.parked = true) (hu : s.cx.priv ≠ .u) (hn : n.toNat ≤ helperCount s.kind)
    (hc : n.toNat ≠ s.c) : exec (.startRes n) s = .next (
      let cb := s.cbOf s.cur n.toNat
      if (s.ctx s.cur n.toNat).live then s.beginFirst.trapAt .access (n.setWidth 64)
      else if ! s.allPerformed s.cur s.c then s.beginFirst.waitFirst
      else if ! s.sealOk s.cur cb then ((s.beginFirst.markDefunct s.cur cb).endLaunchBut (some s.cur) s.cx.lid 2 0x0F 0#64).trapAt .restoreBad
        (n.setWidth 64)
      else (s.beginFirst.setCtx s.cur n.toNat { s.loadCtx s.cur cb (s.ctx s.cur n.toNat) with lid := s.cx.lid }).advance) := by
  change execStartRes n s = _
  have hx : s.beginFirst.ctx s.cur n.toNat = s.ctx s.cur n.toNat := s.ctx_beginFirst_other hc
  have hlid : s.beginFirst.cx.lid = s.cx.lid := by rw [State.cx_beginFirst]
  rw [execStartRes, State.helperWord_eq hu hn, State.parkFirst_parked hp]
  simp only [show s.beginFirst.cur = s.cur from rfl, hx, State.c_beginFirst, s.allPerformed_beginFirst, s.cbOf_beginFirst, hlid]
  rfl

/-! ## STOPH (R84) -/

section
variable (s : State) (u c : Nat)

/-- A halted replay leaves the unit but for its replays and the replay record of the context. -/
theorem State.unit_haltReplay : ∃ rs xs, (s.haltReplay u c).unit u = { s.unit u with replay := rs, ctxs := xs } := by
  rw [State.haltReplay]
  split
  · exact ⟨_, _, rfl⟩
  · rw [State.modCtx, State.unit_setCtx_same, State.dropReplay, State.unit_modUnit_same]
    exact ⟨_, _, rfl⟩

theorem State.unit_haltReplay_other {v : Nat} (h : v ≠ u) : (s.haltReplay u c).unit v = s.unit v := by
  rw [State.haltReplay]
  split
  · rfl
  · rw [State.modCtx, State.unit_setCtx_other _ h, State.dropReplay, State.unit_modUnit_other _ h]

theorem State.ctx_haltReplay : ∃ r, (s.haltReplay u c).ctx u c = { s.ctx u c with replay := r } := by
  rw [State.haltReplay]
  split
  · exact ⟨_, rfl⟩
  · rw [State.ctx_modCtx_same, State.dropReplay, State.ctx_modUnit rfl]
    exact ⟨_, rfl⟩

theorem State.ctx_haltReplay_other {v d : Nat} (h : ¬ (v = u ∧ d = c)) : (s.haltReplay u c).ctx v d = s.ctx v d := by
  rw [State.haltReplay]
  split
  · rfl
  · rw [State.ctx_modCtx_other _ h, State.dropReplay, State.ctx_modUnit rfl]

theorem State.flight_haltReplay : (s.haltReplay u c).flight = s.flight := by
  rw [State.haltReplay]
  split <;> rfl

theorem State.slices_haltReplay : (s.haltReplay u c).slices = s.slices := by
  rw [State.haltReplay]
  split <;> rfl

theorem State.cur_haltReplay : (s.haltReplay u c).cur = s.cur := by
  rw [State.haltReplay]
  split <;> rfl

theorem State.c_haltReplay : (s.haltReplay u c).c = s.c := by
  rw [State.c, State.cur_haltReplay]
  by_cases h : s.cur = u
  · obtain ⟨rs, xs, hu⟩ := s.unit_haltReplay u c
    rw [h, hu, State.c, h]
  · rw [State.unit_haltReplay_other s u c h]
    rfl

theorem State.copQueued_haltReplay (d : Nat) : (s.haltReplay u c).copQueued u d = s.copQueued u d := by
  obtain ⟨rs, xs, hu⟩ := s.unit_haltReplay u c
  rw [State.copQueued, State.copQueued, State.arrayBusy, State.arrayBusy, State.slice, State.slice, hu, State.slices_haltReplay]

/-- Once a replay is halted there is none to halt. -/
theorem State.haltReplay_haltReplay : (s.haltReplay u c).haltReplay u c = s.haltReplay u c := by
  have hn : (s.haltReplay u c).replayOf u c = none := by
    rw [State.haltReplay]
    split
    · assumption
    · rw [State.replayOf, State.modCtx, State.unit_setCtx_same, State.dropReplay, State.unit_modUnit_same]
      simp
  rw [State.haltReplay, hn]

theorem State.ctx_land_other {v d : Nat} (h : ¬ (v = u ∧ d = c)) : (s.land u c).ctx v d = s.ctx v d := by
  rw [State.land_eq, State.ctx_modCtx_other _ h, State.ctx_of_units (State.landAll_units u c _ s)]

theorem State.cur_landAll (ds : List Deferred) : (s.landAll u c ds).cur = s.cur := by
  induction ds generalizing s with
  | nil => rfl
  | cons e ds ih =>
    rw [State.landAll_cons, ih, State.landOne]
    split <;> rfl

theorem State.cur_land : (s.land u c).cur = s.cur := State.cur_landAll s u c _

theorem State.c_land : (s.land u c).c = s.c := by
  rw [State.land_eq, State.c_modCtx, State.c, State.c, State.cur_landAll, State.unit, State.unit, State.landAll_units]

/-- Saving a context writes memory before the context is retired. -/
theorem State.saveCtx_eq (deflt : Bool) : ∃ t : State, t.units = s.units ∧ t.cur = s.cur
    ∧ s.saveCtx u c deflt = t.setCtx u c (s.ctx u c).recordLate.retired := by
  refine ⟨_, ?_, ?_, rfl⟩
  · rw [State.writeSeal, State.setLocal_units, State.setLocal_units]
  · rw [State.writeSeal, State.setLocal_cur, State.setLocal_cur]

theorem State.ctx_saveCtx_other {v d : Nat} (h : ¬ (v = u ∧ d = c)) (deflt : Bool) : (s.saveCtx u c deflt).ctx v d = s.ctx v d := by
  obtain ⟨t, hu, -, ht⟩ := s.saveCtx_eq u c deflt
  rw [ht, State.ctx_setCtx_other _ h, State.ctx_of_units hu]

theorem State.cur_saveCtx (deflt : Bool) : (s.saveCtx u c deflt).cur = s.cur := by
  obtain ⟨t, -, hc, ht⟩ := s.saveCtx_eq u c deflt
  rw [ht, State.setCtx_cur, hc]

theorem State.c_saveCtx (deflt : Bool) : (s.saveCtx u c deflt).c = s.c := by
  obtain ⟨t, hu, hc, ht⟩ := s.saveCtx_eq u c deflt
  rw [ht, State.c_setCtx, State.c, State.c, State.unit, State.unit, hu, hc]

theorem State.live_saveCtx (deflt : Bool) : ((s.saveCtx u c deflt).ctx u c).live = false := by
  rw [State.ctx_saveCtx]
  rfl

end

/-- A helper with nothing in flight, outstanding or refused stops at once (R84). -/
theorem State.toStop_of_nothing {s : State} {u k : Nat} (hf : s.flight = []) (hd : (s.ctx u k).defs = []) (hb : (s.ctx u k).blocked = []) :
    s.toStop u k = s.haltReplay u k ∧ ∀ deflt, (s.haltReplay u k).stopHelper u k deflt = ((s.haltReplay u k).land u k).saveCtx u k deflt := by
  obtain ⟨r, hx⟩ := s.ctx_haltReplay u k
  have hf' : (s.haltReplay u k).flight = [] := (s.flight_haltReplay u k).trans hf
  have hd' : ((s.haltReplay u k).ctx u k).defs = [] := by rw [hx]; exact hd
  have hb' : ((s.haltReplay u k).ctx u k).blocked = [] := by rw [hx]; exact hb
  refine ⟨?_, fun deflt => ?_⟩
  · rw [State.toStop, State.bring_of_nil hf' hd', State.cancelPops_of_nil hd', State.cancelBlocked_of_nil hb', State.bring_of_nil hf' hd']
  · rw [State.stopHelper, State.cancelPops_of_nil hd', State.cancelBlocked_of_nil hb', State.haltReplay_haltReplay]

/-- The issuer is untouched by the stop of another context of its unit. -/
theorem State.cx_stopped {s : State} {k : Nat} (hk : k ≠ s.c) :
    (((s.haltReplay s.cur k).land s.cur k).saveCtx s.cur k false).cx = s.cx := by
  have hne : ¬ (s.cur = s.cur ∧ s.c = k) := fun e => hk e.2.symm
  rw [State.cx, State.cur_saveCtx, State.c_saveCtx, State.cur_land, State.c_land, State.cur_haltReplay, State.c_haltReplay,
    State.ctx_saveCtx_other _ _ _ hne, State.ctx_land_other _ _ _ hne, State.ctx_haltReplay_other _ _ _ hne, State.cx]

/-- STOPH of another context, live and with nothing of it to wait for. -/
theorem exec_stoph_live {n : BitVec 4} {s : State} (hu : s.cx.priv ≠ .u) (hn : n.toNat ≤ helperCount s.kind)
    (hl : (s.ctx s.cur n.toNat).live = true) (hk : n.toNat ≠ s.c) (hf : s.flight = []) (hq : s.copQueued s.cur n.toNat = false)
    (hd : (s.ctx s.cur n.toNat).defs = []) (hb : (s.ctx s.cur n.toNat).blocked = []) :
    exec (.stoph n) s =
      .next ((((s.haltReplay s.cur n.toNat).land s.cur n.toNat).saveCtx s.cur n.toNat false).setPc (s.pc + 4#64)) := by
  change execStoph n s = _
  obtain ⟨hto, hstop⟩ := State.toStop_of_nothing hf hd hb
  obtain ⟨r, hx⟩ := s.ctx_haltReplay s.cur n.toNat
  have hs : (s.haltReplay s.cur n.toNat).stopping s.cur n.toNat = false := by
    rw [State.stopping, State.copQueued_haltReplay, hq, State.flight_haltReplay, hf, hx, Ctx.owed, hd]
    rfl
  rw [execStoph, State.helperWord_eq hu hn]
  simp only [hl, hk, hto, hs, hstop, Bool.not_true, Bool.false_eq_true, if_false]
  exact State.done_eq (congrArg Ctx.pc (State.cx_stopped hk))

/-- STOPH that names its issuer, its park made and nothing queued. -/
theorem exec_stoph_self {n : BitVec 4} {s : State} (hu : s.cx.priv ≠ .u) (hn : n.toNat ≤ helperCount s.kind)
    (hl : (s.ctx s.cur n.toNat).live = true) (hk : n.toNat = s.c) (hp : s.cx.parked = true) (hq : s.copQueued s.cur s.c = false) :
    exec (.stoph n) s = .next ((s.beginFirst.advance.stopHelper s.cur s.c false).rotate s.cur s.c) := by
  change execStoph n s = _
  have hb : s.beginFirst.copQueued s.cur s.c = false := (State.copQueued_modC s _).trans hq
  rw [execStoph, State.helperWord_eq hu hn]
  rw [hk] at hl
  simp only [hk, hl, State.parkFirst_parked hp, hb, Bool.not_true, Bool.false_eq_true, if_false, if_true]

/-- Settles O24: START and START.RES by their checks and the context that they begin, STOPH by the block that it writes. -/
theorem helperStartResults : Obligations.HelperStartResults := by
  unfold Obligations.HelperStartResults
  refine ⟨fun n d a s hp hu hn hc => ?_, fun n s hp hu hn hc => ?_, fun n s hu hn => ?_⟩
  · intro s1
    refine ⟨⟨fun h4 => exec_start_refused hp hu hn (by rw [checkTarget_eq, if_pos h4]), fun h4 h58 => exec_start_refused hp hu hn
      (by rw [checkTarget_eq, if_neg (not_not.mpr h4), if_pos h58])⟩, fun h4 h58 => ?_⟩
    rw [exec_start hp hu hn hc (by rw [checkTarget_eq, if_neg (not_not.mpr h4), if_neg (Nat.not_le.mpr h58)])]
    refine ⟨fun hl => by rw [if_pos hl], fun hl ha => by rw [if_neg (by rw [hl]; decide), if_pos (by rw [ha]; decide)], fun hl ha hm => ?_⟩
    have hc1 : n.toNat ≠ s.beginFirst.c := by rw [State.c_beginFirst]; exact hc
    obtain ⟨t, ht⟩ : ∃ t, t = (s.beginFirst.started n.toNat (s.g a) (s.g d)).advance := ⟨_, rfl⟩
    have hcx : t.cx = afterFirst s := by rw [ht, cx_advance_of_beginFirst (State.cx_started _ hc1 _ _)]
    obtain ⟨hx, hreg, hmem, hctx, hunit⟩ := State.started_spec hc1 hm.beginFirst ht
    rw [State.c_beginFirst] at hctx
    simp only [State.g_beginFirst] at hreg
    rw [if_neg (by rw [hl]; decide), if_neg (by rw [ha]; decide), ← ht]
    change t.ctx s.cur n.toNat = _ at hx
    refine ⟨t, rfl, hcx, by rw [hx]; rfl, by rw [hx]; rfl, by rw [hx]; rfl, by rw [hx]; rfl, by rw [hx]; rfl, by rw [hx]; rfl, by rw [hx]; rfl,
      ?_, by rw [hx]; rfl, by rw [hx]; rfl, hreg, hmem, fun k hk hkc => ?_, fun v hv => ?_⟩
    · rw [hx, State.startCtx, State.cx_beginFirst]
    · exact (hctx k hk hkc).trans (s.ctx_beginFirst_other hkc)
    · exact (hunit v hv).trans (State.unit_setCtx_other s hv _ _)
  · intro s1 cb
    rw [exec_startRes hp hu hn hc]
    simp only
    refine ⟨fun hl => by rw [if_pos hl], fun hl ha => by rw [if_neg (by rw [hl]; decide), if_pos (by rw [ha]; decide)], fun hl ha hok => ?_, fun hl ha hbad => ?_⟩
    · obtain ⟨y, hy⟩ : ∃ y : Ctx, y = { s.loadCtx s.cur cb (s.ctx s.cur n.toNat) with lid := s.cx.lid } := ⟨_, rfl⟩
      have hc1 : (s1.setCtx s.cur n.toNat y).c = s.c := by rw [State.c_setCtx, State.c_beginFirst]
      have hoth : ∀ k, k ≠ s.c → (s1.setCtx s.cur n.toNat y).advance.ctx s.cur k = (s1.setCtx s.cur n.toNat y).ctx s.cur k := fun k hk =>
        State.ctx_advance_other _ fun e => hk (e.2.trans hc1)
      refine ⟨(s1.setCtx s.cur n.toNat y).advance, ?_, cx_advance_of_beginFirst ?_, rfl, ?_, fun k hk hkc => ?_, fun v hv => ?_⟩
      · rw [if_neg (by rw [hl]; decide), if_neg (by rw [ha]; decide), if_neg (by rw [hok]; decide), hy]
      · rw [State.cx, hc1]
        exact (State.ctx_setCtx_other _ (fun e => hc e.2.symm) _).trans (congrArg (s1.ctx s.cur) s.c_beginFirst.symm)
      · rw [hoth _ hc, State.ctx_setCtx_same, hy]
      · rw [hoth k hkc, State.ctx_setCtx_other _ fun e => hk e.2]
        exact s.ctx_beginFirst_other hkc
      · exact (State.unit_advance_other (s1.setCtx s.cur n.toNat y) hv).trans
          ((State.unit_setCtx_other s1 hv _ _).trans (State.unit_setCtx_other s hv _ _))
    · rw [if_neg (by rw [hl]; decide), if_neg (by rw [ha]; decide), if_pos (by rw [hbad]; decide)]
  · refine ⟨fun hl => ?_, fun hl hk hf hq hd hb => ?_, fun hl hk hp hq => ?_⟩
    · change execStoph n s = _
      rw [execStoph, State.helperWord_eq hu hn]
      simp only [hl, Bool.not_false, if_true]
      exact State.done_eq rfl
    · have hcx := State.cx_stopped (s := s) hk
      refine ⟨_, exec_stoph_live hu hn hl hk hf hq hd hb, rfl, ?_, ?_⟩
      · have hne : ¬ (s.cur = (((s.haltReplay s.cur n.toNat).land s.cur n.toNat).saveCtx s.cur n.toNat false).cur
            ∧ n.toNat = (((s.haltReplay s.cur n.toNat).land s.cur n.toNat).saveCtx s.cur n.toNat false).c) := by
          rw [State.c_saveCtx, State.c_land, State.c_haltReplay]
          exact fun e => hk e.2
        rw [State.setPc, State.ctx_modC_other _ _ hne, State.live_saveCtx]
      · rw [State.setPc, State.cx_modC, hcx]
    · refine ⟨_, exec_stoph_self hu hn hl hk hp hq, ?_⟩
      rw [State.ctx_rotate, State.stopHelper, State.live_saveCtx]

end Sys2Proof.Machine
end

section
/-! O33: the words that wait (R67, R170, R180, R341, R400) and the park at which they pass or sleep. -/

namespace Sys2Proof.Machine
open Sys2Proof Claims

/-! ## A park that is due and finds nothing (R67) -/

/-- The issuing context is at a park that is due, of its segment or of its waiting word, and nothing keeps the park. -/
def ParkDue (s : State) : Prop :=
  NothingPending s ∧ s.cx.live = true ∧ s.cx.held = false ∧ s.ux.halted = false ∧ s.cx.parking = true ∧ s.cx.why = .segment
    ∧ s.cx.asleep = false ∧ s.cx.act = false ∧ s.cx.firmware = false ∧ s.cx.redo = none

section
variable {s : State} (h : ParkDue s)
include h

theorem ParkDue.parkReady : s.parkReady s.cur s.c = true := by
  obtain ⟨hn, -, -, -, -, hy, -⟩ := h
  have hout := hn.outstanding true
  have hcs := hn.cancelSleeps_eq
  obtain ⟨hd, hf, -, -, -, -, -, hb, -⟩ := hn
  have hb : (s.ctx s.cur s.c).blocked = [] := hb
  have hy : (s.ctx s.cur s.c).why = .segment := hy
  have hw : s.parkWaits s.cur s.c = false := by
    simp only [State.parkWaits, State.resolve_of_nil hd, State.drain_eq (.inr hf), hcs, hy, hout]
  simp only [State.parkReady, hy, hw, hb]
  simp

theorem ParkDue.ready : s.ready s.cur s.c = true := by
  have hp := h.parkReady
  obtain ⟨hn, hl, hh, hx, hk, -, hs, ha, hf, hr⟩ := h
  obtain ⟨-, -, -, -, -, -, -, -, -, -, hst, -⟩ := hn
  have hl : (s.ctx s.cur s.c).live = true := hl
  have hh : (s.ctx s.cur s.c).held = false := hh
  have hx : (s.unit s.cur).halted = false := hx
  have hk : (s.ctx s.cur s.c).parking = true := hk
  have hs : (s.ctx s.cur s.c).asleep = false := hs
  have ha : (s.ctx s.cur s.c).act = false := ha
  have hf : (s.ctx s.cur s.c).firmware = false := hf
  have hr : (s.ctx s.cur s.c).redo = none := hr
  have hst : (s.ctx s.cur s.c).stuck = false := hst
  simp [State.ready, State.runtimeReady, State.redoWaits, hl, hh, hx, hk, hs, ha, hf, hr, hst, hp]

theorem ParkDue.parkable : s.parkable s.cur s.c = true := by
  have hr := h.ready
  obtain ⟨-, -, -, -, hk, -⟩ := h
  have hk : (s.ctx s.cur s.c).parking = true := hk
  have hc : (s.unit s.cur).cur = s.c := rfl
  simp [State.parkable, hr, hk, hc]

/-- A park that is due and finds nothing lands what is there, does what it is for, and rotation follows. -/
theorem ParkDue.parkNow_eq : s.parkNow s.cur s.c = ((s.land s.cur s.c).parkClear s.cur s.c).rotate s.cur s.c := by
  obtain ⟨hn, -, -, -, -, hy, hs, -⟩ := h
  have hy : (s.ctx s.cur s.c).why = .segment := hy
  have hs : (s.ctx s.cur s.c).asleep = false := hs
  simp only [State.parkNow, hs, hy, State.parkSettled, hn.settle_eq, Bool.false_eq_true, if_false]

theorem ParkDue.exec_park : exec (.park s.cur s.c) s = .next (((s.land s.cur s.c).parkClear s.cur s.c).rotate s.cur s.c) := by
  change execPark s.cur s.c s = _
  rw [execPark, h.parkable, if_pos rfl, h.parkNow_eq]

end

/-! ## What the park does for a waiting word -/

/-- The state at the park of a context with nothing pending, its results landed. -/
def State.landed (s : State) : State := s.modC fun x => { x with defs := [], awaiting := false }

section
variable (s : State)

theorem State.ctx_landed : s.landed.ctx s.cur s.c = { s.cx with defs := [], awaiting := false } := State.ctx_modCtx_same s s.cur s.c _

/-- The unit at the park, its contexts aside. -/
theorem State.unit_landed : ∃ xs, s.landed.unit s.cur = { s.ux with ctxs := xs } := ⟨_, State.unit_setCtx_same s s.cur s.c _⟩

theorem State.counter_landed (k : Nat) : s.landed.counter s.cur k = s.counter s.cur k := by
  obtain ⟨xs, hu⟩ := s.unit_landed
  rw [State.counter, hu]
  rfl

theorem State.ringBlock_landed (k : Nat) : s.landed.ringBlock s.cur k = s.ringBlock s.cur k := by
  obtain ⟨xs, hu⟩ := s.unit_landed
  rw [State.ringBlock, hu]
  rfl

theorem State.workFor_landed (lid : Nat) : s.landed.workFor s.cur lid = s.workFor s.cur lid := rfl

end

/-- An acquire changes no context. -/
theorem State.ctx_acquire (s : State) (u v d : Nat) : (s.acquire u).ctx v d = s.ctx v d := by
  rw [State.acquire]
  split
  · exact State.ctx_modUnit rfl v d
  · rfl

theorem State.mem_acquire (s : State) (u : Nat) : (s.acquire u).mem = s.mem := by
  rw [State.acquire]
  split <;> rfl

theorem State.reg_acquire (s : State) (u v d : Nat) (r : Reg) : (s.acquire u).reg v d r = s.reg v d r := by
  rw [State.reg, State.mem_acquire, State.ctx_acquire, State.reg]

/-- What an acquire leaves of its unit: all but the read cache. -/
theorem State.unit_acquire (s : State) (u : Nat) : ∃ k, (s.acquire u).unit u = { s.unit u with cache := k } := by
  rw [State.acquire]
  split
  · exact ⟨_, State.unit_modUnit_same s u _⟩
  · exact ⟨_, rfl⟩

/-! ### The waiting word passes, or sleeps -/

theorem State.reg_rotate (s : State) (u c v d : Nat) (r : Reg) : (s.rotate u c).reg v d r = s.reg v d r := by
  rw [State.reg, State.mem_rotate, State.ctx_rotate, State.reg]

/-- A context that has passed its waiting word. -/
def Ctx.passed (x : Ctx) : Ctx :=
  { x with
    pc := x.pc + 4#64, wait := none, asleep := false, woken := false, latch := none, seg := 0, parking := x.stopDue, why := .segment
    parked := false, holding := false }

theorem Ctx.regOff_passed (x : Ctx) (n : Nat) : x.passed.regOff n = x.regOff n :=
  Ctx.regOff_congr rfl rfl rfl (Ctx.linear_congr rfl rfl rfl rfl rfl rfl rfl) n

/-- A waiting word passes where no STOP waits for the control context. -/
theorem State.passWait_eq {s : State} {u c : Nat} (h : (s.unit u).stopPend = []) : s.passWait u c = s.modCtx u c Ctx.passed := by
  have hu : ∀ f : Ctx → Ctx, ((s.modCtx u c f).unit u).stopPend = [] := fun f => by
    rw [State.modCtx, State.unit_setCtx_same]
    exact h
  change (s.modCtx u c Ctx.passed).stopAfter u c = _
  rw [State.stopAfter, if_neg]
  rintro ⟨-, hs, -⟩
  exact hs (hu Ctx.passed)

theorem State.reg_passWait {s : State} {u c : Nat} (h : (s.unit u).stopPend = []) (r : Reg) : (s.passWait u c).reg u c r = s.reg u c r := by
  rw [State.passWait_eq h, State.modCtx, State.reg_setCtx (Ctx.regOff_passed _)]

theorem State.unit_passWait {s : State} {u : Nat} (c : Nat) (h : (s.unit u).stopPend = []) :
    ∃ xs, (s.passWait u c).unit u = { s.unit u with ctxs := xs } := by
  rw [State.passWait_eq h]
  exact ⟨_, State.unit_setCtx_same _ _ _ _⟩

end Sys2Proof.Machine

namespace Sys2Proof.Claims
open Sys2Proof Machine

section
variable {s : State} {w : Wait} (h : AtWait s w)
include h

theorem AtWait.parkDue : ParkDue s := by
  obtain ⟨hn, hl, hh, hx, hk, hy, hs, -, ha, hf, hr, -⟩ := h
  exact ⟨hn, hl, hh, hx, hk, hy, hs, ha, hf, hr⟩

theorem AtWait.landed : s.land s.cur s.c = s.landed := h.1.land_eq

theorem AtWait.wait_landed : (s.landed.ctx s.cur s.c).wait = some w ∧ (s.landed.ctx s.cur s.c).blocked = [] := by
  obtain ⟨hn, -, -, -, -, -, -, hw, -⟩ := h
  obtain ⟨-, -, -, -, -, -, -, hb, -⟩ := hn
  rw [State.ctx_landed]
  exact ⟨hw, hb⟩

theorem AtWait.exec_passes {s2 : State} (hd : s.landed.waitDone s.cur s.c w = some s2) :
    exec (.park s.cur s.c) s = .next ((s2.passWait s.cur s.c).rotate s.cur s.c) := by
  obtain ⟨hw, hb⟩ := h.wait_landed
  rw [h.parkDue.exec_park, h.landed]
  simp [State.parkClear, hb, hw, hd]

theorem AtWait.exec_sleeps (hd : s.landed.waitDone s.cur s.c w = none) :
    exec (.park s.cur s.c) s = .next ((s.landed.modCtx s.cur s.c fun y => { y with asleep := true }).rotate s.cur s.c) := by
  obtain ⟨hw, hb⟩ := h.wait_landed
  rw [h.parkDue.exec_park, h.landed]
  simp [State.parkClear, hb, hw, hd]

/-- A waiting word that is done passes, with what its wait has written in its registers. -/
theorem AtWait.passes {s2 : State} (hd : s.landed.waitDone s.cur s.c w = some s2) (hx : s2.ctx s.cur s.c = s.landed.ctx s.cur s.c)
    (hp : (s2.unit s.cur).stopPend = s.ux.stopPend) :
    ∃ t, exec (.park s.cur s.c) s = .next t ∧ Passed s t ∧ (∀ r, t.reg s.cur s.c r = s2.reg s.cur s.c r)
      ∧ (t.unit s.cur).lapDone = (s2.unit s.cur).lapDone := by
  obtain ⟨⟨-, -, -, -, -, -, -, -, hsd, -, -, -, -, hsp⟩, -⟩ := id h
  have hp : (s2.unit s.cur).stopPend = [] := hp.trans hsp
  obtain ⟨xs, hu⟩ := State.unit_passWait s.c hp
  have ht : ((s2.passWait s.cur s.c).rotate s.cur s.c).ctx s.cur s.c = { s.cx with
      defs := [], awaiting := false, pc := s.pc + 4#64, wait := none, asleep := false, woken := false, latch := none, seg := 0
      parking := s.cx.stopDue, why := .segment, parked := false, holding := false } := by
    rw [State.ctx_rotate, State.passWait_eq hp, State.ctx_modCtx_same, hx, State.ctx_landed]
    rfl
  refine ⟨_, h.exec_passes hd, ?_, fun r => by rw [State.reg_rotate, State.reg_passWait hp], by rw [State.unit_rotate_same, hu]⟩
  rw [Passed, ht]
  exact ⟨rfl, rfl, rfl, hsd, rfl⟩

/-- A waiting word that is not done stays at its word, asleep. -/
theorem AtWait.sleeps (hd : s.landed.waitDone s.cur s.c w = none) :
    ∃ t, exec (.park s.cur s.c) s = .next t ∧ (t.ctx s.cur s.c).asleep = true ∧ (t.ctx s.cur s.c).pc = s.pc := by
  refine ⟨_, h.exec_sleeps hd, ?_⟩
  rw [State.ctx_rotate, State.ctx_modCtx_same, State.ctx_landed]
  exact ⟨rfl, rfl⟩

end

/-- A waiting context that is not woken stands awake at its park. -/
theorem AtWait.asleep_landed {s : State} {w : Wait} (h : AtWait s w) :
    (s.landed.ctx s.cur s.c).asleep = false ∧ (s.landed.ctx s.cur s.c).woken = s.cx.woken ∧ (s.landed.ctx s.cur s.c).lid = s.cx.lid
      ∧ (s.landed.ctx s.cur s.c).npend = false := by
  obtain ⟨⟨-, -, -, -, -, -, -, -, -, hn, -⟩, -, -, -, -, -, hs, -⟩ := h
  rw [State.ctx_landed]
  exact ⟨hs, rfl, rfl, hn⟩

theorem unit_landed_stopPend (s : State) : (s.landed.unit s.cur).stopPend = s.ux.stopPend := by
  obtain ⟨xs, hu⟩ := s.unit_landed
  rw [hu]

section
variable {s : State} {w : Wait} (h : AtWait s w)
include h

/-- A waiting word that is done with an acquire passes. -/
theorem AtWait.passes_acquire (hd : s.landed.waitDone s.cur s.c w = some (s.landed.acquire s.cur)) :
    ∃ t, exec (.park s.cur s.c) s = .next t ∧ Passed s t := by
  obtain ⟨k, hk⟩ := s.landed.unit_acquire s.cur
  obtain ⟨t, he, hp, -⟩ := h.passes hd (State.ctx_acquire _ _ _ _) (by rw [hk]; exact unit_landed_stopPend s)
  exact ⟨t, he, hp⟩

/-- A waiting word that is done with a register written, and acquires, passes with it. -/
theorem AtWait.passes_setReg {s1 : State} {d : Reg} {v : Word} (hd : s.landed.waitDone s.cur s.c w = some ((s1.setReg s.cur s.c d v).acquire s.cur))
    (hx : s1.ctx s.cur s.c = s.landed.ctx s.cur s.c) (hp : (s1.unit s.cur).stopPend = s.ux.stopPend) (hm : s1.mem = s.mem) :
    ∃ t, exec (.park s.cur s.c) s = .next t ∧ Passed s t ∧ t.reg s.cur s.c d = v ∧ (t.unit s.cur).lapDone = (s1.unit s.cur).lapDone := by
  obtain ⟨-, -, -, -, -, -, -, -, -, -, -, hok⟩ := id h
  obtain ⟨k, hk⟩ := (s1.setReg s.cur s.c d v).unit_acquire s.cur
  obtain ⟨t, he, hpass, hr, hl⟩ := h.passes hd (by rw [State.ctx_acquire, State.ctx_setReg, hx]) (by rw [hk]; exact hp)
  have hm1 : s1.memOk := by
    rw [State.memOk, hm]
    exact hok.1
  refine ⟨t, he, hpass, by rw [hr, State.reg_acquire, State.reg_setReg_same hm1], ?_⟩
  rw [hl, hk]
  rfl

end

/-! ## What each wait comes to at its park -/

theorem waitDone_waitc {s : State} {k v : Word} (h : AtWait s (.waitc k v)) (hw : s.cx.woken = false) :
    s.landed.waitDone s.cur s.c (.waitc k v) =
      if reaches (s.counter s.cur (k.toNat % 256)) v then some (s.landed.acquire s.cur) else none := by
  obtain ⟨hs, hk, -⟩ := h.asleep_landed
  simp only [State.waitDone, hs, hk, hw, State.counter_landed, Bool.not_false, Bool.true_and, Bool.false_or]

theorem waitDone_recv {s : State} {d : Reg} {last ring : Word} (h : AtWait s (.recv d last ring)) :
    s.landed.waitDone s.cur s.c (.recv d last ring) =
      if s.loc64 s.cur (s.ringBlock s.cur (ring.toNat % 16) + 16) = last then none
      else some ((s.landed.setReg s.cur s.c d (s.loc64 s.cur (s.ringBlock s.cur (ring.toNat % 16) + 16))).acquire s.cur) := by
  obtain ⟨hs, -⟩ := h.asleep_landed
  simp only [State.waitDone, hs, State.ringBlock_landed, Bool.false_eq_true, if_false]
  rfl

theorem lapDone_landed (s : State) : (s.landed.unit s.cur).lapDone = s.ux.lapDone := by
  obtain ⟨xs, hu⟩ := s.unit_landed
  rw [hu]

theorem waitDone_lapw_closed {s : State} {d : Reg} {st : Word} (hl : s.ux.lapDone = some st) :
    s.landed.waitDone s.cur s.c (.lapw d) =
      some (((s.landed.modUnit s.cur fun y => { y with lapDone := none }).setReg s.cur s.c d st).acquire s.cur) := by
  simp only [State.waitDone, lapDone_landed, hl]

theorem waitDone_lapw_open {s : State} {d : Reg} (h : AtWait s (.lapw d)) (hl : s.ux.lapDone = none) (hw : s.cx.woken = false) :
    s.landed.waitDone s.cur s.c (.lapw d) =
      if s.workFor s.cur s.cx.lid then some (s.landed.setReg s.cur s.c d (1#64 <<< 62)) else none := by
  obtain ⟨-, hk, hlid, -⟩ := h.asleep_landed
  simp only [State.waitDone, lapDone_landed, hl, hk, hlid, hw, State.workFor_landed, Bool.false_or]

theorem waitDone_haltc {s : State} (h : AtWait s .haltc) (hc : s.c = 0) :
    s.landed.waitDone s.cur s.c .haltc =
      if s.ux.hend ≠ 0#11 ∨ s.ux.deposit = true then some (s.landed.modUnit s.cur fun z => { z with deposit := false }) else none := by
  obtain ⟨-, -, -, hn⟩ := h.asleep_landed
  obtain ⟨⟨-, -, -, -, -, -, hl, -, -, -, -, hq, ha, hp⟩, -⟩ := h
  obtain ⟨xs, hu⟩ := s.unit_landed
  have hx : s.landed.ctx s.cur 0 = { s.cx with defs := [], awaiting := false } := by rw [← hc, State.ctx_landed]
  have ht : s.landed.trapPending s.cur = false := by
    rw [State.trapPending, hu, hx]
    simp only [hp, hq, ha, hl]
    rfl
  simp only [State.waitDone, hn, ht, hu, Bool.or_false, Bool.or_eq_true, decide_eq_true_eq]

/-! ## The words that wait (R67) -/

end Sys2Proof.Claims

namespace Sys2Proof.Machine
open Sys2Proof Claims

theorem exec_waitc (a b : Reg) (s : State) : exec (.waitc a b) s = s.farOnly (s.waitOn (.waitc (s.g a) (s.g b))) := rfl

theorem exec_recv (d a b : Reg) (s : State) : exec (.recv d a b) s = s.farOnly (s.waitOn (.recv d (s.g a) (s.g b))) := rfl

theorem State.farOnly_of_far {s : State} (h : s.kind = .far) (act : Out) : s.farOnly act = act :=
  State.profile_of_true (by rw [h]; rfl)

theorem State.privileged_of_ne {s : State} (h : s.cx.priv ≠ .u) (act : Out) : s.privileged act = act := by
  rw [State.privileged]
  cases hp : s.cx.priv with
  | u => exact absurd hp h
  | s => rfl
  | m => rfl

theorem exec_haltc {s : State} (h : s.cx.priv ≠ .u) : exec .haltc s = if s.c = 0 then s.waitOn .haltc else s.trap .access 0#64 :=
  State.privileged_of_ne h _

/-- LAPW waits for a voter, and for a control context whose ended launch has answered it (R341). -/
theorem lapw_waits_iff (s : State) : (s.votes || (s.c == 0 && s.ux.lapDone.isSome && (s.launch s.cx.lid).isNone)) = true
    ↔ s.c = 0 ∧ (s.isVoter s.cur s.cx.lid = true ∨ (s.ux.lapDone ≠ none ∧ s.launch s.cx.lid = none)) := by
  simp only [State.votes, Bool.or_eq_true, Bool.and_eq_true, beq_iff_eq, Option.isSome_iff_ne_none, Option.isNone_iff_eq_none]
  tauto

theorem exec_lapw_waits {s : State} (d : Reg)
    (h : s.c = 0 ∧ (s.isVoter s.cur s.cx.lid = true ∨ (s.ux.lapDone ≠ none ∧ s.launch s.cx.lid = none))) :
    exec (.lapw d) s = s.waitOn (.lapw d) := by
  change execLapw d s = _
  rw [execLapw, if_pos ((lapw_waits_iff s).mpr h)]

theorem exec_lapw_traps {s : State} (d : Reg)
    (h : ¬ (s.c = 0 ∧ (s.isVoter s.cur s.cx.lid = true ∨ (s.ux.lapDone ≠ none ∧ s.launch s.cx.lid = none)))) :
    exec (.lapw d) s = s.trap .access 0#64 := by
  change execLapw d s = _
  rw [execLapw, if_neg fun e => h ((lapw_waits_iff s).mp e)]

/-- The four words that wait. -/
theorem waitOf_cases {g : Reg → Word} {i : Instr} {w : Wait} (h : waitOf g i = some w) :
    (∃ a b, i = .waitc a b ∧ w = .waitc (g a) (g b)) ∨ (∃ d a b, i = .recv d a b ∧ w = .recv d (g a) (g b))
      ∨ (∃ d, i = .lapw d ∧ w = .lapw d) ∨ (i = .haltc ∧ w = .haltc) := by
  cases i with
  | waitc a b => exact .inl ⟨a, b, rfl, (Option.some.inj h).symm⟩
  | recv d a b => exact .inr (.inl ⟨d, a, b, rfl, (Option.some.inj h).symm⟩)
  | lapw d => exact .inr (.inr (.inl ⟨d, rfl, (Option.some.inj h).symm⟩))
  | haltc => exact .inr (.inr (.inr ⟨rfl, (Option.some.inj h).symm⟩))
  | _ => cases h

/-- A waiting word ends its segment at its own park (R67). -/
theorem exec_waits {i : Instr} {s : State} {w : Wait} (hi : waitOf s.g i = some w) (hh : i = .haltc → s.cx.priv ≠ .u ∧ s.c = 0)
    (hf : (∃ a b, i = .waitc a b) ∨ (∃ d a b, i = .recv d a b) → s.kind = .far)
    (hl : (∃ d, i = .lapw d) → s.c = 0 ∧ (s.isVoter s.cur s.cx.lid = true ∨ (s.ux.lapDone ≠ none ∧ s.launch s.cx.lid = none))) :
    exec i s = s.waitOn w := by
  obtain ⟨a, b, rfl, rfl⟩ | ⟨d, a, b, rfl, rfl⟩ | ⟨d, rfl, rfl⟩ | ⟨rfl, rfl⟩ := waitOf_cases hi
  · rw [exec_waitc, State.farOnly_of_far (hf (.inl ⟨a, b, rfl⟩))]
  · rw [exec_recv, State.farOnly_of_far (hf (.inr ⟨d, a, b, rfl⟩))]
  · exact exec_lapw_waits d (hl ⟨d, rfl⟩)
  · obtain ⟨hu, hc⟩ := hh rfl
    rw [exec_haltc hu, if_pos hc]

/-- Settles O33: the park of a waiting word makes its action, or puts it to sleep. -/
theorem waitsEndAtTheirPark : Obligations.WaitsEndAtTheirPark := by
  unfold Obligations.WaitsEndAtTheirPark
  refine ⟨fun i s w hi => ⟨fun ⟨hh, hfar, hlap⟩ => ?_, ?_, ?_⟩, fun s k v h hw => ?_, fun s d last ring h => ?_, fun s d st h hl => ?_,
    fun s d h hl hw => ?_, fun s h hc => ?_⟩
  · exact exec_waits hi hh hfar hlap
  · rintro ⟨d, rfl⟩ hn
    exact exec_lapw_traps d hn
  · rintro rfl hu hc
    rw [exec_haltc hu, if_neg hc]
  · have hd := waitDone_waitc h hw
    cases hr : reaches (s.counter s.cur (k.toNat % 256)) v with
    | true =>
      rw [hr] at hd
      obtain ⟨t, he, hp⟩ := h.passes_acquire hd
      exact ⟨t, he, fun _ => hp, nofun⟩
    | false =>
      rw [hr] at hd
      obtain ⟨t, he, hs⟩ := h.sleeps hd
      exact ⟨t, he, nofun, fun _ => hs⟩
  · have hd := waitDone_recv h
    by_cases hl : s.loc64 s.cur (s.ringBlock s.cur (ring.toNat % 16) + 16) = last
    · rw [if_pos hl] at hd
      obtain ⟨t, he, hs⟩ := h.sleeps hd
      exact ⟨t, he, fun e => absurd hl e, fun _ => hs⟩
    · rw [if_neg hl] at hd
      obtain ⟨t, he, hp, hr, -⟩ := h.passes_setReg hd rfl (unit_landed_stopPend s) rfl
      exact ⟨t, he, fun _ => ⟨hp, hr⟩, fun e => absurd e hl⟩
  · obtain ⟨t, he, hp, hr, hu⟩ := h.passes_setReg (waitDone_lapw_closed hl) (State.ctx_modUnit rfl _ _)
      (by rw [State.unit_modUnit_same]; exact unit_landed_stopPend s) rfl
    exact ⟨t, he, hp, hr, by rw [hu, State.unit_modUnit_same]⟩
  · have hd := waitDone_lapw_open h hl hw
    cases hf : s.workFor s.cur s.cx.lid with
    | true =>
      rw [hf] at hd
      obtain ⟨-, -, -, -, -, -, -, -, -, -, -, hm, -⟩ := id h
      obtain ⟨t, he, hp, hr, -⟩ := h.passes hd rfl (unit_landed_stopPend s)
      exact ⟨t, he, fun _ => ⟨hp, by rw [hr, State.reg_setReg_same (s := s.landed) (.modC hm)]; rfl⟩, nofun⟩
    | false =>
      rw [hf] at hd
      obtain ⟨t, he, hs⟩ := h.sleeps hd
      exact ⟨t, he, nofun, fun _ => hs⟩
  · have hd := waitDone_haltc h hc
    by_cases hw : s.ux.hend ≠ 0#11 ∨ s.ux.deposit = true
    · rw [if_pos hw] at hd
      obtain ⟨t, he, hp, -⟩ := h.passes hd (State.ctx_modUnit rfl _ _) (by rw [State.unit_modUnit_same]; exact unit_landed_stopPend s)
      exact ⟨t, he, fun _ => hp, fun h0 h1 => absurd hw (by simp [h0, h1])⟩
    · rw [if_neg hw] at hd
      obtain ⟨t, he, hs⟩ := h.sleeps hd
      exact ⟨t, he, fun e => absurd e hw, fun _ _ => hs⟩

end Sys2Proof.Machine
end

section
/-! O58, first part: the rings of the launch queues, their records and their blocks (R419 to R424). -/

namespace Sys2Proof.Machine
open Sys2Proof Claims

/-! ## Launch queues -/

@[simp] theorem State.lq_setLq_same (s : State) (q : Nat) (x : LQueue) : (s.setLq q x).lq q = x := SMap.get_put_same _ _ _ _

theorem State.lq_setLq_other (s : State) {q k : Nat} (h : k ≠ q) (x : LQueue) : (s.setLq q x).lq k = s.lq k := SMap.get_put_other _ h _ _

theorem State.lq_of_lqs {s t : State} (h : t.lqs = s.lqs) (q : Nat) : t.lq q = s.lq q := by
  rw [State.lq, State.lq, h]

/-- A doubleword of a queue's block just written is read back. -/
theorem LQueue.dw_set_same (x : LQueue) {i : Nat} (h : i < 8) (w : Word) : LQueue.dw { x with cfg := x.cfg.setIfInBounds i w } i = w := by
  simp [LQueue.dw, h]

theorem LQueue.dw_set_other (x : LQueue) {i j : Nat} (h : j ≠ i) (w : Word) : LQueue.dw { x with cfg := x.cfg.setIfInBounds i w } j = x.dw j := by
  simp [LQueue.dw, Ne.symm h]

/-! ## Completions (R423) -/

/-- The block of a queue with one completion more in its ring. -/
def LQueue.advanced (x : LQueue) : LQueue := { x with cfg := x.cfg.setIfInBounds 7 ((x.crtail + 1#32).setWidth 64) }

theorem LQueue.crtail_advanced (x : LQueue) : x.advanced.crtail = x.crtail + 1#32 := by
  rw [LQueue.crtail, LQueue.advanced, LQueue.dw_set_same x (by decide)]
  apply BitVec.eq_of_toNat_eq
  have := (x.crtail + 1#32).isLt
  simp only [BitVec.extractLsb'_toNat, BitVec.toNat_setWidth]
  omega

theorem LQueue.crhead_advanced (x : LQueue) : x.advanced.crhead = x.crhead := by
  rw [LQueue.crhead, LQueue.advanced, LQueue.dw_set_other x (by decide)]
  rfl

section
variable (s : State) (q : Nat) (c : Completion)

theorem State.lq_writeCompletion : (s.writeCompletion q c).lq q = (s.lq q).advanced := by
  simp only [State.writeCompletion]
  split
  · exact SMap.get_put_same _ _ _ _
  · exact SMap.get_put_same _ _ _ _

theorem State.hostMem_writeCompletion : (s.writeCompletion q c).hostMem = s.hostMem.writeBytes
    (((s.lq q).dw 4 &&& 0xFFFFFFFFFFFFF000#64).toNat + 32 * ((s.lq q).crtail.toNat % 2 ^ (s.lq q).crlog2)) c.bytes := by
  simp only [State.writeCompletion]
  split
  · simp only [State.setLq]
  · simp only [State.setLq]

theorem State.completionWritten_writeCompletion : CompletionWritten s (s.writeCompletion q c) q c := by
  refine ⟨s.hostMem_writeCompletion q c, ?_, ?_⟩
  · rw [State.lq_writeCompletion, LQueue.crtail_advanced]
  · rw [State.lq_writeCompletion, LQueue.crhead_advanced]

theorem State.held_writeCompletion : ((s.writeCompletion q c).lq q).held = (s.lq q).held := by
  rw [State.lq_writeCompletion, LQueue.advanced]

theorem State.launches_writeCompletion : (s.writeCompletion q c).launches = s.launches := by
  simp only [State.writeCompletion]
  split <;> rfl

theorem State.mem_writeCompletion : (s.writeCompletion q c).mem = s.mem := by
  simp only [State.writeCompletion]
  split <;> rfl

theorem State.launches_postCompletion : (s.postCompletion q c).launches = s.launches := by
  simp only [State.postCompletion]
  split
  · rfl
  · exact s.launches_writeCompletion q c

end

/-- A queue that takes completions at once has one written. -/
theorem State.postCompletion_takes {s : State} {q : Nat} (h : RingTakes s q) (c : Completion) : s.postCompletion q c = s.writeCompletion q c := by
  obtain ⟨hh, hf⟩ := h
  simp [State.postCompletion, hh, hf]

/-! ## The words and events of a queue (R419, R423) -/

/-- A held completion goes to the ring once there is room (R423). -/
theorem exec_completionWrite_held {s : State} {q : Nat} {c : Completion} {rest : List Completion} (h : (s.lq q).held = c :: rest)
    (hf : (s.lq q).ringFull = false) :
    ∃ t, exec (.completionWrite q) s = .next t ∧ (t.lq q).held = rest ∧ CompletionWritten s t q c := by
  have hne : (s.lq q).held ≠ [] := by rw [h]; exact List.cons_ne_nil _ _
  have he : exec (.completionWrite q) s = .next ((s.setLq q { s.lq q with held := rest }).writeCompletion q c) := by
    change execCompletionWrite q s = _
    rw [execCompletionWrite, if_pos hne, State.releaseHeld]
    simp only [h, hf, Bool.false_eq_true, if_false]
  have hw := (s.setLq q { s.lq q with held := rest }).completionWritten_writeCompletion q c
  rw [CompletionWritten, State.lq_setLq_same] at hw
  exact ⟨_, he, by rw [State.held_writeCompletion, State.lq_setLq_same], hw⟩

theorem exec_completionWrite_full {s : State} {q : Nat} (h : (s.lq q).held ≠ []) (hf : (s.lq q).ringFull = true) :
    exec (.completionWrite q) s = .next s := by
  change execCompletionWrite q s = _
  rw [execCompletionWrite, if_pos h, State.releaseHeld]
  cases hh : (s.lq q).held with
  | nil => exact absurd hh h
  | cons c rest => simp only [hf, if_true]

theorem exec_completionWrite_none {s : State} {q : Nat} (h : (s.lq q).held = []) (hd : s.cancelDone q = none) :
    exec (.completionWrite q) s = .next s := by
  change execCompletionWrite q s = _
  rw [execCompletionWrite, if_neg (not_not.mpr h), hd]

theorem exec_crheadWrite (q : Nat) (v : Word32) (s : State) : ∃ t, exec (.crheadWrite q v) s = .next t ∧ (t.lq q).crhead = v
    ∧ (t.lq q).crtail = (s.lq q).crtail ∧ ∀ k, k ≠ q → t.lq k = s.lq k := by
  refine ⟨_, rfl, ?_, ?_, fun k hk => State.lq_setLq_other s hk _⟩
  · rw [State.lq_setLq_same, LQueue.crhead, LQueue.dw_set_same _ (by decide)]
    apply BitVec.eq_of_toNat_eq
    have := v.isLt
    simp only [BitVec.extractLsb'_toNat, BitVec.toNat_setWidth]
    omega
  · rw [State.lq_setLq_same, LQueue.crtail, LQueue.dw_set_other _ (by decide)]
    rfl

theorem exec_lqcfgWrite_stays {s : State} {q dw : Nat} (v : Word) (h : dw = 7 ∨ (dw ≠ 6 ∧ s.lqBusy q = true)) :
    exec (.lqcfgWrite q dw v) s = .next s := by
  change Host.Outcome.next (s.lqWrite q dw v) = _
  rw [State.lqWrite, if_pos h]

theorem exec_lqcfgWrite_takes {s : State} {q dw : Nat} (v : Word) (hd : dw < 8) (h7 : dw ≠ 7) (h : dw = 6 ∨ s.lqBusy q = false) :
    ∃ t, exec (.lqcfgWrite q dw v) s = .next t ∧ (t.lq q).dw dw = v &&& lqMask dw ∧ ∀ j, j ≠ dw → (t.lq q).dw j = (s.lq q).dw j := by
  have hn : ¬ (dw = 7 ∨ (dw ≠ 6 ∧ s.lqBusy q = true)) := by
    rintro (e | ⟨e6, eb⟩)
    · exact h7 e
    · rcases h with h | h
      · exact e6 h
      · rw [h] at eb
        cases eb
  have he : exec (.lqcfgWrite q dw v) s = .next (s.setLq q { s.lq q with cfg := (s.lq q).cfg.setIfInBounds dw (v &&& lqMask dw) }) := by
    change Host.Outcome.next (s.lqWrite q dw v) = _
    rw [State.lqWrite, if_neg hn]
  refine ⟨_, he, ?_, fun j hj => ?_⟩
  · rw [State.lq_setLq_same, LQueue.dw_set_same _ hd]
  · rw [State.lq_setLq_same, LQueue.dw_set_other _ hj]

/-! ## Records posted (R420, R421) -/

/-- The queue that a record of the aperture names. -/
theorem recordWords_one (bytes : List Byte) : (recordWords bytes).getD 1 0#64 = wordOf ((bytes.drop 8).take 8) := rfl

theorem toNat_low6 (w : Word) : (w.extractLsb' 0 6).toNat = w.toNat % 64 := by
  rw [extractLsb'_eq_ofNat]
  simp

theorem toNat_lid (w : Word) : (w.extractLsb' 16 16).toNat = w.toNat / 2 ^ 16 % 2 ^ 16 := by
  rw [extractLsb'_eq_ofNat]
  simp

/-- The aperture takes no such record (R421). -/
def State.apertureDrops (s : State) (off : Nat) (bytes : List Byte) (q : Nat) : Prop :=
  bytes.length ≠ 128 ∨ s.serving = false ∨ off % 128 ≠ 0 ∨ off < 0x1000 ∨ 0x1FFF < off ∨ (s.lq q).enabled = false ∨ 16 ≤ (s.lq q).records.length

theorem apertureDrops_iff (s : State) (off : Nat) (bytes : List Byte) (q : Nat) :
    (! s.serving || bytes.length != 128 || off % 128 != 0 || decide (off < 0x1000) || decide (0x1FFF < off) || ! (s.lq q).enabled
      || decide (16 ≤ (s.lq q).records.length)) = true ↔ s.apertureDrops off bytes q := by
  simp only [State.apertureDrops, Bool.or_eq_true, Bool.not_eq_true', bne_iff_ne, ne_eq, decide_eq_true_eq]
  tauto

/-- The record that 128 bytes of the aperture give, and its queue. -/
def postedRecord (s : State) (bytes : List Byte) : LRecord := ⟨0, recordWords bytes, 0, s.po⟩

section
variable {s : State} {off q : Nat} {bytes : List Byte} (hq : q = (wordOf ((bytes.drop 8).take 8)).toNat % 64) (port : Bool)
include hq

theorem exec_launchRecordPost_eq : exec (.launchRecordPost port off bytes) s = .next (
    if (! s.serving || bytes.length != 128 || off % 128 != 0 || decide (off < 0x1000) || decide (0x1FFF < off) || ! (s.lq q).enabled
      || decide (16 ≤ (s.lq q).records.length)) = true then s.dropRecord
    else if s.badRecord (postedRecord s bytes) then s.postCompletion q ⟨(postedRecord s bytes).dw 6, 4, 0, 0, 0, 0#64, 0⟩
    else s.tick.setLq q { s.lq q with records := (s.lq q).records ++ [{ postedRecord s bytes with lid :=
      if ((postedRecord s bytes).dw 1).toNat / 2 ^ 16 % 2 ^ 16 = 0 then s.freeLid else ((postedRecord s bytes).dw 1).toNat / 2 ^ 16 % 2 ^ 16 }] }) := by
  change Host.Outcome.next (s.postRecord off bytes) = _
  simp only [State.postRecord, recordWords_one, toNat_low6, ← hq, toNat_lid]
  rfl

theorem exec_launchRecordPost_drops (h : s.apertureDrops off bytes q) :
    exec (.launchRecordPost port off bytes) s = .next { s with dropcnt := s.dropcnt + 1#32 } := by
  rw [exec_launchRecordPost_eq hq, if_pos ((apertureDrops_iff s off bytes q).mpr h)]
  rfl

/-- A bad record is completed DROPPED (R421). -/
theorem exec_launchRecordPost_bad (h : ¬ s.apertureDrops off bytes q) (hb : s.badRecord (postedRecord s bytes) = true) (hr : RingTakes s q) :
    ∃ t, exec (.launchRecordPost port off bytes) s = .next t
      ∧ CompletionWritten s t q ⟨(postedRecord s bytes).dw 6, 4, 0, 0, 0, 0#64, 0⟩ := by
  rw [exec_launchRecordPost_eq hq, if_neg (mt (apertureDrops_iff s off bytes q).mp h), if_pos hb, State.postCompletion_takes hr]
  exact ⟨_, rfl, s.completionWritten_writeCompletion q _⟩

/-- A good record joins its queue, with its own launch number where it names one (R420). -/
theorem exec_launchRecordPost_joins (h : ¬ s.apertureDrops off bytes q) (hb : s.badRecord (postedRecord s bytes) = false) :
    ∃ t n, exec (.launchRecordPost port off bytes) s = .next t ∧ t.mem = s.mem
      ∧ (t.lq q).records = (s.lq q).records ++ [{ postedRecord s bytes with lid := n }]
      ∧ (((postedRecord s bytes).dw 1).toNat / 2 ^ 16 % 2 ^ 16 ≠ 0 → n = ((postedRecord s bytes).dw 1).toNat / 2 ^ 16 % 2 ^ 16) := by
  rw [exec_launchRecordPost_eq hq, if_neg (mt (apertureDrops_iff s off bytes q).mp h), if_neg (by rw [hb]; decide)]
  refine ⟨_, _, rfl, rfl, by rw [State.lq_setLq_same], fun hn => if_neg hn⟩

end

end Sys2Proof.Machine
end

section
/-! O58, second part: parks and missing code (R64, R396), stops, resumes and ends of launches (R407, R411, R423, R425, R426). -/

namespace Sys2Proof.Machine
open Sys2Proof Claims

/-! ## The implicit park (R64) -/

theorem exec_implicitPark_before {s : State} (h : s.cx.seg < 256) : exec (.implicitPark s.cur s.c) s = .next s := by
  change execImplicitPark s.cur s.c s = _
  have hn : decide (256 ≤ (s.ctx s.cur s.c).seg) = false := decide_eq_false (Nat.not_le.mpr h)
  rw [execImplicitPark, hn, Bool.and_false]
  rfl

/-- The implicit park of a long segment that finds nothing begins the next segment at the same word. -/
theorem exec_implicitPark_parks {s : State} (h : ParkDue s) (hw : s.cx.wait = none) (h256 : 256 ≤ s.cx.seg) :
    ∃ t, exec (.implicitPark s.cur s.c) s = .next t ∧ (t.ctx s.cur s.c).seg = 0 ∧ (t.ctx s.cur s.c).parking = false
      ∧ (t.ctx s.cur s.c).pc = s.pc ∧ t.mem = s.mem := by
  obtain ⟨hn, -, -, -, -, hy, -⟩ := id h
  have hland : s.land s.cur s.c = s.landed := hn.land_eq
  obtain ⟨-, -, -, -, -, -, -, hb, -⟩ := hn
  have hx := s.ctx_landed
  have hb : (s.landed.ctx s.cur s.c).blocked = [] := by rw [hx]; exact hb
  have hw : (s.landed.ctx s.cur s.c).wait = none := by rw [hx]; exact hw
  have hy : (s.landed.ctx s.cur s.c).why = .segment := by rw [hx]; exact hy
  have hc : s.landed.parkClear s.cur s.c = s.landed.endSegment s.cur s.c := by
    simp [State.parkClear, hb, hw, hy]
  have he : exec (.implicitPark s.cur s.c) s = .next ((s.landed.endSegment s.cur s.c).rotate s.cur s.c) := by
    change execImplicitPark s.cur s.c s = _
    have hseg : decide (256 ≤ (s.ctx s.cur s.c).seg) = true := decide_eq_true h256
    rw [execImplicitPark, h.parkable, hseg, Bool.and_self, if_pos rfl, h.parkNow_eq, hland, hc]
  have ht : ((s.landed.endSegment s.cur s.c).rotate s.cur s.c).ctx s.cur s.c =
      { s.cx with defs := [], awaiting := false, seg := 0, parking := false, why := .segment, parked := false, holding := false } := by
    rw [State.ctx_rotate, State.endSegment, State.ctx_modCtx_same, hx]
  exact ⟨_, he, by rw [ht], by rw [ht], by rw [ht]; rfl, by rw [State.mem_rotate]; rfl⟩

/-! ## Missing code of a helper (R396) -/

theorem exec_helperCodeAbsent_stays {s : State} {u c : Nat} (h : c = 0 ∨ s.fetchAt u c (s.ctx u c).pc ≠ none) :
    exec (.helperCodeAbsent u c) s = .next s := by
  change execHelperCodeAbsent u c s = _
  rw [execHelperCodeAbsent, if_neg]
  rintro ⟨hc, -, -, -, hf⟩
  exact h.elim hc (fun e => e hf)

theorem State.unit_land (s : State) (u c : Nat) : ∃ xs, (s.land u c).unit u = { s.unit u with ctxs := xs } := by
  have hu : (s.landAll u c (s.ctx u c).defs).unit u = s.unit u := by rw [State.unit, State.landAll_units]; rfl
  rw [State.land_eq, State.modCtx, State.unit_setCtx_same, hu]
  exact ⟨_, rfl⟩

theorem State.unit_saveCtx (s : State) (u c : Nat) (deflt : Bool) : ∃ xs, (s.saveCtx u c deflt).unit u = { s.unit u with ctxs := xs } := by
  obtain ⟨t, hu, -, ht⟩ := s.saveCtx_eq u c deflt
  have hu : t.unit u = s.unit u := by rw [State.unit, hu]; rfl
  rw [ht, State.unit_setCtx_same, hu]
  exact ⟨_, rfl⟩

/-- A helper with nothing to wait for stops at its park. -/
theorem State.stopPark_of_nothing {s : State} {u c : Nat} (hf : s.flight = []) (hd : (s.ctx u c).defs = []) (hb : (s.ctx u c).blocked = [])
    (ha : s.advances = []) (hq : s.copQueued u c = false) (stop : State → State) :
    s.stopPark u c stop = (stop ((s.haltReplay u c).land u c)).rotate u c := by
  obtain ⟨r, hx⟩ := s.ctx_haltReplay u c
  have hf' : (s.haltReplay u c).flight = [] := (s.flight_haltReplay u c).trans hf
  have hd' : ((s.haltReplay u c).ctx u c).defs = [] := by rw [hx]; exact hd
  have hb' : ((s.haltReplay u c).ctx u c).blocked = [] := by rw [hx]; exact hb
  have ha' : (s.haltReplay u c).advances = [] := by
    rw [← ha, State.haltReplay]
    split <;> rfl
  have hw : (s.haltReplay u c).stopWaits u c = false := by
    rw [State.stopWaits, State.resolve_of_nil hd', State.drain_eq (.inr hf'), State.copQueued_haltReplay, hq, Ctx.owed, hd', hb']
    rfl
  simp only [State.stopPark, State.adoptGen_of_nil ha', State.bring_of_nil hf' hd', hw, Bool.false_eq_true, if_false]

/-- A helper whose next word is not resident stops, and its missing address is reported (R396). -/
theorem exec_helperCodeAbsent_stops {s : State} {u c : Nat} (hc : c ≠ 0) (hr : s.ready u c = true) (hp : (s.ctx u c).parking = false)
    (hs : (s.ctx u c).asleep = false) (hd : (s.ctx u c).defs = []) (hf : s.flight = []) (hb : (s.ctx u c).blocked = []) (ha : s.advances = [])
    (hq : s.copQueued u c = false) (hn : s.fetchAt u c (s.ctx u c).pc = none) :
    ∃ t, exec (.helperCodeAbsent u c) s = .next t ∧ (t.ctx u c).live = false
      ∧ (t.unit u).absent = (s.unit u).absent ++ [(c, (s.ctx u c).pc)] := by
  obtain ⟨s1, hs1⟩ : ∃ s1, s1 = s.modCtx u c fun x => { x with parking := true, why := .absent (s.ctx u c).pc } := ⟨_, rfl⟩
  have hx : s1.ctx u c = { s.ctx u c with parking := true, why := .absent (s.ctx u c).pc } := by rw [hs1, State.ctx_modCtx_same]
  obtain ⟨xs, hu⟩ : ∃ xs, s1.unit u = { s.unit u with ctxs := xs } := ⟨_, by rw [hs1, State.modCtx, State.unit_setCtx_same]⟩
  have hpark : s1.parkNow u c = s1.stopPark u c fun s2 => s2.reportAbsent u c (s.ctx u c).pc := by
    simp only [State.parkNow, hx, hs, Bool.false_eq_true, if_false]
  have hq1 : s1.copQueued u c = false := by
    rw [← hq, State.copQueued, State.copQueued, hu, hs1]
    rfl
  have he : exec (.helperCodeAbsent u c) s =
      .next ((((s1.haltReplay u c).land u c).reportAbsent u c (s.ctx u c).pc).rotate u c) := by
    change execHelperCodeAbsent u c s = _
    rw [execHelperCodeAbsent, if_pos ⟨hc, hr, by rw [hp]; rfl, by rw [hs]; rfl, hn⟩, State.helperAbsent, ← hs1, hpark,
      State.stopPark_of_nothing (by rw [hs1]; exact hf) (by rw [hx]; exact hd) (by rw [hx]; exact hb) (by rw [hs1]; exact ha) hq1]
  refine ⟨_, he, ?_, ?_⟩
  · rw [State.ctx_rotate, State.reportAbsent, State.ctx_modUnit rfl, State.live_saveCtx]
  · obtain ⟨rs, ys, h1⟩ := s1.unit_haltReplay u c
    obtain ⟨zs, h2⟩ := (s1.haltReplay u c).unit_land u c
    obtain ⟨ws, h3⟩ := ((s1.haltReplay u c).land u c).unit_saveCtx u c false
    rw [State.unit_rotate_same, State.reportAbsent, State.unit_modUnit_same, h3, h2, h1, hu]

end Sys2Proof.Machine
end

section
/-! O58, third part: STOP at a unit, the watchdog, resumes, stalls and cancels (R407, R411, R423, R425, R426). -/

namespace Sys2Proof.Machine
open Sys2Proof Claims

/-! ## STOP at one context (R407) -/

/-- What every step of a fold keeps, the fold keeps. -/
theorem State.foldl_keeps {α β : Type} (g : State → β) (f : State → α → State) (h : ∀ t a, g (f t a) = g t) (l : List α) (s : State) :
    g (l.foldl f s) = g s := by
  induction l generalizing s with
  | nil => rfl
  | cons a l ih => rw [List.foldl_cons, ih, h]

section
variable (s : State) (u c : Nat)

theorem State.ctx_cancelPops_other {v d : Nat} (h : ¬ (v = u ∧ d = c)) : (s.cancelPops u c).ctx v d = s.ctx v d := by
  rw [State.cancelPops]
  split
  · rfl
  · exact State.ctx_modCtx_other s h _

theorem State.asleep_cancelPops : ((s.cancelPops u c).ctx u c).asleep = (s.ctx u c).asleep := by
  rw [State.cancelPops]
  split
  · rfl
  · rw [State.ctx_modCtx_same]

/-- Once what is blocked is dropped, only messages held for it go. -/
theorem State.ctx_cancelBlocked (v d : Nat) : (s.cancelBlocked u c).ctx v d = s.ctx v d
    ∨ ∃ r, (s.cancelBlocked u c).ctx v d =
      (s.modCtx u c fun x => { x with pc := r, blocked := [], stuck := false, why := .segment, parked := false, wait := none }).ctx v d := by
  simp only [State.cancelBlocked]
  split
  · exact .inl rfl
  · refine .inr ⟨_, State.foldl_keeps (fun t => t.ctx v d) _ (fun t a => ?_) _ _⟩
    split
    · rfl
    · exact State.ctx_modUnit rfl v d

theorem State.ctx_cancelBlocked_other {v d : Nat} (h : ¬ (v = u ∧ d = c)) : (s.cancelBlocked u c).ctx v d = s.ctx v d := by
  rcases s.ctx_cancelBlocked u c v d with e | ⟨r, e⟩
  · exact e
  · rw [e, State.ctx_modCtx_other s h]

theorem State.asleep_cancelBlocked : ((s.cancelBlocked u c).ctx u c).asleep = (s.ctx u c).asleep := by
  rcases s.ctx_cancelBlocked u c u c with e | ⟨r, e⟩
  · rw [e]
  · rw [e, State.ctx_modCtx_same]

theorem State.ctx_stopCtx_other {v d : Nat} (h : ¬ (v = u ∧ d = c)) : (s.stopCtx u c).ctx v d = s.ctx v d := by
  rw [State.stopCtx, State.ctx_modCtx_other _ h]
  split
  · rw [State.ctx_cancelBlocked_other _ u c h, State.ctx_cancelPops_other _ u c h]
  · rfl

end

/-- A context that a STOP has reached: due at its next park, or held at once where it slept (R407). -/
def StopTaken (x y : Ctx) : Prop :=
  (x.asleep = false → y.stopDue = true ∧ y.parking = true) ∧ (x.asleep = true → y.held = true ∧ y.asleep = false ∧ y.wait = none)

theorem stopTaken_stopCtx (s : State) (u : Nat) {c : Nat} (hc : c ≠ 0) : StopTaken (s.ctx u c) ((s.stopCtx u c).ctx u c) := by
  have hc : (c != 0) = true := bne_iff_ne.mpr hc
  rw [State.stopCtx, State.ctx_modCtx_same]
  have ha : ((if (s.ctx u c).parking then (s.cancelPops u c).cancelBlocked u c else s).ctx u c).asleep = (s.ctx u c).asleep := by
    split
    · rw [State.asleep_cancelBlocked, State.asleep_cancelPops]
    · rfl
  rw [ha, hc, Bool.and_true]
  refine ⟨fun hs => ?_, fun hs => ?_⟩
  · rw [hs]
    exact ⟨rfl, rfl⟩
  · rw [hs]
    exact ⟨rfl, rfl, rfl⟩

/-! ## STOP at a unit (R407) -/

/-- What a STOP of a launch does to a context of the unit that it has reached. -/
def State.stopStep (u lid : Nat) (s : State) (c : Nat) : State :=
  if (s.ctx u c).live ∧ ((c ≠ 0 ∧ (s.ctx u c).lid = lid) ∨ (c = 0 ∧ ¬ (s.ctx u c).act = true)) then s.stopCtx u c else s

theorem State.stopArrive_eq (s : State) (u lid : Nat) : s.stopArrive u lid = ((List.range 11).foldl (State.stopStep u lid) (s.cancelFor u lid)).modUnit u
    fun x => { x with stopPend := if x.stopPend.contains lid then x.stopPend else x.stopPend ++ [lid] } := rfl

theorem State.ctx_stopArrive (s : State) (u lid v d : Nat) :
    (s.stopArrive u lid).ctx v d = ((List.range 11).foldl (State.stopStep u lid) (s.cancelFor u lid)).ctx v d := by
  rw [State.stopArrive_eq]
  generalize (List.range 11).foldl (State.stopStep u lid) (s.cancelFor u lid) = t
  exact State.ctx_modUnit rfl v d

theorem State.ctx_stopStep_other (s : State) (u lid : Nat) {c d : Nat} (h : d ≠ c) : (s.stopStep u lid c).ctx u d = s.ctx u d := by
  rw [State.stopStep]
  split
  · exact State.ctx_stopCtx_other s u c fun e => h e.2
  · rfl

theorem State.ctx_stopSteps_other (u lid : Nat) {d : Nat} (l : List Nat) (s : State) (h : d ∉ l) :
    (l.foldl (State.stopStep u lid) s).ctx u d = s.ctx u d := by
  induction l generalizing s with
  | nil => rfl
  | cons c l ih =>
    rw [List.mem_cons, not_or] at h
    obtain ⟨hc, hl⟩ := h
    rw [List.foldl_cons, ih _ hl, State.ctx_stopStep_other s u lid hc]

/-- Every live helper of the launch has taken the STOP. -/
theorem stopTaken_stopSteps (u lid : Nat) {c : Nat} (hc : c ≠ 0) (l : List Nat) (s : State) (hn : l.Nodup) (hm : c ∈ l)
    (hl : (s.ctx u c).live = true) (hi : (s.ctx u c).lid = lid) : StopTaken (s.ctx u c) ((l.foldl (State.stopStep u lid) s).ctx u c) := by
  induction l generalizing s with
  | nil => cases hm
  | cons d l ih =>
    rw [List.nodup_cons] at hn
    obtain ⟨hd, hn⟩ := hn
    rw [List.foldl_cons]
    by_cases hcd : c = d
    · subst hcd
      rw [State.ctx_stopSteps_other u lid l _ hd, State.stopStep, if_pos ⟨hl, .inl ⟨hc, hi⟩⟩]
      exact stopTaken_stopCtx s u hc
    · have hx := State.ctx_stopStep_other s u lid hcd
      have := ih (s.stopStep u lid d) hn ((List.mem_cons.mp hm).resolve_left hcd) (by rw [hx]; exact hl) (by rw [hx]; exact hi)
      rwa [hx] at this

theorem State.ctx_cancelFor (s : State) (u lid v d : Nat) : (s.cancelFor u lid).ctx v d = s.ctx v d := by
  simp only [State.cancelFor]
  split
  · split <;> rfl
  · rfl

theorem exec_stopArrival (u lid : Nat) (s : State) : ∃ t, exec (.stopArrival u lid) s = .next t ∧ lid ∈ (t.unit u).stopPend
    ∧ ∀ c, 1 ≤ c → c ≤ 10 → (s.ctx u c).live = true → (s.ctx u c).lid = lid → StopTaken (s.ctx u c) (t.ctx u c) := by
  refine ⟨s.stopArrive u lid, rfl, ?_, fun c h1 h10 hl hi => ?_⟩
  · rw [State.stopArrive_eq, State.unit_modUnit_same]
    simp only
    split
    · rename_i h
      exact List.mem_of_elem_eq_true h
    · exact List.mem_append_right _ (List.mem_singleton.mpr rfl)
  · have hx := s.ctx_cancelFor u lid u c
    have := stopTaken_stopSteps u lid (c := c) (by omega) (List.range 11) (s.cancelFor u lid) List.nodup_range (List.mem_range.mpr (by omega))
      (by rw [hx]; exact hl) (by rw [hx]; exact hi)
    rw [hx] at this
    rw [State.ctx_stopArrive]
    exact this

/-! ## What the hub keeps of queues and launches -/

/-- The launch queues and the launches of the hub. -/
def State.hub (s : State) : SMap LQueue × List Launch := (s.lqs, s.launches)

theorem State.lqs_of_hub {s t : State} (h : t.hub = s.hub) : t.lqs = s.lqs := congrArg Prod.fst h

theorem State.launches_of_hub {s t : State} (h : t.hub = s.hub) : t.launches = s.launches := congrArg Prod.snd h

theorem State.launch_of_hub {s t : State} (h : t.hub = s.hub) (lid : Nat) : t.launch lid = s.launch lid := by
  rw [State.launch, State.launches_of_hub h, State.launch]

theorem State.hub_cancelPops (s : State) (u c : Nat) : (s.cancelPops u c).hub = s.hub := by
  rw [State.cancelPops]
  split <;> rfl

theorem State.hub_cancelBlocked (s : State) (u c : Nat) : (s.cancelBlocked u c).hub = s.hub := by
  simp only [State.cancelBlocked]
  split
  · rfl
  · refine (State.foldl_keeps State.hub _ (fun t a => ?_) _ _).trans rfl
    split <;> rfl

theorem State.hub_stopStep (u lid : Nat) (s : State) (c : Nat) : (s.stopStep u lid c).hub = s.hub := by
  rw [State.stopStep]
  split
  · rw [State.stopCtx]
    refine Eq.trans (b := (if (s.ctx u c).parking then (s.cancelPops u c).cancelBlocked u c else s).hub) rfl ?_
    split
    · rw [State.hub_cancelBlocked, State.hub_cancelPops]
    · rfl
  · rfl

theorem State.hub_cancelFor (s : State) (u lid : Nat) : (s.cancelFor u lid).hub = s.hub := by
  simp only [State.cancelFor]
  split
  · split <;> rfl
  · rfl

theorem State.hub_stopArrive (s : State) (u lid : Nat) : (s.stopArrive u lid).hub = s.hub := by
  have h := (State.foldl_keeps State.hub (State.stopStep u lid) (State.hub_stopStep u lid) (List.range 11) (s.cancelFor u lid)).trans
    (s.hub_cancelFor u lid)
  rw [State.stopArrive_eq, ← h]
  generalize (List.range 11).foldl (State.stopStep u lid) (s.cancelFor u lid) = t
  rfl

theorem State.hub_stopArrives (lid : Nat) (us : List Nat) (s : State) : (us.foldl (fun acc u => acc.stopArrive u lid) s).hub = s.hub :=
  State.foldl_keeps State.hub (fun acc u => acc.stopArrive u lid) (fun t u => t.hub_stopArrive u lid) us s

/-- A STOP sent marks its launch and keeps the queues and the other launches. -/
theorem State.hub_sendStop (s : State) (lid : Nat) : ∃ us, (s.sendStop lid).hub =
    (s.modLaunch lid fun l => { l with stopped := true, owing := us, away := us }).hub := by
  simp only [State.sendStop]
  exact ⟨_, State.hub_stopArrives lid _ _⟩

theorem State.lqs_sendStop (s : State) (lid : Nat) : (s.sendStop lid).lqs = s.lqs := by
  obtain ⟨us, h⟩ := s.hub_sendStop lid
  rw [State.lqs_of_hub h, State.modLaunch_lqs]

theorem State.lqs_preempt (s : State) (prio : Nat) (cores : List Nat) : (s.preempt prio cores).lqs = s.lqs :=
  State.foldl_keeps (fun t => t.lqs) (fun acc (l : Launch) => acc.sendStop l.lid) (fun t l => t.lqs_sendStop l.lid) _ s

/-! ## Launches looked up -/

/-- A launch changed under its own number is found changed. -/
theorem State.launch_modLaunch {s : State} {lid : Nat} {l : Launch} (h : s.launch lid = some l) {f : Launch → Launch}
    (hf : ∀ k, (f k).lid = k.lid) : (s.modLaunch lid f).launch lid = some (f l) := by
  have hp : ((fun k : Launch => k.lid == lid) ∘ fun k => if k.lid = lid then f k else k) = fun k => k.lid == lid := by
    funext k
    simp only [Function.comp]
    split
    · rw [hf]
    · rfl
  have hl : l.lid = lid := by simpa using List.find?_some h
  rw [State.launch] at h
  rw [State.launch, State.modLaunch]
  simp only [List.find?_map, hp, h, Option.map_some, hl, if_true]

/-- A launch that has ended is no more (R332, R407, R426). -/
theorem State.launch_endLaunchBut (s : State) (but : Option Nat) (lid kind cause : Nat) (value : Word) :
    (s.endLaunchBut but lid kind cause value).launch lid = none := by
  simp only [State.endLaunchBut]
  split
  · assumption
  · rw [State.launch, State.launches_postCompletion, List.find?_eq_none]
    intro l hl
    simpa using (List.mem_filter.mp hl).2

theorem State.launch_failLaunch (s : State) (lid cause : Nat) : (s.failLaunch lid cause).launch lid = none :=
  s.launch_endLaunchBut none lid 2 cause 0#64

/-! ## The watchdog (R407, R423, R433) -/

theorem exec_unitWatchdog_owing {s : State} {u lid : Nat} {l : Launch} (h : s.launch lid = some l) (ho : l.owing.contains u = true) :
    ∃ t, exec (.unitWatchdog u lid) s = .next t ∧ t.launch lid = none ∧ t.unit u = UnitState.reset u := by
  have he : exec (.unitWatchdog u lid) s = .next ((s.failLaunch lid 0x20).resetUnit u) := by
    change execUnitWatchdog u lid s = _
    rw [execUnitWatchdog, h]
    simp only [ho, if_true]
  exact ⟨_, he, s.launch_failLaunch lid 0x20, State.unit_setUnit_same _ _ _⟩

theorem exec_unitWatchdog_serves {s : State} {u lid : Nat} {l : Launch} (h : s.launch lid = some l) (ho : l.owing.contains u = false)
    (hs : lid ∈ s.launchesOf u) : ∃ t, exec (.unitWatchdog u lid) s = .next t ∧ t.launch lid = none := by
  have he : exec (.unitWatchdog u lid) s = .next (s.failLaunch lid Cause.uncorr.code) := by
    change execUnitWatchdog u lid s = _
    rw [execUnitWatchdog, h]
    simp only [ho, List.contains_iff_mem.mpr hs, Bool.false_eq_true, if_false, if_true]
  exact ⟨_, he, s.launch_failLaunch lid _⟩

theorem exec_unitWatchdog_other {s : State} {u lid : Nat} {l : Launch} (h : s.launch lid = some l) (ho : l.owing.contains u = false)
    (hs : lid ∉ s.launchesOf u) : exec (.unitWatchdog u lid) s = .next s := by
  change execUnitWatchdog u lid s = _
  have hc : (s.launchesOf u).contains lid = false := by simpa using hs
  rw [execUnitWatchdog, h]
  simp only [ho, hc, Bool.false_eq_true, if_false]

/-- Nothing happens to a launch that is not there. -/
theorem exec_launchEvents_none {s : State} {lid : Nat} (h : s.launch lid = none) :
    exec (.launchResume lid) s = .next s ∧ exec (.quiescenceDetect lid) s = .next s ∧ ∀ u, exec (.unitWatchdog u lid) s = .next s := by
  refine ⟨?_, ?_, fun u => ?_⟩
  · change execLaunchResume lid s = _
    rw [execLaunchResume, h]
  · change execQuiescenceDetect lid s = _
    rw [execQuiescenceDetect, h]
  · change execUnitWatchdog u lid s = _
    rw [execUnitWatchdog, h]

/-! ## Resumes (R411) -/

/-- What a resume does to one context of its launch. -/
def State.release (s : State) (k : Nat × Nat) : State :=
  (s.modCtx k.1 k.2 fun x => { x with held := false }).modUnit k.1 fun x => { x with engine := { x.engine with susp := false } }

theorem State.ctx_release_same (s : State) (k : Nat × Nat) : (s.release k).ctx k.1 k.2 = { s.ctx k.1 k.2 with held := false } := by
  rw [State.release, State.ctx_modUnit rfl, State.ctx_modCtx_same]

theorem State.ctx_release_other (s : State) {k : Nat × Nat} {v d : Nat} (h : ¬ (v = k.1 ∧ d = k.2)) : (s.release k).ctx v d = s.ctx v d := by
  rw [State.release, State.ctx_modUnit rfl, State.ctx_modCtx_other s h]

theorem State.held_release {s : State} (k : Nat × Nat) {v d : Nat} (h : (s.ctx v d).held = false) : ((s.release k).ctx v d).held = false := by
  by_cases hk : v = k.1 ∧ d = k.2
  · obtain ⟨rfl, rfl⟩ := hk
    rw [State.ctx_release_same]
  · rw [State.ctx_release_other s hk, h]

theorem State.held_releases_of {v d : Nat} (ks : List (Nat × Nat)) {s : State} (h : (s.ctx v d).held = false) :
    ((ks.foldl State.release s).ctx v d).held = false := by
  induction ks generalizing s with
  | nil => exact h
  | cons k ks ih => exact ih (State.held_release k h)

/-- Every context that a resume releases is held no more. -/
theorem State.held_releases {k : Nat × Nat} (ks : List (Nat × Nat)) (s : State) (h : k ∈ ks) :
    ((ks.foldl State.release s).ctx k.1 k.2).held = false := by
  induction ks generalizing s with
  | nil => cases h
  | cons j ks ih =>
    rcases List.mem_cons.mp h with rfl | h
    · exact State.held_releases_of ks (by rw [State.ctx_release_same])
    · exact ih _ h

theorem State.hub_releases (ks : List (Nat × Nat)) (s : State) : (ks.foldl State.release s).hub = s.hub :=
  State.foldl_keeps State.hub State.release (fun _ _ => rfl) ks s

theorem State.mem_releases (ks : List (Nat × Nat)) (s : State) : (ks.foldl State.release s).mem = s.mem :=
  State.foldl_keeps (fun t => t.mem) State.release (fun _ _ => rfl) ks s

/-- The state with a launch going on, before its contexts issue. -/
def State.unstopped (s : State) (lid : Nat) : State := s.modLaunch lid fun l => { l with stopped := false, saved := [] }

theorem State.resumeLaunch_eq (s : State) (lid : Nat) : ∃ near, s.resumeLaunch lid =
    { (s.launchCtxs lid).foldl State.release (s.unstopped lid) with near := near } := ⟨_, rfl⟩

theorem exec_launchResume_stays {s : State} {lid : Nat} {l : Launch} (h : s.launch lid = some l)
    (hb : ¬ (l.stopped = true ∧ l.cancel = false ∧ l.owing = [] ∧ l.away = [])) : exec (.launchResume lid) s = .next s := by
  change execLaunchResume lid s = _
  have hn : (l.stopped && ! l.cancel && l.owing == [] && l.away == []) = false := by
    rw [← Bool.not_eq_true]
    simp only [Bool.and_eq_true, Bool.not_eq_true', beq_iff_eq]
    tauto
  rw [execLaunchResume, h]
  simp only [hn, Bool.false_eq_true, if_false]

/-- A launch whose units have all restored issues again (R411). -/
theorem exec_launchResume_resumes {s : State} {lid : Nat} {l : Launch} (h : s.launch lid = some l)
    (hb : l.stopped = true ∧ l.cancel = false ∧ l.owing = [] ∧ l.away = []) :
    ∃ t, exec (.launchResume lid) s = .next t ∧ t.mem = s.mem ∧ t.launch lid = some { l with stopped := false, saved := [] }
      ∧ ∀ k ∈ s.launchCtxs lid, (t.ctx k.1 k.2).held = false := by
  obtain ⟨hs, hc, ho, ha⟩ := hb
  have he : exec (.launchResume lid) s = .next (s.resumeLaunch lid) := by
    change execLaunchResume lid s = _
    rw [execLaunchResume, h]
    simp [hs, hc, ho, ha]
  obtain ⟨near, hr⟩ := s.resumeLaunch_eq lid
  have hl : (s.unstopped lid).launch lid = some { l with stopped := false, saved := [] } := State.launch_modLaunch h fun _ => rfl
  refine ⟨_, he, ?_, ?_, fun k hk => ?_⟩
  · rw [hr]
    exact State.mem_releases (s.launchCtxs lid) (s.unstopped lid)
  · rw [hr, ← hl, ← State.launch_of_hub (State.hub_releases (s.launchCtxs lid) (s.unstopped lid))]
    rfl
  · rw [hr]
    exact State.held_releases (s.launchCtxs lid) (s.unstopped lid) hk

/-! ## Stalls (R183, R425) -/

theorem exec_quiescenceDetect_stays {s : State} {lid : Nat} {l : Launch} (h : s.launch lid = some l)
    (hn : l.stopped = true ∨ l.stalled = true ∨ s.quiescent l = false) : exec (.quiescenceDetect lid) s = .next s := by
  change execQuiescenceDetect lid s = _
  have hb : (l.stopped || l.stalled || ! s.quiescent l) = true := by
    simp only [Bool.or_eq_true, Bool.not_eq_true']
    tauto
  rw [execQuiescenceDetect, h]
  simp only [hb, if_true]

/-- A quiescent launch with no stall buffer is marked and reported. -/
theorem exec_quiescenceDetect_reports {s : State} {lid : Nat} {l : Launch} (h : s.launch lid = some l) (hs : l.stopped = false)
    (hl : l.stalled = false) (hq : s.quiescent l = true) (hv : l.stallva = 0#64) (hr : RingTakes s l.queue) :
    ∃ t, exec (.quiescenceDetect lid) s = .next t ∧ t.mem = s.mem ∧ t.launch lid = some { l with stalled := true }
      ∧ CompletionWritten s t l.queue ⟨l.tag, 3, 0, lid, l.lap - 1, BitVec.ofNat 64 (s.launchCtxs lid).length, l.taskErrors⟩ := by
  obtain ⟨s2, hs2⟩ : ∃ s2, s2 = s.modLaunch lid fun k => { k with stalled := true } := ⟨_, rfl⟩
  have hlq : ∀ q, s2.lq q = s.lq q := fun q => by rw [hs2]; rfl
  have hr2 : RingTakes s2 l.queue := by rwa [RingTakes, hlq]
  have hlaunch : s2.launch lid = some { l with stalled := true } := by rw [hs2]; exact State.launch_modLaunch h fun _ => rfl
  obtain ⟨c, hc⟩ : ∃ c : Completion, c = ⟨l.tag, 3, 0, lid, l.lap - 1, BitVec.ofNat 64 (s.launchCtxs lid).length, l.taskErrors⟩ := ⟨_, rfl⟩
  have he : exec (.quiescenceDetect lid) s = .next (s2.writeCompletion l.queue c) := by
    change execQuiescenceDetect lid s = _
    rw [execQuiescenceDetect, h, ← State.postCompletion_takes hr2, hs2, hc]
    simp only [hs, hl, hq, hv, Bool.or_false, Bool.not_true, Bool.false_eq_true, if_false, if_true]
  have hw := s2.completionWritten_writeCompletion l.queue c
  have hm : s2.hostMem = s.hostMem := by rw [hs2]; rfl
  rw [CompletionWritten, hlq, hm] at hw
  rw [← hc]
  refine ⟨_, he, ?_, ?_, hw⟩
  · rw [State.mem_writeCompletion, hs2]
    rfl
  · rw [State.launch, State.launches_writeCompletion, ← hlaunch, State.launch]

/-! ## Aging, cancelled launches (R422, R424, R426) -/

/-- The records of a queue once one of them has aged. -/
def agedRecords (l : List LRecord) (idx : Nat) : List LRecord := l.zipIdx.map fun r => if r.2 = idx then { r.1 with age := r.1.age + 1 } else r.1

theorem exec_launchRecordAging (q idx : Nat) (s : State) : ∃ t, exec (.launchRecordAging q idx) s = .next t
    ∧ (t.lq q).records = agedRecords (s.lq q).records idx := by
  obtain ⟨s1, hs1⟩ : ∃ s1, s1 = s.setLq q { s.lq q with records := agedRecords (s.lq q).records idx } := ⟨_, rfl⟩
  have hrec : (s1.lq q).records = agedRecords (s.lq q).records idx := by rw [hs1, State.lq_setLq_same]
  have he : exec (.launchRecordAging q idx) s = match (if s1.serving then s1.headRecord else none) with
      | some (k, r) => .next (if s1.coresFree 0 (s1.recordCores k r) then s1 else s1.preempt r.prio (s1.recordCores k r))
      | none => .next s1 := by
    subst hs1
    rfl
  rw [he]
  split
  · split
    · exact ⟨_, rfl, hrec⟩
    · exact ⟨_, rfl, by rw [State.lq_of_lqs (State.lqs_preempt _ _ _), hrec]⟩
  · exact ⟨_, rfl, hrec⟩

/-- A cancelled launch that is quiet ends (R424, R426). -/
theorem exec_completionWrite_cancelled {s : State} {q : Nat} {l : Launch} (h : (s.lq q).held = []) (hd : s.cancelDone q = some l) :
    ∃ t, exec (.completionWrite q) s = .next t ∧ t.launch l.lid = none := by
  have he : exec (.completionWrite q) s = .next ((s.drainMerges l.lid).endLaunch l.lid 5 0 0#64) := by
    change execCompletionWrite q s = _
    rw [execCompletionWrite, if_neg (not_not.mpr h), hd]
  exact ⟨_, he, State.launch_endLaunchBut _ _ _ _ _ _⟩

theorem exec_lstopWrite_none {lid : BitVec 16} {s : State} (h : s.launch lid.toNat = none) : exec (.lstopWrite lid) s = .next s := by
  change Host.Outcome.next (s.cancelLaunch lid.toNat) = _
  rw [State.cancelLaunch, h]

/-- A launch that the host cancels is stopped (R426). -/
theorem exec_lstopWrite_stops {lid : BitVec 16} {s : State} {l : Launch} (h : s.launch lid.toNat = some l) :
    ∃ t k, exec (.lstopWrite lid) s = .next t ∧ t.launch lid.toNat = some k ∧ k.cancel = true ∧ k.stopped = true := by
  have hs : ∃ k, (if l.stopped then s else s.sendStop lid.toNat).launch lid.toNat = some k ∧ k.stopped = true := by
    split
    · exact ⟨l, h, by assumption⟩
    · obtain ⟨us, hh⟩ := s.hub_sendStop lid.toNat
      exact ⟨_, (State.launch_of_hub hh _).trans (State.launch_modLaunch h fun _ => rfl), rfl⟩
  obtain ⟨k, hk, hst⟩ := hs
  have he : exec (.lstopWrite lid) s =
      .next ((if l.stopped then s else s.sendStop lid.toNat).modLaunch lid.toNat fun k => { k with cancel := true }) := by
    change Host.Outcome.next (s.cancelLaunch lid.toNat) = _
    rw [State.cancelLaunch, h]
  exact ⟨_, _, he, State.launch_modLaunch hk fun _ => rfl, rfl, hst⟩

end Sys2Proof.Machine
end

section
/-! O58, last part: the launches that a record or its mirror begins (R422, R429), and the bodies that the runtime starts (R310, R323, R388). -/

namespace Sys2Proof.Machine
open Sys2Proof Claims

/-! ## What the start of a launch keeps of the hub -/

/-- A launch under way has kept its number, its cores, its lap and its tag. -/
def SameLaunch (a b : Launch) : Prop := b.lid = a.lid ∧ b.cores = a.cores ∧ b.lap = a.lap ∧ b.tag = a.tag

/-- The launch queues stand, and every launch is there still. -/
def KeepsHub (s t : State) : Prop := t.lqs = s.lqs ∧ ∀ l ∈ s.launches, ∃ k ∈ t.launches, SameLaunch l k

theorem KeepsHub.of_hub {s t : State} (h : t.hub = s.hub) : KeepsHub s t :=
  ⟨State.lqs_of_hub h, fun l hl => ⟨l, by rw [State.launches_of_hub h]; exact hl, rfl, rfl, rfl, rfl⟩⟩

theorem KeepsHub.of_map {s t : State} (hq : t.lqs = s.lqs) {f : Launch → Launch} (hl : t.launches = s.launches.map f)
    (hf : ∀ l, SameLaunch l (f l)) : KeepsHub s t :=
  ⟨hq, fun l h => ⟨f l, by rw [hl]; exact List.mem_map_of_mem h, hf l⟩⟩

theorem KeepsHub.trans {s t v : State} (h : KeepsHub s t) (g : KeepsHub t v) : KeepsHub s v := by
  obtain ⟨hq, hl⟩ := h
  obtain ⟨gq, gl⟩ := g
  refine ⟨gq.trans hq, fun l h => ?_⟩
  obtain ⟨k, hk, h1, h2, h3, h4⟩ := hl l h
  obtain ⟨j, hj, g1, g2, g3, g4⟩ := gl k hk
  exact ⟨j, hj, g1.trans h1, g2.trans h2, g3.trans h3, g4.trans h4⟩

theorem KeepsHub.modLaunch (s : State) (lid : Nat) {f : Launch → Launch} (hf : ∀ l, SameLaunch l (f l)) : KeepsHub s (s.modLaunch lid f) := by
  refine .of_map rfl rfl fun l => ?_
  split
  · exact hf l
  · exact ⟨rfl, rfl, rfl, rfl⟩

/-! ### Voters (R331) -/

theorem State.hub_modUnit (s : State) (u : Nat) (f : UnitState → UnitState) : (s.modUnit u f).hub = s.hub := rfl

theorem State.hub_modCtx (s : State) (u c : Nat) (f : Ctx → Ctx) : (s.modCtx u c f).hub = s.hub := rfl

theorem State.hub_setLocal (s : State) (u off : Nat) (bs : List Byte) : (s.setLocal u off bs).hub = s.hub := rfl

theorem State.hub_setLoc64 (s : State) (u off : Nat) (w : Word) : (s.setLoc64 u off w).hub = s.hub := rfl

theorem State.hub_useFree (s : State) : s.useFree.hub = s.hub := rfl

theorem State.hub_free (s : State) (k : Nat) : ({ s with free := k } : State).hub = s.hub := rfl

theorem State.ctx_cur (s : State) (k u c : Nat) : ({ s with cur := k } : State).ctx u c = s.ctx u c := rfl

theorem State.hub_ite {c : Prop} [Decidable c] {a b s : State} (ha : a.hub = s.hub) (hb : b.hub = s.hub) : (if c then a else b).hub = s.hub := by
  split
  · exact ha
  · exact hb

theorem State.hub_startVoter (s : State) (l : Launch) (u : Nat) : (s.startVoter l u).hub = s.hub := by
  rw [State.startVoter]
  refine State.hub_ite (s := s) (s.hub_modCtx u 0 _) ?_
  refine State.hub_ite (s := s) ?_ ?_
  · rw [State.hub_setLocal, State.hub_modUnit, State.hub_modUnit, State.hub_useFree]
  · rw [State.hub_modUnit, State.hub_useFree]

theorem State.hub_startVoters (l : Launch) (us : List Nat) (s : State) : (us.foldl (fun acc u => acc.startVoter l u) s).hub = s.hub :=
  State.foldl_keeps State.hub (fun acc u => acc.startVoter l u) (fun t u => t.hub_startVoter l u) us s

/-! ### A helper's block and its start (R83, R323) -/

theorem State.hub_setPhysByte (s : State) (pa : Nat) (b : Byte) : (s.setPhysByte pa b).hub = s.hub := by
  rw [State.setPhysByte]
  split
  · rw [State.setSiltByte]
    refine State.hub_ite ?_ rfl
    refine State.foldl_keeps State.hub _ ?_ _ s
    exact fun _ _ => rfl
  all_goals rfl

theorem State.hub_setPhysBytes (bs : List Byte) (s : State) (pa : Nat) : (s.setPhysBytes pa bs).hub = s.hub := by
  induction bs generalizing s pa with
  | nil => rfl
  | cons b bs ih =>
    rw [State.setPhysBytes, ih, State.hub_setPhysByte]

theorem State.hub_copyOut (s : State) (u n lid : Nat) (frb : Word) (span : Nat) : (s.copyOut u n lid frb span).hub = s.hub :=
  State.hub_setPhysBytes _ s _

theorem KeepsHub.makeRoom (s : State) (u n : Nat) : KeepsHub s (s.makeRoom u n) := by
  rw [State.makeRoom]
  split
  · exact .of_hub rfl
  case h_2 lid _ =>
    refine KeepsHub.trans (t := s.copyOut u n lid _ _) (.of_hub (s.hub_copyOut u n lid _ _)) (.of_map rfl rfl fun l => ?_)
    exact ⟨rfl, rfl, rfl, rfl⟩

theorem State.hub_writeSeal (s : State) (u : Nat) (cb : Word) (sv deflt : Bool) (asr ptroot twb : Word) :
    (s.writeSeal u cb sv deflt asr ptroot twb).hub = s.hub := by
  rw [State.writeSeal, State.hub_setLocal]

theorem KeepsHub.prepare (s : State) (u n : Nat) (l : Launch) : KeepsHub s (s.prepare u n l) := by
  refine (KeepsHub.makeRoom s u n).trans (.of_hub ?_)
  rw [State.prepare, State.hub_free, State.hub_writeSeal, State.hub_setLocal]

theorem State.hub_writeTaskInfo (s : State) (u n : Nat) (desc : List Byte) (live queued far : Bool) (ticket : Word32) (sel : Nat) :
    (s.writeTaskInfo u n desc live queued far ticket sel).hub = s.hub := by
  rw [State.writeTaskInfo, State.hub_setLoc64, State.hub_setLoc64, State.hub_setLoc64, State.hub_setLoc64]

theorem State.hub_acquire (s : State) (u : Nat) : (s.acquire u).hub = s.hub := by
  rw [State.acquire]
  split <;> rfl

/-- The arguments of a start are registers of the helper. -/
theorem State.startHelper_regs (s : State) (n : Nat) (pc task : Word) (args : List Word) : s.startHelper n pc task args =
    (s.setCtx s.cur n (s.startCtx n pc)).setRegs s.cur n ([(21#5, 0#64), (22#5, task), (23#5, (s.startCtx n pc).msp)]
      ++ args.zipIdx.map fun a => (BitVec.ofNat 5 (24 + a.2), a.1)) := by
  rw [State.setRegs, List.foldl_append, List.foldl_map]
  rfl

theorem State.hub_setRegs (u c : Nat) (l : List (Reg × Word)) (s : State) : (s.setRegs u c l).hub = s.hub :=
  State.foldl_keeps State.hub (fun acc (p : Reg × Word) => acc.setReg u c p.1 p.2) (fun _ _ => rfl) l s

theorem State.hub_startBody (s : State) (u n lid : Nat) (pc : Word) (off : Nat) (args : List Word) : (s.startBody u n lid pc off args).hub = s.hub := by
  have h : ∀ t : State, (t.startHelper n pc (BitVec.ofNat 64 off) args).hub = t.hub := fun t => by
    rw [State.startHelper_regs, State.hub_setRegs]
    rfl
  exact (h { s.acquire u with cur := u }).trans (s.hub_acquire u)

/-- A body that the runtime starts is live at its PC at U level in its launch (R323). -/
theorem bodyBegun_startBody (s : State) (u n lid : Nat) (pc : Word) (off : Nat) (args : List Word) :
    BodyBegun (s.startBody u n lid pc off args) u n pc lid := by
  obtain ⟨s0, hs0⟩ : ∃ s0 : State, s0 = { s.acquire u with cur := u } := ⟨_, rfl⟩
  have hcur : s0.cur = u := by rw [hs0]
  have hx : (s0.startHelper n pc (BitVec.ofNat 64 off) args).ctx u n = s0.startCtx n pc := by
    rw [State.startHelper_regs, State.ctx_setRegs, hcur, State.ctx_setCtx_same]
  have ht : (s.startBody u n lid pc off args).ctx u n = { s0.startCtx n pc with lid := lid } := by
    rw [← hx, State.startBody, ← hs0, State.ctx_cur, State.ctx_modCtx_same]
  rw [BodyBegun, ht]
  exact ⟨rfl, rfl, rfl, rfl⟩

end Sys2Proof.Machine
end

section
/-! O58, the start of a launch from a record or from a mirrored one (R422, R429), hand-offs and near-mode grants (R310, R388). -/

namespace Sys2Proof.Machine
open Sys2Proof Claims

/-! ## LAUNCH_START (R422) -/

theorem exec_launchStart_none {s : State} (h : s.serving = false ∨ s.headRecord = none) : exec .launchStart s = .next s := by
  have hn : (if s.serving then s.headRecord else none) = none := by
    rcases h with h | h
    · rw [h]; rfl
    · rw [h, ite_self]
  change execLaunchStart s = _
  rw [execLaunchStart, hn]

/-- The root of a launch whose target passes its check begins on the launch's first core, if it has one (R422). -/
theorem KeepsHub.startRoot (s : State) (l : Launch) (r : LRecord) {desc : List Byte} (h : checkTarget (descWord desc 1) = none) :
    KeepsHub s (s.startRoot l r desc) := by
  rw [State.startRoot]
  split
  · exact .of_hub rfl
  case h_2 u _ _ =>
    simp only [h]
    refine KeepsHub.trans ?_ (.of_hub (State.hub_startBody _ u 1 l.lid _ _ _))
    refine KeepsHub.trans ?_ (KeepsHub.modLaunch _ l.lid fun _ => ⟨rfl, rfl, rfl, rfl⟩)
    refine (KeepsHub.prepare s u 1 l).trans (.of_hub ?_)
    rw [State.hub_writeTaskInfo, State.hub_setLocal]

/-- The state with a record of a queue taken and its launch added. -/
def State.recordTaken (s : State) (q : Nat) (r : LRecord) (l : Launch) : State :=
  { s.takeRecord q with mirrors := s.mirrors ++ r.mirrors, launches := s.launches ++ [l] }

theorem State.lq_recordTaken (s : State) (q : Nat) (r : LRecord) (l : Launch) :
    (s.recordTaken q r l).lq q = { s.lq q with records := (s.lq q).records.drop 1 } := s.lq_setLq_same q _

theorem State.mem_launches_recordTaken (s : State) (q : Nat) (r : LRecord) (l : Launch) : l ∈ (s.recordTaken q r l).launches :=
  List.mem_append_right _ (List.mem_singleton_self l)

theorem State.beginLaunch_eq (s : State) (q : Nat) (r : LRecord) (cores : List Nat) (desc : List Byte) : ∃ us : List Nat, s.beginLaunch q r cores desc =
    (us.foldl (fun acc u => acc.startVoter (s.launchOf q r cores) u) (s.recordTaken q r (s.launchOf q r cores))).startRoot
      (s.launchOf q r cores) r desc := ⟨_, rfl⟩

theorem KeepsHub.beginLaunch (s : State) (q : Nat) (r : LRecord) (cores : List Nat) {desc : List Byte} (h : checkTarget (descWord desc 1) = none) :
    KeepsHub (s.recordTaken q r (s.launchOf q r cores)) (s.beginLaunch q r cores desc) := by
  obtain ⟨us, hb⟩ := s.beginLaunch_eq q r cores desc
  rw [hb]
  exact KeepsHub.trans (.of_hub (State.hub_startVoters _ us _)) (KeepsHub.startRoot _ _ r h)

/-- The head record whose cores are free begins its launch and leaves its queue. -/
theorem exec_launchStart_starts {s s1 : State} {q : Nat} {r : LRecord} {desc : List Byte} (hs : s.serving = true)
    (hh : s.headRecord = some (q, r)) (ht : s.tableBad q r = false) (hc : ∀ c ∈ s.recordCores q r, c < 512 ∧ s.on (.farCore c) = true)
    (hn : s.namesRetired (s.launchOf q r (s.recordCores q r)) = false) (hd : s.rootDesc q r = .ok (s1, desc))
    (hf : s.coresFree 0 (s.recordCores q r) = true) (hr : s.resumesFirst r.prio (s.recordCores q r) = false)
    (hk : checkTarget (descWord desc 1) = none) :
    ∃ t l, exec .launchStart s = .next t ∧ l ∈ t.launches ∧ l.lid = r.lid ∧ l.cores = s.recordCores q r ∧ l.lap = 1 ∧ l.tag = r.dw 6
      ∧ (t.lq q).records = (s1.lq q).records.drop 1 := by
  have hany : ((s.recordCores q r).any fun c => ! (decide (c < 512) && s.on (.farCore c))) = false := by
    rw [List.any_eq_false]
    intro c hm
    obtain ⟨h1, h2⟩ := hc c hm
    simp [h1, h2]
  have he : exec .launchStart s = .next (s1.beginLaunch q r (s.recordCores q r) desc) := by
    change execLaunchStart s = _
    rw [execLaunchStart, if_pos hs, hh]
    simp only [State.startRecord, ht, hany, hn, hd, hf, hr, Bool.false_eq_true, if_false, Bool.not_false, Bool.and_self, if_true]
  obtain ⟨hq, hl⟩ := KeepsHub.beginLaunch s1 q r (s.recordCores q r) hk
  obtain ⟨l, hm, h1, h2, h3, h4⟩ := hl _ (s1.mem_launches_recordTaken q r _)
  exact ⟨_, l, he, hm, h1, h2, h3, h4, by rw [State.lq_of_lqs hq, State.lq_recordTaken]⟩

/-! ## MIRROR_RECORD (R429) -/

section
variable {bytes : List Byte} {lid : Nat} {s : State}

theorem exec_mirrorRecord_stays (h : lid = 0 ∨ s.lidHeld lid = true ∨ s.serving = false) : exec (.mirrorRecord bytes lid) s = .next s.useFree := by
  change execMirrorRecord bytes lid s = _
  rw [execMirrorRecord, if_pos]
  rcases h with h | h | h
  · exact .inl h
  · exact .inr (.inl h)
  · exact .inr (.inr (.inl (by rw [h]; rfl)))

end

/-! ### What the start of voters keeps of the homes -/

/-- The homes and the retired units. -/
def State.parts (s : State) : SMap Home × List PartUnit := (s.homes, s.retired)

theorem State.parts_useFree (s : State) : s.useFree.parts = s.parts := rfl

theorem State.parts_modUnit (s : State) (u : Nat) (f : UnitState → UnitState) : (s.modUnit u f).parts = s.parts := rfl

theorem State.parts_setLocal (s : State) (u off : Nat) (bs : List Byte) : (s.setLocal u off bs).parts = s.parts := rfl

theorem State.parts_ite {c : Prop} [Decidable c] {a b s : State} (ha : a.parts = s.parts) (hb : b.parts = s.parts) :
    (if c then a else b).parts = s.parts := by
  split
  · exact ha
  · exact hb

theorem State.parts_startVoter (s : State) (l : Launch) (u : Nat) : (s.startVoter l u).parts = s.parts := by
  rw [State.startVoter]
  refine State.parts_ite (s := s) rfl (State.parts_ite (s := s) ?_ ?_)
  · rw [State.parts_setLocal, State.parts_modUnit, State.parts_modUnit, State.parts_useFree]
  · rw [State.parts_modUnit, State.parts_useFree]

theorem State.parts_startVoters (l : Launch) (us : List Nat) (s : State) : (us.foldl (fun acc u => acc.startVoter l u) s).parts = s.parts :=
  State.foldl_keeps State.parts (fun acc u => acc.startVoter l u) (fun t u => t.parts_startVoter l u) us s

/-! ### Launches that fail beside another one -/

theorem State.launches_holdLaunch (s : State) (lid : Nat) (but : Option Nat) : (s.holdLaunch lid but).launches = s.launches := by
  refine State.foldl_keeps (fun t => t.launches) _ (fun t u => ?_) _ s
  split
  · rfl
  · refine State.foldl_keeps (fun t => t.launches) _ (fun a x => ?_) _ t
    split <;> rfl

theorem State.launches_dropWork (s : State) (lid : Nat) : (s.dropWork lid).launches = s.launches := by
  obtain ⟨f, s1, slices, homes, he, hl⟩ : ∃ (f : Nat × UnitState → UnitState → UnitState) (s1 : State) (slices : SMap Slice) (homes : SMap Home),
      s.dropWork lid = { s1.units.foldl (fun acc u => acc.modUnit u.1 (f u)) s1 with slices := slices, homes := homes }
        ∧ s1.launches = s.launches := ⟨_, _, _, _, rfl, rfl⟩
  rw [he, ← hl]
  exact State.foldl_keeps (fun t => t.launches) (fun acc u => acc.modUnit u.1 (f u)) (fun _ _ => rfl) s1.units s1

theorem State.launches_leaveNear (s : State) (lid : Nat) : (s.leaveNear lid).launches = s.launches := by
  rw [State.leaveNear]
  refine State.foldl_keeps (fun t => t.launches) _ (fun _ _ => ?_) _ s
  rfl

/-- The failure of a launch leaves one of another number. -/
theorem State.mem_launches_failLaunch {s : State} {lid cause : Nat} {l : Launch} (h : l ∈ s.launches) (hn : l.lid ≠ lid) :
    l ∈ (s.failLaunch lid cause).launches := by
  rw [State.failLaunch, State.endLaunch, State.endLaunchBut]
  split
  · exact h
  · rw [State.launches_postCompletion, List.mem_filter, State.launches_leaveNear]
    refine ⟨?_, by simpa using hn⟩
    simp only [Nat.reduceEqDiff, true_or, if_true, if_false, State.launches_dropWork, State.launches_holdLaunch]
    exact h

theorem State.mem_launches_failLaunches {l : Launch} (cause : Nat) (ks : List Launch) {s : State} (h : l ∈ s.launches)
    (hn : ∀ k ∈ ks, l.lid ≠ k.lid) : l ∈ (ks.foldl (fun acc k => acc.failLaunch k.lid cause) s).launches := by
  induction ks generalizing s with
  | nil => exact h
  | cons k ks ih =>
    obtain ⟨h1, h2⟩ := List.forall_mem_cons.mp hn
    exact ih (State.mem_launches_failLaunch h h1) h2

/-! ### The launch of a mirrored record -/

/-- A home that is bound to a launch is so before the launch is known. -/
theorem State.bound_of_unknown {s t : State} {h lid : Nat} (hh : t.homes = s.homes) (hl : s.launch lid = none) (hb : t.bound h lid = true) :
    s.bound h lid = true := by
  have hq : ∀ q, t.queue h q = s.queue h q := fun q => by rw [State.queue, State.queue, State.home, State.home, hh]
  rw [State.bound, List.any_eq_true] at hb ⊢
  obtain ⟨q, hm, hb⟩ := hb
  refine ⟨q, hm, ?_⟩
  rw [hq, State.boundQueue, Bool.and_eq_true] at hb
  rw [State.boundQueue, hl, Bool.and_true]
  exact hb.1

/-- What a launch names it names before it is known. -/
theorem State.names_of_unknown {s t : State} {l : Launch} {x : PartUnit} (hh : t.homes = s.homes) (hl : s.launch l.lid = none)
    (hn : t.names l x = true) : s.names l x = true := by
  cases x with
  | farCore c => exact hn
  | slice k => exact State.bound_of_unknown hh hl hn
  | pseudoChannel p => exact State.bound_of_unknown hh hl hn
  | stackUnit j =>
    obtain ⟨i, hi, hn⟩ := List.any_eq_true.mp hn
    exact List.any_eq_true.mpr ⟨i, hi, State.bound_of_unknown hh hl hn⟩
  | matrix _ => exact hn
  | lane _ => exact hn

theorem State.launches_ne_of_lidHeld {s : State} {lid : Nat} (h : s.lidHeld lid = false) : ∀ k ∈ s.launches, k.lid ≠ lid := by
  rw [State.lidHeld, Bool.or_eq_false_iff, List.any_eq_false] at h
  intro k hk e
  exact h.1 k hk (beq_iff_eq.mpr e)

theorem State.launch_eq_none_of_ne {s : State} {lid : Nat} (h : ∀ k ∈ s.launches, k.lid ≠ lid) : s.launch lid = none := by
  rw [State.launch, List.find?_eq_none]
  intro k hk e
  exact h k hk (beq_iff_eq.mp e)

/-- A launch added under a number of its own, that names no retired unit, stands when those that name one have failed. -/
theorem State.mem_launches_failRetired {s t : State} {l : Launch} (hl : t.launches = s.launches ++ [l]) (hp : t.parts = s.parts)
    (hne : ∀ k ∈ s.launches, k.lid ≠ l.lid) (hr : ∀ x ∈ s.retired, s.names l x = false) : l ∈ t.failRetired.launches := by
  have hh : t.homes = s.homes := congrArg Prod.fst hp
  have hret : t.retired = s.retired := congrArg Prod.snd hp
  have hmine : t.namesRetired l = false := by
    rw [State.namesRetired, List.any_eq_false, hret]
    intro x hx hn
    have := State.names_of_unknown hh (State.launch_eq_none_of_ne hne) hn
    rw [hr x hx] at this
    cases this
  have hm : l ∈ t.launches := by simp [hl]
  refine State.mem_launches_failLaunches _ _ hm fun k hk e => ?_
  obtain ⟨hk, hn⟩ := List.mem_filter.mp hk
  rw [hl, List.mem_append, List.mem_singleton] at hk
  rcases hk with hk | rfl
  · exact hne k hk e.symm
  · rw [hmine] at hn
    cases hn

theorem State.coreTable_nil (s : State) (pa : Nat) : s.coreTable pa 0 = [] := rfl

/-- A mirrored record with one core adds its launch, with no core here (R429). -/
theorem exec_mirrorRecord_adds {bytes : List Byte} {lid : Nat} {s : State} (h0 : lid ≠ 0) (hh : s.lidHeld lid = false) (hs : s.serving = true)
    (h1 : (recordWords bytes).getD 1 0#64 = 0x100000000#64)
    (hr : ∀ x ∈ s.retired, s.names (s.launchOf 0 ⟨lid, recordWords bytes, 0, s.po⟩ []) x = false) :
    ∃ t l, exec (.mirrorRecord bytes lid) s = .next t ∧ l ∈ t.launches ∧ l.lid = lid ∧ l.tag = (recordWords bytes).getD 6 0#64 := by
  obtain ⟨r, hrec⟩ : ∃ r : LRecord, r = ⟨lid, recordWords bytes, 0, s.po⟩ := ⟨_, rfl⟩
  obtain ⟨l, hl⟩ : ∃ l, l = s.launchOf 0 r [] := ⟨_, rfl⟩
  obtain ⟨s2, hs2⟩ : ∃ s2 : State, s2 = { s.useFree with launches := s.launches ++ [l] } := ⟨_, rfl⟩
  have hdw : r.dw 1 = 0x100000000#64 := by rw [hrec]; exact h1
  have hq : ((r.dw 1).extractLsb' 0 6).toNat = 0 := by rw [hdw]; decide
  have hc : r.lcores = 1 := by rw [LRecord.lcores, hdw]; decide
  have hmin : ∀ d, min (1 - 512 * (d + 1)) 512 = 0 := fun d => by omega
  have hsv : (! s.serving) = false := by rw [hs]; rfl
  have he : exec (.mirrorRecord bytes lid) s = .next ((s2.voters l).foldl (fun acc u => acc.startVoter l u) s2).failRetired := by
    change execMirrorRecord bytes lid s = _
    rw [execMirrorRecord]
    simp only [← hrec, hq, hc, hmin, State.coreTable_nil, h0, hh, hsv, List.any_nil, Bool.false_eq_true, or_self, if_false, ← hl]
    rw [hs2]
    rfl
  have hlid : l.lid = lid := by rw [hl, hrec]; rfl
  have hhub : ((s2.voters l).foldl (fun acc u => acc.startVoter l u) s2).launches = s.launches ++ [l] := by
    rw [State.launches_of_hub (State.hub_startVoters l _ s2), hs2]
  have hparts : ((s2.voters l).foldl (fun acc u => acc.startVoter l u) s2).parts = s.parts := by
    rw [State.parts_startVoters, hs2]
    rfl
  refine ⟨_, l, he, State.mem_launches_failRetired hhub hparts ?_ ?_, hlid, ?_⟩
  · rw [hlid]
    exact State.launches_ne_of_lidHeld hh
  · rw [hl, hrec]
    exact hr
  · rw [hl, hrec]
    rfl

/-! ## Bodies that the runtime starts (R310, R388) -/

section
variable {s : State} {u : Nat}

theorem exec_handOffTaskStart_none (h : s.handOffAt u = none) : exec (.handOffTaskStart u) s = .next s := by
  have hn : s.startHandOff u = none := by rw [State.startHandOff, h]
  change execHandOffTaskStart u s = _
  rw [execHandOffTaskStart, hn]

/-- A SEND to ring 0 is received and dropped (log entry 92). -/
theorem exec_handOffTaskStart_send (h : s.handOffAt u = some none) : exec (.handOffTaskStart u) s = .next (s.freeHead u) := by
  have hn : s.startHandOff u = some (s.freeHead u) := by rw [State.startHandOff, h]
  change execHandOffTaskStart u s = _
  rw [execHandOffTaskStart, hn]

theorem exec_handOffTaskStart_waits {d : List Byte} {l : Launch} (h : s.handOffAt u = some (some d))
    (hl : s.launch ((s.unit u).fires.headD 0) = some l) (hf : s.freeHelper u = none) : exec (.handOffTaskStart u) s = .next s := by
  have hn : s.startHandOff u = none := by
    rw [State.startHandOff, h]
    simp only [hl, hf]
  change execHandOffTaskStart u s = _
  rw [execHandOffTaskStart, hn]

/-- A hand-off of a launch begins its body on a free helper (R310). -/
theorem exec_handOffTaskStart_begins {d : List Byte} {l : Launch} {n : Nat} (h : s.handOffAt u = some (some d))
    (hl : s.launch ((s.unit u).fires.headD 0) = some l) (hf : s.freeHelper u = some n) (hk : checkTarget (descWord d 1) = none) :
    ∃ t, exec (.handOffTaskStart u) s = .next t ∧ BodyBegun t u n (descWord d 1) ((s.unit u).fires.headD 0) := by
  have hn : ∃ s0 off, s.startHandOff u = some (State.startBody s0 u n ((s.unit u).fires.headD 0) (descWord d 1) off (descArgs d)) := by
    rw [State.startHandOff, h]
    simp only [hl, hf, hk]
    exact ⟨_, _, rfl⟩
  obtain ⟨s0, off, hn⟩ := hn
  refine ⟨_, ?_, bodyBegun_startBody s0 u n _ _ off (descArgs d)⟩
  change execHandOffTaskStart u s = _
  rw [execHandOffTaskStart, hn]

end

section
variable {s : State} {p : Nat} {bind : Word}

theorem exec_nearModeTaskGrant_stays (h : s.granted (Config.stackUnit0 + p) (bindHelper bind) = false) :
    exec (.nearModeTaskGrant p bind) s = .next s := by
  change execNearModeTaskGrant p bind s = _
  rw [execNearModeTaskGrant]
  simp only [h, Bool.not_false, if_true]

theorem kindOf_stackUnit (p : Nat) : kindOf (Config.stackUnit0 + p) = .stack := by
  rw [kindOf, if_neg (by simp only [Config.sliceUnit0, Config.stackUnit0]; omega), if_neg (by omega)]

/-- A granted task that asks for no near mode begins its body (R388). -/
theorem State.startGranted_plain {u n lid off : Nat} (hu : kindOf u = .stack) (h7 : (descWord (s.getLocal u off 64) 7).getLsbD 63 = false) :
    s.startGranted u n lid off = some (s.startBody u n lid (descWord (s.getLocal u off 64) 0) off (descArgs (s.getLocal u off 64))) := by
  simp only [State.startGranted, hu, h7, Bool.false_eq_true, and_false, if_false]

/-- The granted task of a helper begins its body (R388). -/
theorem exec_nearModeTaskGrant_begins (hl : (s.ctx (Config.stackUnit0 + p) (bindHelper bind)).live = false)
    (hg : (s.loc64 (Config.stackUnit0 + p) ((s.cbOf (Config.stackUnit0 + p) (bindHelper bind)).toNat + 0x78)).getLsbD 63 = true)
    (hz : s.loc64 (Config.stackUnit0 + p) (s.cbOf (Config.stackUnit0 + p) (bindHelper bind)).toNat = 0#64)
    (h7 : (descWord (s.getLocal (Config.stackUnit0 + p) (bindOff bind) 64) 7).toNat < 2 ^ 63) :
    ∃ t, exec (.nearModeTaskGrant p bind) s = .next t
      ∧ BodyBegun t (Config.stackUnit0 + p) (bindHelper bind) (descWord (s.getLocal (Config.stackUnit0 + p) (bindOff bind) 64) 0)
        (s.ctx (Config.stackUnit0 + p) 0).lid := by
  have hgr : s.granted (Config.stackUnit0 + p) (bindHelper bind) = true := by simp [State.granted, hl, hg, hz]
  have hb : (descWord (s.getLocal (Config.stackUnit0 + p) (bindOff bind) 64) 7).getLsbD 63 = false := by
    rw [BitVec.getLsbD]
    exact Nat.testBit_lt_two_pow h7
  refine ⟨_, ?_, bodyBegun_startBody s _ _ _ _ (bindOff bind)
    (descArgs (s.getLocal (Config.stackUnit0 + p) (bindOff bind) 64))⟩
  change execNearModeTaskGrant p bind s = _
  rw [execNearModeTaskGrant]
  simp only [hgr, Bool.not_true, Bool.false_eq_true, if_false, State.startGranted_plain (kindOf_stackUnit p) hb]

end

end Sys2Proof.Machine
end

section
/-! O58 settled. -/

namespace Sys2Proof.Machine
open Sys2Proof Claims

/-- Settles O58: each event of the hub by the equations of its handler, an event that ends in a fold over units or contexts by what every step of
the fold keeps. -/
theorem launchEvents : Obligations.LaunchEvents := by
  unfold Obligations.LaunchEvents
  refine ⟨?park, ?absent, ?stop, ?watchdog, ?gone, ?resume, ?stall, ?post, ?start, exec_launchRecordAging, ?completion, exec_crheadWrite,
    ?block, ?lstop, ?mirror, ?handOff, ?grant⟩
  case park =>
    intro s hn hl hh ha hp hs hw hy hact hf hr
    have hdue : ParkDue s := ⟨hn, hl, hh, ha, hp, hy, hs, hact, hf, hr⟩
    exact ⟨exec_implicitPark_before, exec_implicitPark_parks hdue hw⟩
  case absent =>
    exact fun u c s => ⟨exec_helperCodeAbsent_stays,
      fun hc hr hp hs hd hf hb ha hq _ => exec_helperCodeAbsent_stops hc hr hp hs hd hf hb ha hq⟩
  case stop => exact exec_stopArrival
  case watchdog =>
    exact fun u lid l s h => ⟨exec_unitWatchdog_owing h, exec_unitWatchdog_serves h, exec_unitWatchdog_other h⟩
  case gone => exact fun lid s => exec_launchEvents_none
  case resume => exact fun lid l s h => ⟨exec_launchResume_stays h, exec_launchResume_resumes h⟩
  case stall => exact fun lid l s h => ⟨exec_quiescenceDetect_stays h, exec_quiescenceDetect_reports h⟩
  case post =>
    intro port off bytes s
    refine ⟨exec_launchRecordPost_drops rfl port, fun h1 h2 h3 h4 h5 h6 h7 => ?_⟩
    have hd : ¬ s.apertureDrops off bytes ((wordOf ((bytes.drop 8).take 8)).toNat % 64) := by
      rw [State.apertureDrops, h2, h6]
      simp only [Bool.true_eq_false, false_or]
      omega
    exact ⟨exec_launchRecordPost_bad rfl port hd, exec_launchRecordPost_joins rfl port hd⟩
  case start => exact fun s => ⟨exec_launchStart_none, fun q r s1 desc => exec_launchStart_starts⟩
  case completion =>
    exact fun q s => ⟨fun c rest => exec_completionWrite_held, exec_completionWrite_full, exec_completionWrite_none,
      fun l => exec_completionWrite_cancelled⟩
  case block => exact fun q dw v s hd => ⟨exec_lqcfgWrite_stays v, exec_lqcfgWrite_takes v hd⟩
  case lstop => exact fun lid s => ⟨exec_lstopWrite_none, fun l => exec_lstopWrite_stops⟩
  case mirror => exact fun bytes lid s => ⟨exec_mirrorRecord_stays, exec_mirrorRecord_adds⟩
  case handOff =>
    intro u s
    refine ⟨exec_handOffTaskStart_none, exec_handOffTaskStart_send, fun d l h hl => ?_⟩
    exact ⟨exec_handOffTaskStart_waits h hl, fun n => exec_handOffTaskStart_begins h hl⟩
  case grant => exact fun p bind s _ => ⟨exec_nearModeTaskGrant_stays, exec_nearModeTaskGrant_begins⟩

end Sys2Proof.Machine
end

section
/-! O10 and O11: the transfers of 05_integer (R101 to R106), each a condition on the registers and a target that its word gives. -/

namespace Sys2Proof.Machine
open Sys2Proof Claims

/-! ## Comparisons of words as comparisons of numbers (R8, R96) -/

theorem beq_eq_toNat_beq {n : Nat} (u v : BitVec n) : (u == v) = (u.toNat == v.toNat) := by
  rw [Bool.eq_iff_iff, beq_iff_eq, beq_iff_eq, BitVec.toNat_inj]

theorem slt_eq_sgn {n : Nat} (hn : 0 < n) (u v : BitVec n) : u.slt v = decide (sgn n u.toNat < sgn n v.toNat) := by
  rw [BitVec.slt, toInt_eq_sgn hn, toInt_eq_sgn hn]

theorem not_slt_eq_sgn {n : Nat} (hn : 0 < n) (u v : BitVec n) : (! u.slt v) = decide (sgn n u.toNat ≥ sgn n v.toNat) := by
  rw [slt_eq_sgn hn, ← decide_not, decide_eq_decide, not_lt]

theorem not_ult_eq (u v : Word) : (! u.ult v) = decide (u.toNat ≥ v.toNat) := by
  rw [BitVec.ult, ← decide_not, decide_eq_decide, Nat.not_lt]

theorem beq_zero_eq_sgn (u : Word) : (u == 0#64) = (sgn 64 u.toNat == 0) := by
  rw [← toInt_eq_sgn (by decide), Bool.eq_iff_iff, beq_iff_eq, beq_iff_eq, ← BitVec.toInt_inj, BitVec.toInt_zero]

theorem skipCond_eq (c : SkipCond) (u v : Word) : skipCond c u v = match c with
    | .eq => u.toNat == v.toNat
    | .ne => u.toNat != v.toNat
    | .lt => decide (sgn 64 u.toNat < sgn 64 v.toNat)
    | .ge => decide (sgn 64 u.toNat ≥ sgn 64 v.toNat)
    | .ltu => decide (u.toNat < v.toNat)
    | .geu => decide (u.toNat ≥ v.toNat) := by
  cases c with
  | eq => exact beq_eq_toNat_beq u v
  | ne => exact congrArg not (beq_eq_toNat_beq u v)
  | lt => exact slt_eq_sgn (by decide) u v
  | ge => exact not_slt_eq_sgn (by decide) u v
  | ltu => rfl
  | geu => exact not_ult_eq u v

/-! ## Each transfer is a condition and a target (R101 to R105) -/

/-- The target of a SKIP. -/
theorem skipTarget_eq (p : Word) (n : BitVec 3) :
    p + 4#64 + ((n.setWidth 64 + 1#64) <<< 2) = BitVec.ofNat 64 (p.toNat + 4 + 4 * (n.toNat + 1)) := by
  bv_omega

/-- The word is a branch in the model's shape, with the condition and the target that the table gives: the condition speaks of the
registers at the state that makes the transfer, the target of the word's own address. -/
def Transfers (i : Instr) (s : State) : Prop :=
  ∃ (taken : State → Bool) (target : Word), exec i s = s.branch taken target
    ∧ ∀ s1 : State, transfer s1.g s.pc i = some (taken s1, target)

theorem Transfers.intro {i : Instr} {s : State} {taken : State → Bool} {target t : Word} {cond : (Reg → Word) → Bool}
    (hi : exec i s = s.branch taken target) (ht : ∀ g, transfer g s.pc i = some (cond g, t)) (hc : ∀ s1 : State, taken s1 = cond s1.g)
    (he : target = t) : Transfers i s :=
  ⟨taken, target, hi, fun s1 => by rw [ht, hc, he]⟩

/-- Every word that the tables of R101 to R105 give a transfer is such a branch. -/
theorem transfers_of_transfer {i : Instr} {s : State} {b : Bool} {t : Word} (h : transfer s.g s.pc i = some (b, t)) : Transfers i s := by
  cases i with
  | skip hint c a b n => exact .intro rfl (fun _ => rfl) (fun _ => skipCond_eq c _ _) (skipTarget_eq _ n)
  | beq hint a b off => exact .intro rfl (fun _ => rfl) (fun _ => beq_eq_toNat_beq _ _) (State.rel_eq (by decide) s off)
  | bne hint a b off => exact .intro rfl (fun _ => rfl) (fun _ => congrArg not (beq_eq_toNat_beq _ _)) (State.rel_eq (by decide) s off)
  | blt hint a b off => exact .intro rfl (fun _ => rfl) (fun _ => slt_eq_sgn (by decide) _ _) (State.rel_eq (by decide) s off)
  | bge hint a b off => exact .intro rfl (fun _ => rfl) (fun _ => not_slt_eq_sgn (by decide) _ _) (State.rel_eq (by decide) s off)
  | bltu hint a b off => exact .intro rfl (fun _ => rfl) (fun _ => rfl) (State.rel_eq (by decide) s off)
  | bgeu hint a b off => exact .intro rfl (fun _ => rfl) (fun _ => not_ult_eq _ _) (State.rel_eq (by decide) s off)
  | bbs hint a b off => exact .intro rfl (fun _ => rfl) (fun _ => rfl) (State.rel_eq (by decide) s off)
  | bbc hint a b off => exact .intro rfl (fun _ => rfl) (fun _ => rfl) (State.rel_eq (by decide) s off)
  | beqz hint a off => exact .intro rfl (fun _ => rfl) (fun _ => beq_zero_eq_sgn _) (State.rel_eq (by decide) s off)
  | bnez hint a off => exact .intro rfl (fun _ => rfl) (fun _ => congrArg not (beq_zero_eq_sgn _)) (State.rel_eq (by decide) s off)
  | bltz hint a off => exact .intro rfl (fun _ => rfl) (fun _ => slt_eq_sgn (by decide) _ _) (State.rel_eq (by decide) s off)
  | bgez hint a off => exact .intro rfl (fun _ => rfl) (fun _ => not_slt_eq_sgn (by decide) _ _) (State.rel_eq (by decide) s off)
  | bgtz hint a off => exact .intro rfl (fun _ => rfl) (fun _ => slt_eq_sgn (by decide) _ _) (State.rel_eq (by decide) s off)
  | blez hint a off => exact .intro rfl (fun _ => rfl) (fun _ => not_slt_eq_sgn (by decide) _ _) (State.rel_eq (by decide) s off)
  | j off => exact .intro rfl (fun _ => rfl) (fun _ => rfl) (State.rel_eq (by decide) s off)
  | _ => cases h

/-! ## What a transfer does (R103, R106, R227) -/

theorem State.branchTo_eq (s : State) (taken : Bool) (t : Word) : s.branchTo taken t =
    if taken then (if t.toNat < 2 ^ 58 then s.setPc t else s.trapAt .access t) else s.setPc (s.pc + 4#64) := by
  simp only [State.branchTo, ne_eq, high6_eq_zero_iff, ite_not]
  rfl

/-- While no replay of the context runs, a transfer goes to its target, passes on, or traps. -/
theorem exec_transfer {i : Instr} {s : State} {taken : Bool} {t : Word} (h : transfer s.g s.pc i = some (taken, t))
    (hr : s.replaying s.cur s.c = false) :
    (taken = true → t.toNat < 2 ^ 58 → exec i s = .next (s.setPc t))
      ∧ (taken = false → exec i s = .next (s.setPc (s.pc + 4#64)))
      ∧ (taken = true → 2 ^ 58 ≤ t.toNat → exec i s = s.trap .access t) := by
  obtain ⟨cond, target, hi, ht⟩ := transfers_of_transfer h
  obtain ⟨rfl, rfl⟩ : cond s = taken ∧ target = t := by simpa using (ht s).symm.trans h
  rw [hi]
  refine ⟨fun hc hlt => ?_, fun hc => ?_, fun hc hge => State.branch_trap hr hc hge⟩
  · rw [State.branch_next hr fun _ => hlt, if_pos hc]
  · rw [State.branch_next hr (fun hc' => absurd (hc.symm.trans hc') (by decide)), hc]
    rfl

/-- While a replay of the context runs, a transfer parks first and then does the same with the registers as they stand. -/
theorem exec_transfer_replay {i : Instr} {s : State} {taken : Bool} {t : Word} (h : transfer s.g s.pc i = some (taken, t))
    (hr : s.replaying s.cur s.c = true) :
    exec i s = .next (s.parkFirst fun s1 =>
      match transfer s1.g s.pc i with
      | some (true, t1) => if t1.toNat < 2 ^ 58 then s1.setPc t1 else s1.trapAt .access t1
      | _ => s1.setPc (s1.pc + 4#64)) := by
  obtain ⟨cond, target, hi, ht⟩ := transfers_of_transfer h
  rw [hi, State.branch_replay hr]
  congr 2
  funext s1
  rw [ht, State.branchTo_eq]
  cases cond s1 <;> rfl

end Sys2Proof.Machine
end

section
/-! O10 and O11 settled. -/

namespace Sys2Proof.Machine
open Sys2Proof Claims

/-- Settles O10: a B or BZ word by the rule of every transfer. -/
theorem branchResults : Obligations.BranchResults := by
  unfold Obligations.BranchResults
  exact fun i s taken t _ h => ⟨exec_transfer h, exec_transfer_replay h⟩

/-- Settles O11: SKIP and J by the same rule. -/
theorem skipAndJumpResults : Obligations.SkipAndJumpResults := by
  unfold Obligations.SkipAndJumpResults
  exact fun i s taken t _ h => ⟨exec_transfer h, exec_transfer_replay h⟩

end Sys2Proof.Machine
end

section
/-! SUPPORT: the operations of the integer tables (05_integer R92, R96) over unbounded numbers: each of the model's operations at a width `n` is
the number that the table gives, taken modulo 2^n. -/

namespace Sys2Proof.Machine
open Sys2Proof Claims

/-! ## Words and numbers (R8) -/

section
variable {n : Nat}

theorem ofInt_toNat (u : BitVec n) : BitVec.ofInt n u.toNat = u := by
  rw [BitVec.ofInt_natCast, BitVec.ofNat_toNat, BitVec.setWidth_eq]

theorem ofInt_sgn (hn : 0 < n) (u : BitVec n) : BitVec.ofInt n (sgn n u.toNat) = u := by
  rw [← toInt_eq_sgn hn, BitVec.ofInt_toInt]

theorem eq_ofInt_of_toNat {u : BitVec n} {k : Nat} (h : u.toNat = k % 2 ^ n) : u = BitVec.ofInt n k := by
  rw [BitVec.ofInt_natCast, ← BitVec.toNat_inj, h, BitVec.toNat_ofNat]

/-- Sext of R8 is the sign extension of the low bits. -/
theorem sext_eq (hn : 0 < n) (r : Int) : sext n r = (BitVec.ofInt n r).signExtend 64 := by
  rw [sext, BitVec.signExtend, toInt_eq_sgn hn, BitVec.toNat_ofInt]
  norm_cast

theorem sext_64 (r : Int) : sext 64 r = BitVec.ofInt 64 r := by rw [sext_eq (by decide), BitVec.signExtend_eq]

/-! ## Sums, differences and products -/

theorem add_eq_ofInt (u v : BitVec n) : u + v = BitVec.ofInt n (u.toNat + v.toNat) := by
  rw [BitVec.ofInt_add, ofInt_toNat, ofInt_toNat]

theorem sub_eq_ofInt (u v : BitVec n) : u - v = BitVec.ofInt n (u.toNat - v.toNat) := by
  rw [Int.sub_eq_add_neg, BitVec.ofInt_add, BitVec.ofInt_neg, ofInt_toNat, ofInt_toNat, BitVec.sub_eq_add_neg]

theorem mul_eq_ofInt (u v : BitVec n) : u * v = BitVec.ofInt n (u.toNat * v.toNat) := by
  rw [BitVec.ofInt_mul, ofInt_toNat, ofInt_toNat]

theorem mulHi_eq (u v : Word) : mulHi u v = BitVec.ofInt 64 (sgn 64 u.toNat * sgn 64 v.toNat / 2 ^ 64) := by
  rw [mulHi, toInt_eq_sgn (by decide), toInt_eq_sgn (by decide)]

/-! ## Quotients and remainders -/

theorem allOnes_eq_ofInt (hn : 0 < n) : BitVec.allOnes n = BitVec.ofInt n (-1) := by
  rw [← BitVec.ofInt_toInt (x := BitVec.allOnes n), BitVec.toInt_allOnes, if_pos hn]

theorem intMin_eq_ofInt (hn : 0 < n) : BitVec.intMin n = BitVec.ofInt n (-2 ^ (n - 1)) := by
  rw [← BitVec.ofInt_toInt (x := BitVec.intMin n), BitVec.toInt_intMin_of_pos hn]

theorem eq_zero_iff_toNat (v : BitVec n) : v = 0#n ↔ v.toNat = 0 := by
  rw [← BitVec.toNat_inj, BitVec.toNat_ofNat, Nat.zero_mod]

/-- The one quotient that overflows, as R96 names it. -/
theorem overflows_iff (hn : 0 < n) (u v : BitVec n) :
    (u = BitVec.intMin n ∧ v = BitVec.allOnes n) ↔ (sgn n u.toNat = -2 ^ (n - 1) ∧ sgn n v.toNat = -1) := by
  rw [← BitVec.toInt_inj, ← BitVec.toInt_inj, BitVec.toInt_intMin_of_pos hn, BitVec.toInt_allOnes, if_pos hn, toInt_eq_sgn hn,
    toInt_eq_sgn hn]

theorem divS_eq (hn : 0 < n) (u v : BitVec n) : divS u v = BitVec.ofInt n (divR n u.toNat v.toNat) := by
  simp only [divS, divR, eq_zero_iff_toNat, overflows_iff hn, apply_ite (BitVec.ofInt n), toInt_eq_sgn hn]
  rw [allOnes_eq_ofInt hn, intMin_eq_ofInt hn]

theorem divU_eq (u v : BitVec n) : divU u v = BitVec.ofInt n (divuR n u.toNat v.toNat) := by
  have hones : BitVec.allOnes n = BitVec.ofInt n (2 ^ n - 1) := by
    have h : ((2 : Int) ^ n - 1) = ((2 ^ n - 1 : Nat) : Int) := by rw [Nat.cast_sub Nat.one_le_two_pow]; norm_cast
    rw [h]
    exact eq_ofInt_of_toNat (by rw [BitVec.toNat_allOnes, Nat.mod_eq_of_lt (Nat.sub_one_lt (Nat.two_pow_pos n).ne')])
  simp only [divU, divuR, eq_zero_iff_toNat, apply_ite (BitVec.ofInt n), BitVec.ofInt_natCast, hones]

theorem remS_eq (hn : 0 < n) (u v : BitVec n) : remS u v = BitVec.ofInt n (remR n u.toNat v.toNat) := by
  simp only [remS, remR, eq_zero_iff_toNat, overflows_iff hn, apply_ite (BitVec.ofInt n), ofInt_sgn hn, toInt_eq_sgn hn]
  rfl

theorem remU_eq (u v : BitVec n) : remU u v = BitVec.ofInt n (remuR u.toNat v.toNat) := by
  simp only [remU, remuR, eq_zero_iff_toNat, apply_ite (BitVec.ofInt n), ofInt_toNat]
  rfl

/-! ## Comparisons -/

theorem ite_eq_ofInt {p q : Prop} [Decidable p] [Decidable q] (h : p ↔ q) (u v : BitVec n) :
    (if p then u else v) = BitVec.ofInt n (if q then (u.toNat : Int) else v.toNat) := by
  simp only [h, apply_ite (BitVec.ofInt n), ofInt_toNat]

theorem sle_iff_sgn (hn : 0 < n) (u v : BitVec n) : u.sle v = true ↔ sgn n u.toNat ≤ sgn n v.toNat := by
  rw [BitVec.sle_iff_toInt_le, toInt_eq_sgn hn, toInt_eq_sgn hn]

theorem flagWord_eq {b c : Bool} (h : b = c) : flagWord b = BitVec.ofInt 64 (one c) := by
  subst h
  cases b <;> rfl

/-! ## Bitwise operations and shifts -/

theorem and_eq_ofInt (u v : BitVec n) : u &&& v = BitVec.ofInt n ((u.toNat &&& v.toNat : Nat) : Int) := by
  rw [BitVec.ofInt_natCast, ← BitVec.toNat_and, BitVec.ofNat_toNat, BitVec.setWidth_eq]

theorem or_eq_ofInt (u v : BitVec n) : u ||| v = BitVec.ofInt n ((u.toNat ||| v.toNat : Nat) : Int) := by
  rw [BitVec.ofInt_natCast, ← BitVec.toNat_or, BitVec.ofNat_toNat, BitVec.setWidth_eq]

theorem xor_eq_ofInt (u v : BitVec n) : u ^^^ v = BitVec.ofInt n ((u.toNat ^^^ v.toNat : Nat) : Int) := by
  rw [BitVec.ofInt_natCast, ← BitVec.toNat_xor, BitVec.ofNat_toNat, BitVec.setWidth_eq]

theorem andn_eq_ofInt (u v : BitVec n) : u &&& ~~~ v = BitVec.ofInt n ((u.toNat &&& (2 ^ n - 1 - v.toNat) : Nat) : Int) := by
  rw [and_eq_ofInt, BitVec.toNat_not]

theorem shl_eq_ofInt (u : BitVec n) (k : Nat) : u <<< k = BitVec.ofInt n (shlR u.toNat k) :=
  eq_ofInt_of_toNat (by rw [BitVec.toNat_shiftLeft, Nat.shiftLeft_eq])

theorem shr_eq_ofInt (u : BitVec n) (k : Nat) : u >>> k = BitVec.ofInt n (shrR u.toNat k) :=
  eq_ofInt_of_toNat (by
    rw [BitVec.toNat_ushiftRight, Nat.shiftRight_eq_div_pow, Nat.mod_eq_of_lt ((Nat.div_le_self _ _).trans_lt u.isLt)])

theorem sar_eq_ofInt (hn : 0 < n) (u : BitVec n) (k : Nat) : u.sshiftRight k = BitVec.ofInt n (sarR n u.toNat k) := by
  rw [← BitVec.ofInt_toInt (x := u.sshiftRight k), BitVec.toInt_sshiftRight, Int.shiftRight_eq_div_pow, toInt_eq_sgn hn, sarR]
  norm_cast

/-- The two parts of a rotated value do not overlap: their union is their sum. -/
theorem rotL_eq (u : BitVec n) {k : Nat} (hk : k ≤ n) : rotL u k = BitVec.ofInt n (rotlR n u.toNat k) := by
  have hdisj : u.toNat / 2 ^ (n - k) < 2 ^ k := by
    rw [Nat.div_lt_iff_lt_mul (Nat.two_pow_pos _), ← Nat.pow_add, Nat.add_sub_cancel' hk]
    exact u.isLt
  have hlow : u.toNat * 2 ^ k % 2 ^ n = (u.toNat % 2 ^ (n - k)) <<< k := by
    rw [Nat.shiftLeft_eq, ← Nat.mul_mod_mul_right, ← Nat.pow_add, Nat.sub_add_cancel hk]
  have hor : (u.toNat * 2 ^ k % 2 ^ n ||| u.toNat / 2 ^ (n - k)) < 2 ^ n :=
    Nat.or_lt_two_pow (Nat.mod_lt _ (Nat.two_pow_pos n)) ((Nat.div_le_self _ _).trans_lt u.isLt)
  have hsum : (u.toNat * 2 ^ k % 2 ^ n ||| u.toNat / 2 ^ (n - k)) = u.toNat * 2 ^ k % 2 ^ n + u.toNat / 2 ^ (n - k) := by
    rw [hlow, Nat.shiftLeft_add_eq_or_of_lt hdisj]
  apply eq_ofInt_of_toNat
  rw [rotL, BitVec.toNat_or, BitVec.toNat_shiftLeft, BitVec.toNat_ushiftRight, Nat.shiftLeft_eq, Nat.shiftRight_eq_div_pow,
    ← Nat.mod_eq_of_lt hor, hsum, Nat.mod_add_mod]

/-! ## Counts -/

theorem length_filter_range_succ (p : Nat → Bool) (m : Nat) :
    ((List.range (m + 1)).filter p).length = (if p m then 1 else 0) + ((List.range m).filter p).length := by
  rw [List.range_succ, List.filter_append, List.length_append, List.filter_singleton, Nat.add_comm]
  cases p m <;> rfl

/-- How many of the first numbers lie at or above a bound. -/
theorem length_filter_range_ge {p : Nat → Bool} {b : Nat} (h : ∀ i, p i = decide (b ≤ i)) (m : Nat) :
    ((List.range m).filter p).length = m - b := by
  induction m with
  | zero => simp
  | succ m ih =>
    rw [length_filter_range_succ, ih, h]
    by_cases hb : b ≤ m
    · simp only [hb, decide_true, if_true]; omega
    · simp only [hb, decide_false, Bool.false_eq_true, if_false]; omega

/-- How many of the first numbers lie below a bound. -/
theorem length_filter_range_lt {p : Nat → Bool} {b m : Nat} (h : ∀ i < m, p i = decide (i < b)) :
    ((List.range m).filter p).length = min b m := by
  induction m with
  | zero => simp
  | succ m ih =>
    rw [length_filter_range_succ, ih fun i hi => h i (by omega), h m (by omega)]
    by_cases hb : m < b
    · simp only [hb, decide_true, if_true]; omega
    · simp only [hb, decide_false, Bool.false_eq_true, if_false]; omega

theorem clzOf_eq (u : BitVec n) : clzOf u = BitVec.ofInt n (clzR n u.toNat) := by
  have hcount : clzR n u.toNat = ((if u.toNat = 0 then n else n - 1 - Nat.log2 u.toNat : Nat) : Int) := by
    rw [clzR]
    congr 1
    by_cases h0 : u.toNat = 0
    · rw [if_pos h0, length_filter_range_ge (b := 0) fun i => by simp [h0]]
      rfl
    · rw [if_neg h0, length_filter_range_ge (b := Nat.log2 u.toNat + 1) fun i => decide_eq_decide.mpr (Nat.log2_lt h0).symm]
      omega
  rw [hcount, BitVec.ofInt_natCast, apply_ite (BitVec.ofNat n), clzOf]
  simp only [eq_zero_iff_toNat]

/-- Where no bit below `i` is set, the search from `i` on finds how many low bits are clear. -/
theorem lt_lowBit_iff (u : BitVec n) {i fuel : Nat} (hn : i + fuel = n) (hi : ∀ k < i, u.getLsbD k = false) {j : Nat} (hj : j < n) :
    j < lowBit u i fuel ↔ ∀ k ≤ j, u.getLsbD k = false := by
  induction fuel generalizing i with
  | zero => exact ⟨fun _ k hk => hi k (by omega), fun _ => hj⟩
  | succ fuel ih =>
    rw [lowBit]
    by_cases hb : u.getLsbD i = true
    · rw [if_pos hb]
      refine ⟨fun hlt k hk => hi k (by omega), fun hclear => Nat.lt_of_not_le fun hle => ?_⟩
      exact absurd (hb.symm.trans (hclear i hle)) (by decide)
    · rw [if_neg hb]
      refine ih (by omega) fun k hk => ?_
      rcases Nat.lt_succ_iff_lt_or_eq.mp hk with hlt | rfl
      · exact hi k hlt
      · exact Bool.eq_false_iff.mpr hb

theorem lowBit_le (u : BitVec n) {i fuel : Nat} (hn : i + fuel = n) : lowBit u i fuel ≤ n := by
  induction fuel generalizing i with
  | zero => exact Nat.le_refl n
  | succ fuel ih =>
    rw [lowBit]
    split
    · omega
    · exact ih (by omega)

/-- A number is a multiple of a power of two where its low bits are clear. -/
theorem mod_two_pow_eq_zero_iff (x m : Nat) : x % 2 ^ (m + 1) = 0 ↔ ∀ k ≤ m, x.testBit k = false := by
  refine ⟨fun h k hk => ?_, fun h => Nat.eq_of_testBit_eq fun k => ?_⟩
  · have hbit := Nat.testBit_mod_two_pow x (m + 1) k
    simpa [h, Nat.lt_succ_iff.mpr hk] using hbit.symm
  · rw [Nat.testBit_mod_two_pow, Nat.zero_testBit, Bool.and_eq_false_iff]
    by_cases hk : k ≤ m
    · exact .inr (h k hk)
    · exact .inl (decide_eq_false (by omega))

theorem ctzOf_eq (u : BitVec n) : ctzOf u = BitVec.ofInt n (ctzR n u.toNat) := by
  have hcount : ∀ i < n, decide (u.toNat % 2 ^ (i + 1) = 0) = decide (i < lowBit u 0 n) := fun i hi => by
    rw [decide_eq_decide, mod_two_pow_eq_zero_iff, lt_lowBit_iff u (Nat.zero_add n) (fun k hk => absurd hk (Nat.not_lt_zero k)) hi]
    rfl
  rw [ctzR, length_filter_range_lt hcount, Nat.min_eq_left (lowBit_le u (Nat.zero_add n)), BitVec.ofInt_natCast, ctzOf]

theorem popNat_eq (x m : Nat) : popNat x m = ((List.range m).filter fun i => x.testBit i).length := by
  induction m with
  | zero => rfl
  | succ m ih => rw [popNat, length_filter_range_succ, ih]

theorem popOf_eq (u : BitVec n) : popOf u = BitVec.ofInt n (popcR n u.toNat) := by
  rw [popOf, popNat_eq, popcR, BitVec.ofInt_natCast]

/-! ## Bits and bytes reordered -/

/-- Bit `i` of a number of binary digits is its digit `i`. -/
theorem testBit_digits (b : Nat → Bool) (m i : Nat) : (digits 2 m fun k => (b k).toNat).testBit i = (decide (i < m) && b i) := by
  induction m generalizing b i with
  | zero => simp [digits]
  | succ m ih =>
    have hsplit : (b 0).toNat + 2 * (digits 2 m fun k => (b (k + 1)).toNat) = Nat.bit (b 0) (digits 2 m fun k => (b (k + 1)).toNat) := by
      rw [Nat.bit_val, Nat.add_comm]
    rw [digits_succ, hsplit]
    cases i with
    | zero => simp
    | succ i => rw [Nat.testBit_bit_succ, ih fun k => b (k + 1)]; simp

theorem reverse_eq (u : BitVec n) : u.reverse = BitVec.ofInt n (brevR n u.toNat) := by
  rw [brevR, BitVec.ofInt_natCast]
  refine BitVec.eq_of_getLsbD_eq fun i hi => ?_
  rw [BitVec.getLsbD_reverse, BitVec.getMsbD, BitVec.getLsbD_ofNat, testBit_digits]
  simp [hi, BitVec.getLsbD]

theorem digits_succ_last (w m : Nat) (f : Nat → Nat) : digits w (m + 1) f = digits w m f + f m * w ^ m := by
  simp [digits, List.range_succ]

theorem digits_congr {w m : Nat} {f g : Nat → Nat} (h : ∀ i < m, f i = g i) : digits w m f = digits w m g := by
  unfold digits
  exact congrArg List.sum (List.map_congr_left fun i hi => by rw [h i (List.mem_range.mp hi)])

theorem natOfBytes_concat (bs : List Byte) (b : Byte) : natOfBytes (bs ++ [b]) = natOfBytes bs + b.toNat * 256 ^ bs.length := by
  induction bs with
  | nil => simp [natOfBytes]
  | cons c cs ih =>
    simp only [List.cons_append, natOfBytes, ih, List.length_cons, Nat.pow_succ]
    ring

/-- The bytes of a number in the opposite order: byte `i` is byte `m − 1 − i` of it. -/
theorem natOfBytes_reverse (m x : Nat) :
    natOfBytes (bytesOfNat m x).reverse = digits 256 m fun i => x / 256 ^ (m - 1 - i) % 256 := by
  induction m generalizing x with
  | zero => rfl
  | succ m ih =>
    have hrest : (digits 256 m fun i => x / 256 ^ (m + 1 - 1 - i) % 256) = digits 256 m fun i => x / 256 / 256 ^ (m - 1 - i) % 256 :=
      digits_congr fun i hi => by rw [Nat.div_div_eq_div_mul, ← Nat.pow_succ', show (m - 1 - i).succ = m + 1 - 1 - i by omega]
    rw [bytesOfNat, List.reverse_cons, natOfBytes_concat, ih, digits_succ_last, hrest, List.length_reverse, bytesOfNat_length,
      BitVec.toNat_ofNat]
    simp

theorem bswapOf_eq (u : BitVec n) : bswapOf u = BitVec.ofInt n (bswapR n u.toNat) := by
  rw [bswapOf, natOfBytes_reverse, bswapR, BitVec.ofInt_natCast]

theorem sextLow_eq (hn : 0 < n) (u : Word) : (u.setWidth n).signExtend 64 = BitVec.ofInt 64 (sgn n (u.toNat % 2 ^ n)) := by
  rw [BitVec.signExtend, toInt_eq_sgn hn, BitVec.toNat_setWidth]

end

/-! ## Carry-less products -/

theorem foldl_clm (u v m : Nat) :
    (List.range m).foldl (fun acc i => if v.testBit i then acc ^^^ (u * 2 ^ i) else acc) 0 = clmNat u v m := by
  induction m with
  | zero => rfl
  | succ m ih =>
    rw [List.range_succ, List.foldl_append, ih, clmNat]
    by_cases hb : v.testBit m = true
    · simp only [List.foldl_cons, List.foldl_nil, if_pos hb]
      exact Nat.xor_comm _ _
    · simp only [List.foldl_cons, List.foldl_nil, if_neg hb]
      exact (Nat.zero_xor _).symm

theorem clmOf_eq (u v : Word) (k : Nat) : clmOf u v k = BitVec.ofInt 64 ((clm u.toNat v.toNat / 2 ^ k : Nat) : Int) := by
  rw [clmOf, clm, foldl_clm, BitVec.ofInt_natCast]

end Sys2Proof.Machine
end

section
/-! O8: the integer instructions on registers (05_integer R95, R96), each by its shape and its operation. -/

namespace Sys2Proof.Machine
open Sys2Proof Claims

/-! ## A shape writes the result of the table (R92) -/

section
variable {s : State} (hs : s.regOk) {d a b e : Reg} {v : Word}
include hs

theorem State.bin_result {F : Word → Word → Word} {f : Nat → Nat → Int} (hr : intBin s.g 64 d a b f = some (e, v))
    (hF : ∀ x y : Word, F x y = BitVec.ofInt 64 (f x.toNat y.toNat)) : ∃ t, s.bin d a b F = .next t ∧ Wrote s t e v := by
  cases hr
  rw [sext_64, Nat.mod_eq_of_lt (s.g a).isLt, Nat.mod_eq_of_lt (s.g b).isLt, ← hF]
  exact State.bin_wrote hs d a b F

/-- A W form computes on bits 31:0 of its operands (R92). -/
theorem State.binW_result {F : Word32 → Word32 → Word32} {f : Nat → Nat → Int} (hr : intBin s.g 32 d a b f = some (e, v))
    (hF : ∀ x y : Word32, F x y = BitVec.ofInt 32 (f x.toNat y.toNat)) : ∃ t, s.binW d a b F = .next t ∧ Wrote s t e v := by
  cases hr
  rw [sext_eq (by decide), ← BitVec.toNat_setWidth, ← BitVec.toNat_setWidth, ← hF]
  exact State.binW_wrote hs d a b F

theorem State.un_result {F : Word → Word} {f : Nat → Int} (hr : intUn s.g 64 d a f = some (e, v))
    (hF : ∀ x : Word, F x = BitVec.ofInt 64 (f x.toNat)) : ∃ t, s.un d a F = .next t ∧ Wrote s t e v := by
  cases hr
  rw [sext_64, Nat.mod_eq_of_lt (s.g a).isLt, ← hF]
  exact State.un_wrote hs d a F

theorem State.unW_result {F : Word32 → Word32} {f : Nat → Int} (hr : intUn s.g 32 d a f = some (e, v))
    (hF : ∀ x : Word32, F x = BitVec.ofInt 32 (f x.toNat)) : ∃ t, s.unW d a F = .next t ∧ Wrote s t e v := by
  cases hr
  rw [sext_eq (by decide), ← BitVec.toNat_setWidth, ← hF]
  exact State.unW_wrote hs d a F

end

/-! ## The tables of R96 -/

theorem amount_le {n : Nat} (hn : 0 < n) (v : BitVec n) : amount v ≤ n := (Nat.mod_lt _ hn).le

/-- Arithmetic, quotients and comparisons. -/
theorem exec_arith {i : Instr} {s : State} {e : Reg} {v : Word} (hs : s.regOk) (h : arithResult s.g i = some (e, v)) :
    ∃ t, exec i s = .next t ∧ Wrote s t e v := by
  unfold arithResult at h
  unfold exec
  cases i with
  | add d a b => exact State.bin_result hs h add_eq_ofInt
  | addw d a b => exact State.binW_result hs h add_eq_ofInt
  | sub d a b => exact State.bin_result hs h sub_eq_ofInt
  | subw d a b => exact State.binW_result hs h sub_eq_ofInt
  | mul d a b => exact State.bin_result hs h mul_eq_ofInt
  | mulw d a b => exact State.binW_result hs h mul_eq_ofInt
  | mulh d a b => exact State.bin_result hs h mulHi_eq
  | mulhu d a b => exact State.bin_result hs h fun _ _ => rfl
  | div d a b => exact State.bin_result hs h (divS_eq (by decide))
  | divw d a b => exact State.binW_result hs h (divS_eq (by decide))
  | divu d a b => exact State.bin_result hs h divU_eq
  | divuw d a b => exact State.binW_result hs h divU_eq
  | rem d a b => exact State.bin_result hs h (remS_eq (by decide))
  | remw d a b => exact State.binW_result hs h (remS_eq (by decide))
  | remu d a b => exact State.bin_result hs h remU_eq
  | remuw d a b => exact State.binW_result hs h remU_eq
  | min d a b => exact State.bin_result hs h fun x y => ite_eq_ofInt (sle_iff_sgn (by decide) x y) x y
  | max d a b => exact State.bin_result hs h fun x y => ite_eq_ofInt (sle_iff_sgn (by decide) y x) x y
  | minu d a b => exact State.bin_result hs h fun x y => ite_eq_ofInt BitVec.ule_iff_toNat_le x y
  | maxu d a b => exact State.bin_result hs h fun x y => ite_eq_ofInt BitVec.ule_iff_toNat_le x y
  | seq d a b => exact State.bin_result hs h fun x y => flagWord_eq (beq_eq_toNat_beq x y)
  | slt d a b => exact State.bin_result hs h fun x y => flagWord_eq (slt_eq_sgn (by decide) x y)
  | sltu d a b => exact State.bin_result hs h fun _ _ => flagWord_eq rfl
  | _ => cases h

/-- Logic, shifts, counts, reorderings and carry-less products. -/
theorem exec_bits {i : Instr} {s : State} {e : Reg} {v : Word} (hs : s.regOk) (h : bitResult s.g i = some (e, v)) :
    ∃ t, exec i s = .next t ∧ Wrote s t e v := by
  unfold bitResult at h
  unfold exec
  cases i with
  | and d a b => exact State.bin_result hs h and_eq_ofInt
  | or d a b => exact State.bin_result hs h or_eq_ofInt
  | xor d a b => exact State.bin_result hs h xor_eq_ofInt
  | andn d a b => exact State.bin_result hs h andn_eq_ofInt
  | shl d a b => exact State.bin_result hs h fun x y => shl_eq_ofInt x (amount y)
  | shlw d a b => exact State.binW_result hs h fun x y => shl_eq_ofInt x (amount y)
  | shr d a b => exact State.bin_result hs h fun x y => shr_eq_ofInt x (amount y)
  | shrw d a b => exact State.binW_result hs h fun x y => shr_eq_ofInt x (amount y)
  | sar d a b => exact State.bin_result hs h fun x y => sar_eq_ofInt (by decide) x (amount y)
  | sarw d a b => exact State.binW_result hs h fun x y => sar_eq_ofInt (by decide) x (amount y)
  | rotl d a b => exact State.bin_result hs h fun x y => rotL_eq x (amount_le (by decide) y)
  | rotlw d a b => exact State.binW_result hs h fun x y => rotL_eq x (amount_le (by decide) y)
  | clz d a => exact State.un_result hs h clzOf_eq
  | clzw d a => exact State.unW_result hs h clzOf_eq
  | ctz d a => exact State.un_result hs h ctzOf_eq
  | ctzw d a => exact State.unW_result hs h ctzOf_eq
  | popc d a => exact State.un_result hs h popOf_eq
  | popcw d a => exact State.unW_result hs h popOf_eq
  | brev d a => exact State.un_result hs h reverse_eq
  | brevw d a => exact State.unW_result hs h reverse_eq
  | bswap d a => exact State.un_result hs h bswapOf_eq
  | bswapw d a => exact State.unW_result hs h bswapOf_eq
  | sextb d a => exact State.un_result hs h (sextLow_eq (by decide))
  | sexth d a => exact State.un_result hs h (sextLow_eq (by decide))
  | clmul d a b => exact State.bin_result hs h fun x y => (clmOf_eq x y 0).trans (by rw [Nat.pow_zero, Nat.div_one])
  | clmulh d a b => exact State.bin_result hs h fun x y => clmOf_eq x y 64
  | clmulr d a b => exact State.bin_result hs h fun x y => clmOf_eq x y 63
  | _ => cases h

/-- Settles O8: an arithmetic instruction or one on bits, each by its table. -/
theorem integerRegisterResults : Obligations.IntegerRegisterResults := by
  unfold Obligations.IntegerRegisterResults
  intro i s d v hs h
  rcases Option.or_eq_some_iff.mp h with harith | ⟨_, hbits⟩
  · exact exec_arith hs harith
  · exact exec_bits hs hbits

end Sys2Proof.Machine
end

section
/-! O9: immediates, shifts by a count, constants and SEL (05_integer R97 to R100), and the codes of their majors that are no instructions. -/

namespace Sys2Proof.Machine
open Sys2Proof Claims

/-! ## Immediates (R97) -/

theorem simm_toNat (i : BitVec 12) : (simm i).toNat = (imm i % 2 ^ 64).toNat := by
  rw [simm_eq, BitVec.toNat_ofInt]
  norm_cast

theorem sgn_simm (i : BitVec 12) : sgn 64 (simm i).toNat = imm i := by
  rw [← toInt_eq_sgn (by decide), simm, BitVec.toInt_signExtend_of_le (by decide), toInt_eq_imm]

theorem add_simm_eq (u : Word) (i : BitVec 12) : u + simm i = BitVec.ofInt 64 (u.toNat + imm i) := by
  rw [BitVec.ofInt_add, ofInt_toNat, simm_eq]

/-- The low half of an extended immediate is the immediate at 32 bits. -/
theorem lo32_simm (i : BitVec 12) : lo32 (simm i) = BitVec.ofInt 32 (imm i) := by
  rw [lo32, simm_eq, ← BitVec.toNat_inj, BitVec.toNat_setWidth, BitVec.toNat_ofInt, BitVec.toNat_ofInt]
  omega

theorem add_lo32_simm_eq (u : Word32) (i : BitVec 12) : u + lo32 (simm i) = BitVec.ofInt 32 (u.toNat + imm i) := by
  rw [BitVec.ofInt_add, ofInt_toNat, lo32_simm]

theorem slt_simm_eq (u : Word) (i : BitVec 12) : u.slt (simm i) = decide (sgn 64 u.toNat < imm i) := by
  rw [slt_eq_sgn (by decide), sgn_simm]

theorem ult_simm_eq (u : Word) (i : BitVec 12) : u.ult (simm i) = decide ((u.toNat : Int) < imm i % 2 ^ 64) := by
  have hnonneg : 0 ≤ imm i % 2 ^ 64 := Int.emod_nonneg _ (by decide)
  rw [BitVec.ult, decide_eq_decide, simm_toNat]
  omega

/-- An instruction with an immediate or a count writes what its table gives. -/
theorem exec_imm {i : Instr} {s : State} {e : Reg} {v : Word} (hs : s.regOk) (h : immResult s.g i = some (e, v)) :
    ∃ t, exec i s = .next t ∧ Wrote s t e v := by
  unfold immResult at h
  unfold exec
  cases i with
  | addi d a i => exact State.un_result hs h fun x => add_simm_eq x i
  | slti d a i => exact State.un_result hs h fun x => flagWord_eq (slt_simm_eq x i)
  | sltiu d a i => exact State.un_result hs h fun x => flagWord_eq (ult_simm_eq x i)
  | andi d a i => exact State.un_result hs h fun x => by rw [and_eq_ofInt, simm_toNat]
  | ori d a i => exact State.un_result hs h fun x => by rw [or_eq_ofInt, simm_toNat]
  | xori d a i => exact State.un_result hs h fun x => by rw [xor_eq_ofInt, simm_toNat]
  | addiw d a i => exact State.unW_result (F := fun x => x + lo32 (simm i)) hs h fun x => add_lo32_simm_eq x i
  | shli d a c => exact State.un_result hs h fun x => shl_eq_ofInt x c.toNat
  | shri d a c => exact State.un_result hs h fun x => shr_eq_ofInt x c.toNat
  | sari d a c => exact State.un_result hs h fun x => sar_eq_ofInt (by decide) x c.toNat
  | rotli d a c => exact State.un_result hs h fun x => rotL_eq x c.isLt.le
  | shliw d a c => exact State.unW_result hs h fun x => shl_eq_ofInt x c.toNat
  | shriw d a c => exact State.unW_result hs h fun x => shr_eq_ofInt x c.toNat
  | sariw d a c => exact State.unW_result hs h fun x => sar_eq_ofInt (by decide) x c.toNat
  | _ => cases h

/-! ## Constants and SEL (R99, R100) -/

theorem uimm_bits_eq (i : BitVec 20) : i ++ 0#12 = BitVec.ofInt 32 (i.toNat * 2 ^ 12 : Nat) :=
  eq_ofInt_of_toNat (by rw [toNat_append_eq, BitVec.toNat_ofNat]; omega)

theorem uimm_eq_sext (i : BitVec 20) : uimm i = sext 32 (i.toNat * 2 ^ 12 : Nat) := by
  rw [sext_eq (by decide), uimm, uimm_bits_eq]

theorem add_uimm_eq (p : Word) (i : BitVec 20) : p + uimm i = BitVec.ofInt 64 (p.toNat + sgn 32 (i.toNat * 2 ^ 12)) := by
  rw [BitVec.ofInt_add, ofInt_toNat, uimm_eq_sext, sext_natCast (by omega)]

theorem lt_zero_iff_sgn (u : Word) : u.slt 0#64 = true ↔ sgn 64 u.toNat < 0 := by
  rw [slt_eq_sgn (by decide), decide_eq_true_iff]
  rfl

/-- A SEL writes the second register where its condition holds. -/
theorem constResult_sel (g : Reg → Word) (p : Word) (c : SelCond) (d a b : Reg) :
    constResult g p (.sel c d a b) = if selCond c (g a) then some (d, g b) else none := by
  cases c with
  | eqz => simp only [constResult, selCond, beq_iff_eq]
  | nez => simp only [constResult, selCond, bne_iff_ne]
  | ltz => simp only [constResult, selCond, lt_zero_iff_sgn]
  | gez => simp only [constResult, selCond, Bool.not_eq_true', ← Bool.not_eq_true, lt_zero_iff_sgn, Int.not_lt]

theorem exec_sel (c : SelCond) (d a b : Reg) (s : State) :
    exec (.sel c d a b) s = if selCond c (s.g a) then (s.setG d (s.g b)).done else s.done := rfl

/-- LDHI, ADDPC, and SEL where its condition holds. -/
theorem exec_const {i : Instr} {s : State} {e : Reg} {v : Word} (hs : s.regOk) (h : constResult s.g s.pc i = some (e, v)) :
    ∃ t, exec i s = .next t ∧ Wrote s t e v := by
  cases i with
  | ldhi d i =>
    cases h
    rw [← uimm_eq_sext]
    exact ⟨_, rfl, State.wrote_setG hs _ _⟩
  | addpc d i =>
    cases h
    rw [← add_uimm_eq]
    exact ⟨_, rfl, State.wrote_setG hs _ _⟩
  | sel c d a b =>
    rw [constResult_sel, Option.ite_none_right_eq_some] at h
    obtain ⟨hc, hw⟩ := h
    cases hw
    rw [exec_sel, if_pos hc]
    exact ⟨_, rfl, State.wrote_setG hs _ _⟩
  | _ => cases h

/-- A SEL whose condition does not hold passes on. -/
theorem exec_sel_passes {c : SelCond} {d a b : Reg} {s : State} (h : constResult s.g s.pc (.sel c d a b) = none) :
    exec (.sel c d a b) s = .next (s.setPc (s.pc + 4#64)) := by
  have hc : ¬ selCond c (s.g a) = true := fun hc => by
    rw [constResult_sel, if_pos hc] at h
    cases h
  rw [exec_sel, if_neg hc]
  rfl

/-! ## Codes that are no instructions (R54, R97, R98, R100) -/

section
variable {w : Word32}

theorem decode_eq_none (h : decodeBody w = none) : decode w = none := by rw [decode, h]; rfl

theorem decInti_eq_none (h : fldFn3 w = 7#3) : decInti w = none := by rw [decInti, h]; rfl

/-- The high part of a field is not zero where the field reaches beyond its low part. -/
theorem extractLsb'_ne_zero {k m : Nat} {x : BitVec (k + m)} (h : 2 ^ k ≤ x.toNat) : x.extractLsb' k m ≠ 0 := by
  have hlt : x.toNat / 2 ^ k < 2 ^ m := Nat.div_lt_of_lt_mul (by rw [← Nat.pow_add]; exact x.isLt)
  have hpos : 0 < x.toNat / 2 ^ k := Nat.div_pos h (Nat.two_pow_pos k)
  rw [extractLsb'_eq_ofNat, ne_eq, ← BitVec.toNat_inj, BitVec.toNat_ofNat, Nat.mod_eq_of_lt hlt]
  exact hpos.ne'

theorem whenZero_eq_none {n : Nat} {x : BitVec n} (h : x ≠ 0) (o : Option Instr) : whenZero x o = none := if_neg h

/-- A SHI word names an instruction only where its count is below the width. -/
theorem decShi_eq_none (h : fldFn3 w = 7#3 ∨ 64 ≤ (fldImm12 w).toNat ∨ (4 ≤ (fldFn3 w).toNat ∧ 32 ≤ (fldImm12 w).toNat)) :
    decShi w = none := by
  have hcount : 32 ≤ (fldImm12 w).toNat → (fldImm12 w).extractLsb' 5 7 ≠ 0 := extractLsb'_ne_zero (k := 5) (m := 7)
  rcases h with h7 | h64 | ⟨h4, h32⟩
  · rw [decShi, h7]
    rfl
  · simp only [decShi, whenZero_eq_none (hcount (by omega)), whenZero_eq_none (extractLsb'_ne_zero (k := 6) (m := 6) h64)]
    split <;> rfl
  · simp only [decShi, whenZero_eq_none (hcount h32)]
    split
    · omega
    · omega
    · omega
    · omega
    all_goals rfl

theorem decSel_eq_none (h : 4 ≤ (fldFn w).toNat) : decSel w = none :=
  whenZero_eq_none (extractLsb'_ne_zero (k := 2) (m := 8) h) _

end

/-- Settles O9: the tables of R97 to R100, and the codes that the decoder leaves out. -/
theorem immediateAndSelectResults : Obligations.ImmediateAndSelectResults := by
  unfold Obligations.ImmediateAndSelectResults
  refine ⟨fun i s d v => exec_imm, ⟨fun i s d v => exec_const, fun c d a b s => exec_sel_passes⟩, fun w h => decode_eq_none ?_⟩
  rcases h with ⟨hm, hcode⟩ | ⟨hm, hcode⟩ | ⟨hm, hcode⟩
  · exact (decodeBody_inti hm).trans (decInti_eq_none hcode)
  · exact (decodeBody_shi hm).trans (decShi_eq_none hcode)
  · exact (decodeBody_sel hm).trans (decSel_eq_none hcode)

end Sys2Proof.Machine
end

section
/-! SUPPORT: where a local offset leads (R25, R26), the words of a scalar access (R121 to R125, R132), and an access of a context that has
nothing under way. -/

namespace Sys2Proof.Machine
open Sys2Proof Claims

/-! ## Physical addresses of local memory (R25, R26) -/

theorem State.pchCount_le (s : State) : s.pchCount ≤ 512 := by
  unfold State.pchCount State.pchs
  split
  · exact Nat.le_refl _
  · exact (List.length_filter_le _ _).trans (by simp)

theorem State.dramSize_le (s : State) : s.dramSize ≤ 0x8000000000 := by
  have := s.pchCount_le
  unfold State.dramSize
  omega

theorem localPa_ge (u off : Nat) : 0x900000000000 ≤ localPa u off := by
  unfold localPa localBase
  split <;> omega

theorem localPa_lt {u : Nat} (h : u < 1536) (off : Nat) : localPa u off < 0x910004000000 := by
  have hmod : off % localSize (kindOf u) < localSize (kindOf u) := Nat.mod_lt _ (by cases kindOf u <;> simp [localSize])
  unfold localPa localBase
  unfold kindOf at hmod ⊢
  split_ifs at hmod ⊢ with h1 h2
  · simp only [localSize, Config.sliceUnit0] at *
    omega
  · simp only [localSize, Config.sliceUnit0, Config.stackUnit0] at *
    omega
  · simp only [localSize, Config.stackUnit0] at *
    omega

/-- An address of the local windows or beyond is no DRAM and no silt. -/
theorem State.place_high {s : State} {pa : Nat} (h : 0x900000000000 ≤ pa) :
    (∀ p o, s.place pa ≠ .dram p o) ∧ ∀ sl o, s.place pa ≠ .silt sl o := by
  have hd := s.dramSize_le
  unfold State.place
  rw [if_neg (by omega), if_neg (by omega)]
  dsimp only
  constructor
  all_goals
    intro _ _ he
    repeat' split at he
    all_goals cases he

/-- An address below the host window lies within the device. -/
theorem State.place_low {s : State} {pa : Nat} (h : pa < 0xA00000000000) : (∀ d o, s.place pa ≠ .peer d o) ∧ s.place pa ≠ .control := by
  unfold State.place
  rw [if_neg (c := 0xA00000000000 ≤ pa ∧ _) (by omega), if_neg (c := 0xC00000000000 ≤ pa ∧ _) (by omega),
    if_neg (c := 0xE00000000000 ≤ pa ∧ _) (by omega)]
  refine ⟨fun d o => ?_, ?_⟩
  all_goals dsimp only; split_ifs <;> exact Place.noConfusion

/-- No array command holds an access to local memory (R275). -/
theorem State.siltWaits_localPa (s : State) (u off n po : Nat) : s.siltWaits (localPa u off) n po = false := by
  obtain ⟨_, hsilt⟩ := State.place_high (s := s) (localPa_ge u off)
  unfold State.siltWaits
  split
  · exact absurd ‹_› (hsilt _ _)
  · rfl

/-! ## The words of an access -/

theorem eaOfX_eq (g : Reg → Word) (a b : Reg) (size : Nat) : eaOfX g a b size = g a + g b * BitVec.ofNat 64 size := by
  rw [← BitVec.toNat_inj]
  simp [eaOfX, BitVec.toNat_add, BitVec.toNat_mul]

section
variable {i : Instr} {s : State}

theorem State.loadEa_M {d a : Reg} {imm : BitVec 12} {n : Nat} {sg : Bool} {f : LoadForm}
    (h : some ⟨d, eaOfM s.g a imm, n, sg, false⟩ = some f) :
    s.loadEa d (s.eaM a imm) n sg false = s.loadEa f.d f.ea f.size f.signed f.acq := by
  cases h
  rw [eaOfM_eq]
  rfl

theorem State.loadEa_X {d a b : Reg} {n : Nat} {sg : Bool} {f : LoadForm} (h : some ⟨d, eaOfX s.g a b n, n, sg, false⟩ = some f) :
    s.loadEa d (s.eaX a b n) n sg false = s.loadEa f.d f.ea f.size f.signed f.acq := by
  cases h
  rw [eaOfX_eq]
  rfl

theorem State.storeEa_M {d a : Reg} {imm : BitVec 12} {n : Nat} {f : StoreForm} (h : some ⟨s.g d, eaOfM s.g a imm, n, false⟩ = some f) :
    s.storeEa (s.g d) (s.eaM a imm) n false = s.storeEa f.data f.ea f.size f.rel := by
  cases h
  rw [eaOfM_eq]
  rfl

theorem State.storeEa_X {d a b : Reg} {n : Nat} {f : StoreForm} (h : some ⟨s.g d, eaOfX s.g a b n, n, false⟩ = some f) :
    s.storeEa (s.g d) (s.eaX a b n) n false = s.storeEa f.data f.ea f.size f.rel := by
  cases h
  rw [eaOfX_eq]
  rfl

theorem State.loadEa_A {d a : Reg} {z : LWidth} {f : LoadForm}
    (h : some ⟨d, s.g a, (loadShape z).1, (loadShape z).2, true⟩ = some f) :
    execLda z d a s = s.loadEa f.d f.ea f.size f.signed f.acq := by
  cases h
  rfl

theorem State.storeEa_L {d a : Reg} {z : SWidth} {f : StoreForm} (h : some ⟨s.g d, s.g a, storeSize z, true⟩ = some f) :
    execStl z d a s = s.storeEa f.data f.ea f.size f.rel := by
  cases h
  rfl

/-- A load is the load of its form (R121, R125, R142). -/
theorem exec_load {f : LoadForm} (h : loadForm s.g i = some f) : exec i s = s.loadEa f.d f.ea f.size f.signed f.acq := by
  unfold loadForm at h
  unfold exec
  cases i with
  | ldb d a imm => exact State.loadEa_M h
  | ldh d a imm => exact State.loadEa_M h
  | ldw d a imm => exact State.loadEa_M h
  | ldd d a imm => exact State.loadEa_M h
  | ldbu d a imm => exact State.loadEa_M h
  | ldhu d a imm => exact State.loadEa_M h
  | ldwu d a imm => exact State.loadEa_M h
  | ldxB d a b => exact State.loadEa_X h
  | ldxH d a b => exact State.loadEa_X h
  | ldxW d a b => exact State.loadEa_X h
  | ldxD d a b => exact State.loadEa_X h
  | ldxBu d a b => exact State.loadEa_X h
  | ldxHu d a b => exact State.loadEa_X h
  | ldxWu d a b => exact State.loadEa_X h
  | lda z d a => cases z <;> exact State.loadEa_A h
  | _ => cases h

theorem loadForm_size_pos {g : Reg → Word} {f : LoadForm} (h : loadForm g i = some f) : 0 < f.size := by
  unfold loadForm at h
  split at h <;> cases h <;> exact Nat.succ_pos _

/-- A store is the store of its form (R121, R125, R143). -/
theorem exec_store {f : StoreForm} (h : storeForm s.g i = some f) : exec i s = s.storeEa f.data f.ea f.size f.rel := by
  unfold storeForm at h
  unfold exec
  cases i with
  | stb d a imm => exact State.storeEa_M h
  | sth d a imm => exact State.storeEa_M h
  | stw d a imm => exact State.storeEa_M h
  | std d a imm => exact State.storeEa_M h
  | stxB d a b => exact State.storeEa_X h
  | stxH d a b => exact State.storeEa_X h
  | stxW d a b => exact State.storeEa_X h
  | stxD d a b => exact State.storeEa_X h
  | stl z d a => cases z <;> exact State.storeEa_L h
  | _ => cases h

theorem ordAcq_eq (o : Ord4) : ordAcq o = (o == .aq || o == .aqrl) := by cases o <;> rfl

theorem ordRel_eq (o : Ord4) : ordRel o = (o == .rl || o == .aqrl) := by cases o <;> rfl

theorem State.amo_form {op : AmoOp} {dbl : Bool} {o : Ord4} {d a b : Reg} {f : AtomicForm} (h : retForm s.g op dbl o d a b = some f) :
    s.amo op dbl o d a b = s.amoEa f.d f.ea f.op f.dbl f.v f.e f.acq f.rel := by
  cases h
  rw [← ordAcq_eq, ← ordRel_eq]
  rfl

theorem State.amoNr_form {op : AmoOp} {dbl rl : Bool} {a b : Reg} {f : AtomicForm} (h : noRetForm s.g op dbl rl a b = some f) :
    s.amoNr op dbl rl a b = s.amoEa f.d f.ea f.op f.dbl f.v f.e f.acq f.rel := by
  cases h
  rfl

/-- An atomic is the atomic of its form (R132). -/
theorem exec_atomic {f : AtomicForm} (h : atomicForm s.g i = some f) :
    exec i s = s.amoEa f.d f.ea f.op f.dbl f.v f.e f.acq f.rel := by
  unfold atomicForm at h
  unfold exec
  cases i with
  | amoadd w o d a b | amoand w o d a b | amoor w o d a b | amoxor w o d a b | amomin w o d a b | amomax w o d a b
  | amominu w o d a b | amomaxu w o d a b | amoswap w o d a b | amocas w o d a b | amofadd w o d a b | amofmin w o d a b
  | amofmax w o d a b => exact State.amo_form h
  | amoaddNr w rl a b | amoandNr w rl a b | amoorNr w rl a b | amoxorNr w rl a b | amominNr w rl a b | amomaxNr w rl a b
  | amominuNr w rl a b | amomaxuNr w rl a b | amofaddNr w rl a b | amofminNr w rl a b | amofmaxNr w rl a b =>
    exact State.amoNr_form h
  | _ => cases h

end

/-! ## The checks of an address (R107) -/

section
variable {s : State} {u c : Nat} {ea : Word} {size : Nat} {need : Need}

theorem State.checkEa_high (h : 2 ^ 58 ≤ ea.toNat) : s.checkEa u c ea size need = .error .access :=
  if_pos (mt (high6_eq_zero_iff ea).mp (Nat.not_lt.mpr h))

theorem State.checkEa_misaligned (h : ea.toNat < 2 ^ 58) (ha : ea.toNat % size ≠ 0) : s.checkEa u c ea size need = .error .align := by
  rw [State.checkEa, if_neg (not_not.mpr ((high6_eq_zero_iff ea).mpr h)), if_pos ha]

theorem State.checkEa_local (h : ea.toNat < 0x100000) (ha : ea.toNat % size = 0) :
    s.checkEa u c ea size need = .ok (s, .own ea.toNat true) := by
  rw [State.checkEa, if_neg (not_not.mpr ((high6_eq_zero_iff ea).mpr (by omega))), if_neg (not_not.mpr ha), if_pos h]

end

/-- A scalar access whose address fails a check traps with its cause and the address (R107). -/
theorem exec_access_fails {i : Instr} {s : State} {ea : Word} {size : Nat} {e : Cause} (h : accessOf s.g i = some (ea, size))
    (he : ∀ need, s.checkEa s.cur s.c ea size need = .error e) : exec i s = s.trap e ea := by
  unfold accessOf at h
  split at h
  · cases h
    rw [exec_load ‹_›, State.loadEa, he]
  · cases h
    rw [exec_store ‹_›, State.storeEa, he]
  · cases h
    rw [exec_atomic ‹_›, State.amoEa]
    erw [he]
  · cases h

/-! ## An access of a context that has nothing under way (R151) -/

section
variable {s : State}

theorem State.vectorBefore_eq {u c : Nat} (h : ∀ k ∈ (s.unit u).vq, k.ctx ≠ c) (po : Nat) : s.vectorBefore u c po = false := by
  refine List.any_eq_false.mpr fun k hk => ?_
  simp [h k hk]

/-- No EPOP, MPOP or NRWAIT of a context has yet to take its token or completion. -/
theorem State.acquireBefore_eq {u c : Nat} (h : ∀ e ∈ (s.ctx u c).defs, e.src.popPc = none) (po : Nat) :
    s.acquireBefore u c po = false := by
  refine List.any_eq_false.mpr fun e he => ?_
  simp [h e he]

end

end Sys2Proof.Machine

namespace Sys2Proof.Claims
open Machine

section
variable {s : State} (h : Alone s)
include h

theorem Alone.flight : s.flight = [] := h.1

theorem Alone.blocked : (s.ctx s.cur s.c).blocked = [] := by
  obtain ⟨-, hblocked, -⟩ := h
  exact hblocked

theorem Alone.vectorBefore (po : Nat) : s.vectorBefore s.cur s.c po = false := by
  obtain ⟨-, -, hvq, -⟩ := h
  exact State.vectorBefore_eq hvq po

theorem Alone.acquireBefore (po : Nat) : s.acquireBefore s.cur s.c po = false := by
  obtain ⟨-, -, -, hdefs⟩ := h
  refine State.acquireBefore_eq (fun e he => ?_) po
  cases hsrc : e.src with
  | epop p => exact absurd hsrc (hdefs e he p).1
  | mpop p =>
    obtain ⟨-, hmpop, -⟩ := hdefs e he p
    exact absurd hsrc hmpop
  | nrwait p =>
    obtain ⟨-, -, hwait⟩ := hdefs e he p
    exact absurd hsrc hwait
  | _ => rfl

theorem Alone.orderFree {r : Req} (hu : r.who.unit = s.cur) (hc : r.who.ctx = s.c)
    (hs : s.siltWaits r.pa (reqSize r) r.po = false) : s.orderFree r = true := by
  simp [State.orderFree, h.flight, hu, hc, h.blocked, h.vectorBefore, h.acquireBefore, hs]

/-- A store into the own block waits for the vector unit; nothing else holds issue where no vector instruction stands before. -/
theorem Alone.ownHold {off n : Nat} {store : Bool} (hb : store = true → s.inBlock s.cur s.c off n = false) :
    s.ownHold off n store = false := by
  cases store with
  | false => simp [State.ownHold, h.vectorBefore]
  | true => simp [State.ownHold, h.vectorBefore, hb rfl]

theorem Alone.ownWaits (ea : Word) (off n : Nat) (act : Action) (acq rel window : Bool) :
    s.ownWaits (s.ownReq ea off act acq rel) off n window = false := by
  obtain ⟨b, hb⟩ := s.fencedReq_eq (s.ownReq ea off act acq rel)
  have hfree : s.orderFree (s.fencedReq (s.ownReq ea off act acq rel)) = true := by
    rw [hb]
    exact h.orderFree rfl rfl (s.siltWaits_localPa ..)
  simp [State.ownWaits, hfree]

/-- An access of the own local memory acts at issue. -/
theorem Alone.ownAccess {ea : Word} {off n : Nat} {window store : Bool} {me : Option Nat} {k : State → Action} {acq rel : Bool}
    (hb : store = true → s.inBlock s.cur s.c off n = false) (post act : State → Out) :
    s.ownAccess ea off n window store me (fun t => t.ownReq ea off (k t) acq rel) post act = act s := by
  simp only [State.ownAccess, State.drain_eq (.inr h.flight), h.ownHold hb, h.ownWaits]
  rfl

end

end Sys2Proof.Claims
end

section
/-! O12, O13 and O14: loads and stores of the own local window (R77, R107, R108, R123 to R125), in range and out of it, and the checks that
come before every access. -/

namespace Sys2Proof.Machine
open Sys2Proof Claims

/-! ## Guarded regions and the window's range (R77, R108, R109) -/

section
variable {s : State} {u c off n : Nat} {me : Option Nat}

theorem State.guardedByOther_eq_false_iff : s.guardedByOther u me off n = false ↔
    ∀ d, d < 11 → me ≠ some d → s.inBlock u d off n = false ∧ s.inWindows u d off n = false := by
  simp only [State.guardedByOther, List.any_eq_false, List.mem_range, Bool.not_eq_true, Bool.and_eq_false_imp, Bool.or_eq_false_iff,
    Bool.not_eq_true', beq_eq_false_iff_ne, ne_eq]

theorem localInRange_iff : s.localInRange s.cur s.cx.priv off n = true ↔ InWindow s off n := by
  unfold State.localInRange State.fenceOf InWindow
  simp only [Bool.and_eq_true, decide_eq_true_eq, State.kind, State.ux]
  cases hp : s.cx.priv with
  | u => simp only [decide_eq_true_eq, Nat.le_min, forall_const]; tauto
  | s | m => simp

theorem localInRange_eq_false (h : ¬ InWindow s off n) : s.localInRange s.cur s.cx.priv off n = false := by
  rwa [← Bool.not_eq_true, localInRange_iff]

end

end Sys2Proof.Machine

namespace Sys2Proof.Claims
open Machine

section
variable {s : State} {off n : Nat} {me : Option Nat}

/-- A local offset that no region guards lies in no region of the issuing context either. -/
theorem Unguarded.own (h : Unguarded s off n) : s.inBlock s.cur s.c off n = false ∧ s.inWindows s.cur s.c off n = false :=
  State.guardedByOther_eq_false_iff.mp h.1 s.c h.2 (by simp)

theorem Unguarded.other (h : Unguarded s off n) : s.guardedByOther s.cur me off n = false :=
  State.guardedByOther_eq_false_iff.mpr fun d hd _ => State.guardedByOther_eq_false_iff.mp h.1 d hd (by simp)

end

end Sys2Proof.Claims

namespace Sys2Proof.Machine
open Sys2Proof Claims

/-! ## A local load and a local store (R77, R108) -/

section
variable {s : State} {u c off n : Nat}

theorem State.localLoad_eq (hg : s.guardedByOther u (some c) off n = false) (hb : s.inBlock u c off n = false)
    (hr : s.localInRange u (s.ctx u c).priv off n = true) (window : Bool) :
    s.localLoad u c off n window = .ok (s, s.getLocal u off n) := by
  simp [State.localLoad, hg, hb, hr]

theorem State.localStore_eq {bs : List Byte} (hg : s.guardedByOther u (some c) off bs.length = false)
    (hb : s.inBlock u c off bs.length = false) (hr : s.localInRange u (s.ctx u c).priv off bs.length = true) (window : Bool) :
    s.localStore u c off bs window = .ok (s.setLocal u off bs) := by
  simp [State.localStore, hg, hb, hr]

theorem State.localLoad_oor (hg : s.guardedByOther u (some c) off n = false) (hb : s.inBlock u c off n = false)
    (hw : s.inWindows u c off n = false) (hr : s.localInRange u (s.ctx u c).priv off n = false) :
    s.localLoad u c off n true = .ok (s.recordOor u c off n false, List.replicate n 0#8) := by
  simp [State.localLoad, hg, hb, hw, hr]

theorem State.localStore_oor {bs : List Byte} (hg : s.guardedByOther u (some c) off bs.length = false)
    (hb : s.inBlock u c off bs.length = false) (hw : s.inWindows u c off bs.length = false)
    (hr : s.localInRange u (s.ctx u c).priv off bs.length = false) :
    s.localStore u c off bs true = .ok (s.recordOor u c off bs.length true) := by
  simp [State.localStore, hg, hb, hw, hr]

/-- The bytes of the local window one by one. -/
theorem State.loadValue_getLocal (signed : Bool) (hn : 0 < n) (h : off + n ≤ localSize (kindOf u)) :
    extendBytes signed (s.getLocal u off n) = loadValue signed n fun k => s.mem.read (localPa u (off + k)) := by
  have hbytes : ∀ m ≤ n, (leNat m fun k => s.mem.read (localPa u off + k)) = leNat m fun k => s.mem.read (localPa u (off + k)) :=
    fun m hm => by
      refine congrArg List.sum (List.map_congr_left fun k hk => ?_)
      rw [List.mem_range] at hk
      dsimp only
      rw [localPa_add (by omega)]
  rw [State.getLocal, extendBytes_readBytes signed hn, loadValue, loadValue, hbytes n (Nat.le_refl n)]

theorem natOfBytes_replicate_zero (n : Nat) : natOfBytes (List.replicate n 0#8) = 0 := by
  induction n with
  | zero => rfl
  | succ n ih => simp [List.replicate_succ, natOfBytes, ih]

theorem extendBytes_replicate_zero (signed : Bool) (n : Nat) : extendBytes signed (List.replicate n 0#8) = 0#64 := by
  simp [extendBytes, natOfBytes_replicate_zero]

end

/-! ## LMOOR (R110) -/

/-- The fields of LMOOR side by side. -/
theorem lmoor_fields {off : Nat} (store : Bool) (p : Prop) [Decidable p] (h : off < 0x100000) :
    2 ^ 63 + b2n store * 2 ^ 62 + b2n (decide p) * 2 ^ 61 + off % 2 ^ 20
      = 2 ^ 63 + (if store then 2 ^ 62 else 0) + (if p then 2 ^ 61 else 0) + off := by
  rw [Nat.mod_eq_of_lt (b := 2 ^ 20) h]
  cases store <;> by_cases hp : p <;> simp [b2n, hp]

/-- What an out-of-range access of the issuing context leaves in LMOOR. -/
theorem State.recordOor_eq {s : State} {off : Nat} (n : Nat) (store : Bool) (h : off < 0x100000) :
    s.recordOor s.cur s.c off n store = s.modC fun x => { x with lmoor := oorRecord s off n store } := by
  refine State.modC_congr ?_
  have hf : s.localInRange s.cur .s off n = decide (off + n ≤ localSize s.kind) := Bool.and_true _
  dsimp only
  rw [oorRecord, hf, lmoor_fields store _ h]
  split <;> rfl

/-! ## A change of a unit that keeps its contexts -/

section
variable {s : State} {u : Nat} {f : UnitState → UnitState}

theorem State.c_modUnit (hc : (f (s.unit u)).cur = (s.unit u).cur) : (s.modUnit u f).c = s.c := by
  rw [State.c, State.modUnit_cur, State.c]
  by_cases e : s.cur = u
  · rw [e, State.unit_modUnit_same, hc]
  · rw [State.unit_modUnit_other s e]

theorem State.cx_modUnit (hc : (f (s.unit u)).cur = (s.unit u).cur) (hx : (f (s.unit u)).ctxs = (s.unit u).ctxs) :
    (s.modUnit u f).cx = s.cx := by
  rw [State.cx, State.c_modUnit hc, State.ctx_modUnit hx, State.modUnit_cur, State.cx]

end

/-! ## The acquire of a load (R142) -/

/-- The state with a load's acquire made, where it makes one. -/
def State.acquireIf (s : State) (acq : Bool) : State := if acq then s.acquire s.cur else s

section
variable (s : State) (acq : Bool)

@[simp] theorem State.cur_acquire (u : Nat) : (s.acquire u).cur = s.cur := by
  unfold State.acquire
  split <;> rfl

theorem State.cx_acquire (u : Nat) : (s.acquire u).cx = s.cx := by
  unfold State.acquire
  split
  · exact State.cx_modUnit rfl rfl
  · rfl

theorem State.cx_acquireIf : (s.acquireIf acq).cx = s.cx := by
  cases acq with
  | false => rfl
  | true => exact s.cx_acquire _

theorem State.cur_acquireIf : (s.acquireIf acq).cur = s.cur := by
  cases acq with
  | false => rfl
  | true => exact s.cur_acquire _

theorem State.mem_acquireIf : (s.acquireIf acq).mem = s.mem := by
  cases acq with
  | false => rfl
  | true => exact s.mem_acquire _

theorem State.cache_acquireIf (h : s.cur < 512) : (s.acquireIf true).ux.cache = [] := by
  have hk := (kindOf_far_iff s.cur).mpr h
  simp [State.acquireIf, State.ux, State.acquire, hk, State.rcClear]

end

/-- Registers are bytes of memory at the offsets of the window. -/
theorem State.g_congr {s t : State} (hcur : t.cur = s.cur) (hmem : t.mem = s.mem) (hoff : ∀ n, t.cx.regOff n = s.cx.regOff n) (r : Reg) :
    t.g r = s.g r := by
  have hread : ∀ x : State, x.g r = x.mem.read64 (localPa x.cur (x.cx.regOff r.toNat).toNat) := fun _ => rfl
  rw [hread, hread, hcur, hmem, hoff]

/-! ## Loads and stores of the local window -/

section
variable {s : State} {ea : Word} {size : Nat}

/-- A load of the local window of a context that has nothing under way defers the bytes that the window gives. -/
theorem State.loadEa_local {d : Reg} {signed acq : Bool} {s3 : State} {bs : List Byte} (ha : Alone s) (hu : s.upsets = [])
    (hea : ea.toNat < 0x100000) (hal : ea.toNat % size = 0)
    (hl : s.localLoad s.cur s.c ea.toNat size true = .ok (s3, bs)) (hu3 : s3.upsets = []) :
    s.loadEa d ea size signed acq = ((s3.deferG d (extendBytes signed bs)).acquireIf acq).done := by
  have hbad : s.ownBad ea.toNat size = false := by simp [State.ownBad, hu]
  rw [State.loadEa, State.checkEa_local hea hal]
  dsimp only
  rw [ha.ownAccess (by simp)]
  simp only [State.ownStale, Bool.not_true, Bool.false_and, Bool.false_eq_true, if_false, hbad, hl, State.logCorrected_eq hu3]
  rfl

theorem State.storeEa_local {data : Word} {rel : Bool} {s3 : State} (ha : Alone s) (hea : ea.toNat < 0x100000)
    (hal : ea.toNat % size = 0) (hb : s.inBlock s.cur s.c ea.toNat size = false)
    (hl : s.localStore s.cur s.c ea.toNat (bytesOf size data) true = .ok s3) : s.storeEa data ea size rel = s3.done := by
  rw [State.storeEa, State.checkEa_local hea hal]
  dsimp only
  rw [ha.ownAccess fun _ => hb]
  simp only [State.ownStale, Bool.not_true, Bool.false_and, Bool.false_eq_true, if_false, hl]

end

/-- What a load of the local window leaves of the issuing context. -/
theorem State.cx_loaded (s : State) (d : Reg) (v : Word) (acq : Bool) :
    ((s.deferG d v).acquireIf acq).advance.cx = { s.cx with defs := s.cx.defs ++ [⟨d, s.po, .value v, 0#5⟩], pc := s.pc + 4#64 } := by
  have hcx : (s.deferG d v).cx = { s.cx with defs := s.cx.defs ++ [⟨d, s.po, .value v, 0#5⟩] } := (s.defer_eq d (.value v)).1
  rw [State.advance, State.setPc, State.cx_modC, State.pc, State.cx_acquireIf, hcx, State.pc]

/-- Settles O12: the load of the local window in range, by the rule of a load of it. -/
theorem localLoadResults : Obligations.LocalLoadResults := by
  unfold Obligations.LocalLoadResults
  intro i s f hf ha hu hea hal hr hg hb
  have hload := State.loadEa_local (d := f.d) (signed := f.signed) (acq := f.acq) ha hu hea hal
    (State.localLoad_eq hg hb (localInRange_iff.mpr hr) true) hu
  rw [State.loadValue_getLocal f.signed (loadForm_size_pos hf) hr.1] at hload
  refine ⟨_, (exec_load hf).trans hload, ?_⟩
  generalize loadValue f.signed f.size (fun k => s.mem.read (localPa s.cur (f.ea.toNat + k))) = v
  have hcx := s.cx_loaded f.d v f.acq
  have hm : ((s.deferG f.d v).acquireIf f.acq).advance.mem = s.mem := by
    rw [State.advance_mem, State.mem_acquireIf, State.deferG_mem]
  have hgr : ∀ r, ((s.deferG f.d v).acquireIf f.acq).advance.g r = s.g r :=
    State.g_congr (by rw [State.advance_cur, State.cur_acquireIf, State.deferG_cur]) hm fun n => by
      rw [hcx]
      exact Ctx.regOff_congr rfl rfl rfl (Ctx.linear_congr rfl rfl rfl rfl rfl rfl rfl) n
  have hdefs := congrArg Ctx.defs hcx
  have hpc := congrArg Ctx.pc hcx
  refine ⟨hdefs, hpc, hm, hgr, fun hacq => ?_, fun hacq hfar => ?_⟩
  · rw [hacq] at hdefs hpc hm hgr ⊢
    exact ⟨hdefs, hpc, hm, hgr, rfl⟩
  · rw [hacq, State.advance, State.setPc, State.ux_modC]
    exact State.cache_acquireIf (s.deferG f.d v) hfar

/-- Settles O13: the store to the local window in range, by the rule of a store to it. -/
theorem localStoreResults : Obligations.LocalStoreResults := by
  unfold Obligations.LocalStoreResults
  intro i s f hf hm ha hea hal hr hg hb
  have hlen : (bytesOf f.size f.data).length = f.size := bytesOf_length _ _
  have hstore := State.storeEa_local (rel := f.rel) (data := f.data) ha hea hal hb
    (State.localStore_eq (by rwa [hlen]) (by rwa [hlen]) (by rw [hlen]; exact localInRange_iff.mpr hr) true)
  refine ⟨_, (exec_store hf).trans hstore, fun k hk => ?_, fun a h => ?_, Memory.wf_writeBytes _ _ hm, ?_, rfl⟩
  · have hin : f.ea.toNat + k < localSize (kindOf s.cur) := by
      have := hr.1
      simp only [State.kind] at this
      omega
    rw [localPa_add hin, State.advance_mem, State.setLocal, Memory.read_writeBytes_getElem hm _ _ (by rwa [hlen]), getElem_bytesOf]
  · rw [State.advance_mem, State.setLocal, Memory.read_writeBytes_other _ _ _ (by rwa [hlen])]
  · rw [State.pc_advance]
    rfl

/-! ## Out of range (R108, R110) -/

section
variable {i : Instr} {s : State}

theorem exec_load_oor {f : LoadForm} (hf : loadForm s.g i = some f) (ha : Alone s) (hu : s.upsets = []) (hea : f.ea.toNat < 0x100000)
    (hal : f.ea.toNat % f.size = 0) (hr : ¬ InWindow s f.ea.toNat f.size) (hg : Unguarded s f.ea.toNat f.size) :
    exec i s = (((s.modC fun x => { x with lmoor := oorRecord s f.ea.toNat f.size false }).deferG f.d 0#64).acquireIf f.acq).done := by
  obtain ⟨hb, hw⟩ := hg.own
  have hl := State.localLoad_oor hg.other hb hw (localInRange_eq_false hr)
  rw [State.recordOor_eq _ _ hea] at hl
  have hload := State.loadEa_local (d := f.d) (signed := f.signed) (acq := f.acq) ha hu hea hal hl hu
  rw [extendBytes_replicate_zero] at hload
  exact (exec_load hf).trans hload

theorem exec_store_oor {f : StoreForm} (hf : storeForm s.g i = some f) (ha : Alone s) (hea : f.ea.toNat < 0x100000)
    (hal : f.ea.toNat % f.size = 0) (hr : ¬ InWindow s f.ea.toNat f.size) (hg : Unguarded s f.ea.toNat f.size) :
    exec i s = (s.modC fun x => { x with lmoor := oorRecord s f.ea.toNat f.size true }).done := by
  obtain ⟨hb, hw⟩ := hg.own
  have hlen : (bytesOf f.size f.data).length = f.size := bytesOf_length _ _
  have hl := State.localStore_oor (bs := bytesOf f.size f.data) (by rw [hlen]; exact hg.other) (by rwa [hlen]) (by rwa [hlen])
    (by rw [hlen]; exact localInRange_eq_false hr)
  rw [hlen, State.recordOor_eq _ _ hea] at hl
  exact (exec_store hf).trans (State.storeEa_local ha hea hal hb hl)

end

/-- Settles O14: an access out of range records itself, and one whose address fails a check traps. -/
theorem addressChecks : Obligations.AddressChecks := by
  unfold Obligations.AddressChecks
  refine ⟨⟨fun i s f hf ha hu hea hal hr hg => ?_, fun i s f hf ha hea hal hr hg => ?_⟩,
    fun i s ea size h => ⟨fun hhigh => ?_, fun hlow hmis => ?_⟩⟩
  · refine ⟨_, exec_load_oor hf ha hu hea hal hr hg, ?_, ?_, ?_, ?_⟩
    · rw [State.cx_loaded, State.cx_modC]
      rfl
    · rw [State.advance_mem, State.mem_acquireIf, State.deferG_mem, State.modC_mem]
    · rw [State.pc, State.cx_loaded, State.pc_modC rfl]
    · rw [State.cx_loaded, State.cx_modC]
  · refine ⟨_, exec_store_oor hf ha hea hal hr hg, ?_, rfl, ?_, ?_⟩
    · rw [State.advance, State.setPc, State.cx_modC, State.cx_modC]
    · rw [State.pc_advance, State.pc_modC rfl]
    · rw [State.advance, State.setPc, State.cx_modC, State.cx_modC]
  · exact exec_access_fails h fun _ => State.checkEa_high hhigh
  · exact exec_access_fails h fun _ => State.checkEa_misaligned hlow hmis

end Sys2Proof.Machine
end

section
/-! O16: accesses that leave the unit, posted to their homes (R107, R119, R123, R124, R128, R132, R135, R136). -/

namespace Sys2Proof.Machine
open Sys2Proof Claims

/-! ## Where accesses are posted -/

section
variable {s : State}

theorem State.cx_advance (s : State) : s.advance.cx = { s.cx with pc := s.pc + 4#64 } := State.cx_modC s _

/-- A word that posts an access and passes: what is in flight after it, and what it leaves. -/
theorem State.post_advance (ha : s.async = true) (r : Req) :
    ∃ q, (s.post r).advance.flight = s.flight ++ [q] ∧ q.ea = r.ea ∧ q.pa = r.pa ∧ q.act = r.act ∧ q.who = r.who ∧ q.po = r.po
      ∧ q.acq = r.acq ∧ (s.post r).advance.mem = s.mem ∧ (s.post r).advance.pc = s.pc + 4#64
      ∧ (s.post r).advance.cx.defs = s.cx.defs := by
  obtain ⟨b, hb⟩ := s.fencedReq_eq r
  have hcx : (State.advance { s with flight := s.flight ++ [s.fencedReq r] }).cx = { s.cx with pc := s.pc + 4#64 } :=
    State.cx_advance _
  rw [State.post_async ha, State.advance_flight, State.advance_mem, State.pc, hcx]
  exact ⟨s.fencedReq r, rfl, by rw [hb], by rw [hb], by rw [hb], by rw [hb], by rw [hb], by rw [hb], rfl, rfl, rfl⟩

theorem State.pc_defer (d : Reg) (src : DefSrc) : (s.defer s.cur s.c d src).pc = s.pc := by
  rw [State.pc, (s.defer_eq d src).1, State.pc]

theorem State.defs_defer (d : Reg) (src : DefSrc) :
    (s.defer s.cur s.c d src).cx.defs = s.cx.defs ++ [⟨d, s.po, src, 0#5⟩] := congrArg Ctx.defs (s.defer_eq d src).1

/-- A load of a line that the read cache does not hold is posted with a result that waits for it (R116, R123). -/
theorem State.homeLoad_miss {pa : Nat} (ha : s.async = true) (hl : s.rcLine s.cur pa = none) (d : Reg) (ea : Word) (leaf : TlbEntry)
    (size : Nat) (signed acq : Bool) :
    ∃ line, s.homeLoad d ea pa leaf size signed acq
      = (s.defer s.cur s.c d .pending).post ⟨s.issuer s.cur s.c, s.po, s.pc, ea, pa, .load size signed s.po, acq, false, line⟩ := by
  refine ⟨! acq && s.rcMay s.cur pa leaf && ! s.coreStores s.cur pa size, ?_⟩
  simp only [State.homeLoad, hl, ha, Bool.true_or, if_true, ite_self]

/-- A store's bytes laid into its core's copy change nothing but the copy (R117). -/
theorem State.rcStore_keeps (u pa : Nat) (bs : List Byte) :
    (s.rcStore u pa bs).flight = s.flight ∧ (s.rcStore u pa bs).mem = s.mem ∧ (s.rcStore u pa bs).async = s.async
      ∧ (s.rcStore u pa bs).cx = s.cx := by
  unfold State.rcStore
  split
  · exact ⟨rfl, rfl, rfl, rfl⟩
  · exact ⟨rfl, rfl, rfl, State.cx_modUnit rfl rfl⟩

/-- The deferred results of a context after an atomic, with a result that waits where the atomic returns one (R132). -/
theorem State.amoDefer_keeps (d : Option Reg) : (s.amoDefer d .pending).flight = s.flight ∧ (s.amoDefer d .pending).mem = s.mem
    ∧ (s.amoDefer d .pending).async = s.async ∧ (s.amoDefer d .pending).pc = s.pc
    ∧ (s.amoDefer d .pending).cx.defs = s.cx.defs ++ (match d with | some d => [⟨d, s.po, .pending, 0#5⟩] | none => []) := by
  cases d with
  | none => exact ⟨rfl, rfl, rfl, rfl, (List.append_nil _).symm⟩
  | some d => exact ⟨rfl, rfl, rfl, s.pc_defer d _, s.defs_defer d _⟩

theorem State.queued_free {act : Out} (h : s.storesFull s.cur = false) : s.queued act = act := by simp [State.queued, h]

theorem State.queued_full {act : Out} (h : s.storesFull s.cur = true) : s.queued act = .next s.hold := by simp [State.queued, h]

end

/-! ## Each access at a home other than the own local memory -/

section
variable {s s1 : State} {ea : Word} {pa : Nat} {leaf : TlbEntry}

theorem State.storeEa_home {size : Nat} (hck : s.checkEa s.cur s.c ea size .store = .ok (s1, .home pa leaf)) (ha : s1.async = true)
    (data : Word) (rel : Bool) : s.storeEa data ea size rel = s1.queued
      (((s1.rcStore s1.cur pa (bytesOf size data)).tick).post
        ⟨s1.issuer s1.cur s1.c, s1.po, s1.pc, ea, pa, .store size data, false, rel, false⟩).done := by
  rw [State.storeEa, hck]
  simp only [State.drain_eq (.inl ha)]

theorem State.amoEa_home {dbl : Bool} (hck : s.checkEa s.cur s.c ea (if dbl then 8 else 4) .atomic = .ok (s1, .home pa leaf))
    (d : Option Reg) (op : AmoOp) (v e : Word) (acq rel : Bool) : s.amoEa d ea op dbl v e acq rel =
      if s1.place pa = .host then s.trap .access ea
      else s1.amoQueued d ((s1.amoDefer d .pending).post
        ⟨s1.issuer s1.cur s1.c, s1.po, s1.pc, ea, pa, .atomic op dbl v e (d.map fun _ => s1.po), acq, rel, false⟩).done := by
  have hck' : s.checkEa s.cur s.c ea (amoSize dbl) .atomic = .ok (s1, .home pa leaf) := hck
  rw [State.amoEa, hck']
  cases d <;> rfl

/-- A home of contributions: a DRAM home, or a word plot of a slice (R136). -/
def State.takesMerge (s : State) (pa : Nat) : Prop :=
  (∃ p off, s.place pa = .dram p off) ∨ ∃ sl off, s.place pa = .silt sl off ∧ ((s.slice sl).plot (off / 0x10000)).plane = false

theorem State.amerge_home {dbl : Bool} {a : Reg}
    (hck : s.checkEa s.cur s.c (s.g a) (if dbl then 8 else 4) .atomic = .ok (s1, .home pa leaf)) (fp : Bool) (k b : Reg) :
    (s1.takesMerge pa → s.amerge fp dbl k a b = s1.queued ((s1.tick).post
        ⟨s1.issuer s1.cur s1.c, s1.po, s1.pc, s.g a, pa, .merge fp dbl (s1.g b) ((s1.g k).toNat % 2 ^ 32), false, false, false⟩).done)
      ∧ (¬ s1.takesMerge pa → s.amerge fp dbl k a b = s.trap .access (s.g a)) := by
  have hck' : s.checkEa s.cur s.c (s.g a) (amoSize dbl) .atomic = .ok (s1, .home pa leaf) := hck
  unfold State.amerge State.takesMerge
  simp only [hck']
  cases hp : s1.place pa with
  | dram p off => simp
  | silt sl off => cases hpl : ((s1.slice sl).plot (off / 0x10000)).plane <;> simp [hpl]
  | _ => simp

end

theorem exec_amerge (fp dbl : Bool) (k a b : Reg) (s : State) :
    exec (if fp then .amergeFadd dbl k a b else .amergeAdd dbl k a b) s = s.amerge fp dbl k a b := by
  cases fp <;> rfl

/-- Settles O16: each access by what it posts, its own checks and the store queue before it. -/
theorem postedAccessLeavesAtItsHome : Obligations.PostedAccessLeavesAtItsHome := by
  unfold Obligations.PostedAccessLeavesAtItsHome
  refine ⟨fun i s s1 f pa leaf hf hck ha hl => ?_, fun i s s1 f pa leaf hf hck ha => ?_, fun i s s1 f pa leaf hf hck => ?_,
    fun fp dbl k a b s s1 pa leaf => ?_⟩
  · obtain ⟨line, hmiss⟩ := State.homeLoad_miss ha hl f.d f.ea leaf f.size f.signed f.acq
    have he : exec i s = (s1.homeLoad f.d f.ea pa leaf f.size f.signed f.acq).done := by
      rw [exec_load hf, State.loadEa, hck]
    rw [hmiss] at he
    obtain ⟨r, hflight, hea, hpa, hact, hwho, hpo, hacq, hmem, hpc, hdefs⟩ :=
      State.post_advance (s := s1.defer s1.cur s1.c f.d .pending) ha
        ⟨s1.issuer s1.cur s1.c, s1.po, s1.pc, f.ea, pa, .load f.size f.signed s1.po, f.acq, false, line⟩
    exact ⟨_, r, he, hflight, hea, hpa, hact, hwho, hpo, hacq, hmem, by rw [hpc, State.pc_defer], by rw [hdefs, State.defs_defer]⟩
  · have he := (exec_store hf).trans (State.storeEa_home hck ha f.data f.rel)
    refine ⟨fun hfull => by rw [he, State.queued_full hfull], fun hfree => ?_⟩
    rw [State.queued_free hfree] at he
    obtain ⟨hkflight, hkmem, hkasync, hkcx⟩ := s1.rcStore_keeps s1.cur pa (bytesOf f.size f.data)
    obtain ⟨r, hflight, hea, hpa, hact, hwho, hpo, -, hmem, hpc, hdefs⟩ :=
      State.post_advance (s := (s1.rcStore s1.cur pa (bytesOf f.size f.data)).tick) (hkasync.trans ha)
        ⟨s1.issuer s1.cur s1.c, s1.po, s1.pc, f.ea, pa, .store f.size f.data, false, f.rel, false⟩
    exact ⟨_, r, he, hflight.trans (by rw [State.tick_flight, hkflight]), hea, hpa, hact, hwho, hpo, hmem.trans hkmem,
      hpc.trans (congrArg (fun x : Ctx => x.pc + 4#64) hkcx), hdefs.trans (congrArg Ctx.defs hkcx)⟩
  · have he := (exec_atomic hf).trans (State.amoEa_home hck f.d f.op f.v f.e f.acq f.rel)
    refine ⟨fun hhost => by rw [he, if_pos hhost], fun hhost hd hfull => ?_, fun hhost ha hfree => ?_⟩
    · rw [he, if_neg hhost, hd]
      exact State.queued_full hfull
    · rw [if_neg hhost] at he
      have hq : ∀ act, s1.amoQueued f.d act = act := fun act => by
        cases hd : f.d with
        | none => exact State.queued_free (hfree hd)
        | some d => rfl
      rw [hq] at he
      obtain ⟨hkflight, hkmem, hkasync, hkpc, hkdefs⟩ := s1.amoDefer_keeps f.d
      obtain ⟨r, hflight, hea, hpa, hact, hwho, hpo, hacq, hmem, hpc, hdefs⟩ :=
        State.post_advance (s := s1.amoDefer f.d .pending) (hkasync.trans ha)
          ⟨s1.issuer s1.cur s1.c, s1.po, s1.pc, f.ea, pa, .atomic f.op f.dbl f.v f.e (f.d.map fun _ => s1.po), f.acq, f.rel, false⟩
      exact ⟨_, r, he, by rw [hflight, hkflight], hea, hpa, hwho, hact, hpo, hacq, hmem.trans hkmem, by rw [hpc, hkpc],
        hdefs.trans hkdefs⟩
  · intro i takes hck
    obtain ⟨hyes, hno⟩ := State.amerge_home hck fp k b
    have he : exec i s = s.amerge fp dbl k a b := exec_amerge fp dbl k a b s
    refine ⟨fun ht hfull => by rw [he, hyes ht, State.queued_full hfull], fun ht ha hfree => ?_, fun ht => he.trans (hno ht)⟩
    rw [hyes ht, State.queued_free hfree] at he
    obtain ⟨r, hflight, hea, hpa, hact, hwho, hpo, -, hmem, hpc, hdefs⟩ := State.post_advance (s := s1.tick) ha
      ⟨s1.issuer s1.cur s1.c, s1.po, s1.pc, s.g a, pa, .merge fp dbl (s1.g b) ((s1.g k).toNat % 2 ^ 32), false, false, false⟩
    exact ⟨_, r, he, hflight, hea, hpa, hwho, hpo, hact, hmem, hpc, hdefs⟩

end Sys2Proof.Machine
end

section
/-! O20: PREF and RCINV (R116, R117, R126, R127), and FENCE (R141, R144, R145). -/

namespace Sys2Proof.Machine
open Sys2Proof Claims

/-! ## A bounded list with an entry added (R116, R402) -/

section
variable {α : Type} {l : List α} {x : α} {limit : Nat}

theorem boundedAdd_room (h : l.length < limit) (free : Nat) : boundedAdd free limit l x = l ++ [x] := if_pos h

theorem mem_boundedAdd (free limit : Nat) (l : List α) (x : α) : x ∈ boundedAdd free limit l x := by
  unfold boundedAdd
  split <;> simp

theorem mem_of_mem_boundedAdd {free : Nat} {y : α} (h : y ∈ boundedAdd free limit l x) : y = x ∨ y ∈ l := by
  unfold boundedAdd at h
  split at h
  · exact (List.mem_append.mp h).symm.imp List.mem_singleton.mp id
  · exact (List.mem_append.mp h).symm.imp List.mem_singleton.mp List.mem_of_mem_eraseIdx

end

/-! ## The read cache of a unit (R116, R117) -/

section
variable {s : State}

/-- The state with the read cache of a unit replaced. -/
def State.withCache (s : State) (u : Nat) (k : List CacheLine) : State := s.modUnit u fun y => { y with cache := k }

theorem State.pc_withCache (u : Nat) (k : List CacheLine) : (s.withCache u k).pc = s.pc :=
  congrArg Ctx.pc (State.cx_modUnit (f := fun y => { y with cache := k }) rfl rfl)

@[simp] theorem State.cache_withCache (u : Nat) (k : List CacheLine) : ((s.withCache u k).unit u).cache = k :=
  congrArg UnitState.cache (State.unit_modUnit_same s u fun y => { y with cache := k })

theorem State.cache_modC (f : Ctx → Ctx) : (s.modC f).ux.cache = s.ux.cache := by rw [State.ux_modC]

/-- A word that replaces the read cache of its unit passes. -/
theorem State.withCache_done (k : List CacheLine) : (s.withCache s.cur k).done = .next ((s.withCache s.cur k).setPc (s.pc + 4#64)) :=
  State.done_eq (s.pc_withCache s.cur k)

theorem State.withCache_passes (k : List CacheLine) : (s.withCache s.cur k).advance = (s.withCache s.cur k).setPc (s.pc + 4#64) := by
  rw [State.advance, State.pc_withCache]

theorem State.acquire_far {u : Nat} (h : kindOf u = .far) : s.acquire u = s.withCache u [] := by
  rw [State.acquire, h]
  rfl

theorem State.acquire_near {u : Nat} (h : kindOf u ≠ .far) : s.acquire u = s := by
  unfold State.acquire
  split
  · exact absurd ‹_› h
  · rfl

/-- A read at the home of a place that the read cache takes is of bytes inside the device, the whole line. -/
theorem State.place_of_rcMay {u pa : Nat} {leaf : TlbEntry} (h : s.rcMay u pa leaf = true) :
    (∀ d o, s.place (pa / 64 * 64) ≠ .peer d o) ∧ s.place (pa / 64 * 64) ≠ .control := by
  have hlow : pa < 0xA00000000000 := by
    by_contra hhigh
    have hd := s.dramSize_le
    have hplace : (∀ p o, s.place pa ≠ .dram p o) ∧ (∀ sl o, s.place pa ≠ .silt sl o) ∧ ∀ v o, s.place pa ≠ .loc v o := by
      obtain ⟨hdram, hsilt⟩ := State.place_high (s := s) (pa := pa) (by omega)
      refine ⟨hdram, hsilt, fun v o he => ?_⟩
      unfold State.place at he
      rw [if_neg (by omega), if_neg (by omega), if_neg (by omega), if_neg (by omega)] at he
      dsimp only at he
      repeat' split at he
      all_goals cases he
    obtain ⟨hdram, hsilt, hloc⟩ := hplace
    unfold State.rcMay at h
    cases hp : s.place pa with
    | dram p o => exact hdram p o hp
    | silt sl o => exact hsilt sl o hp
    | loc v o => exact hloc v o hp
    | _ => simp [hp] at h
  exact State.place_low (by omega)

/-- The line of an address, filled from its home for an address space. -/
def State.lineAt (s : State) (asid : BitVec 12) (va pa : Nat) : CacheLine := ⟨pa / 64, va / 64, asid, s.physBytes (pa / 64 * 64) 64⟩

/-- A fill of a line that the cache does not hold, where no tile is stale and no error stands (R116). -/
theorem State.rcFill_eq {u pa : Nat} {leaf : TlbEntry} (hs : s.stale = []) (hu : s.upsets = []) (hm : s.rcMay u pa leaf = true)
    (hl : s.rcLine u pa = none) (asid : BitVec 12) (va : Nat) :
    s.rcFill u asid va pa =
      let t := s.withCache u (boundedAdd s.free 1024 (s.unit u).cache (s.lineAt asid va pa))
      if (s.unit u).cache.length < 1024 then t else t.useFree := by
  obtain ⟨hpeer, hcontrol⟩ := State.place_of_rcMay hm
  have hfilter : (s.unit u).cache.filter (fun l => l.pa != pa / 64) = (s.unit u).cache := by
    refine List.filter_eq_self.mpr fun l hlm => ?_
    have := List.find?_eq_none.mp hl l hlm
    simpa using this
  have hread := State.readHome_eq hs hu hpeer hcontrol 64
  unfold State.rcFill State.modUnit
  simp only [hread, hfilter]
  rfl

end

/-! ## PREF (R126) -/

section
variable {s s1 : State} {a : Reg} {i : BitVec 12}

theorem exec_pref (a : Reg) (i : BitVec 12) (s : State) : exec (.pref a i) s = (s.prefetch (eaOfM s.g a i)).done := by
  rw [eaOfM_eq]
  rfl

theorem exec_pref_nothing (h : s.prefetch (eaOfM s.g a i) = s) : exec (.pref a i) s = .next (s.setPc (s.pc + 4#64)) := by
  rw [exec_pref, h]
  rfl

theorem State.prefetch_elsewhere {ea : Word} (h : ∀ s1 pa leaf, s.checkEa s.cur s.c ea 1 .load ≠ .ok (s1, .home pa leaf)) :
    s.prefetch ea = s := by
  unfold State.prefetch
  split
  · exact absurd ‹_› (h _ _ _)
  · rfl

/-- A line may be filled by PREF: the core may cache it and does not hold it, a read of it does not fault, and its home holds nothing back. -/
def State.fillable (s : State) (pa : Nat) (leaf : TlbEntry) : Bool :=
  s.rcMay s.cur pa leaf && (s.rcLine s.cur pa).isNone && (s.lineFault (s.issuer s.cur s.c) (some (s.cur, s.c)) pa).isNone
    && ! s.accessWaits (pa / 64 * 64) 64 s.po

theorem State.fillable_iff {pa : Nat} {leaf : TlbEntry} : s.fillable pa leaf = true ↔
    ¬ (s.rcMay s.cur pa leaf = false ∨ s.rcLine s.cur pa ≠ none ∨ s.lineFault (s.issuer s.cur s.c) (some (s.cur, s.c)) pa ≠ none
      ∨ s.accessWaits (pa / 64 * 64) 64 s.po = true) := by
  simp only [State.fillable, Bool.and_eq_true, Option.isNone_iff_eq_none, Bool.not_eq_true', not_or, Bool.not_eq_false, not_not,
    Bool.not_eq_true, and_assoc, ne_eq]

theorem asidOf_eq (s : State) : asidOf s = s.cx.asr.extractLsb' 32 12 := (extractLsb'_eq_ofNat _ _ _).symm

theorem State.prefetch_home {ea : Word} {pa : Nat} {leaf : TlbEntry} (h : s.checkEa s.cur s.c ea 1 .load = .ok (s1, .home pa leaf)) :
    s.prefetch ea = if s1.fillable pa leaf then s1.rcFill s1.cur (asidOf s1) ea.toNat pa else s := by
  rw [State.prefetch, h, asidOf_eq]
  rfl

end

/-! ## RCINV (R127) -/

/-- A line of the 58-bit space holds a byte of a range taken modulo 2^64. -/
theorem lineMeets_iff {line : Nat} {a n : Word} (hl : line < 2 ^ 52) (hn : 0 < n.toNat) :
    lineMeets line a n = true ↔ ∃ k, k < n.toNat ∧ (a.toNat + k) % 2 ^ 64 / 64 = line := by
  have ha := a.isLt
  have hlt := n.isLt
  simp only [lineMeets, Bool.or_eq_true, decide_eq_true_eq, BitVec.toNat_sub, BitVec.toNat_ofNat]
  constructor
  · rintro (h | h)
    · exact ⟨_, h, by omega⟩
    · exact ⟨0, hn, by omega⟩
  · rintro ⟨k, hk, h⟩
    omega

section
variable {s : State} {a b : Reg}

theorem exec_rcinv (s : State) : exec .rcinv s = (s.acquire s.cur).done := rfl

theorem exec_rcinvRange (a b : Reg) (s : State) : exec (.rcinvRange a b) s =
    if s.g b = 0#64 then s.done
    else if 65536 < (s.g b).toNat then (s.acquire s.cur).done
    else (s.modU fun x => { x with cache := x.cache.filter fun l => ! (l.asid == asidOf s && lineMeets l.va (s.g a) (s.g b)) }).done := by
  rw [asidOf_eq]
  rfl

theorem acquire_done_far (h : s.kind = .far) :
    (s.acquire s.cur).done = .next ((s.modU fun y => { y with cache := [] }).setPc (s.pc + 4#64)) := by
  rw [State.acquire_far h]
  exact s.withCache_done []

theorem acquire_done_near (h : s.kind ≠ .far) : (s.acquire s.cur).done = .next (s.setPc (s.pc + 4#64)) := by
  rw [State.acquire_near h]
  rfl

end

/-! ## FENCE (R144, R145) -/

section
variable {s : State}

/-- The accesses before a FENCE rel stand before every later write of the context. -/
theorem State.fencedReq_waits {r a : Req} (hw : reqWrites r = true) (ha : a ∈ s.flight) (hu : a.who.unit = r.who.unit)
    (hc : a.who.ctx = r.who.ctx) (hf : a.po < (s.ctx r.who.unit r.who.ctx).fenced) (hpo : a.po < r.po) :
    s.mayPerform (s.fencedReq r) = false := by
  have hany : (s.flight.any fun a => a.who.unit == r.who.unit && a.who.ctx == r.who.ctx
      && decide (a.po < (s.ctx r.who.unit r.who.ctx).fenced)) = true := List.any_eq_true.mpr ⟨a, ha, by simp [hu, hc, hf]⟩
  have hrel : s.fencedReq r = { r with rel := true } := by simp only [State.fencedReq, hw, hany, Bool.true_or, Bool.and_self, Bool.or_true]
  have hppo : s.ppoBefore a { r with rel := true } = true := by simp [State.ppoBefore]
  have hfree : s.orderFree { r with rel := true } = false := by
    have hall : (s.flight.all fun a => ! (a.who.unit == r.who.unit && a.who.ctx == r.who.ctx && decide (a.po < r.po)
        && s.ppoBefore a { r with rel := true })) = false :=
      List.all_eq_false.mpr ⟨a, ha, by simp [hu, hc, hpo, hppo]⟩
    simp only [State.orderFree, hall, Bool.false_and]
  rw [hrel, State.mayPerform, hfree, Bool.and_false]

theorem State.readsBefore_beginFirst : s.beginFirst.readsBefore s.cur s.c = s.readsBefore s.cur s.c := by
  have hx : s.beginFirst.ctx s.cur s.c = _ := State.ctx_modCtx_same s s.cur s.c _
  have hv : (s.beginFirst.unit s.cur).vq = (s.unit s.cur).vq := by
    rw [State.beginFirst, State.modC, State.modCtx, State.unit_setCtx_same]
  rw [State.readsBefore, State.vectorReads, State.acquireBefore, hx, hv]
  rfl

theorem exec_fenceRel (z : Scope) (s : State) :
    exec (.fenceRel z) s = .next (((s.modC fun x => { x with fenced := s.po }).tick).setPc (s.pc + 4#64)) := by
  have hpc : ((s.modC fun x => { x with fenced := s.po }).tick).pc = s.pc := State.pc_modC (f := fun x => { x with fenced := s.po }) rfl
  exact State.done_eq hpc

theorem exec_fenceAcq (z : Scope) (hp : s.cx.parked = true) : exec (.fenceAcq z) s =
    .next (if s.readsBefore s.cur s.c then s.beginFirst.waitFirst else (s.beginFirst.acquire s.cur).advance) := by
  change execFenceAcq z s = _
  rw [execFenceAcq, State.parkFirst_parked hp, State.c_beginFirst, ← State.readsBefore_beginFirst]
  rfl

theorem exec_fenceFull (z : Scope) (hp : s.cx.parked = true) : exec (.fenceFull z) s =
    .next (if s.allPerformed s.cur s.c then (s.beginFirst.acquire s.cur).advance else s.beginFirst.waitFirst) := by
  change execFenceFull z s = _
  rw [execFenceFull, State.parkFirst_parked hp, State.c_beginFirst, ← State.allPerformed_beginFirst]
  rfl

theorem State.acquire_advance_far (h : s.kind = .far) : (s.beginFirst.acquire s.cur).advance =
    (s.beginFirst.modU fun y => { y with cache := [] }).setPc (s.pc + 4#64) := by
  have hpass := s.beginFirst.withCache_passes []
  rw [State.pc_beginFirst] at hpass
  rw [State.acquire_far h]
  exact hpass

theorem State.acquire_advance_near (h : s.kind ≠ .far) : (s.beginFirst.acquire s.cur).advance = s.beginFirst.setPc (s.pc + 4#64) := by
  rw [State.acquire_near h, State.advance_beginFirst]

/-- A word that waits keeps its PC, the read cache and memory. -/
theorem State.waitFirst_keeps (s : State) : s.waitFirst.pc = s.pc ∧ s.waitFirst.ux.cache = s.ux.cache ∧ s.waitFirst.mem = s.mem := by
  unfold State.waitFirst
  split
  · exact ⟨State.pc_modC rfl, s.cache_modC _, rfl⟩
  · exact ⟨State.pc_modC rfl, s.cache_modC _, rfl⟩

end

/-- Settles O20: PREF by what it may fill, RCINV and FENCE by their own equations. -/
theorem cacheAndFenceResults : Obligations.CacheAndFenceResults := by
  unfold Obligations.CacheAndFenceResults
  refine ⟨fun a i s h => exec_pref_nothing (State.prefetch_elsewhere h), fun a i s s1 pa leaf hck => ?_, fun s => ?_, fun a b s => ?_,
    exec_fenceRel, fun r a s hw ha hu hc hf hpo => State.fencedReq_waits hw ha hu hc hf hpo,
    fun c s hp => ?_⟩
  · intro refused line
    have hpre := State.prefetch_home hck
    have hfill : ¬ refused → s1.fillable pa leaf = true := State.fillable_iff.mpr
    have hadded : ¬ refused → s1.stale = [] → s1.upsets = [] → s1.rcFill s1.cur (asidOf s1) (eaOfM s.g a i).toNat pa =
        let t := s1.withCache s1.cur (boundedAdd s1.free 1024 s1.ux.cache line)
        if s1.ux.cache.length < 1024 then t else t.useFree := fun hnot hs hu => by
      have hall := hnot
      simp only [refused, not_or, Bool.not_eq_false, ne_eq, not_not] at hall
      obtain ⟨hmay, hnone, -⟩ := hall
      exact State.rcFill_eq hs hu hmay hnone _ _
    refine ⟨fun hr => exec_pref_nothing ?_, fun hnot hs hu hroom => ?_, fun hnot hs hu hfull => ?_⟩
    · rw [hpre, if_neg]
      exact fun hf => State.fillable_iff.mp hf hr
    · rw [exec_pref, hpre, if_pos (hfill hnot), hadded hnot hs hu]
      simp only [if_pos hroom]
      rw [boundedAdd_room hroom]
      exact s1.withCache_done _
    · have he := exec_pref a i s
      rw [hpre, if_pos (hfill hnot), hadded hnot hs hu] at he
      simp only [if_neg (Nat.not_lt.mpr hfull)] at he
      have hcache : (s1.withCache s1.cur (boundedAdd s1.free 1024 s1.ux.cache line)).useFree.advance.ux.cache
          = boundedAdd s1.free 1024 s1.ux.cache line := by
        rw [State.advance, State.setPc, State.cache_modC]
        exact s1.cache_withCache s1.cur _
      refine ⟨_, he, by rw [hcache]; exact mem_boundedAdd .., fun l hl => ?_, rfl, ?_⟩
      · rw [hcache] at hl
        exact mem_of_mem_boundedAdd hl
      · rw [State.pc_advance]
        exact congrArg (· + 4#64) (s1.pc_withCache s1.cur _)
  · exact ⟨fun h => acquire_done_far h, fun h => acquire_done_near h⟩
  · have hzero : ∀ n, n < (s.g b).toNat → s.g b ≠ 0#64 := fun n h e => by simp [e] at h
    refine ⟨fun h => ?_, fun h hk => ?_, fun h hk => ?_, fun hpos hle => ?_⟩
    · rw [exec_rcinvRange, if_pos h]
      rfl
    · rw [exec_rcinvRange, if_neg (hzero _ h), if_pos h, acquire_done_far hk]
    · rw [exec_rcinvRange, if_neg (hzero _ h), if_pos h, acquire_done_near hk]
    · refine ⟨_, by rw [exec_rcinvRange, if_neg (hzero _ hpos), if_neg (Nat.not_lt.mpr hle)]
                    exact s.withCache_done _, fun l hl => ?_⟩
      rw [List.mem_filter, Bool.not_eq_true', ← Bool.not_eq_true, Bool.and_eq_true, beq_iff_eq, lineMeets_iff hl hpos]
      rfl
  · intro s1
    have hacq := exec_fenceAcq c hp
    have hfull := exec_fenceFull c hp
    obtain ⟨hpc, hcache, hmem⟩ := s1.waitFirst_keeps
    refine ⟨fun hr hk => ?_, fun hr hk => ?_, fun hr => ?_, fun hr hk => ?_, fun hr hk => ?_, fun hr => ?_, hpc.trans s.pc_beginFirst,
      hcache.trans (s.cache_modC _), hmem⟩
    · rw [hacq, hr, if_neg (by decide), State.acquire_advance_far hk]
    · rw [hacq, hr, if_neg (by decide), State.acquire_advance_near hk]
    · rw [hacq, hr, if_pos rfl]
    · rw [hfull, hr, if_pos rfl, State.acquire_advance_far hk]
    · rw [hfull, hr, if_pos rfl, State.acquire_advance_near hk]
    · rw [hfull, hr, if_neg (by decide)]

end Sys2Proof.Machine
end

section
/-! O42: the floor of an address space at a home whose list of floors names it twice (21_system R405). -/

namespace Sys2Proof.Machine
open Sys2Proof Claims

theorem exec_genadvFloor {s : State} (hp : s.cx.parked = true) (hu : s.cx.priv ≠ .u) (a b : Reg) :
    exec (.genadvFloor a b) s = .next (s.beginFirst.floorFrom (s.g a) (s.g b)) := by
  change execGenadvFloor a b s = _
  rcases State.privileged_cases s (.next (s.parkFirst fun s1 => s1.floorFrom (s1.g a) (s1.g b))) with ⟨h, _⟩ | ⟨_, h⟩
  · exact absurd h hu
  · rw [execGenadvFloor, h, State.parkFirst_parked hp, State.g_beginFirst, State.g_beginFirst]

/-- The machine after reset with context 0 of far core 0 at a word that has made its park, and at home 0 a list of floors that names address
space 0 twice, as a value of the state's type may. -/
def floorTwice : State :=
  { State.reset.modC fun x => { x with parked := true } with homes := [(0, { Home.reset with floors := [(0, 1#16), (0, 2#16)] })] }

theorem floorTwice_parked : floorTwice.cx.parked = true := rfl

theorem floorTwice_priv : floorTwice.cx.priv ≠ .u := by decide

theorem floorTwice_g0 : floorTwice.g 0#5 = 0#64 := by decide

/-- GENADV.FLOOR takes the first of the two entries away, and the home reads the second. -/
theorem floorTwice_after : SMap.get ((floorTwice.beginFirst.floorFrom 0#64 0#64).home 0).floors 0
    (SMap.get (floorTwice.beginFirst.floorFrom 0#64 0#64).floors 0 0#16) = 2#16 := by decide

/-- Refutes O42 in its clause of GENADV.FLOOR: the statement speaks of every value of the state's type, and in `floorTwice` home 0 lists the
address space twice; `SMap.erase` removes the first entry alone, so that after a GENADV.FLOOR of 0 the home's floor is the second entry's 2.
The statement has no hypothesis that a map names a key once. -/
theorem not_translationAndGenerationRequests : ¬ Obligations.TranslationAndGenerationRequests := by
  unfold Obligations.TranslationAndGenerationRequests
  rintro ⟨-, -, -, hfloor, -⟩
  have hsets := (hfloor 0#5 0#5 floorTwice floorTwice_parked floorTwice_priv).1
  rw [floorTwice_g0] at hsets
  obtain ⟨t, he, -, -, hall⟩ := hsets (.inl (by decide))
  rw [exec_genadvFloor floorTwice_parked floorTwice_priv, floorTwice_g0] at he
  cases he
  exact absurd ((hall 0 0).symm.trans floorTwice_after) (by decide)

end Sys2Proof.Machine
end

section
/-! O46: a vector word of a unit that runs it at once, its elements in the local window, and the lanes of a register (R108, R213, R218, R230,
R231). -/

namespace Sys2Proof.Machine
open Sys2Proof Claims

/-! ## The lanes of a register (R213) -/

theorem lane_eq_elem (n : Nat) (v : BitVec 2048) (i : Nat) : lane n v i = elem n v i := by rw [lane, elem, Nat.mul_comm]

theorem packElems_lt (n : Nat) (xs : List Nat) : packElems n xs < 2 ^ (n * xs.length) := by
  induction xs with
  | nil => simp [packElems]
  | cons x xs ih =>
    have hx : x % 2 ^ n < 2 ^ n := Nat.mod_lt _ (Nat.two_pow_pos n)
    have hmul : 2 ^ n * (packElems n xs + 1) ≤ 2 ^ n * 2 ^ (n * xs.length) := Nat.mul_le_mul_left _ ih
    rw [packElems, List.length_cons, Nat.mul_succ, Nat.add_comm (n * _) n, Nat.pow_add]
    rw [Nat.mul_succ] at hmul
    omega

theorem packElems_digit (n : Nat) (xs : List Nat) {i : Nat} (h : i < xs.length) : packElems n xs / 2 ^ (n * i) % 2 ^ n = xs[i] % 2 ^ n := by
  induction xs generalizing i with
  | nil => cases h
  | cons x xs ih =>
    have hx : x % 2 ^ n < 2 ^ n := Nat.mod_lt _ (Nat.two_pow_pos n)
    cases i with
    | zero => simp [packElems]
    | succ i =>
      rw [packElems, Nat.mul_succ, Nat.add_comm (n * i) n, Nat.pow_add, ← Nat.div_div_eq_div_mul,
        Nat.add_mul_div_left _ _ (Nat.two_pow_pos n), Nat.div_eq_of_lt hx, Nat.zero_add, ih (Nat.lt_of_succ_lt_succ h), List.getElem_cons_succ]

/-- A lane of a register made of its elements. -/
theorem lane_ofElems {n : Nat} {xs : List Nat} (hn : n * xs.length ≤ 2048) {i : Nat} (h : i < xs.length) :
    lane n (ofElems n xs) i = xs[i] % 2 ^ n := by
  have hlt := (packElems_lt n xs).trans_le (Nat.pow_le_pow_right Nat.two_pos hn)
  rw [lane, ofElems, BitVec.toNat_ofNat, Nat.mod_eq_of_lt hlt, packElems_digit n xs h]

theorem laneBitsOf_eq (w : VWidth) : laneBitsOf w = 8 * vsize w := by cases w <;> rfl

theorem vsize_dvd (w : VWidth) : 256 / vsize w * vsize w = 256 := by cases w <;> rfl

theorem vsize_pos (w : VWidth) : 0 < vsize w := by cases w <;> decide

section
variable {s : State} {u c off n : Nat}

/-! ## A run of the local window that an access may reach -/

/-- An access of a context may reach `n` bytes at a local offset of its unit, and no guarded region holds any of them (R77, R108, R109). -/
def State.Reaches (s : State) (u c off n : Nat) : Prop :=
  s.guardedByOther u (some c) off n = false ∧ s.inBlock u c off n = false ∧ s.localInRange u (s.ctx u c).priv off n = true

theorem meets_sub {off n base len i m : Nat} (h : i + m ≤ n) (hm : meets off n base len = false) : meets (off + i) m base len = false := by
  simp only [meets, Bool.and_eq_false_iff, decide_eq_false_iff_not, Nat.not_lt] at hm ⊢
  omega

theorem State.inBlock_sub {i m : Nat} (h : i + m ≤ n) (hb : s.inBlock u c off n = false) : s.inBlock u c (off + i) m = false := by
  simp only [State.inBlock, Bool.and_eq_false_iff] at hb ⊢
  exact hb.imp_right (meets_sub h)

theorem State.inWindows_sub {i m : Nat} (h : i + m ≤ n) (hw : s.inWindows u c off n = false) : s.inWindows u c (off + i) m = false := by
  simp only [State.inWindows, Bool.and_eq_false_iff, Bool.or_eq_false_iff] at hw ⊢
  exact hw.imp_right fun ⟨⟨hf, hn⟩, ht⟩ => ⟨⟨meets_sub h hf, hn.imp_right (meets_sub h)⟩, ht.imp_right (meets_sub h)⟩

theorem State.localInRange_sub {lv : Level} {i m : Nat} (h : i + m ≤ n) (hr : s.localInRange u lv off n = true) :
    s.localInRange u lv (off + i) m = true := by
  unfold State.localInRange at hr ⊢
  cases lv with
  | u =>
    simp only [Bool.and_eq_true, decide_eq_true_eq] at hr ⊢
    omega
  | s | m =>
    simp only [Bool.and_true, decide_eq_true_eq] at hr ⊢
    omega

theorem State.localInRange_congr {t : State} (h : (t.unit u).fence = (s.unit u).fence) (lv : Level) :
    t.localInRange u lv off n = s.localInRange u lv off n := by
  have hf : t.fenceOf u = s.fenceOf u := by rw [State.fenceOf, h, State.fenceOf]
  cases lv with
  | u => exact congrArg (fun k => decide (off + n ≤ localSize (kindOf u)) && decide (off + n ≤ k)) hf
  | s | m => rfl

theorem State.Reaches.sub {i m : Nat} (h : i + m ≤ n) (hs : s.Reaches u c off n) : s.Reaches u c (off + i) m := by
  obtain ⟨hg, hb, hr⟩ := hs
  refine ⟨State.guardedByOther_eq_false_iff.mpr fun d hd hne => ?_, State.inBlock_sub h hb, State.localInRange_sub h hr⟩
  obtain ⟨hdb, hdw⟩ := State.guardedByOther_eq_false_iff.mp hg d hd hne
  exact ⟨State.inBlock_sub h hdb, State.inWindows_sub h hdw⟩

/-- What guards the local window depends on the unit's blocks and fence and on the contexts' regions and levels. -/
theorem State.Reaches.congr {t : State} (hs : s.Reaches u c off n) (hcb : (t.unit u).cb = (s.unit u).cb)
    (hfence : (t.unit u).fence = (s.unit u).fence)
    (hx : ∀ d, ∃ q l, t.ctx u d = { s.ctx u d with cseq := q, dring := l }) : t.Reaches u c off n := by
  obtain ⟨hg, hb, hr⟩ := hs
  have hblock : ∀ d, t.inBlock u d off n = s.inBlock u d off n := fun d => by
    obtain ⟨q, l, hd⟩ := hx d
    simp only [State.inBlock, State.cbOf, hcb, hd]
    rfl
  have hwin : ∀ d, t.inWindows u d off n = s.inWindows u d off n := fun d => by
    obtain ⟨q, l, hd⟩ := hx d
    simp only [State.inWindows, hd]
    rfl
  refine ⟨?_, (hblock c).trans hb, ?_⟩
  · simpa only [State.guardedByOther, hblock, hwin] using hg
  · have hpriv : (t.ctx u c).priv = (s.ctx u c).priv := by
      obtain ⟨q, l, hd⟩ := hx c
      rw [hd]
    rwa [hpriv, State.localInRange_congr hfence]

/-! ## Elements in the local window (R218, R231) -/

/-- The addresses of a vector access lie in the local window, aligned, where the context may reach them. -/
def State.Elements (s : State) (u c n : Nat) (l : List (Nat × Word)) : Prop :=
  ∀ a ∈ l, a.2.toNat < 0x100000 ∧ a.2.toNat % n = 0 ∧ s.Reaches u c a.2.toNat n

theorem State.elemCheck_eq {need : Need} {l : List (Nat × Word)} (h : s.Elements u c n l) : s.elemCheck u c n need l = none := by
  induction l with
  | nil => rfl
  | cons a l ih =>
    obtain ⟨hlow, hal, -⟩ := h a List.mem_cons_self
    simp only [State.elemCheck, State.checkEa_local hlow hal]
    exact ih fun b hb => h b (List.mem_cons_of_mem a hb)

theorem State.elemRead_eq (hup : s.upsets = []) {ea : Word} (hlow : ea.toNat < 0x100000) (hal : ea.toNat % n = 0)
    (hr : s.Reaches u c ea.toNat n) : s.elemRead u c ea n = .ok (s, s.getLocal u ea.toNat n) := by
  obtain ⟨hg, hb, hin⟩ := hr
  simp only [State.elemRead, State.checkEa_local hlow hal, State.badData_eq hup, State.localLoad_eq hg hb hin, State.logCorrected_eq hup,
    Bool.not_true, Bool.false_and, Bool.and_false, Bool.false_eq_true, if_false, Except.map]

theorem State.elemLoads_eq (hup : s.upsets = []) {l : List (Nat × Word)} (h : s.Elements u c n l) (acc : List Nat) :
    s.elemLoads u c n acc l = .done s (acc ++ l.map fun a => natOfBytes (s.getLocal u a.2.toNat n)) := by
  induction l generalizing acc with
  | nil => rw [State.elemLoads, List.map_nil, List.append_nil]
  | cons a l ih =>
    obtain ⟨hlow, hal, hr⟩ := h a List.mem_cons_self
    simp only [State.elemLoads, State.elemRead_eq hup hlow hal hr, ih (fun b hb => h b (List.mem_cons_of_mem a hb)), List.map_cons,
      List.append_assoc, List.singleton_append]

/-- Memory with elements written at their local offsets, in order. -/
def Memory.writeElems (m : Memory) (u n : Nat) (val : Nat → Nat) (l : List (Nat × Word)) : Memory :=
  l.foldl (fun m a => m.writeBytes (localPa u a.2.toNat) (bytesOfNat n (val a.1))) m

theorem State.elemWrite_eq {ea : Word} {bs : List Byte} (hlow : ea.toNat < 0x100000) (hal : ea.toNat % bs.length = 0)
    (hr : s.Reaches u c ea.toNat bs.length) : s.elemWrite u c ea bs = .ok (s.setLocal u ea.toNat bs) := by
  obtain ⟨hg, hb, hin⟩ := hr
  simp only [State.elemWrite, State.checkEa_local hlow hal, State.localStore_eq hg hb hin, Bool.not_true, Bool.false_and, Bool.false_eq_true,
    if_false]

theorem State.elemStores_eq {l : List (Nat × Word)} (h : s.Elements u c n l) (val : Nat → Nat) :
    s.elemStores u c n val l = .done { s with mem := s.mem.writeElems u n val l } [] := by
  induction l generalizing s with
  | nil => rfl
  | cons a l ih =>
    obtain ⟨hlow, hal, hr⟩ := h a List.mem_cons_self
    have hlen := bytesOfNat_length n (val a.1)
    have hwrite := State.elemWrite_eq (s := s) (u := u) (c := c) (bs := bytesOfNat n (val a.1)) hlow (by rwa [hlen]) (by rwa [hlen])
    have hrest : (s.setLocal u a.2.toNat (bytesOfNat n (val a.1))).Elements u c n l := fun b hb => h b (List.mem_cons_of_mem a hb)
    simp only [State.elemStores, hwrite, ih hrest]
    rfl

/-- Every element that a queued memory instruction accesses lies in the local window, where the context may reach it. -/
def State.LocalElements (s : State) (u : Nat) (k : VCmd) : Prop :=
  0 < (s.vaddrs u k).2.1 ∧ s.Elements u k.ctx (s.vaddrs u k).2.1 (s.vaddrs u k).2.2

/-- Elements in local memory wait for no array command, row stream or link (R218). -/
theorem State.elemsWait_eq (hu : u < 1536) {k : VCmd} (hk : s.LocalElements u k) : s.elemsWait u k = false := by
  obtain ⟨hn, h⟩ := hk
  refine List.any_eq_false.mpr fun a ha => ?_
  obtain ⟨hlow, hal, -⟩ := h a ha
  have hge := localPa_ge u a.2.toNat
  have hlt := localPa_lt hu a.2.toNat
  have hchan : ∀ pa, 0x900000000000 ≤ pa → s.chanBusy pa = false := fun pa hpa => by
    obtain ⟨hdram, -⟩ := State.place_high (s := s) hpa
    unfold State.chanBusy
    split
    · exact absurd ‹_› (hdram _ _)
    · rfl
  have hlink : s.linkBusy (localPa u a.2.toNat) = false := by
    obtain ⟨hpeer, -⟩ := State.place_low (s := s) (pa := localPa u a.2.toNat) (by omega)
    unfold State.linkBusy
    split
    · exact absurd ‹_› (hpeer _ _)
    · rfl
  simp only [State.checkEa_local hlow hal, State.accessWaits, s.siltWaits_localPa, hchan _ hge,
    hchan (localPa u a.2.toNat + (s.vaddrs u k).2.1 - 1) (by omega), hlink, Bool.or_self, Bool.false_eq_true, not_false_eq_true]

end
end Sys2Proof.Machine
end

section
/-! O46, its words: the issue of a vector word that runs at once (R215, R216), and what VLD, VLDBC and VST leave (R230, R231). -/

namespace Sys2Proof.Machine
open Sys2Proof Claims

section
variable {s : State}

/-! ## A vector word that runs at once (R215, R216) -/

/-- A unit without a repetition. -/
def UnitState.noReplay (x : UnitState) : UnitState := { x with replay := [] }

/-- The state in which a vector memory word of the issuing context with a base is dispatched. -/
def State.vdispatched (s : State) (base : Word) : State := s.dispatch s.cur s.c s.pc 0#8 1#4 s.ux.word base 0#64

/-- The state in which a vector word of the issuing context runs: its number is used and its entry stands in the ring. -/
def State.numbered (s : State) (base : Word) : State := ((s.vdispatched base).modUnit s.cur UnitState.noReplay).tick

theorem State.cx_numbered (s : State) (base : Word) : (s.numbered base).cx =
    { s.cx with cseq := s.cx.cseq + 1#16, dring := pushEntry s.cx.dring ⟨s.pc, s.cx.cseq, 0#8, 1#4, 1#4, s.ux.word, base, 0#64, 0#64⟩ } := by
  have hd : (s.vdispatched base).cx = _ := s.cx_modC _
  rw [← hd]
  exact State.cx_modUnit (s := s.vdispatched base) (u := s.cur) (f := UnitState.noReplay) rfl rfl

theorem State.c_numbered (s : State) (base : Word) : (s.numbered base).c = s.c := by
  have hd : (s.vdispatched base).c = s.c := s.c_modC _
  rw [← hd]
  exact State.c_modUnit (s := s.vdispatched base) (u := s.cur) (f := UnitState.noReplay) rfl

theorem State.ux_numbered (s : State) (base : Word) :
    ∃ l, (s.numbered base).unit s.cur = { s.ux with ctxs := l, replay := [] } := by
  have hd : (s.vdispatched base).unit s.cur = _ := s.ux_modC _
  have hu : (s.numbered base).unit s.cur = ((s.vdispatched base).unit s.cur).noReplay := State.unit_modUnit_same _ _ _
  rw [hu, hd]
  exact ⟨_, rfl⟩

theorem State.ctx_numbered (s : State) (base : Word) (d : Nat) :
    ∃ q l, (s.numbered base).ctx s.cur d = { s.ctx s.cur d with cseq := q, dring := l } := by
  have hu : (s.numbered base).ctx s.cur d = (s.vdispatched base).ctx s.cur d :=
    State.ctx_modUnit (s := s.vdispatched base) (u := s.cur) (f := UnitState.noReplay) rfl _ _
  rw [hu]
  by_cases h : d = s.c
  · rw [h]
    exact ⟨_, _, State.ctx_modCtx_same s s.cur s.c _⟩
  · exact ⟨_, _, State.ctx_modCtx_other s (fun e => h e.2) _⟩

theorem State.Reaches.numbered {off n : Nat} (h : s.Reaches s.cur s.c off n) (base : Word) :
    (s.numbered base).Reaches s.cur s.c off n := by
  obtain ⟨l, hux⟩ := s.ux_numbered base
  exact h.congr (by simp only [hux, State.ux]) (by simp only [hux, State.ux]) (s.ctx_numbered base)

/-- What a vector memory word of the issuing context with a base is queued as. -/
def State.vcmd (s : State) (instr : Instr) (base : Word) : VCmd :=
  ⟨s.c, s.po, s.cx.cseq, s.pc, instr, base, 0#64, s.cx.mode .rne, none, s.issuer s.cur s.c⟩

/-- The capture of a body word does nothing where there is no repetition (R226). -/
theorem State.tick_capture (h : s.ux.replay = []) (base : Word) (w : RWord) :
    ((s.vdispatched base).modU fun x => { x with replay := x.replay.map fun r => captureWord r s.c w }).tick = s.numbered base := by
  have hreplay : ((s.vdispatched base).unit s.cur).replay = [] := (congrArg UnitState.replay (s.ux_modC _)).trans h
  have hmap : ((s.vdispatched base).unit s.cur).replay.map (fun r => captureWord r s.c w) = [] := by rw [hreplay, List.map_nil]
  exact congrArg (fun l => ((s.vdispatched base).setUnit s.cur { (s.vdispatched base).unit s.cur with replay := l }).tick) hmap

theorem State.vready_numbered (hv : VectorFree s) (hu : s.cur < 1536) {instr : Instr} {base : Word}
    (hel : (s.numbered base).LocalElements s.cur (s.vcmd instr base)) : (s.numbered base).vready s.cur (s.vcmd instr base) = true := by
  obtain ⟨-, hflight, hblocked, -, -, -, -, hdefs, -, hslice⟩ := hv
  have hcx : (s.numbered base).ctx s.cur s.c = _ := (congrArg (State.ctx _ _) (s.c_numbered base).symm).trans (s.cx_numbered base)
  have hfl : (s.numbered base).flight = [] := hflight
  have hbl : ((s.numbered base).ctx s.cur s.c).blocked = [] := (congrArg Ctx.blocked hcx).trans hblocked
  have hde : ((s.numbered base).ctx s.cur s.c).defs = [] := (congrArg Ctx.defs hcx).trans hdefs
  have harr : (s.numbered base).arrayVectorBefore s.cur s.c s.po = false := by
    unfold State.arrayVectorBefore
    cases hk : kindOf s.cur with
    | slice =>
      have hfifo : ((s.numbered base).slice (s.cur - Config.sliceUnit0)).fifo = [] := hslice hk
      simp only [hfifo, List.any_nil]
    | far | stack => rfl
  have hacq := State.acquireBefore_eq (s := s.numbered base) (u := s.cur) (c := s.c) (by simp [hde]) s.po
  have hwait := State.elemsWait_eq hu hel
  unfold State.vready State.vmemReady
  rw [hwait]
  simp [State.vcmd, hfl, hbl, harr, hacq]

/-- A vector memory word of the device with its elements in the local window runs at once where nothing stands before it. -/
theorem State.vissue_runs (hv : VectorFree s) (hu : s.cur < 1536) {instr : Instr} {m : Reg}
    (hel : (s.numbered (s.g m)).LocalElements s.cur (s.vcmd instr (s.g m))) :
    s.vissue instr (fun t => (t.g m, 0#64)) .rne none = .next ((s.numbered (s.g m)).vrun s.cur (s.vcmd instr (s.g m))).advance := by
  have hready := State.vready_numbered hv hu hel
  obtain ⟨⟨hlate, hreplay⟩, hflight, -, hup, hasync, hve, hvq, -⟩ := hv
  have hrun : s.replaying s.cur s.c = false := by
    have hr : (s.unit s.cur).replay = [] := hreplay
    simp [State.replaying, State.replayOf, hr]
  have hq : (s.unit s.cur).vq = [] := hvq
  have hq' : ((s.numbered (s.g m)).unit s.cur).vq = [] := by
    obtain ⟨l, hux⟩ := s.ux_numbered (s.g m)
    rwa [hux]
  have hcap := fun w => State.tick_capture (s := s) hreplay (s.g m) w
  have hdrain := State.drain_eq (s := s.numbered (s.g m)) (.inr hflight) s.cur s.c
  have hasync' : (s.numbered (s.g m)).async = false := hasync
  unfold State.vdispatched at hcap
  unfold State.vissue
  rw [State.profile_of_true hve, State.vchecked_eq (State.upsetAt_eq hup ..), State.copWord, hlate, hrun]
  simp only [ne_eq, not_true_eq_false, decide_false, Bool.or_self, Bool.false_eq_true, if_false, hq, List.length_nil]
  rw [hcap, hdrain, if_neg (by decide), if_pos (by
    simp only [hq', hasync', decide_true, Bool.not_false, Bool.true_and]
    exact hready)]
  rfl

/-- A vector word of a context with no recorded fault, whose execution comes to no fault and no scalar result. -/
theorem State.vrun_done {u : Nat} {k : VCmd} {t : State} (hl : (s.ctx u k.ctx).late = []) (hid : k.id = none)
    (he : s.vexec u k = .done t none) : s.vrun u k = t.ringMark u k.ctx k.seq 0#4 0#64 := by
  have hd : (s.ctx u k.ctx).discards k.seq = false := by rw [Ctx.discards, hl, List.any_nil]
  simp only [State.vrun, hd, he, hid, Bool.false_eq_true, if_false, State.vanswer]

/-- What a vector word of the issuing context leaves of the context once its entry is marked and the word passed. -/
theorem State.cx_marked {t : State} (hc : t.c = s.c) (hu : t.cur = s.cur) (seq : BitVec 16) (st : BitVec 4) (fva : Word) :
    ∃ l, (t.ringMark s.cur s.c seq st fva).advance.cx = { t.cx with dring := l, pc := t.cx.pc + 4#64 } := by
  rw [← hc, ← hu]
  have hm : (t.ringMark t.cur t.c seq st fva).cx = _ := t.cx_modC _
  have ha : (t.ringMark t.cur t.c seq st fva).advance.cx = _ := State.cx_modC _ _
  rw [ha, State.pc, hm]
  exact ⟨_, rfl⟩

theorem State.vq_modCtx (s : State) (u c : Nat) (f : Ctx → Ctx) : ((s.modCtx u c f).unit u).vq = (s.unit u).vq := by
  rw [State.modCtx, State.unit_setCtx_same]

theorem State.cx_setV_numbered (s : State) (base : Word) (d : VReg) (v : BitVec 2048) :
    ((s.numbered base).setV s.cur s.c d v).cx
      = { (s.numbered base).cx with vregs := (s.numbered base).cx.vregs.setIfInBounds d.toNat v } := by
  have h : ((s.numbered base).setV (s.numbered base).cur (s.numbered base).c d v).cx = _ := (s.numbered base).cx_modC _
  rwa [s.c_numbered] at h

theorem State.v_of_cx {t : State} {u c : Nat} (hu : t.cur = u) (hc : t.c = c) (r : VReg) : t.v u c r = (t.cx.vregs[r.toNat]?).getD 0#2048 := by
  rw [← hu, ← hc]
  rfl

/-! ## Unit-stride elements (R230) -/

/-- The base of a unit-stride access: aligned, with 256 bytes of the local window that the context may reach (R108, R230). -/
def State.Stride (s : State) (w : VWidth) (base : Word) : Prop :=
  base.toNat + 256 ≤ 0x80000 ∧ base.toNat % vsize w = 0 ∧ s.Reaches s.cur s.c base.toNat 256

theorem State.stride_of {w : VWidth} {base : Word} (hsize : base.toNat + 256 ≤ localSize s.kind)
    (hal : base.toNat % (laneBitsOf w / 8) = 0) (hr : InWindow s base.toNat 256) (hg : Unguarded s base.toNat 256) : s.Stride w base := by
  have hle : localSize s.kind ≤ 0x80000 := by cases s.kind <;> simp [localSize]
  rw [laneBitsOf_eq, Nat.mul_div_cancel_left _ (by decide)] at hal
  exact ⟨hsize.trans hle, hal, hg.other, hg.own.1, localInRange_iff.mpr hr⟩

section
variable {w : VWidth} {base : Word} (h : s.Stride w base)
include h

theorem State.Stride.element {i : Nat} (hi : i < 256 / vsize w) :
    (base + BitVec.ofNat 64 (i * vsize w)).toNat = base.toNat + i * vsize w ∧ i * vsize w + vsize w ≤ 256 := by
  obtain ⟨hlow, -, -⟩ := h
  have hend : i * vsize w + vsize w ≤ 256 := by
    rw [← Nat.succ_mul, ← vsize_dvd w]
    exact Nat.mul_le_mul_right _ hi
  refine ⟨?_, hend⟩
  rw [BitVec.toNat_add, BitVec.toNat_ofNat, Nat.mod_eq_of_lt (b := 2 ^ 64) (by omega), Nat.mod_eq_of_lt (by omega)]

theorem State.Stride.at {i : Nat} (hi : i < 256 / vsize w) :
    base.toNat + i * vsize w < 0x100000 ∧ (base.toNat + i * vsize w) % vsize w = 0
      ∧ (s.numbered base).Reaches s.cur s.c (base.toNat + i * vsize w) (vsize w) := by
  obtain ⟨hlow, hal, hr⟩ := h
  obtain ⟨-, hend⟩ := State.Stride.element ⟨hlow, hal, hr⟩ hi
  exact ⟨by omega, by rw [Nat.add_mul_mod_self_right, hal], (hr.sub hend).numbered base⟩

theorem State.Stride.elements : (s.numbered base).Elements s.cur s.c (vsize w) (unitAddrs w base) := by
  intro a ha
  obtain ⟨i, hi, rfl⟩ := List.mem_map.mp ha
  rw [vidx, List.mem_range] at hi
  rw [(h.element hi).1]
  exact h.at hi

theorem State.Stride.first : (s.numbered base).Elements s.cur s.c (vsize w) [(0, base)] := by
  intro a ha
  rw [List.mem_singleton.mp ha]
  have h0 := h.at (i := 0) (Nat.div_pos (by cases w <;> decide) (vsize_pos w))
  rwa [Nat.zero_mul, Nat.add_zero] at h0

end

/-! ## VLD and VLDBC (R231) -/

/-- The state that a vector load of the issuing context leaves. -/
def State.loaded (s : State) (base : Word) (d : VReg) (v : BitVec 2048) : State :=
  ((((s.numbered base).setV s.cur s.c d v).ringMark s.cur s.c s.cx.cseq 0#4 0#64)).advance

/-- A vector load writes its register, and nothing else but its number, its entry and the PC. -/
theorem State.lanesWritten_loaded (hv : VectorFree s) (base : Word) (d : VReg) {n : Nat} {v : BitVec 2048} {f : Nat → Nat}
    (hf : ∀ i, i < 2048 / n → lane n v i = f i) : LanesWritten s (s.loaded base d v) d n f := by
  obtain ⟨⟨hlate, -⟩, -, -, -, -, -, hvq, hdefs, -⟩ := hv
  have hc : ((s.numbered base).setV s.cur s.c d v).c = s.c := (State.c_modCtx _ _ _ _).trans (s.c_numbered base)
  have hct : (s.loaded base d v).c = s.c := (State.c_advance _).trans ((State.c_modCtx _ _ _ _).trans hc)
  obtain ⟨l, hcx⟩ := State.cx_marked hc rfl s.cx.cseq 0#4 0#64
  rw [State.cx_setV_numbered, s.cx_numbered] at hcx
  have hregs : ∀ r, (s.loaded base d v).v s.cur s.c r = ((s.cx.vregs.setIfInBounds d.toNat v)[r.toNat]?).getD 0#2048 := fun r => by
    refine (State.v_of_cx (t := s.loaded base d v) rfl hct r).trans ?_
    rw [State.loaded, hcx]
  refine ⟨fun i hi => ?_, fun r hr => ?_, rfl, State.g_congr rfl rfl fun k => ?_, congrArg Ctx.pc hcx, congrArg Ctx.cseq hcx, ?_, ?_, ?_⟩
  · have hd : d.toNat < 16 := d.isLt
    rw [hregs, ← hf i hi]
    simp [hd]
  · have hne : d.toNat ≠ r.toNat := fun e => hr (BitVec.eq_of_toNat_eq e.symm)
    rw [hregs, Vector.getElem?_setIfInBounds_ne hne]
    rfl
  · rw [State.loaded, hcx]
    exact Ctx.regOff_congr rfl rfl rfl (Ctx.linear_congr rfl rfl rfl rfl rfl rfl rfl) k
  · exact (congrArg Ctx.defs hcx).trans hdefs
  · exact (congrArg Ctx.late hcx).trans hlate
  · obtain ⟨k, hux⟩ := s.ux_numbered base
    have hlast : (s.loaded base d v).ux.vq = ((s.numbered base).unit s.cur).vq :=
      (congrArg UnitState.vq (State.ux_modC _ _)).trans ((State.vq_modCtx _ _ _ _).trans (State.vq_modCtx _ _ _ _))
    rw [hlast, hux]
    exact hvq

theorem State.vload_eq {u c : Nat} {w : VWidth} {l : List (Nat × Word)} (hup : s.upsets = []) (h : s.Elements u c (vsize w) l) (d : VReg)
    (spread : Bool) : s.vload u c w d l spread = .done (s.setV u c d (ofElems (8 * vsize w)
      (if spread then List.replicate (256 / vsize w) ((l.map fun a => natOfBytes (s.getLocal u a.2.toNat (vsize w))).headD 0)
        else l.map fun a => natOfBytes (s.getLocal u a.2.toNat (vsize w))))) [] := by
  simp only [State.vload, State.elemCheck_eq h, State.elemLoads_eq hup h, List.nil_append]

theorem natOfBytes_getLocal_mod (u off n : Nat) : natOfBytes (s.getLocal u off n) % 2 ^ (8 * n) = natOfBytes (s.getLocal u off n) := by
  refine Nat.mod_eq_of_lt ((natOfBytes_lt _).trans_eq ?_)
  rw [State.getLocal_length]

/-- The lanes of a unit-stride load. -/
theorem State.Stride.lane_unit {w : VWidth} {base : Word} (h : s.Stride w base) {i : Nat} (hi : i < 256 / vsize w) :
    lane (8 * vsize w) (ofElems (8 * vsize w) ((unitAddrs w base).map fun a => natOfBytes (s.getLocal s.cur a.2.toNat (vsize w)))) i
      = natOfBytes (s.getLocal s.cur (base.toNat + i * vsize w) (vsize w)) := by
  have hlen : ((unitAddrs w base).map fun a => natOfBytes (s.getLocal s.cur a.2.toNat (vsize w))).length = 256 / vsize w := by
    simp [unitAddrs, vidx]
  have hwide : 8 * vsize w * (256 / vsize w) ≤ 2048 := by cases w <;> decide
  rw [lane_ofElems (by rwa [hlen]) (by rwa [hlen])]
  simp only [unitAddrs, vidx, List.getElem_map, List.getElem_range, (h.element hi).1]
  exact natOfBytes_getLocal_mod ..

/-- The lanes of a load of one element to all. -/
theorem lane_spread {w : VWidth} {i u off : Nat} (hi : i < 256 / vsize w) :
    lane (8 * vsize w) (ofElems (8 * vsize w) (List.replicate (256 / vsize w) (natOfBytes (s.getLocal u off (vsize w))))) i
      = natOfBytes (s.getLocal u off (vsize w)) := by
  have hwide : 8 * vsize w * (256 / vsize w) ≤ 2048 := by cases w <;> decide
  rw [lane_ofElems (by rwa [List.length_replicate]) (by rwa [List.length_replicate]), List.getElem_replicate]
  exact natOfBytes_getLocal_mod ..

theorem State.upsets_numbered (hv : VectorFree s) (base : Word) : (s.numbered base).upsets = [] := by
  obtain ⟨-, -, -, hup, -⟩ := hv
  exact hup

theorem State.late_numbered (hv : VectorFree s) (base : Word) : ((s.numbered base).ctx s.cur s.c).late = [] := by
  obtain ⟨⟨hlate, -⟩, -⟩ := hv
  obtain ⟨q, l, hx⟩ := s.ctx_numbered base s.c
  rw [hx]
  exact hlate

section
variable {w : VWidth} {d : VReg} {m : Reg} (hv : VectorFree s) (hu : s.cur < 1536) (h : s.Stride w (s.g m))
include hv hu h

theorem exec_vld : exec (.vld w d m) s = .next (s.loaded (s.g m) d (ofElems (8 * vsize w)
    ((unitAddrs w (s.g m)).map fun a => natOfBytes (s.getLocal s.cur a.2.toNat (vsize w))))) := by
  have hel := h.elements
  have hrun := State.vissue_runs hv hu (instr := .vld w d m) ⟨vsize_pos w, hel⟩
  have hexec : (s.numbered (s.g m)).vexec s.cur (s.vcmd (.vld w d m) (s.g m)) = _ :=
    congrArg VMem.out (State.vload_eq (State.upsets_numbered hv _) hel d false)
  exact hrun.trans (congrArg (fun t => Host.Outcome.next t.advance) (State.vrun_done (State.late_numbered hv _) rfl hexec))

theorem exec_vldbc : exec (.vldbc w d m) s = .next (s.loaded (s.g m) d (ofElems (8 * vsize w)
    (List.replicate (256 / vsize w) (natOfBytes (s.getLocal s.cur (s.g m).toNat (vsize w)))))) := by
  have hel := h.first
  have hrun := State.vissue_runs hv hu (instr := .vldbc w d m) ⟨vsize_pos w, hel⟩
  have hexec : (s.numbered (s.g m)).vexec s.cur (s.vcmd (.vldbc w d m) (s.g m)) = _ :=
    congrArg VMem.out (State.vload_eq (State.upsets_numbered hv _) hel d true)
  exact hrun.trans (congrArg (fun t => Host.Outcome.next t.advance) (State.vrun_done (State.late_numbered hv _) rfl hexec))

end

/-! ## VST (R231) -/

/-- Memory after a unit-stride vector store of the issuing context. -/
def State.storedMem (s : State) (w : VWidth) (d : VReg) (base : Word) : Memory :=
  s.mem.writeElems s.cur (vsize w) (elem (8 * vsize w) (s.v s.cur s.c d)) (unitAddrs w base)

/-- The state that a unit-stride vector store of the issuing context leaves. -/
def State.stored (s : State) (w : VWidth) (d : VReg) (base : Word) : State :=
  (State.ringMark { s.numbered base with mem := s.storedMem w d base } s.cur s.c s.cx.cseq 0#4 0#64).advance

theorem exec_vst {w : VWidth} {d : VReg} {m : Reg} (hv : VectorFree s) (hu : s.cur < 1536) (h : s.Stride w (s.g m)) :
    exec (.vst w d m) s = .next (s.stored w d (s.g m)) := by
  have hel := h.elements
  have hrun := State.vissue_runs hv hu (instr := .vst w d m) ⟨vsize_pos w, hel⟩
  have hreg : (s.numbered (s.g m)).v s.cur s.c d = s.v s.cur s.c d := by
    obtain ⟨q, l, hx⟩ := s.ctx_numbered (s.g m) s.c
    rw [State.v, hx]
    rfl
  have hstore : (s.numbered (s.g m)).vstore s.cur s.c w d (unitAddrs w (s.g m))
      = .done { s.numbered (s.g m) with mem := s.storedMem w d (s.g m) } [] := by
    simp only [State.vstore, State.elemCheck_eq hel, State.elemStores_eq hel, hreg]
    rfl
  have hexec : (s.numbered (s.g m)).vexec s.cur (s.vcmd (.vst w d m) (s.g m)) = _ := congrArg VMem.out hstore
  exact hrun.trans (congrArg (fun t => Host.Outcome.next t.advance) (State.vrun_done (State.late_numbered hv _) rfl hexec))

/-- The context after a vector store: its number, its entry and the PC. -/
theorem State.cx_stored (s : State) (w : VWidth) (d : VReg) (base : Word) :
    ∃ l, (s.stored w d base).cx = { s.cx with cseq := s.cx.cseq + 1#16, dring := l, pc := s.pc + 4#64 } := by
  obtain ⟨l, hcx⟩ := State.cx_marked (s := s) (t := { s.numbered base with mem := s.storedMem w d base })
    (s.c_numbered base) rfl s.cx.cseq 0#4 0#64
  have hcx0 := s.cx_numbered base
  refine ⟨l, hcx.trans ?_⟩
  exact congrArg (fun x : Ctx => { x with dring := l, pc := x.pc + 4#64 }) hcx0

section
variable {mem : Memory} {u n : Nat} {val : Nat → Nat} {l : List (Nat × Word)}

theorem Memory.wf_writeElems (hm : mem.wf = true) : (mem.writeElems u n val l).wf = true := by
  induction l generalizing mem with
  | nil => exact hm
  | cons a l ih => exact ih (Memory.wf_writeBytes _ _ hm)

theorem Memory.read_writeElems_other {j : Nat} (h : ∀ a ∈ l, j < localPa u a.2.toNat ∨ localPa u a.2.toNat + n ≤ j) :
    (mem.writeElems u n val l).read j = mem.read j := by
  induction l generalizing mem with
  | nil => rfl
  | cons a l ih =>
    refine (ih fun b hb => h b (List.mem_cons_of_mem a hb)).trans (Memory.read_writeBytes_other _ _ _ ?_)
    rw [bytesOfNat_length]
    exact h a List.mem_cons_self

/-- An element written is read back where the elements after it lie apart from it. -/
theorem Memory.readBytes_writeElems (hm : mem.wf = true)
    (hsep : l.Pairwise fun a b => localPa u a.2.toNat + n ≤ localPa u b.2.toNat) {a : Nat × Word} (ha : a ∈ l) :
    (mem.writeElems u n val l).readBytes (localPa u a.2.toNat) n = bytesOfNat n (val a.1) := by
  induction l generalizing mem with
  | nil => cases ha
  | cons b l ih =>
    obtain ⟨hb, hl⟩ := List.pairwise_cons.mp hsep
    rcases List.mem_cons.mp ha with rfl | ha
    · have hsame := Memory.readBytes_writeBytes_same (localPa u a.2.toNat) (bytesOfNat n (val a.1)) hm
      rw [bytesOfNat_length] at hsame
      refine Eq.trans (List.ext_getElem (by simp) fun k hk _ => ?_) hsame
      rw [Memory.readBytes_length] at hk
      rw [Memory.getElem_readBytes, Memory.getElem_readBytes]
      refine Memory.read_writeElems_other (mem := mem.writeBytes _ _) (l := l) fun c hc => .inl ?_
      have := hb c hc
      omega
    · exact ih (Memory.wf_writeBytes _ _ hm) hl ha

end

section
variable {w : VWidth} {base : Word} (h : s.Stride w base)
include h

theorem State.Stride.localPa_element (hsize : base.toNat + 256 ≤ localSize s.kind) {i : Nat} (hi : i < 256 / vsize w) :
    localPa s.cur (base + BitVec.ofNat 64 (i * vsize w)).toNat = localPa s.cur base.toNat + i * vsize w := by
  obtain ⟨hea, hend⟩ := h.element hi
  have hpos := vsize_pos w
  rw [hea, localPa_add]
  change _ < localSize s.kind
  omega

theorem State.Stride.pairwise (hsize : base.toNat + 256 ≤ localSize s.kind) :
    (unitAddrs w base).Pairwise fun a b => localPa s.cur a.2.toNat + vsize w ≤ localPa s.cur b.2.toNat := by
  refine List.pairwise_map.mpr (List.Pairwise.imp_of_mem (fun {i j} hi hj hlt => ?_) List.pairwise_lt_range)
  rw [vidx, List.mem_range] at hi hj
  rw [h.localPa_element hsize hi, h.localPa_element hsize hj, Nat.add_assoc, ← Nat.succ_mul]
  exact Nat.add_le_add_left (Nat.mul_le_mul_right _ hlt) _

end

end

/-- Settles O46, by the runs of VLD, VLDBC and VST at once. -/
theorem vectorMemoryLanes : Obligations.VectorMemoryLanes := by
  unfold Obligations.VectorMemoryLanes
  intro w d m s hv hm hu hsize hal hr hg
  have h : s.Stride w (s.g m) := State.stride_of hsize hal hr hg
  have hlanes : 2048 / (8 * vsize w) = 256 / vsize w := by cases w <;> rfl
  have hbytes : 8 * vsize w / 8 = vsize w := Nat.mul_div_cancel_left _ (by decide)
  have hmem : ∀ off, (leNat (vsize w) fun k => s.mem.read (localPa s.cur off + k)) = natOfBytes (s.getLocal s.cur off (vsize w)) :=
    fun off => leNat_read s.mem _ _
  simp only [laneBitsOf_eq, hbytes, hmem, Nat.zero_mul, Nat.add_zero]
  refine ⟨⟨_, exec_vld hv hu h, State.lanesWritten_loaded hv _ d fun i hi => h.lane_unit (hlanes ▸ hi)⟩,
    ⟨_, exec_vldbc hv hu h, State.lanesWritten_loaded hv _ d fun i hi => lane_spread (hlanes ▸ hi)⟩, _, exec_vst hv hu h, ?_⟩
  obtain ⟨l, hcx⟩ := s.cx_stored w d (s.g m)
  obtain ⟨⟨hlate, -⟩, -⟩ := hv
  refine ⟨congrArg Ctx.pc hcx, (congrArg Ctx.vregs hcx).trans rfl, Memory.wf_writeElems hm,
    (congrArg Ctx.late hcx).trans hlate, fun i hi => ?_, fun a ha => ?_⟩
  · rw [hlanes] at hi
    have hin : (i, s.g m + BitVec.ofNat 64 (i * vsize w)) ∈ unitAddrs w (s.g m) := List.mem_map.mpr ⟨i, List.mem_range.mpr hi, rfl⟩
    have hread := Memory.readBytes_writeElems (val := elem (8 * vsize w) (s.v s.cur s.c d)) hm (h.pairwise hsize) hin
    rw [(h.element hi).1] at hread
    refine (leNat_read (s.stored w d (s.g m)).mem _ _).trans ((congrArg natOfBytes hread).trans ?_)
    exact (natOfBytes_bytesOfNat_of_lt (Nat.mod_lt _ (Nat.two_pow_pos _))).trans (lane_eq_elem _ _ _).symm
  · refine Memory.read_writeElems_other fun b hb => ?_
    obtain ⟨i, hi, rfl⟩ := List.mem_map.mp hb
    rw [vidx, List.mem_range] at hi
    obtain ⟨-, hend⟩ := h.element hi
    rw [h.localPa_element hsize hi]
    omega

end Sys2Proof.Machine
end

section
/-! O52, its messages: increments, and the retries of hand-offs, messages and contributions (07_ordering R138, 08_messages R163, R171, R172,
R176). -/

namespace Sys2Proof.Machine
open Sys2Proof Claims

/-! ## An increment at a core with no entry armed (R163, R171) -/

/-- Memory, the accesses in flight, and the counters and waiting-task table of a core are the same. -/
structure State.SameCore (core : Nat) (s t : State) : Prop where
  mem : t.mem = s.mem
  flight : t.flight = s.flight
  counters : (t.unit core).counters = (s.unit core).counters
  wtes : (t.unit core).wtes = (s.unit core).wtes

theorem State.sameCore_modCtx {core : Nat} {s t : State} (h : State.SameCore core s t) (c : Nat) (f : Ctx → Ctx) :
    State.SameCore core s (t.modCtx core c f) := by
  have hu : (t.modCtx core c f).unit core = _ := State.unit_setCtx_same t core c _
  refine ⟨h.mem, h.flight, ?_, ?_⟩
  · rw [hu]
    exact h.counters
  · rw [hu]
    exact h.wtes

/-- A counter's new value wakes sleepers and changes nothing else of the core's messages. -/
theorem State.sameCore_wakeWaiters (s : State) (core n : Nat) : State.SameCore core s (s.wakeWaiters core n) := by
  refine List.foldlRecOn (motive := State.SameCore core s) (List.range 11) _ ⟨rfl, rfl, rfl, rfl⟩ fun acc h c _ => ?_
  dsimp only
  split
  · split
    · exact State.sameCore_modCtx h c _
    · exact h
  · exact h

theorem State.fireReached_eq {s : State} {core : Nat} (h : ∀ e, (s.wte core e).armed = false) (n : Nat) : s.fireReached core n = s := by
  refine List.foldlRecOn (motive := fun t => t = s) (List.range 64) _ rfl fun acc hacc e _ => ?_
  subst hacc
  simp [h e]

section
variable {s : State} {core n : Nat} (harm : ∀ e, (s.wte core e).armed = false) (amount : Word)
include harm

theorem State.increment_eq : s.increment core n amount = (s.modUnit core fun x =>
    { x with counters := SMap.put x.counters (n % 256) (SMap.get x.counters (n % 256) 0#64 + amount) }).wakeWaiters core (n % 256) := by
  refine State.fireReached_eq (fun e => ?_) _
  have hw := (State.sameCore_wakeWaiters (s.modUnit core fun x =>
    { x with counters := SMap.put x.counters (n % 256) (SMap.get x.counters (n % 256) 0#64 + amount) }) core (n % 256)).wtes
  rw [State.unit_modUnit_same] at hw
  rw [State.wte, hw]
  exact harm e

/-- An increment adds to its counter, and leaves the others, memory and the accesses in flight. -/
theorem State.increment_spec (hn : n < 256) : (s.increment core n amount).mem = s.mem ∧ (s.increment core n amount).flight = s.flight
    ∧ (s.increment core n amount).counter core n = s.counter core n + amount
    ∧ ∀ k, k < 256 → k ≠ n → (s.increment core n amount).counter core k = s.counter core k := by
  obtain ⟨hmem, hflight, hcounters, -⟩ := State.sameCore_wakeWaiters (s.modUnit core fun x =>
    { x with counters := SMap.put x.counters (n % 256) (SMap.get x.counters (n % 256) 0#64 + amount) }) core (n % 256)
  rw [← State.increment_eq harm amount] at hmem hflight hcounters
  rw [State.unit_modUnit_same] at hcounters
  refine ⟨hmem, hflight, ?_, fun k hk hne => ?_⟩
  · rw [State.counter, hcounters, SMap.get_put_same]
    rfl
  · rw [State.counter, hcounters, SMap.get_put_other _ (by omega)]
    rfl

end

/-- A posted increment of a counter of a core by an amount, which can be performed now. -/
def State.isIncrement (s : State) (core n : Nat) (amount : Word) (r : Req) : Bool :=
  s.unitAt r.pa == some core && s.mayPerform r && (match r.act with | .cinc k a => k == n && a == amount | _ => false)

theorem State.isIncrement_iff {s : State} {core n : Nat} {amount : Word} {r : Req} : s.isIncrement core n amount r = true ↔
    s.unitAt r.pa = some core ∧ s.mayPerform r = true ∧ r.act = .cinc n amount := by
  unfold State.isIncrement
  cases r.act with
  | cinc k a => simp [and_assoc]
  | _ => simp

theorem exec_counterIncrement (core : Nat) (cnt : BitVec 8) (amount : Word) (s : State) : exec (.counterIncrement core cnt amount) s =
    match s.flight.find? (s.isIncrement core cnt.toNat amount) with | some r => s.performEvent r | none => .next s := rfl

section
variable {s : State} {core n : Nat} {amount : Word} (hn : n < 256)
include hn

theorem exec_counterIncrement_none (h : ∀ r ∈ s.flight, r.act ≠ .cinc n amount) :
    exec (.counterIncrement core (BitVec.ofNat 8 n) amount) s = .next s := by
  have hfind : s.flight.find? (s.isIncrement core n amount) = none :=
    List.find?_eq_none.mpr fun r hr hi => h r hr (State.isIncrement_iff.mp hi).2.2
  rw [exec_counterIncrement, BitVec.toNat_ofNat, Nat.mod_eq_of_lt hn, hfind]

theorem exec_counterIncrement_some {r : Req} (hflight : s.flight = [r]) (hact : r.act = .cinc n amount) (hat : s.unitAt r.pa = some core)
    (hp : s.mayPerform r = true) (hacq : r.acq = false) (hfault : s.homeFault r.who (reqTagged r) true none r.pa 1 = none) :
    exec (.counterIncrement core (BitVec.ofNat 8 n) amount) s = .next ((s.taken r).increment core n amount) := by
  have hfind : s.flight.find? (s.isIncrement core n amount) = some r := by
    rw [hflight, List.find?_singleton, if_pos (State.isIncrement_iff.mpr ⟨hat, hp, hact⟩)]
  have hfault' : (s.taken r).homeFault r.who (reqTagged r) true none r.pa 1 = none := hfault
  have hat' : (s.taken r).unitAt r.pa = some core := hat
  rw [exec_counterIncrement, BitVec.toNat_ofNat, Nat.mod_eq_of_lt hn, hfind]
  dsimp only
  rw [State.performEvent_eq (by rw [hflight]; exact List.mem_singleton_self r) hp hacq, State.performAt, hact]
  dsimp only
  rw [State.doCinc, hfault', hat']

end

theorem State.flight_taken {s : State} {r : Req} (h : s.flight = [r]) : (s.taken r).flight = [] := by
  simp [State.taken, h]

/-! ## Retries of what a core holds (R172, R176) -/

/-- The state in which a core holds a message or hand-off no more. -/
def State.dropHeld (s : State) (core : Nat) (x : Held) : State :=
  s.modUnit core fun y => { y with heldMsgs := y.heldMsgs.filter fun o => o != x }

theorem State.heldMsgs_dropHeld {s : State} {core : Nat} {x : Held} (h : (s.unit core).heldMsgs = [x]) :
    ((s.dropHeld core x).unit core).heldMsgs = [] := by
  rw [State.dropHeld, State.unit_modUnit_same]
  simp [h]

/-- The state in which the hand-off of an entry has left: the entry is free, its launch noted for the task's start. -/
def State.handedOff (s : State) (core e lid : Nat) : State :=
  (s.setWte core e Wte.free).modUnit core fun y => { y with fires := y.fires ++ [lid] }

theorem State.unit_handedOff (s : State) (core e lid : Nat) : (s.handedOff core e lid).unit core =
    { s.unit core with wtes := SMap.put (s.unit core).wtes e Wte.free, fires := (s.unit core).fires ++ [lid] } := by
  rw [State.handedOff, State.unit_modUnit_same, State.setWte, State.unit_modUnit_same]

section
variable {s : State} {core : Nat} {kind : Held → Bool}

/-- A retry of a kind of which nothing is held. -/
theorem State.retryHeld_none (h : ∀ x ∈ (s.unit core).heldMsgs, kind x = false) : s.retryHeld core kind = s := by
  refine List.foldlRecOn (motive := fun t => t = s) _ _ rfl fun acc hacc x hx => ?_
  subst hacc
  simp [h x hx]

/-- The one thing held is offered, and held no more where its ring takes it. -/
theorem State.retryHeld_one {x : Held} {s1 : State} (hk : kind x = true) (hm : (s.unit core).heldMsgs = [x])
    (ho : s.offer core x = some s1) : s.retryHeld core kind = s1.dropHeld core x := by
  simp [State.retryHeld, State.dropHeld, hm, hk, ho, ringHeld]

end

/-- The hand-off that ring 0 takes frees its entry, and its launch is noted for the task's start. -/
theorem exec_handOffRetry_one {core e : Nat} {s s1 : State} (hm : (s.unit core).heldMsgs = [.handOff e])
    (hd : s.deposit core 0 ⟨true, s.dev, core, .far, (s.wte core e).ctx, e, 0#32, (s.wte core e).desc⟩ = .done s1) :
    exec (.handOffRetry core) s = .next ((s1.handedOff core e (s.wte core e).lid).dropHeld core (.handOff e)) := by
  have ho : s.offer core (.handOff e) = some (s1.handedOff core e (s.wte core e).lid) := by
    simp only [State.offer, State.handOff, hd]
    rfl
  exact congrArg Host.Outcome.next (State.retryHeld_one rfl hm ho)

/-- The message that its ring takes stops its sender no more. -/
theorem exec_messageRetry_one {core ring : Nat} {m : Message} {r : Req} {s s1 : State} (hm : (s.unit core).heldMsgs = [.msg r])
    (hact : r.act = .send ring m) (hd : s.depositReq r core ring m = some s1) :
    exec (.messageRetry core) s = .next ((s1.modCtx r.who.unit r.who.ctx fun x => x.unblocked r).dropHeld core (.msg r)) := by
  have ho : s.offer core (.msg r) = some (s1.modCtx r.who.unit r.who.ctx fun x => x.unblocked r) := by
    simp only [State.offer, hact, hd, Option.map_some]
  exact congrArg Host.Outcome.next (State.retryHeld_one rfl hm ho)

theorem State.heldMsgs_modCtx (s : State) (u c v : Nat) (f : Ctx → Ctx) : ((s.modCtx u c f).unit v).heldMsgs = (s.unit v).heldMsgs := by
  by_cases h : v = u
  · rw [h, State.modCtx, State.unit_setCtx_same]
  · rw [State.modCtx, State.unit_setCtx_other s h]

/-! ## Retries of contributions (R138, R377) -/

section
variable {r : Req} {s : State}

theorem exec_mergeRetry_none (h : (s.ctx r.who.unit r.who.ctx).blocked.contains r = false ∨ s.channelHeld r = true) :
    exec (.mergeRetry r) s = .next s := by
  change execMergeRetry r s = _
  unfold execMergeRetry
  split
  · refine if_neg fun hsent => ?_
    rw [Bool.and_eq_true, Bool.not_eq_true'] at hsent
    obtain ⟨hb, hc⟩ := hsent
    rcases h with h | h
    · exact Bool.false_ne_true (h.symm.trans hb)
    · exact Bool.false_ne_true (hc.symm.trans h)
  · rfl

/-- The state in which a refused contribution has been sent again. -/
def State.resent (s : State) (r : Req) : State := State.perform (s.modCtx r.who.unit r.who.ctx fun y => y.unblocked r) r

theorem exec_mergeRetry_sent {fp dbl : Bool} {v : Word} {k : Nat} (hact : r.act = .merge fp dbl v k)
    (hb : (s.ctx r.who.unit r.who.ctx).blocked.contains r = true) (hc : s.channelHeld r = false) :
    exec (.mergeRetry r) s = .next (if ((s.resent r).ctx r.who.unit r.who.ctx).blocked.contains r then s else s.resent r) := by
  change execMergeRetry r s = _
  unfold execMergeRetry
  rw [hact]
  dsimp only
  rw [hb, hc]
  rfl

end

end Sys2Proof.Machine
end

section
/-! O52, a line filled for the load that asks for it (06_memory R116, R123). -/

namespace Sys2Proof.Machine
open Sys2Proof Claims

/-! ## What a read at a DRAM home leaves (R123, R412) -/

/-- A state that differs from another in its units, the free values used and the accesses in flight alone. -/
def State.UnitsOnly (s t : State) : Prop := ∃ us f l, t = { s with units := us, free := f, flight := l }

section
variable {s t w : State}

theorem State.UnitsOnly.trans (h : s.UnitsOnly t) (k : t.UnitsOnly w) : s.UnitsOnly w := by
  obtain ⟨us, f, l, rfl⟩ := h
  obtain ⟨us', f', l', rfl⟩ := k
  exact ⟨us', f', l', rfl⟩

section
variable (h : s.UnitsOnly t)
include h

theorem State.UnitsOnly.mem : t.mem = s.mem := by
  obtain ⟨_, _, _, rfl⟩ := h
  rfl

theorem State.UnitsOnly.stale : t.stale = s.stale := by
  obtain ⟨_, _, _, rfl⟩ := h
  rfl

theorem State.UnitsOnly.dramSize : t.dramSize = s.dramSize := by
  obtain ⟨_, _, _, rfl⟩ := h
  rfl

theorem State.UnitsOnly.place (pa : Nat) : t.place pa = s.place pa := by
  obtain ⟨_, _, _, rfl⟩ := h
  rfl

/-- The fault of a read at a DRAM home depends on no unit. -/
theorem State.UnitsOnly.homeFault_dram {pa p off : Nat} (hp : s.place pa = .dram p off) (i : Issuer) (tagged write : Bool)
    (own : Option (Nat × Nat)) (n : Nat) : t.homeFault i tagged write own pa n = s.homeFault i tagged write own pa n := by
  have hp' := (h.place pa).trans hp
  obtain ⟨_, _, _, rfl⟩ := h
  unfold State.homeFault
  rw [hp, hp']
  rfl

end

theorem State.lt_dramSize {pa p off : Nat} (h : s.place pa = .dram p off) : pa < s.dramSize := by
  by_contra hge
  unfold State.place at h
  rw [if_neg hge] at h
  dsimp only at h
  repeat' split at h
  all_goals cases h

/-- The line of an address of DRAM lies in DRAM. -/
theorem State.line_dramSize {pa : Nat} (h : pa < s.dramSize) : pa / 64 * 64 + 64 ≤ s.dramSize := by
  unfold State.dramSize at h ⊢
  omega

/-- An error that a code corrects is logged, and nothing else changes. -/
theorem State.logCorrected_spec (s : State) (pa n : Nat) :
    s.UnitsOnly (s.logCorrected pa n) ∧ (s.logCorrected pa n).free = s.free ∧ (s.logCorrected pa n).flight = s.flight
      ∧ ∀ v, ((s.logCorrected pa n).unit v).cache = (s.unit v).cache := by
  unfold State.logCorrected
  split
  · exact ⟨⟨_, _, _, rfl⟩, rfl, rfl, fun _ => rfl⟩
  next u _ =>
    refine List.foldlRecOn (motive := fun t : State => s.UnitsOnly t ∧ t.free = s.free ∧ t.flight = s.flight
      ∧ ∀ v, (t.unit v).cache = (s.unit v).cache) _ _ ⟨⟨_, _, _, rfl⟩, rfl, rfl, fun _ => rfl⟩ fun acc hacc e _ => ?_
    obtain ⟨honly, hfree, hflight, hcache⟩ := hacc
    refine ⟨honly.trans ⟨_, _, _, rfl⟩, hfree, hflight, fun v => ?_⟩
    rw [← hcache v, State.logErr]
    by_cases hv : v = u
    · rw [hv, State.unit_modUnit_same]
    · rw [State.unit_modUnit_other acc hv]

theorem State.readHome_dram {pa n : Nat} (ht : s.stale = []) (h : pa + n ≤ s.dramSize) (hn : 0 < n) :
    s.readHome pa n = (s.logCorrected pa n, s.physBytes pa n) := by
  obtain ⟨p, off, hp⟩ := State.place_dram (s := s) (pa := pa) (by omega)
  obtain ⟨honly, -⟩ := s.logCorrected_spec pa n
  simp only [State.readHome, hp, State.freshen_eq ht]
  rw [State.physBytes_dram h, State.physBytes_dram (by rwa [honly.dramSize]), honly.mem]

/-- The bytes of an access inside a line are those of the line. -/
theorem State.physBytes_line {pa n : Nat} (h : pa < s.dramSize) (hn : pa % 64 + n ≤ 64) :
    ((s.physBytes (pa / 64 * 64) 64).drop (pa % 64)).take n = s.physBytes pa n := by
  have hline := State.line_dramSize h
  have hsplit : pa / 64 * 64 + pa % 64 = pa := by omega
  rw [State.physBytes_dram hline, State.physBytes_dram (by omega), ← Memory.readBytes_part s.mem _ hn, hsplit]

/-! ## The fill (R116) -/

/-- The cache of a unit holds one copy of the line of an address, with the bytes of its home. -/
def State.Holds (s t : State) (u : Nat) (asid : BitVec 12) (va pa : Nat) : Prop :=
  s.lineAt asid va pa ∈ (t.unit u).cache ∧ ∀ l ∈ (t.unit u).cache, l.pa = pa / 64 → l = s.lineAt asid va pa

theorem State.rcFill_spec {pa : Nat} (ht : s.stale = []) (h : pa < s.dramSize) (u : Nat) (asid : BitVec 12) (va : Nat) :
    s.UnitsOnly (s.rcFill u asid va pa) ∧ (s.rcFill u asid va pa).flight = s.flight ∧ s.Holds (s.rcFill u asid va pa) u asid va pa := by
  obtain ⟨honly, hfree, hflight, hcache⟩ := s.logCorrected_spec (pa / 64 * 64) 64
  have hholds : ∀ k t, (State.unit t u).cache
        = boundedAdd k 1024 ((s.unit u).cache.filter fun l => l.pa != pa / 64) (s.lineAt asid va pa) →
      s.Holds t u asid va pa := fun k t hk => by
    rw [State.Holds, hk]
    refine ⟨mem_boundedAdd .., fun l hl hpa => (mem_of_mem_boundedAdd hl).resolve_right fun hold => ?_⟩
    simpa [hpa] using (List.mem_filter.mp hold).2
  rw [State.rcFill, State.readHome_dram ht (State.line_dramSize h) (by decide)]
  dsimp only
  generalize s.logCorrected (pa / 64 * 64) 64 = w at honly hflight hcache ⊢
  have hfill := State.unit_modUnit_same w u fun x =>
    { x with cache := boundedAdd w.free 1024 (x.cache.filter fun l => l.pa != pa / 64) (s.lineAt asid va pa) }
  have hline := hholds _ _ ((congrArg UnitState.cache hfill).trans (by rw [hcache]))
  split
  · exact ⟨honly.trans ⟨_, _, _, rfl⟩, hflight, hline⟩
  · exact ⟨honly.trans ⟨_, _, _, rfl⟩, hflight, hline⟩

/-- A copy that holds what the home holds stays (R117, R118). -/
theorem State.rcSync_holds {u : Nat} {asid : BitVec 12} {va pa n : Nat} (hst : s.UnitsOnly t) (h : pa < s.dramSize) (hn : pa % 64 + n ≤ 64)
    (hh : s.Holds t u asid va pa) : t.rcSync u pa n = t := by
  obtain ⟨hin, hone⟩ := hh
  have hbytes : t.physBytes pa n = s.physBytes pa n := by
    have hline := State.line_dramSize h
    rw [State.physBytes_dram (by rw [hst.dramSize]; omega), State.physBytes_dram (by omega), hst.mem]
  have hfound : t.rcLine u pa = some (s.lineAt asid va pa) := by
    cases hf : t.rcLine u pa with
    | none => exact absurd (List.find?_eq_none.mp hf _ hin) (by simp [State.lineAt])
    | some l => rw [hone l (List.mem_of_find?_eq_some hf) (by simpa using List.find?_some hf)]
  have hlen : (s.physBytes pa n).length = n := by
    have hline := State.line_dramSize h
    rw [State.physBytes_dram (by omega), Memory.readBytes_length]
  have hagrees : t.rcAgrees u pa (t.physBytes pa n) = true := by
    rw [State.rcAgrees, hfound, hbytes]
    simp only [hlen, State.lineAt, State.physBytes_line h hn, beq_self_eq_true]
  rw [State.rcSync, hagrees, if_pos rfl, ite_self]

theorem State.cache_modCtx (s : State) (u c v : Nat) (f : Ctx → Ctx) : ((s.modCtx u c f).unit v).cache = (s.unit v).cache := by
  by_cases h : v = u
  · rw [h, State.modCtx, State.unit_setCtx_same]
  · rw [State.modCtx, State.unit_setCtx_other s h]

theorem State.performNow_load {r : Req} {size id : Nat} {sg : Bool} (hact : r.act = .load size sg id) (hacq : r.acq = false) :
    s.performNow r = (s.taken r).doLoad r size sg id := by
  rw [State.performNow, State.perform, hacq, State.performAt, hact]
  rfl

/-- A load performed over a filled line leaves it in the cache. -/
theorem State.doLoad_holds {r : Req} {size id : Nat} {sg : Bool} {asid : BitVec 12} {va : Nat} (hst : s.UnitsOnly t) (ht : s.stale = [])
    (h : r.pa < s.dramSize) (hpos : 0 < size) (hn : r.pa % 64 + size ≤ 64) (hea : 0x100000 ≤ r.ea.toNat)
    (hfault : s.homeFault r.who true false (some (r.who.unit, r.who.ctx)) r.pa size = none) (hh : s.Holds t r.who.unit asid va r.pa) :
    (t.doLoad r size sg id).mem = s.mem ∧ (t.doLoad r size sg id).flight = t.flight
      ∧ s.lineAt asid va r.pa ∈ ((t.doLoad r size sg id).unit r.who.unit).cache := by
  obtain ⟨p, off, hp⟩ := State.place_dram h
  have hline := State.line_dramSize h
  have htag : reqTagged r = true := decide_eq_true hea
  obtain ⟨honly, -, hflight, hcache⟩ := t.logCorrected_spec r.pa size
  have hh' : s.Holds (t.logCorrected r.pa size) r.who.unit asid va r.pa := by
    rw [State.Holds, hcache]
    exact hh
  rw [State.doLoad, htag, hst.homeFault_dram hp, hfault, State.readHome_dram (hst.stale.trans ht) (by rw [hst.dramSize]; omega) hpos]
  dsimp only
  rw [State.rcSync_holds (hst.trans honly) h hn hh']
  refine ⟨(hst.trans honly).mem, hflight, ?_⟩
  rw [State.answer, State.cache_modCtx]
  exact hh'.1

end

/-! ## READ_CACHE_FILL -/

section
variable {u pa : Nat} {asid : BitVec 12} {va : Word} {s : State}

theorem exec_readCacheFill_none (h : ∀ r ∈ s.flight, r.line = false ∨ r.who.unit ≠ u ∨ r.pa / 64 ≠ pa / 64) :
    exec (.readCacheFill u asid va pa) s = .next s := by
  have hfind : s.flight.find? (s.asksLine u asid va pa) = none := by
    refine List.find?_eq_none.mpr fun r hr hasks => ?_
    simp only [State.asksLine, Bool.and_eq_true, beq_iff_eq] at hasks
    obtain ⟨⟨⟨⟨⟨⟨hl, hu⟩, -⟩, -⟩, hpa⟩, -⟩, -⟩ := hasks
    rcases h r hr with hf | hf | hf
    · exact Bool.false_ne_true (hf.symm.trans hl)
    · exact hf hu
    · exact hf hpa
  change execReadCacheFill u asid va pa s = _
  rw [execReadCacheFill, hfind]

theorem exec_readCacheFill_some {r : Req} (hflight : s.flight = [r]) (hasks : s.asksLine u asid va pa r = true) :
    exec (.readCacheFill u asid va pa) s = .next ((s.rcFill u asid va.toNat pa).performNow r) := by
  have hfind : s.flight.find? (s.asksLine u asid va pa) = some r := by rw [hflight, List.find?_singleton, if_pos hasks]
  change execReadCacheFill u asid va pa s = _
  rw [execReadCacheFill, hfind]

end

end Sys2Proof.Machine
end

section
/-! O52, the walk (21_system R401, R402), and the obligation. -/

namespace Sys2Proof.Machine
open Sys2Proof Claims

/-! ## The walk (R401, R402) -/

section
variable {s s0 : State} {va table level lv at_ fuel : Nat} {p : Word}

/-- The leaf that a walk finds has a size. -/
theorem State.walkFrom_leafSize (h : s.walkFrom va table level fuel = .ok (s0, at_, lv, p)) : 0 < leafSize lv (p.getLsbD 8) := by
  induction fuel generalizing s table level with
  | zero => cases h
  | succ fuel ih =>
    unfold State.walkFrom at h
    dsimp only at h
    split at h
    · cases h
    split at h
    · cases h
    split at h
    · split at h
      · cases h
      next hn =>
        cases h
        exact Nat.pos_of_ne_zero fun e => hn (.inl e)
    split at h
    · cases h
    split at h
    · cases h
    · exact ih h

end

/-- The root of a context's walk. -/
def State.walkRoot (s : State) (u c : Nat) : Nat :=
  ptePa (match (s.ctx u c).priv with | .m => (s.unit u).mroot | _ => (s.ctx u c).ptroot)

theorem State.walkRoot_eq (s : State) (u c : Nat) :
    ptePa (if (s.ctx u c).priv == .m then (s.unit u).mroot else (s.ctx u c).ptroot) = s.walkRoot u c := by
  unfold State.walkRoot
  cases (s.ctx u c).priv <;> rfl

section
variable {s s0 : State} {u c : Nat} {va : Word} {store : Bool} {at_ level : Nat} {p : Word}

theorem exec_pageWalk_error {e : Cause} (h : s.walkFrom va.toNat (s.walkRoot u c) 0 4 = .error e) :
    exec (.pageWalk u c va store) s = .next s := by
  have hw : s.walk u c va.toNat store = .error e := by
    unfold State.walk
    dsimp only
    rw [s.walkRoot_eq, h]
  change execPageWalk u c va store s = _
  rw [execPageWalk, hw]

/-- The entry of a leaf after its walk: A set, and for a store D. -/
def walkedPte (p : Word) (store : Bool) : Word := p ||| 0x40#64 ||| (if store then 0x80#64 else 0#64)

theorem State.mem_setEntry_derived {q : Word} (h : s0.isDerived at_ = true) (b : Prop) [Decidable b] :
    (if b then s0 else s0.setEntry at_ q).mem = s0.mem := by
  split
  · rfl
  · rw [State.setEntry, if_pos h]

theorem State.unit_ite_useFree (b : Prop) [Decidable b] (t : State) (v : Nat) : (if b then t else t.useFree).unit v = t.unit v := by
  split <;> rfl

theorem State.unit_withDies (t : State) (d : SMap Die) (v : Nat) : ({ t with dies := d } : State).unit v = t.unit v := rfl

theorem State.mem_ite_useFree (b : Prop) [Decidable b] (t : State) : (if b then t else t.useFree).mem = t.mem := by
  split <;> rfl

/-- A walk that finds a leaf leaves an entry for the address in the unit's TLB. -/
theorem exec_pageWalk_leaf (h : s.walkFrom va.toNat (s.walkRoot u c) 0 4 = .ok (s0, at_, level, p)) :
    ∃ t e, exec (.pageWalk u c va store) s = .next t ∧ e ∈ (t.unit u).tlb ∧ e.va ≤ va.toNat ∧ va.toNat < e.va + e.size
      ∧ e.pte = walkedPte p store ∧ (s0.isDerived at_ = true → t.mem = s0.mem) := by
  have hn := State.walkFrom_leafSize h
  have hw : ∃ t e, s.walk u c va.toNat store = .ok (t, e) ∧ e ∈ (t.unit u).tlb ∧ e.va ≤ va.toNat ∧ va.toNat < e.va + e.size
      ∧ e.pte = walkedPte p store ∧ (s0.isDerived at_ = true → t.mem = s0.mem) := by
    unfold State.walk
    dsimp only
    rw [s.walkRoot_eq, h]
    dsimp only
    refine ⟨_, _, rfl, ?_, Nat.div_mul_le_self _ _, Nat.lt_div_mul_add hn, rfl, fun hd => ?_⟩
    · rw [State.unit_ite_useFree, State.unit_withDies, State.unit_modUnit_same]
      exact mem_boundedAdd ..
    · simp only [State.mem_ite_useFree, State.modUnit_mem]
      exact State.mem_setEntry_derived hd _
  obtain ⟨t, e, hwalk, hrest⟩ := hw
  refine ⟨t, e, ?_, hrest⟩
  change execPageWalk u c va store s = _
  rw [execPageWalk, hwalk]

end

/-! ## The obligation -/

/-- Settles O52, event by event. -/
theorem messageAndWalkEvents : Obligations.MessageAndWalkEvents := by
  unfold Obligations.MessageAndWalkEvents
  refine ⟨fun core n amount s hn => ⟨exec_counterIncrement_none hn, fun r hf hact hat hp hacq hfault harm => ?_⟩,
    fun core s hnone => congrArg Host.Outcome.next (State.retryHeld_none hnone), fun core e s s1 hm hd hkeep => ?_,
    fun core s hnone => congrArg Host.Outcome.next (State.retryHeld_none fun x hx => by rw [hnone x hx]; rfl),
    fun core ring m r s s1 hm hact hd hkeep => ?_, fun r s => ⟨exec_mergeRetry_none, fun fp dbl v k hact hb hc => ?_⟩,
    fun u asid va pa s => ⟨exec_readCacheFill_none, ?_⟩,
    fun u c va store s => ⟨fun e he => exec_pageWalk_error he, fun s0 at_ level p hleaf => exec_pageWalk_leaf hleaf⟩⟩
  · obtain ⟨hmem, hflight, hsame, hother⟩ := State.increment_spec (s := s.taken r) (core := core) harm amount hn
    exact ⟨_, exec_counterIncrement_some hn hf hact hat hp hacq hfault, hflight.trans (State.flight_taken hf), hmem, hsame, hother⟩
  · refine ⟨_, exec_handOffRetry_one hm hd, ?_, rfl, ?_, ?_⟩
    · rw [State.wte, State.dropHeld, State.unit_modUnit_same, State.unit_handedOff]
      exact SMap.get_put_same _ _ _ _
    · exact State.heldMsgs_dropHeld (by rw [State.unit_handedOff]; exact hkeep.trans hm)
    · rw [State.dropHeld, State.unit_modUnit_same, State.unit_handedOff]
  · refine ⟨_, exec_messageRetry_one hm hact hd, ?_, rfl, ?_⟩
    · exact State.heldMsgs_dropHeld (by rw [State.heldMsgs_modCtx, hkeep])
    · rw [State.dropHeld, State.ctx_modUnit rfl, State.ctx_modCtx_same]
      simp [Ctx.unblocked]
  · have hsent := exec_mergeRetry_sent hact hb hc
    exact ⟨fun h => hsent.trans (congrArg _ (if_neg (by rw [State.resent, h]; exact Bool.false_ne_true))),
      fun h => hsent.trans (congrArg _ (if_pos h))⟩
  · intro r size sg id p off hf hact hacq hline hu hfar hasid hea hpa hpos hin hp hfault hlfault hhigh hplace hstale
    subst hu
    have hdram := State.lt_dramSize hplace
    obtain ⟨honly, hflight, hholds⟩ := State.rcFill_spec hstale hdram r.who.unit asid va.toNat
    have hasks : s.asksLine r.who.unit asid va pa r = true := by
      simp [State.asksLine, hline, hasid, hea, hpa, hp, hlfault]
    have hfill : s.rcFill r.who.unit asid va.toNat pa = s.rcFill r.who.unit asid va.toNat r.pa := by rw [State.rcFill, State.rcFill, hpa]
    have htaken : s.UnitsOnly ((s.rcFill r.who.unit asid va.toNat r.pa).taken r) := honly.trans ⟨_, _, _, rfl⟩
    obtain ⟨hmem, hfl, hin⟩ := State.doLoad_holds (id := id) (sg := sg) htaken hstale hdram hpos hin hhigh hfault hholds
    refine ⟨_, s.lineAt asid va.toNat r.pa, exec_readCacheFill_some hf hasks, ?_⟩
    rw [hfill, State.performNow_load hact hacq, ← hpa]
    exact ⟨hfl.trans (State.flight_taken (hflight.trans hf)), hmem, hin, rfl, rfl⟩

end Sys2Proof.Machine
end
